-- ==== Sys2Proof/Word.lean ====
section
/-!
DEFINITION. The word types of the Felros 940 (R3, R6, R78, R134).
-/

namespace Sys2Proof

/-- One byte of memory. -/
abbrev Byte := BitVec 8

/-- A 32-bit instruction word, or one lane of a vector register (R6, R78). -/
abbrev Word := BitVec 32

/-- A 64-bit uniform register, address or literal (R17, R63). -/
abbrev Dword := BitVec 64

/-- A lane mask: bit L stands for lane L (R45, R60). -/
abbrev Mask := BitVec 64

/-- One vector register: a 32-bit word per lane, 64 lanes (R134, R136). -/
abbrev VReg := Vector (BitVec 32) 64

end Sys2Proof
end

