-- ==== Sys2Proof/Machine/Bits.lean ====
section
/-!
DEFINITION. Bit fields, sign extension, byte order and bit counts, as mendable functions (R3, R10, R65, R83).
-/

namespace Sys2Proof

/-- Bits `lo + n - 1 : lo` of a number. -/
def bitsAt (w lo n : Nat) : Nat := w / 2 ^ lo % 2 ^ n

/-- One bit of a number. -/
def bitAt (w i : Nat) : Bool := w / 2 ^ i % 2 == 1

/-- The signed value of an n-bit field. -/
def sextNat (n v : Nat) : Int := if 2 * v < 2 ^ n then (v : Int) else (v : Int) - 2 ^ n

/-- The n-bit field that holds a signed value, modulo 2^n. -/
def fieldOf (n : Nat) (v : Int) : Nat := (v % 2 ^ n).toNat

/-- A Bool as a bit. -/
def bit (b : Bool) : Nat := if b then 1 else 0

/-- A 32-bit value sign-extended to 64 bits. -/
def sext64 (x : BitVec 32) : BitVec 64 := x.signExtend 64

/-- Whether bit `i` of a lane mask is set. -/
def laneOn (m : BitVec 64) (i : Nat) : Bool := m.getLsbD i

/-- The lanes of a mask in ascending order (R4). -/
def lanesOf (m : BitVec 64) : List Nat := (List.range 64).filter (laneOn m)

/-- The mask of a list of lanes. -/
def maskOf (l : List Nat) : BitVec 64 := l.foldl (fun m i => m ||| (1#64 <<< i)) 0

/-- One bits of a number below 2^n, counted over n bits (R65, R83). -/
def popcount : Nat → Nat → Nat
  | 0, _ => 0
  | n + 1, w => w % 2 + popcount n (w / 2)

/-- Leading zero bits of an n-bit number (R65, R83). -/
def clz : Nat → Nat → Nat
  | 0, _ => 0
  | n + 1, w => if 2 ^ n ≤ w then 0 else 1 + clz n w

/-- An n-bit number with bit i moved to bit n - 1 - i (R65, R83). -/
def bitrev : Nat → Nat → Nat
  | 0, _ => 0
  | n + 1, w => (w % 2) * 2 ^ n + bitrev n (w / 2)

/-- Index of the lowest one bit of a number, searched over n bits (R86). -/
def lowestOne : Nat → Nat → Nat
  | 0, _ => 0
  | n + 1, w => if w % 2 = 1 then 0 else 1 + lowestOne n (w / 2)

/-- The number whose little-endian bytes are given (R3). -/
def natOfBytes : List (BitVec 8) → Nat
  | [] => 0
  | b :: bs => b.toNat + 256 * natOfBytes bs

/-- The n little-endian bytes of a number (R3). -/
def bytesOfNat : Nat → Nat → List (BitVec 8)
  | 0, _ => []
  | n + 1, v => BitVec.ofNat 8 v :: bytesOfNat n (v / 256)

/-- The smallest power of two at or above `n`, searched from `p` (R280). -/
def pow2AtLeast : Nat → Nat → Nat → Nat
  | 0, p, _ => p
  | k + 1, p, n => if n ≤ p then p else pow2AtLeast k (2 * p) n

/-- Round `n` up to a multiple of `k`, in units of `k`. -/
def ceilDiv (n k : Nat) : Nat := (n + k - 1) / k

/-- The integer square root, by bisection on its bits from the top. -/
def isqrtGo : Nat → Nat → Nat → Nat
  | 0, r, _ => r
  | k + 1, r, n => if (r + 2 ^ k) * (r + 2 ^ k) ≤ n then isqrtGo k (r + 2 ^ k) n else isqrtGo k r n

/-- The integer square root of a number. -/
def isqrt (n : Nat) : Nat := isqrtGo (Nat.log2 n / 2 + 1) 0 n

end Sys2Proof
end

