-- ==== Sys2Proof/Syntax.lean ====
section
/-!
DEFINITION. The steps of the machine: one constructor per row of spec/opcode_table.json. The first part holds the
instruction words of groups, matrix streams and Rhizoid threads with their operands; the second the events and commands
of the table's later rows, whose operands carry the choices the spec leaves to the device or to the outside world.
-/

namespace Sys2Proof

/-- The four instruction forms that LEN selects (R7). -/
inductive Form where
  | base      -- LEN 0b00, 4 bytes
  | baseLit   -- LEN 0b01, 12 bytes
  | ext       -- LEN 0b10, 12 bytes
  | extLit    -- LEN 0b11, 20 bytes
  deriving DecidableEq, Repr

/-- The guard of an extended form: GN and GP (R13, R16). -/
structure Guard where
  neg : Bool
  num : Nat
  deriving DecidableEq, Repr

/-- The fields every group instruction carries: its form, DIST, FS and guard (R6, R13). -/
structure Hdr where
  form : Form
  dist : Nat
  fs : Bool
  guard : Option Guard
  deriving DecidableEq, Repr

/-- A last source operand: a register, a 32-bit immediate, or the 64-bit literal (R12, R14). -/
inductive Src where
  | reg (n : Nat)
  | imm (c : BitVec 32)
  | lit (c : BitVec 64)
  deriving DecidableEq, Repr

/-- The relation r of R40. -/
inductive Rel where
  | eq | ne | lt | le | gt | ge
  deriving DecidableEq, Repr

/-- The relations of VFCMP: r, or .ord, or .unord (R91). -/
inductive FRel where
  | rel (r : Rel)
  | ord
  | unord
  deriving DecidableEq, Repr

/-- The float class f of R40. -/
inductive FCls where
  | f32 | f16 | bf16
  deriving DecidableEq, Repr

/-- The rounding modes of R42. -/
inductive RMode where
  | rne | rtz | rup | rdn
  deriving DecidableEq, Repr

/-- The type codes of R41. -/
inductive Ty where
  | f32 | f16 | bf16 | e4m3 | e5m2 | e2m1 | i32 | n32 | i8 | n8 | i4 | n4 | i64 | n64
  deriving DecidableEq, Repr

/-- The atomic operators of R40. -/
inductive AOp where
  | add | fadd | minI | minN | fmin | maxI | maxN | fmax | and | or | xor | xchg | cas
  deriving DecidableEq, Repr

/-- SHFL modes (R39, R70). -/
inductive ShflMode where
  | idx | up | dn | xor
  deriving DecidableEq, Repr

/-- LRED operators (R39, R72). -/
inductive LredOp where
  | add | minI | minN | maxI | maxN | and | or | xor | fadd | fmin | fmax
  deriving DecidableEq, Repr

/-- The access size codes of R40. -/
inductive SizeCode where
  | n8 | i8 | n16 | i16 | b32 | b64 | b128
  deriving DecidableEq, Repr

/-- Address modes (R105). -/
inductive AMode where
  | v | sv | sl
  deriving DecidableEq, Repr

/-- The address operands of LD, ST, LDA, STA, ATOM and RED (R103, R105). `base` is the `v` pair (AM V), the `s` register,
or the literal that replaces it (R104); `idx` is the vector index of AM SV. -/
structure MemArg where
  mode : AMode
  sh : Nat
  base : Src
  idx : Nat
  off : Int
  deriving DecidableEq, Repr

/-- Ordering of an access: ORD and the scope code it takes (R103, R107, R116). -/
structure Ord where
  code : Nat
  scope : Nat
  deriving DecidableEq, Repr

/-- Mask selectors of a matrix instruction: 0 to 3 name a register, 4 means all bits set (R204). -/
structure Masks where
  mks : Nat
  nks : Nat
  kks : Nat
  deriving DecidableEq, Repr

/-- The coordinates c0 to c3 of a copy: a register pair word and two immediates (R210). -/
structure CopyArg where
  lay : Nat          -- `s` layout record
  coord : Nat        -- `s` c0, c1
  ctr : Option Nat   -- `s` counter with .ctr
  scope : Nat
  c2 : Int
  c3 : Int
  deriving DecidableEq, Repr

/-- The source of an MSETM: a count, a register, or the literal (R200; log entry 9). -/
inductive MaskSrc where
  | count (n : Nat)
  | countLit (n : Nat) (c : BitVec 64)   -- the count form fetched with a literal, which it does not use
  | reg (x : Nat)
  | lit (c : BitVec 64)
  deriving DecidableEq, Repr

/-- The mask register class of an MSETM, by subop (R39). -/
inductive MaskCls where
  | mk | nk | kk
  deriving DecidableEq, Repr

/-- A KDP datagram's header fields as received, with the number of payload bytes that came with it (R410). -/
structure KdpHdr where
  magic : BitVec 16
  ver : BitVec 8
  type : BitVec 8
  cmd : BitVec 16
  len : BitVec 16
  host : BitVec 32
  ctx : BitVec 6
  queue : BitVec 3
  zero : BitVec 7
  status : BitVec 16
  term : BitVec 64
  seq : BitVec 64
  bytes : Nat
  deriving DecidableEq, Repr

/-- When a queued command's row acts: at the arrival of its datagram, or when the head of a command queue starts or
completes (R376). -/
inductive CmdWhen where
  | arrive (k : KdpHdr)
  | start (ctx queue : Nat)
  deriving DecidableEq, Repr

/-- A request of a peer device over UALink (R417): its address, and what it asks. -/
inductive UaReq where
  | read (n : Nat)
  | write (bytes : List (BitVec 8))
  | atomic (op : AOp) (wide : Bool) (b c : BitVec 64) (fmode : BitVec 8)
  deriving DecidableEq, Repr

/-- What engines do next for a copy: start its next piece, which for .fromh brings what the host answered; read the
element of a running piece with the others of its 16-byte chunk; or write a packed byte of it with the others of its
32-bit word (R178, R256, R371). -/
inductive CopyMove where
  | start (host : List (BitVec 8))
  | read (piece elem : Nat)
  | write (piece byte : Nat)
  deriving DecidableEq, Repr

/-- A firmware image with its signature and the public key that it is to be verified with (R421). -/
structure FwImage where
  image : List (BitVec 8)
  key : List (BitVec 8)
  sig : List (BitVec 8)
  deriving DecidableEq, Repr

/-- What HBM training finds (R430): the stacks that fail, and each stack's base-die image. -/
structure HbmTest where
  failed : List Nat
  images : List FwImage
  deriving DecidableEq, Repr

/-- Where a soft error falls (R404). -/
inductive SoftSite where
  | sram (tid : Nat)                 -- register files, buffers, slots, tape, Sporangium, queues of a team
  | l1Data (core idx : Nat)
  | l1Inst (core idx : Nat)
  | tlb (core idx : Nat)
  | ctlb (cluster idx : Nat)
  | memory (dev pa : Nat)            -- an L2 line or HBM word
  | rhizoid (ch : Nat) (row : Nat) (off : Bool)    -- `off`: service firmware takes the unit offline for it (R369)
  | snapshot (ch lock word : Nat)    -- a word of a held row's snapshot
  | thallus (dev ch idx : Nat)       -- a staged record
  deriving DecidableEq, Repr

/-- A peer's part of a pod census: value, answers, faults, first cause (R331). -/
structure PeerReport where
  dev : Nat
  value : BitVec 64
  answers : Nat
  faults : Nat
  cause : Nat
  deriving DecidableEq, Repr

/-- The payload of CTXCREATE (R413), and what the firmware chooses in answering: table root, remote keys, node base. -/
structure CtxPayload where
  thentry : BitVec 64
  save : BitVec 64
  debug : BitVec 64
  deadline : Nat
  nodes : Nat
  pod : List Nat
  deriving DecidableEq, Repr

structure CtxChoice where
  root : Nat
  ownerKey : BitVec 32
  sharedKey : BitVec 32
  nodeBase : BitVec 64
  room : Bool          -- node slots can be allotted
  deriving DecidableEq, Repr

/-- The payload of MAP (R413): bits 12:2 of R401 as `attr`, the page size as its level (0: 64 KiB, 1: 2 MiB, 2: 1 GiB). -/
structure MapPayload where
  va : BitVec 64
  level : Nat
  attr : BitVec 11
  pdev : BitVec 10
  sframe : BitVec 32
  channel : Nat        -- 0 to 511, or 0xFFFF
  deriving DecidableEq, Repr

/-- What the firmware chooses in answering a MAP: the frame, and fresh table frames for levels it must build. -/
structure MapChoice where
  frame : Nat
  tables : List Nat
  found : Bool         -- a frame was found
  deriving DecidableEq, Repr

/-- The payload of HWIN (R413). -/
structure HwinPayload where
  num : Nat
  qp : Nat
  rkey : BitVec 32
  base : BitVec 64
  len : Nat
  ring : Option (BitVec 64 × Nat)   -- mark ring base and bytes
  deriving DecidableEq, Repr

/-- Where a placement puts a team: its core, first partition, A-buffer base, physical tiles and slots, and whether the
buffers keep what the same context last left there (R136, R140, R148, R242). -/
structure Place where
  core : Nat
  pb : Nat
  abase : Nat
  tiles : List Nat
  slots : List Nat
  keep : Bool
  deriving DecidableEq, Repr

/-- One step of the machine, by row of spec/opcode_table.json. -/
inductive Instr where
  -- Control (R47 to R62)
  | clauseHeader (wait : BitVec 12) (setA setB : Option Nat)
  | nop (h : Hdr)
  | bra (h : Hdr) (off : Int)
  | braExt (h : Hdr) (off : Int)
  | brany (h : Hdr) (p : Nat) (neg : Bool) (off : Int)
  | branyExt (h : Hdr) (p : Nat) (neg : Bool) (off : Int)
  | brall (h : Hdr) (p : Nat) (neg : Bool) (off : Int)
  | brallExt (h : Hdr) (p : Nat) (neg : Bool) (off : Int)
  | brnone (h : Hdr) (p : Nat) (neg : Bool) (off : Int)
  | brnoneExt (h : Hdr) (p : Nat) (neg : Bool) (off : Int)
  | brx (h : Hdr) (a : Nat) (off : Int)
  | call (h : Hdr) (off : Int)
  | callExt (h : Hdr) (off : Int) (slide : Option Nat)
  | callx (h : Hdr) (a : Nat) (off : Int) (slide : Option Nat)
  | ret (h : Hdr)
  | exit (h : Hdr)
  | exitExt (h : Hdr)
  | yield (h : Hdr)
  | trap (h : Hdr) (n : Nat)
  | rte (h : Hdr)
  | emrd (h : Hdr) (d : Nat)
  | emwr (h : Hdr) (a : Nat)
  | emand (h : Hdr) (p : Nat)
  | emor (h : Hdr) (p : Nat)
  | emandn (h : Hdr) (p : Nat)
  | emsetp (h : Hdr) (d : Nat)
  | elect (h : Hdr) (d : Nat)
  | pand (h : Hdr) (d a b : Nat)
  | por (h : Hdr) (d a b : Nat)
  | pxor (h : Hdr) (d a b : Nat)
  | pandn (h : Hdr) (d a b : Nat)
  | pnot (h : Hdr) (d a : Nat)
  | pmov (h : Hdr) (d a : Nat)
  | spand (h : Hdr) (d a b : Nat)
  | spor (h : Hdr) (d a b : Nat)
  | spxor (h : Hdr) (d a b : Nat)
  | spandn (h : Hdr) (d a b : Nat)
  | spnot (h : Hdr) (d a : Nat)
  | spmov (h : Hdr) (d a : Nat)
  -- Uniform integer (R63 to R69)
  | sadd (h : Hdr) (d a b : Nat)
  | saddLong (h : Hdr) (d a : Nat) (b : Src)
  | ssub (h : Hdr) (d a : Nat) (b : Src)
  | smul (h : Hdr) (d a : Nat) (b : Src)
  | smulh (h : Hdr) (signed : Bool) (d a : Nat) (b : Src)
  | sand (h : Hdr) (d a : Nat) (b : Src)
  | sor (h : Hdr) (d a : Nat) (b : Src)
  | sxor (h : Hdr) (d a : Nat) (b : Src)
  | sandn (h : Hdr) (d a : Nat) (b : Src)
  | sshl (h : Hdr) (d a : Nat) (b : Src)
  | sshr (h : Hdr) (d a : Nat) (b : Src)
  | ssar (h : Hdr) (d a : Nat) (b : Src)
  | smin (h : Hdr) (signed : Bool) (d a : Nat) (b : Src)
  | smax (h : Hdr) (signed : Bool) (d a : Nat) (b : Src)
  | smovi (h : Hdr) (d : Nat) (c : Int)
  | smoviLong (h : Hdr) (d : Nat) (c : Src)
  | saddi (h : Hdr) (d a : Nat) (c : Int)
  | saddiLong (h : Hdr) (d a : Nat) (c : Src)
  | slea (h : Hdr) (d a : Nat) (b : Src) (sh : Nat) (c : BitVec 32)
  | sbfx (h : Hdr) (signed : Bool) (d a pos len : Nat)
  | sbfi (h : Hdr) (d a pos len : Nat)
  | sclz (h : Hdr) (d a : Nat)
  | spopc (h : Hdr) (d a : Nat)
  | sbrev (h : Hdr) (d a : Nat)
  | scmp (h : Hdr) (rel : Rel) (signed : Bool) (d a : Nat) (b : Src)
  | ssel (h : Hdr) (d sp t : Nat) (f : Src)
  | sreadsr (h : Hdr) (d : Nat) (sr : Int)
  | sreadsrExt (h : Hdr) (vec : Bool) (d : Nat) (sr : BitVec 32)
  | swritesr (h : Hdr) (a : Nat) (sr : Int)
  | swritesrExt (h : Hdr) (a : Nat) (sr : BitVec 32)
  -- Lanes and queues (R70 to R75)
  | shfl (h : Hdr) (mode : ShflMode) (d a b c : Nat)
  | ballot (h : Hdr) (d p : Nat)
  | readlane (h : Hdr) (d a : Nat) (lane : Src)
  | writelane (h : Hdr) (d a : Nat) (lane : Src)
  | lred (h : Hdr) (op : LredOp) (d a : Nat)
  | qpush (h : Hdr) (q : Nat) (src : Src)
  | qpop (h : Hdr) (d q : Nat) (try? : Option Nat)
  -- Vector integer (R81 to R87)
  | vadd (h : Hdr) (d a b : Nat)
  | vaddLong (h : Hdr) (sat n32 : Bool) (d a : Nat) (b : Src)
  | vsub (h : Hdr) (sat n32 : Bool) (d a : Nat) (b : Src)
  | vmul (h : Hdr) (d a : Nat) (b : Src)
  | vmulh (h : Hdr) (signed : Bool) (d a : Nat) (b : Src)
  | vmad (h : Hdr) (d a b : Nat) (c : Src)
  | vand (h : Hdr) (d a : Nat) (b : Src)
  | vor (h : Hdr) (d a : Nat) (b : Src)
  | vxor (h : Hdr) (d a : Nat) (b : Src)
  | vandn (h : Hdr) (d a : Nat) (b : Src)
  | vnot (h : Hdr) (d : Nat) (a : Src)
  | vshl (h : Hdr) (d a : Nat) (b : Src)
  | vshr (h : Hdr) (d a : Nat) (b : Src)
  | vsar (h : Hdr) (d a : Nat) (b : Src)
  | vmin (h : Hdr) (signed : Bool) (d a : Nat) (b : Src)
  | vmax (h : Hdr) (signed : Bool) (d a : Nat) (b : Src)
  | vabs (h : Hdr) (sat : Bool) (d : Nat) (a : Src)
  | vneg (h : Hdr) (sat : Bool) (d : Nat) (a : Src)
  | vaddi (h : Hdr) (d a : Nat) (c : Int)
  | vaddiLong (h : Hdr) (d : Nat) (a c : Src)
  | vmov (h : Hdr) (d : Nat) (a : Src)
  | vmovs (h : Hdr) (hi : Bool) (d : Nat) (a : Src)
  | vmovi (h : Hdr) (d : Nat) (c : Int)
  | vmoviLong (h : Hdr) (d : Nat) (c : Src)
  | vbfx (h : Hdr) (signed : Bool) (d a pos len : Nat)
  | vbfi (h : Hdr) (d a pos len : Nat)
  | vclz (h : Hdr) (d a : Nat)
  | vpopc (h : Hdr) (d a : Nat)
  | vbrev (h : Hdr) (d a : Nat)
  | vprfx (h : Hdr) (incl : Bool) (d a b : Nat)
  | vbmand (h : Hdr) (d p a b : Nat)
  | visect (h : Hdr) (d a b c : Nat)
  | vcmp (h : Hdr) (rel : Rel) (signed : Bool) (d a : Nat) (b : Src)
  | vsel (h : Hdr) (d p t f : Nat)
  -- Vector floating point (R88 to R92)
  | vfadd (h : Hdr) (d a b : Nat)
  | vfaddLong (h : Hdr) (f : FCls) (m : RMode) (d a : Nat) (b : Src)
  | vfsub (h : Hdr) (f : FCls) (m : RMode) (d a : Nat) (b : Src)
  | vfmul (h : Hdr) (f : FCls) (m : RMode) (d a : Nat) (b : Src)
  | vfmin (h : Hdr) (f : FCls) (d a : Nat) (b : Src)
  | vfmax (h : Hdr) (f : FCls) (d a : Nat) (b : Src)
  | vfabs (h : Hdr) (f : FCls) (d : Nat) (a : Src)
  | vfneg (h : Hdr) (f : FCls) (d : Nat) (a : Src)
  | vfma (h : Hdr) (d a b : Nat)
  | vfmaLong (h : Hdr) (f : FCls) (m : RMode) (d a : Nat) (b c : Src)
  | vfms (h : Hdr) (f : FCls) (m : RMode) (d a : Nat) (b c : Src)
  | vfnma (h : Hdr) (f : FCls) (m : RMode) (d a : Nat) (b c : Src)
  | vfcmp (h : Hdr) (f : FCls) (rel : FRel) (hi : Bool) (d a : Nat) (b : Src)
  | vrcp (h : Hdr) (d a : Nat)
  | vrsq (h : Hdr) (d a : Nat)
  | vsqrt (h : Hdr) (d a : Nat)
  | vexp2 (h : Hdr) (d a : Nat)
  | vlog2 (h : Hdr) (d a : Nat)
  | vsin (h : Hdr) (d a : Nat)
  | vcos (h : Hdr) (d a : Nat)
  | vtanh (h : Hdr) (d a : Nat)
  | vsigm (h : Hdr) (d a : Nat)
  | verf (h : Hdr) (d a : Nat)
  -- Conversions, random bits, scales (R94 to R100)
  | vcvt (h : Hdr) (dt st : Ty) (m : RMode) (sat satf : Bool) (d a sidx didx : Nat)
  | vcvtsr (h : Hdr) (dt : Ty) (satf : Bool) (d a b didx : Nat)
  | rngfill (h : Hdr) (d n : Nat)
  | scalecalc (h : Hdr) (given : Bool) (d a b c : Nat)
  | vquant (h : Hdr) (dt : Ty) (m : RMode) (d a b c didx : Nat)
  -- Memory and synchronisation (R103 to R128)
  | ld (h : Hdr) (d : Nat) (m : MemArg)
  | ldLong (h : Hdr) (z : SizeCode) (o : Ord) (d : Nat) (m : MemArg)
  | st (h : Hdr) (d : Nat) (m : MemArg)
  | stLong (h : Hdr) (z : SizeCode) (o : Ord) (d : Nat) (m : MemArg)
  | lda (h : Hdr) (d : Nat) (m : MemArg)
  | ldaLong (h : Hdr) (z : SizeCode) (o : Ord) (d : Nat) (m : MemArg)
  | sta (h : Hdr) (d : Nat) (m : MemArg)
  | staLong (h : Hdr) (z : SizeCode) (o : Ord) (d : Nat) (m : MemArg)
  | ldc (h : Hdr) (col : Bool) (d acc : Nat) (b : Src) (c : BitVec 32)
  | stc (h : Hdr) (col : Bool) (d acc : Nat) (b : Src) (c : BitVec 32)
  | ldu (h : Hdr) (d a : Nat) (off : Int)
  | lduLong (h : Hdr) (z : SizeCode) (o : Ord) (d : Nat) (a : Src) (off : Int)
  | stu (h : Hdr) (d a : Nat) (off : Int)
  | stuLong (h : Hdr) (z : SizeCode) (o : Ord) (d : Nat) (a : Src) (off : Int)
  | atom (h : Hdr) (op : AOp) (wide : Bool) (o : Ord) (d : Nat) (m : MemArg) (b c : Src)
  | red (h : Hdr) (op : AOp) (wide : Bool) (o : Ord) (m : MemArg) (b : Src)
  | waita (h : Hdr) (rel : Rel) (n b64 acq : Bool) (scope d a : Nat) (b : Src) (off : Int)
  | fenceAcq (h : Hdr) (scope : Nat)
  | fenceRel (h : Hdr) (scope : Nat)
  | fenceSc (h : Hdr) (scope : Nat)
  | aliasf (h : Hdr)
  | commitTeam (h : Hdr) (ctr : Option Nat)
  | commitGrid (h : Hdr) (ctr : Option Nat)
  | commitPod (h : Hdr) (ctr : Option Nat)
  | bararv (h : Hdr) (b n : Nat)
  | barwt (h : Hdr) (b : Nat)
  | barsync (h : Hdr) (b n : Nat)
  | cwaitge (h : Hdr) (acq : Bool) (scope d a : Nat) (b : Src) (off : Int)
  | cadd (h : Hdr) (rel poison : Bool) (scope a : Nat) (b : Src) (off : Int)
  | ratom (h : Hdr) (op : AOp) (wide : Bool) (q a : Nat) (b c : Src) (off : Int)
  -- Matrix stream (R195 to R208, R279 to R284)
  | mma (acc xa ws xf : Nat) (neg nacc : Bool) (k : Masks)
  | mdrain (xd acc xc : Nat) (k : Masks)
  | maccst (acc src : Nat) (mov : Bool) (k : Masks)
  | mwait (b : Nat)
  | msig (b n : Nat)
  | msetm (cls : MaskCls) (d : Nat) (src : MaskSrc)
  | mfmt (mode d a : Nat) (c : BitVec 32)
  | munf (plain : Bool) (a : Nat) (c : BitVec 32)
  | mloop (x : Bool) (a : Nat) (c : BitVec 32)
  | knotset (d a : Nat)
  | frder (accd acca xa xf : Nat) (k : Masks)
  | frgrad (xd acca xa xf : Nat) (k : Masks)
  | frefine (accd ws kna knd i0 : Nat) (btr : Bool)
  -- Copies, batches, windows, collectives (R209 to R217)
  | copy (h : Hdr) (mode d : Nat) (side : Bool) (c : CopyArg)
  | copym (h : Hdr) (ws : Nat) (side : Bool) (coreMask : BitVec 8) (c : CopyArg)
  | copyp (h : Hdr) (mode d : Nat) (srca : Bool) (c : CopyArg)
  | copyh (h : Hdr) (mode d : Nat) (c : CopyArg)
  | cbatch (h : Hdr) (d : Nat)
  | cwaitb (h : Hdr) (d : Nat) (n : Src)
  | aexport (h : Hdr) (d a b : Nat)
  | aexportRev (h : Hdr) (a : Nat)
  | opfence (h : Hdr)
  | collAr (h : Hdr) (ty scope a : Nat)
  | collRs (h : Hdr) (ty scope a : Nat)
  | collAg (h : Hdr) (ty scope a : Nat)
  | collBc (h : Hdr) (ty scope a : Nat)
  | fmtsel (h : Hdr) (opB : Bool) (d a b : Nat)
  -- Reverse mode, tape, directory, census (R270 to R291)
  | revm (h : Hdr)
  | fwdm (h : Hdr)
  | tapemark (h : Hdr) (d : Nat)
  | tapemarkCut (h : Hdr) (a : Nat)
  | tapespill (h : Hdr) (d a : Nat)
  | tapefill (h : Hdr) (a b : Nat)
  | dirins (h : Hdr) (d key : Nat) (loc : Src) (dens : BitVec 8)
  | dirdel (h : Hdr) (d : Nat) (a : Src)
  | dirmove (h : Hdr) (d a core : Nat) (loc : Src)
  | dirlook (h : Hdr) (mode d : Nat) (a b : Src)
  | solicit (h : Hdr) (op : Nat) (pod : Bool) (q : Nat) (a : Src)
  | respond (h : Hdr) (a : Nat)
  | nmpost (h : Hdr) (scope : Nat) (q : Option Nat) (a : Nat)
  | nmgather (h : Hdr) (esz d a b c n : Nat)
  -- Rhizoid threads (R335 to R347)
  | zalui (d : Nat) (c : BitVec 16)
  | zelui (d : Nat) (c : BitVec 16)
  | zaaddi (d a : Nat) (c : BitVec 16)
  | zeori (d a : Nat) (c : BitVec 16)
  | zaadd (d a b : Nat)
  | zabra (off : BitVec 16)
  | zebra (off : BitVec 16)
  | zadbnz (a : Nat) (off : BitVec 16)
  | zedbnz (a : Nat) (off : BitVec 16)
  | zld (w a : Nat) (off : BitVec 16)
  | zst (w a : Nat) (off : BitVec 16)
  | zlock (w a : Nat) (off : BitVec 16)
  | zunlk (w a : Nat) (off : BitVec 16)
  | zwpair (ap at' as n wp wt : Nat) (word : Bool)
  | zpop (d : Nat)
  | zpush (a : Nat)
  | ziadd (sat : Bool) (d a b : Nat)
  | zimulw (d a b : Nat)
  | zdot8 (sat uns : Bool) (d a b : Nat)
  | zdot4 (sat uns : Bool) (d a b : Nat)
  | zdq (kind k d a b c : Nat)
  | zfadd (d a b : Nat)
  | zfsub (d a b : Nat)
  | zfmul (d a b : Nat)
  | zfma (d a b c : Nat)
  | zfmin (d a b : Nat)
  | zfmax (d a b : Nat)
  | zfsqrt (d a : Nat)
  | zfrsq (d a : Nat)
  | zunpk (hi : Bool) (d a : Nat)
  | zpack (d a b : Nat)
  -- A word whose major opcode is unassigned (R37)
  | unassignedOpcode (w : BitVec 32)
  -- Words with no operands
  | mend
  | zaend
  | zeend
  | zunlkAll
  -- Replies and engine moments
  | ratomReply (id : Nat)
  | mmaLanding (core id : Nat)
  | drainExecute (core : Nat)
  -- Completions, faults, translation
  | longLatencyCompletion (id : Nat) (fromL1 : Bool)
  | afterIssueFault (id : Nat) (fromL1 : Bool)
  | trapHandlerEntry (tid : Nat)
  | tlbWalkComplete (core ctx page : Nat)
  -- Launch and placement
  | launch (w : CmdWhen) (rec : BitVec 64)
  | gridAdmission (idx : Nat)
  | teamHandout (grid : Nat)
  | teamPlacement (cluster : Nat) (pl : Place)
  | dispatchSteal (cluster : Nat)
  | coresidentPlacement (grid : Nat) (pls : List Place)
  | gridCompletion (grid : Nat)
  -- Deferred path
  | sorusRecordArrival (core : Nat) (coalesce takeNew : Bool)
  | binAgeFlush (cluster bin : Nat)
  | thallusPacketArrival (idx : Nat)
  | commitTokenArrival (core : Nat)
  | commitClose (cid : Nat)
  | sorusClose (cid cluster : Nat)
  | commitApplySend (cid : Nat)
  | thallusApply (cid dev ch : Nat) (bad : List Nat)
  | commitCompletion (cid : Nat)
  | podCloseRelease (cid : Nat)
  | podCommitCompletion (cid : Nat)
  -- Copies and collectives
  | copyCommandForm (id : Nat)
  | copyPieceStart (id core : Nat) (data : CopyMove)
  | copyCompletion (id : Nat)
  | copyFailure (id : Nat)
  | copypCounterAdd (id : Nat)
  | hostAckTimeout (id : Nat)
  | collPieceLand (id chunk : Nat) (data : List (BitVec 8))
  | reduceTeamDispatch (id chunk core : Nat)
  | collRankCompletion (id : Nat)
  -- Census and directory
  | censusVisit (cid core : Nat)
  | responderPlacement (core pb : Nat)
  | responderEnd (tid : Nat)
  | censusCoreReport (cid core : Nat) (peer : Option PeerReport)
  | censusRootCompletion (cid : Nat)
  | censusCloseAck (cid core : Nat)
  | censusDeviceLost (cid dev : Nat)
  | dirmoveDeparture (id : Nat)
  | dirmoveArrival (id : Nat)
  -- Rhizoid commands
  | nmCommandCheck (id : Nat)
  | nmCommandStart (ch : Nat)
  | nmCommandCompletion (ch : Nat)
  | zqdeadDetect (ch : Nat)
  | lockHoldTimeout (ch : Nat)
  | lockWaitTimeout (ch : Nat)
  | holdSliceExpiry (ch bank : Nat)
  -- Task graph and command queues
  | arm (w : CmdWhen) (first count : Nat)
  | nodeWaitsDone (ctx n : Nat)
  | nodeStart (ctx n : Nat)
  | nodeCompletion (ctx n : Nat)
  | waitc (w : CmdWhen) (addr target : BitVec 64)
  | preempt (w : CmdWhen) (deadline : Nat)
  | preemptSaved (ctx : Nat)
  | preemptDeadline (ctx : Nat)
  | resume (w : CmdWhen)
  | kill (w : CmdWhen)
  -- Metering, thermal, power, soft errors
  | budgetRefill
  | tempSample (core temp : Nat)
  | droopEvent (island : Nat)
  | thermalStepDown (island : Nat)
  | thermalRecover (island : Nat)
  | powerSample (watts : Nat)
  | patrolScrub (dev pa : Nat) (bad : Bool)
  | softError (site : SoftSite) (correctable : Bool)
  -- Host port and KDP
  | rdmaWrite (host : BitVec 32) (key : BitVec 32) (va : BitVec 64) (data : List (BitVec 8))
  | rdmaRead (host : BitVec 32) (key : BitVec 32) (va : BitVec 64) (n : Nat)
  | claim (k : KdpHdr)
  | renew (k : KdpHdr)
  | handover (k : KdpHdr) (target : BitVec 32) (connected : Bool)
  | release (k : KdpHdr)
  | leaseExpiry
  | ctxcreate (k : KdpHdr) (p : CtxPayload) (c : CtxChoice)
  | ctxdestroy (k : KdpHdr)
  | map (k : KdpHdr) (p : MapPayload) (c : MapChoice)
  | unmap (k : KdpHdr) (va : BitVec 64)
  | hwin (k : KdpHdr) (p : HwinPayload)
  | hwindel (k : KdpHdr) (num : Nat)
  | comm (k : KdpHdr) (num : Nat) (ranks : List Nat)
  | debug (k : KdpHdr) (dbg stp : Bool)
  | budget (k : KdpHdr) (rates : List Nat)
  | pcap (k : KdpHdr) (watts : Nat)
  | attest (k : KdpHdr) (nonce : List (BitVec 8))
  | telem (k : KdpHdr)
  | eventAck (k : KdpHdr)
  | eventResend (seq : Nat)
  | gwCtxmem (ctx : Nat) (va : BitVec 64) (data : Option (List (BitVec 8))) (n : Nat)
  | gwKill (ctx cause : Nat)
  | markcfg (ctx : Nat) (on : Bool)
  | gwEvent (code : Nat) (payload : List (BitVec 8))
  | debugStepBack (tid gid : Nat)
  -- Fabric
  | peerLostTimeout (dev : Nat)
  | portFailure (port : Nat)
  | vdmReservedDrop (kind : Nat)
  -- Bring-up
  | powerOn
  | moduleReset
  | trustedFwStart (ok : FwImage)
  | hbmTraining (failed : HbmTest)
  | serviceFwStart (ok : FwImage)
  | coreTest (failed : List Nat)
  | fabricTraining (dev : Nat) (failed : List Nat)
  | kdpServiceStart
  -- Words and moments of their own
  | writeThroughDrain (core : Nat)
  | l1LineReplacement (core idx : Nat) (inst : Bool)
  | dqEntryFilled (bank : Nat)
  | ethernetLinkDown
  | peerReturn (dev : Nat)
  | ualinkRequest (src : Nat) (pa : Nat) (r : UaReq)
  | podLaunchOutcome (ctx k : Nat) (failed : Option Nat)
  deriving DecidableEq, Repr

end Sys2Proof
end

