-- ==== Sys2Proof/Decode.lean ====
section
/-!
DEFINITION. Decoding of group, matrix-stream and Rhizoid words (R6 to R20, R36 to R44, R79, R103, R195, R269, R335 to
R337), total and rejecting by cause, and the encoder written from the same tables.
-/

namespace Sys2Proof

/-- Why a word is not an instruction (R26, R44), and in Rhizoid images (R336). -/
inductive Reject where
  | illop | illfld | illrsv
  deriving DecidableEq, Repr

/-- The words of one instruction as fetched (R7, R13); words past the length are zero. -/
structure Raw where
  w0 : Nat
  ow : Nat
  iw : Nat
  lit : BitVec 64
  deriving DecidableEq, Repr

/-- LEN of a base word (R6). -/
def lenOf (w0 : Nat) : Nat := bitsAt w0 30 2

/-- The length in bytes that LEN fixes (R7). -/
def byteLen (w0 : Nat) : Nat :=
  match lenOf w0 with
  | 0 => 4
  | 1 => 12
  | 2 => 12
  | _ => 20

/-- The form that LEN selects (R7). -/
def formOf (w0 : Nat) : Form :=
  match lenOf w0 with
  | 0 => .base
  | 1 => .baseLit
  | 2 => .ext
  | _ => .extLit

/-- The length in bytes of a form (R7). -/
def formLen : Form → Nat
  | .base => 4
  | .baseLit => 12
  | .ext => 12
  | .extLit => 20

/-- The major opcode of a base word (R6). -/
def opOf (w0 : Nat) : Nat := bitsAt w0 20 7

/-- DIST of a base word (R6). -/
def distOf (w0 : Nat) : Nat := bitsAt w0 27 3

/-- The fields of the extended layout (R13). -/
structure XF where
  h : Hdr
  lit : Option (BitVec 64)
  sub : Nat
  guardBad : Bool      -- GN or GP set with GV 0 (R15)
  gv : Bool
  mod : Nat
  d : Nat
  a : Nat
  b : Nat
  c : Nat
  imm : Nat

/-- Read the extended fields (R13). -/
def extFields (r : Raw) : XF :=
  let gv := bitAt r.w0 11
  let gn := bitAt r.w0 10
  let gp := bitsAt r.w0 7 3
  { h := { form := formOf r.w0, dist := distOf r.w0, fs := bitAt r.w0 6,
           guard := if gv then some ⟨gn, gp⟩ else none }
    lit := if lenOf r.w0 = 3 then some r.lit else none
    sub := bitsAt r.w0 12 8, guardBad := !gv && (gn || gp != 0), gv := gv, mod := bitsAt r.w0 0 6
    d := bitsAt r.ow 24 8, a := bitsAt r.ow 16 8, b := bitsAt r.ow 8 8, c := bitsAt r.ow 0 8, imm := r.iw }

/-- The header of a base form (R6, R10): FS where the format has it. -/
def baseHdr (r : Raw) (fs : Bool) : Hdr :=
  { form := formOf r.w0, dist := distOf r.w0, fs := fs, guard := none }

/-- Answer in the order of R26: reserved bits before field values. -/
def judge (rsv fld : Bool) (i : Instr) : Except Reject Instr :=
  if rsv then .error .illrsv else if fld then .error .illfld else .ok i

/-- Which extended fields an entry uses, and the MOD and IMM32 bits it defines (R15, R79, R103, R195, R269). -/
structure Uses where
  ll : Bool := false
  d : Bool := true
  a : Bool := true
  b : Bool := true
  c : Bool := false
  mod : Nat := 0
  imm : Nat := 0

/-- Whether a reserved field of an extended form is nonzero (R14, R15). -/
def rsvBad (x : XF) (u : Uses) : Bool :=
  x.guardBad || (!u.ll && x.h.fs) || (!u.d && x.d != 0) || (!u.a && x.a != 0) || (!u.b && x.b != 0)
    || (!u.c && x.c != 0) || Nat.land x.mod u.mod != x.mod || Nat.land x.imm u.imm != x.imm

/-- Judge an extended form with its used fields. -/
def ext (x : XF) (u : Uses) (fld : Bool) (i : Instr) : Except Reject Instr := judge (rsvBad x u) fld i

/-- All 32 bits of IMM32. -/
def immAll : Nat := 0xFFFFFFFF

/-- The last source as a literal or a register (R14). -/
def XF.src (x : XF) (n : Nat) : Src :=
  match x.lit with
  | some c => .lit c
  | none => .reg n

/-- Whether a literal stands in for the last register source. -/
def XF.isLit (x : XF) : Bool := x.lit.isSome

def relOf : Nat → Option Rel
  | 0 => some .eq | 1 => some .ne | 2 => some .lt | 3 => some .le | 4 => some .gt | 5 => some .ge | _ => none

def relCode : Rel → Nat
  | .eq => 0 | .ne => 1 | .lt => 2 | .le => 3 | .gt => 4 | .ge => 5

def fclsOf : Nat → Option FCls
  | 0 => some .f32 | 1 => some .f16 | 2 => some .bf16 | _ => none

def fclsCode : FCls → Nat
  | .f32 => 0 | .f16 => 1 | .bf16 => 2

/-- Rounding codes (R42); 4 to 7 are rejected by `rmBad`. -/
def rmOf : Nat → RMode
  | 1 => .rtz | 2 => .rup | 3 => .rdn | _ => .rne

def rmCode : RMode → Nat
  | .rne => 0 | .rtz => 1 | .rup => 2 | .rdn => 3

def rmBad (n : Nat) : Bool := decide (3 < n)

def tyOf : Nat → Option Ty
  | 0 => some .f32 | 1 => some .f16 | 2 => some .bf16 | 3 => some .e4m3 | 4 => some .e5m2 | 5 => some .e2m1
  | 6 => some .i32 | 7 => some .n32 | 8 => some .i8 | 9 => some .n8 | 10 => some .i4 | 11 => some .n4
  | 12 => some .i64 | 13 => some .n64 | _ => none

def tyCode : Ty → Nat
  | .f32 => 0 | .f16 => 1 | .bf16 => 2 | .e4m3 => 3 | .e5m2 => 4 | .e2m1 => 5 | .i32 => 6 | .n32 => 7
  | .i8 => 8 | .n8 => 9 | .i4 => 10 | .n4 => 11 | .i64 => 12 | .n64 => 13

/-- The width of an element type in bits (R41). -/
def tyBits : Ty → Nat
  | .f32 => 32 | .f16 => 16 | .bf16 => 16 | .e4m3 => 8 | .e5m2 => 8 | .e2m1 => 4 | .i32 => 32 | .n32 => 32
  | .i8 => 8 | .n8 => 8 | .i4 => 4 | .n4 => 4 | .i64 => 64 | .n64 => 64

def tyIsInt : Ty → Bool
  | .i32 | .n32 | .i8 | .n8 | .i4 | .n4 | .i64 | .n64 => true
  | .f32 | .f16 | .bf16 | .e4m3 | .e5m2 | .e2m1 => false

/-- Elements of a type in a 32-bit register: the bound of SIDX and DIDX (R94). -/
def elems (t : Ty) : Nat := if tyBits t ≤ 16 then 32 / tyBits t else 1

/-- Pairs of types whose every value is exact, where MOD bits 2:0 are reserved (R94). -/
def exactPair (dt st : Ty) : Bool :=
  (tyIsInt dt && tyIsInt st) ||
  match st, dt with
  | .f16, .f32 | .bf16, .f32 | .e4m3, .f32 | .e5m2, .f32 | .e2m1, .f32 => true
  | .e4m3, .f16 | .e5m2, .f16 | .e2m1, .f16 | .e4m3, .bf16 | .e5m2, .bf16 | .e2m1, .bf16 => true
  | .e2m1, .e4m3 | .e2m1, .e5m2 => true
  | .i8, .f32 | .n8, .f32 | .i4, .f32 | .n4, .f32 => true
  | .i8, .f16 | .n8, .f16 | .i4, .f16 | .n4, .f16 => true
  | .i8, .bf16 | .n8, .bf16 | .i4, .bf16 | .n4, .bf16 => true
  | .i4, .e4m3 | .n4, .e4m3 | .i4, .e5m2 => true
  | _, _ => false

def aopOf : Nat → Option AOp
  | 0 => some .add | 1 => some .fadd | 2 => some .minI | 3 => some .minN | 4 => some .fmin | 5 => some .maxI
  | 6 => some .maxN | 7 => some .fmax | 8 => some .and | 9 => some .or | 10 => some .xor | 11 => some .xchg
  | 12 => some .cas | _ => none

def aopCode : AOp → Nat
  | .add => 0 | .fadd => 1 | .minI => 2 | .minN => 3 | .fmin => 4 | .maxI => 5 | .maxN => 6 | .fmax => 7
  | .and => 8 | .or => 9 | .xor => 10 | .xchg => 11 | .cas => 12

def sizeOf : Nat → Option SizeCode
  | 0 => some .n8 | 1 => some .i8 | 2 => some .n16 | 3 => some .i16 | 4 => some .b32 | 5 => some .b64
  | 6 => some .b128 | _ => none

def sizeCode : SizeCode → Nat
  | .n8 => 0 | .i8 => 1 | .n16 => 2 | .i16 => 3 | .b32 => 4 | .b64 => 5 | .b128 => 6

/-- Sizes a store admits (R39, R40). -/
def storeSize : SizeCode → Bool
  | .n8 | .n16 | .b32 | .b64 | .b128 => true
  | .i8 | .i16 => false

/-- Registers an access of this size names, and the alignment of the first (R107). -/
def regsOfSize : SizeCode → Nat
  | .b64 => 2
  | .b128 => 4
  | _ => 1

/-! ### Special registers -/

/-- Numbers that R68 lists; reads. -/
def srReadable (n : Int) (vec : Bool) : Bool :=
  if n = 0x010 then vec
  else (decide (0 ≤ n ∧ n ≤ 6)) || decide (8 ≤ n ∧ n ≤ 0xF) || n == 0x011 || n == 0x012 || n == 0x018 || n == 0x019
    || n == 0x01C || n == 0x01D || decide (0x020 ≤ n ∧ n ≤ 0x024) || decide (0x028 ≤ n ∧ n ≤ 0x02A)
    || decide (0x030 ≤ n ∧ n ≤ 0x03F)

/-- Numbers that R68 and R394 let a program write. -/
def srWritable (n : Int) : Bool :=
  n == 0x018 || n == 0x019 || n == 0x01C || n == 0x01D || n == 0x021 || n == 0x022 || n == 0x034 || n == 0x037
    || n == 0x038 || decide (0x03B ≤ n ∧ n ≤ 0x03E)

/-! ### Group opcodes, base forms -/

/-- A three-register base form with the literal in OPB (R10, R12); `k` builds the register and literal forms. -/
def base3R (r : Raw) (reg : Hdr → Nat → Nat → Nat → Instr) (lit : Hdr → Nat → Nat → Src → Instr) :
    Except Reject Instr :=
  let h := baseHdr r false
  let d := bitsAt r.w0 14 6
  let a := bitsAt r.w0 8 6
  let b := bitsAt r.w0 2 6
  let low := bitsAt r.w0 0 2 != 0
  if h.form = .baseLit then judge (low || b != 0) false (lit h d a (.lit r.lit)) else judge low false (reg h d a b)

/-- A base branch on a predicate (R10, R47). -/
def baseJP (r : Raw) (k : Hdr → Nat → Bool → Int → Instr) : Except Reject Instr :=
  .ok (k (baseHdr r false) (bitsAt r.w0 17 3) (bitAt r.w0 16) (sextNat 16 (bitsAt r.w0 0 16)))

/-- A base memory form RM (R10, R104): AM V, subop 0x04. -/
def baseRM (r : Raw) (pair : Bool) (short : Hdr → Nat → MemArg → Instr)
    (long : Hdr → SizeCode → Ord → Nat → MemArg → Instr) : Except Reject Instr :=
  let h := baseHdr r (bitAt r.w0 0)
  let d := bitsAt r.w0 14 6
  let a := bitsAt r.w0 8 6
  let o7 := bitsAt r.w0 1 7
  let odd := pair && a % 2 == 1
  if h.form = .baseLit then
    judge (o7 != 0) odd (long h .b32 ⟨0, 0⟩ d ⟨.v, 0, .reg a, 0, r.lit.toInt⟩)
  else judge false odd (short h d ⟨.v, 0, .reg a, 0, 4 * sextNat 7 o7⟩)

/-- A base uniform memory form (R10, R115): subop 0x05. -/
def baseRMU (r : Raw) (short : Hdr → Nat → Nat → Int → Instr)
    (long : Hdr → SizeCode → Ord → Nat → Src → Int → Instr) : Except Reject Instr :=
  let h := baseHdr r (bitAt r.w0 0)
  let d := bitsAt r.w0 14 6
  let a := bitsAt r.w0 8 6
  let o7 := bitsAt r.w0 1 7
  if h.form = .baseLit then judge (o7 != 0) false (long h .b64 ⟨0, 0⟩ d (.reg a) r.lit.toInt)
  else .ok (short h d a (8 * sextNat 7 o7))

/-- A format N word (R10). -/
def baseN (r : Raw) (i : Hdr → Instr) : Except Reject Instr :=
  judge (bitsAt r.w0 0 20 != 0) false (i (baseHdr r false))

/-- A clause header (R20). -/
def decodeHeader (r : Raw) : Except Reject Instr :=
  let a := bitsAt r.w0 4 4
  let b := bitsAt r.w0 0 4
  let flag (n : Nat) : Option Nat := if n = 15 then none else some n
  let bad (n : Nat) : Bool := decide (12 ≤ n ∧ n ≤ 14)
  judge (distOf r.w0 != 0) (bad a || bad b) (.clauseHeader (BitVec.ofNat 12 (bitsAt r.w0 8 12)) (flag a) (flag b))

/-! ### Group opcodes, extended forms -/

/-- An extended branch on a predicate (R47). -/
def extBr (x : XF) (k : Hdr → Nat → Bool → Int → Instr) : Except Reject Instr :=
  ext x { d := false, b := false, mod := 1, imm := immAll } (decide (7 < x.a))
    (k x.h x.a (bitAt x.mod 0) (sextNat 32 x.imm))

/-- The slide of an extended call in registers: MOD bit 5 takes it from FRSZ, else it is 8 times MOD 4:0 (R51). -/
def slideField (x : XF) : Option Nat := if bitAt x.mod 5 then none else some (8 * (x.mod % 32))

def slideBad (x : XF) : Bool := bitAt x.mod 5 && x.mod % 32 != 0

/-- EMOP (R60). -/
def decodeEmop (x : XF) : Except Reject Instr :=
  let ud : Uses := { a := false, b := false }
  let ua : Uses := { d := false, b := false }
  match x.sub with
  | 0 => ext x ud (decide (63 < x.d)) (.emrd x.h x.d)
  | 1 => ext x ua (decide (63 < x.a)) (.emwr x.h x.a)
  | 2 => ext x ua (decide (7 < x.a)) (.emand x.h x.a)
  | 3 => ext x ua (decide (7 < x.a)) (.emor x.h x.a)
  | 4 => ext x ua (decide (7 < x.a)) (.emandn x.h x.a)
  | 5 => ext x ud (decide (7 < x.d)) (.emsetp x.h x.d)
  | _ => .error .illop

/-- PLOG (R61). -/
def decodePlog (x : XF) : Except Reject Instr :=
  let bad3 := decide (7 < x.d) || decide (7 < x.a) || decide (7 < x.b)
  let bad2 := decide (7 < x.d) || decide (7 < x.a)
  let u2 : Uses := { b := false }
  match x.sub with
  | 0x0 => ext x {} bad3 (.pand x.h x.d x.a x.b)
  | 0x1 => ext x {} bad3 (.por x.h x.d x.a x.b)
  | 0x2 => ext x {} bad3 (.pxor x.h x.d x.a x.b)
  | 0x3 => ext x {} bad3 (.pandn x.h x.d x.a x.b)
  | 0x4 => ext x u2 bad2 (.pnot x.h x.d x.a)
  | 0x5 => ext x u2 bad2 (.pmov x.h x.d x.a)
  | 0x8 => ext x {} bad3 (.spand x.h x.d x.a x.b)
  | 0x9 => ext x {} bad3 (.spor x.h x.d x.a x.b)
  | 0xA => ext x {} bad3 (.spxor x.h x.d x.a x.b)
  | 0xB => ext x {} bad3 (.spandn x.h x.d x.a x.b)
  | 0xC => ext x u2 bad2 (.spnot x.h x.d x.a)
  | 0xD => ext x u2 bad2 (.spmov x.h x.d x.a)
  | _ => .error .illop

/-- A SALU operation on s_d, s_a and the last source (R63). -/
def extS3 (x : XF) (k : Nat → Nat → Src → Instr) : Except Reject Instr :=
  ext x { b := !x.isLit } (decide (63 < x.d) || decide (63 < x.a) || (!x.isLit && decide (63 < x.b)))
    (k x.d x.a (x.src x.b))

/-- SALU (R63). -/
def decodeSalu (x : XF) : Except Reject Instr :=
  match x.sub with
  | 0x0 => extS3 x (.saddLong x.h)
  | 0x1 => extS3 x (.ssub x.h)
  | 0x2 => extS3 x (.smul x.h)
  | 0x3 => extS3 x (.smulh x.h true)
  | 0x4 => extS3 x (.smulh x.h false)
  | 0x5 => extS3 x (.sand x.h)
  | 0x6 => extS3 x (.sor x.h)
  | 0x7 => extS3 x (.sxor x.h)
  | 0x8 => extS3 x (.sandn x.h)
  | 0x9 => extS3 x (.sshl x.h)
  | 0xA => extS3 x (.sshr x.h)
  | 0xB => extS3 x (.ssar x.h)
  | 0xC => extS3 x (.smin x.h true)
  | 0xD => extS3 x (.smin x.h false)
  | 0xE => extS3 x (.smax x.h true)
  | 0xF => extS3 x (.smax x.h false)
  | _ => .error .illop

/-- SBF (R65). -/
def decodeSbf (x : XF) : Except Reject Instr :=
  let pos := bitsAt x.imm 0 6
  let len := bitsAt x.imm 8 6 + 1
  let bad := decide (63 < x.d) || decide (63 < x.a)
  let uf : Uses := { b := false, imm := 0x3F3F }
  let u0 : Uses := { b := false }
  match x.sub with
  | 0 => ext x uf (bad || decide (64 < pos + len)) (.sbfx x.h false x.d x.a pos len)
  | 1 => ext x uf (bad || decide (64 < pos + len)) (.sbfx x.h true x.d x.a pos len)
  | 2 => ext x uf (bad || decide (64 < pos + len)) (.sbfi x.h x.d x.a pos len)
  | 3 => ext x u0 bad (.sclz x.h x.d x.a)
  | 4 => ext x u0 bad (.spopc x.h x.d x.a)
  | 5 => ext x u0 bad (.sbrev x.h x.d x.a)
  | _ => .error .illop

/-- The second source of a comparison: register, sext(IMM32) with MOD bit 0 in LEN 0b10, or the literal (R66, R87,
R91; log entry 9). -/
def cmpSrc (x : XF) : Src := if !x.isLit && bitAt x.mod 0 then .imm (BitVec.ofNat 32 x.imm) else x.src x.b

def cmpUses (x : XF) (mods : Nat) : Uses :=
  let im := !x.isLit && bitAt x.mod 0
  { b := !x.isLit && !im, mod := if x.isLit then mods - mods % 2 else mods, imm := if im then immAll else 0 }

/-- SCMP (R66). -/
def decodeScmp (x : XF) : Except Reject Instr :=
  match relOf (x.sub % 8) with
  | some rel =>
    if x.sub < 16 then
      ext x (cmpUses x 1) (decide (7 < x.d) || decide (63 < x.a) || decide (63 < x.b))
        (.scmp x.h rel (x.sub < 8) x.d x.a (cmpSrc x))
    else .error .illop
  | none => .error .illop

/-- VCMP (R87). -/
def decodeVcmp (x : XF) : Except Reject Instr :=
  match relOf (x.sub % 8) with
  | some rel =>
    if x.sub < 16 then ext x (cmpUses x 1) (decide (7 < x.d)) (.vcmp x.h rel (x.sub < 8) x.d x.a (cmpSrc x))
    else .error .illop
  | none => .error .illop

/-- SHFL (R70). -/
def decodeShfl (x : XF) : Except Reject Instr :=
  let c := x.imm % 64
  match x.sub with
  | 0 => ext x {} false (.shfl x.h .idx x.d x.a x.b 0)
  | 1 => ext x { b := false, imm := 63 } false (.shfl x.h .up x.d x.a 0 c)
  | 2 => ext x { b := false, imm := 63 } false (.shfl x.h .dn x.d x.a 0 c)
  | 3 => ext x { b := false, imm := 63 } false (.shfl x.h .xor x.d x.a 0 c)
  | _ => .error .illop

def lredOf : Nat → Option LredOp
  | 0 => some .add | 1 => some .minI | 2 => some .minN | 3 => some .maxI | 4 => some .maxN | 5 => some .and
  | 6 => some .or | 7 => some .xor | 8 => some .fadd | 9 => some .fmin | 10 => some .fmax | _ => none

def lredCode : LredOp → Nat
  | .add => 0 | .minI => 1 | .minN => 2 | .maxI => 3 | .maxN => 4 | .and => 5 | .or => 6 | .xor => 7 | .fadd => 8
  | .fmin => 9 | .fmax => 10

/-- The lane operand of READLANE and WRITELANE (R71). -/
def laneUses (x : XF) : Uses :=
  let im := bitAt x.mod 0
  { b := !im, mod := 1, imm := if im then 63 else 0 }

def laneSrc (x : XF) : Src := if bitAt x.mod 0 then .imm (BitVec.ofNat 32 x.imm) else .reg x.b

/-- A vector binary form (R79, R80). -/
def extV3 (x : XF) (mods : Nat) (fld : Bool) (k : Nat → Nat → Src → Instr) : Except Reject Instr :=
  ext x { b := !x.isLit, mod := mods } fld (k x.d x.a (x.src x.b))

/-- A vector unary form whose source a literal may replace (R80). -/
def extV2 (x : XF) (mods : Nat) (k : Nat → Src → Instr) : Except Reject Instr :=
  ext x { a := !x.isLit, b := false, mod := mods } false (k x.d (x.src x.a))

/-- VABS and VNEG: `.n32` traps without `.sat`, and beside it changes nothing, since `.sat` clamps to the signed range
(R81; log entry 9). -/
def extV2Sat (x : XF) (k : Nat → Src → Instr) : Except Reject Instr :=
  ext x { a := !x.isLit, b := false, mod := 3 } (x.mod % 4 == 2) (k x.d (x.src x.a))

/-- VIALU (R79, R81). -/
def decodeVialu (x : XF) : Except Reject Instr :=
  let sat := bitAt x.mod 0
  let n32 := bitAt x.mod 1
  match x.sub with
  | 0x00 => extV3 x 3 (n32 && !sat) (.vaddLong x.h sat n32)
  | 0x01 => extV3 x 3 (n32 && !sat) (.vsub x.h sat n32)
  | 0x02 => extV3 x 0 false (.vmul x.h)
  | 0x03 => extV3 x 0 false (.vmulh x.h true)
  | 0x04 => extV3 x 0 false (.vmulh x.h false)
  | 0x05 => ext x { c := !x.isLit } false (.vmad x.h x.d x.a x.b (x.src x.c))
  | 0x06 => extV3 x 0 false (.vand x.h)
  | 0x07 => extV3 x 0 false (.vor x.h)
  | 0x08 => extV3 x 0 false (.vxor x.h)
  | 0x09 => extV3 x 0 false (.vandn x.h)
  | 0x0A => extV2 x 0 (.vnot x.h)
  | 0x0B => extV3 x 0 false (.vshl x.h)
  | 0x0C => extV3 x 0 false (.vshr x.h)
  | 0x0D => extV3 x 0 false (.vsar x.h)
  | 0x0E => extV3 x 0 false (.vmin x.h true)
  | 0x0F => extV3 x 0 false (.vmin x.h false)
  | 0x10 => extV3 x 0 false (.vmax x.h true)
  | 0x11 => extV3 x 0 false (.vmax x.h false)
  | 0x12 => extV2Sat x (.vabs x.h sat)
  | 0x13 => extV2Sat x (.vneg x.h sat)
  | _ => .error .illop

/-- VBIT (R83 to R86). -/
def decodeVbit (x : XF) : Except Reject Instr :=
  let pos := bitsAt x.imm 0 5
  let len := bitsAt x.imm 8 5 + 1
  let uf : Uses := { b := false, imm := 0x1F1F }
  let u0 : Uses := { b := false }
  match x.sub with
  | 0 => ext x uf (decide (32 < pos + len)) (.vbfx x.h false x.d x.a pos len)
  | 1 => ext x uf (decide (32 < pos + len)) (.vbfx x.h true x.d x.a pos len)
  | 2 => ext x uf (decide (32 < pos + len)) (.vbfi x.h x.d x.a pos len)
  | 3 => ext x u0 false (.vclz x.h x.d x.a)
  | 4 => ext x u0 false (.vpopc x.h x.d x.a)
  | 5 => ext x u0 false (.vbrev x.h x.d x.a)
  | 6 => ext x { mod := 1 } (decide (63 < x.b)) (.vprfx x.h (bitAt x.mod 0) x.d x.a x.b)
  | 7 => ext x { c := true } (decide (7 < x.c)) (.vbmand x.h x.d x.c x.a x.b)
  | 8 => ext x { c := true } false (.visect x.h x.d x.a x.b x.c)
  | _ => .error .illop

/-- VMOV (R82). -/
def decodeVmov (x : XF) : Except Reject Instr :=
  match x.sub with
  | 0 => extV2 x 0 (.vmov x.h)
  | 1 => ext x { a := !x.isLit, b := false, mod := 1 } (!x.isLit && decide (63 < x.a))
           (.vmovs x.h (bitAt x.mod 0) x.d (x.src x.a))
  | 2 => ext x { a := false, b := false, imm := if x.isLit then 0 else immAll } false
           (.vmoviLong x.h x.d (match x.lit with | some c => .lit c | none => .imm (BitVec.ofNat 32 x.imm)))
  | _ => .error .illop

/-- VFALU (R89). -/
def decodeVfalu (x : XF) : Except Reject Instr :=
  match fclsOf (x.sub / 8) with
  | none => .error .illop
  | some f =>
    let m := x.mod % 8
    match x.sub % 8 with
    | 0 => extV3 x 7 (rmBad m) (.vfaddLong x.h f (rmOf m))
    | 1 => extV3 x 7 (rmBad m) (.vfsub x.h f (rmOf m))
    | 2 => extV3 x 7 (rmBad m) (.vfmul x.h f (rmOf m))
    | 3 => extV3 x 0 false (.vfmin x.h f)
    | 4 => extV3 x 0 false (.vfmax x.h f)
    | 5 => extV2 x 0 (.vfabs x.h f)
    | 6 => extV2 x 0 (.vfneg x.h f)
    | _ => .error .illop

/-- VFMA (R90). -/
def decodeVfma (x : XF) : Except Reject Instr :=
  match fclsOf (x.sub / 8) with
  | none => .error .illop
  | some f =>
    let m := x.mod % 8
    let u : Uses := { c := !x.isLit, mod := 7 }
    match x.sub % 8 with
    | 0 => ext x u (rmBad m) (.vfmaLong x.h f (rmOf m) x.d x.a (.reg x.b) (x.src x.c))
    | 1 => ext x u (rmBad m) (.vfms x.h f (rmOf m) x.d x.a (.reg x.b) (x.src x.c))
    | 2 => ext x u (rmBad m) (.vfnma x.h f (rmOf m) x.d x.a (.reg x.b) (x.src x.c))
    | _ => .error .illop

/-- VFCMP (R91). -/
def decodeVfcmp (x : XF) : Except Reject Instr :=
  match fclsOf (x.sub / 8) with
  | none => .error .illop
  | some f =>
    let rel := match relOf (x.sub % 8) with
      | some r => FRel.rel r
      | none => if x.sub % 8 = 6 then .ord else .unord
    ext x (cmpUses x 3) (decide (7 < x.d)) (.vfcmp x.h f rel (bitAt x.mod 1) x.d x.a (cmpSrc x))

/-- VSFU (R92). -/
def decodeVsfu (x : XF) : Except Reject Instr :=
  let u : Uses := { ll := true, b := false }
  match x.sub with
  | 0 => ext x u false (.vrcp x.h x.d x.a)
  | 1 => ext x u false (.vrsq x.h x.d x.a)
  | 2 => ext x u false (.vsqrt x.h x.d x.a)
  | 3 => ext x u false (.vexp2 x.h x.d x.a)
  | 4 => ext x u false (.vlog2 x.h x.d x.a)
  | 5 => ext x u false (.vsin x.h x.d x.a)
  | 6 => ext x u false (.vcos x.h x.d x.a)
  | 7 => ext x u false (.vtanh x.h x.d x.a)
  | 8 => ext x u false (.vsigm x.h x.d x.a)
  | 9 => ext x u false (.verf x.h x.d x.a)
  | _ => .error .illop

/-- VCVT (R94). -/
def decodeVcvt (x : XF) : Except Reject Instr :=
  match tyOf (x.sub / 16), tyOf (x.sub % 16) with
  | some dt, some st =>
    if dt = st then .error .illop
    else
      let didx := bitsAt x.imm 0 3
      let sidx := bitsAt x.imm 8 3
      let exact := exactPair dt st
      let mods := (if exact then 0 else 7) + (if tyIsInt dt && tyIsInt st then 8 else 0)
        + (if tyIsInt dt then 0 else 16)
      let m := x.mod % 8
      let odd := (tyBits dt == 64 && x.d % 2 == 1) || (tyBits st == 64 && x.a % 2 == 1)
      ext x { b := false, mod := mods, imm := 0x707 }
        ((!exact && rmBad m) || decide (elems dt ≤ didx) || decide (elems st ≤ sidx) || odd)
        (.vcvt x.h dt st (rmOf m) (bitAt x.mod 3) (bitAt x.mod 4) x.d x.a sidx didx)
  | _, _ => .error .illop

/-- VCVTSR (R96). -/
def decodeVcvtsr (x : XF) : Except Reject Instr :=
  if x.sub % 16 = 0 ∧ 1 ≤ x.sub / 16 ∧ x.sub / 16 ≤ 5 then
    match tyOf (x.sub / 16) with
    | some dt =>
      let didx := bitsAt x.imm 0 3
      ext x { mod := 16, imm := 7 } (decide (elems dt ≤ didx)) (.vcvtsr x.h dt (bitAt x.mod 4) x.d x.a x.b didx)
    | none => .error .illop
  else .error .illop

/-- VQUANT (R100). -/
def decodeVquant (x : XF) : Except Reject Instr :=
  let k := x.sub / 16
  if x.sub % 16 = 0 ∧ (k = 3 ∨ k = 4 ∨ k = 5 ∨ k = 8 ∨ k = 10) then
    match tyOf k with
    | some dt =>
      let didx := bitsAt x.imm 0 3
      let m := x.mod % 8
      ext x { c := true, mod := 7, imm := 7 } (rmBad m || decide (elems dt ≤ didx) || decide (63 < x.c))
        (.vquant x.h dt (rmOf m) x.d x.a x.b x.c didx)
    | none => .error .illop
  else .error .illop

/-- A lane memory access in an extended form (R103 to R105, R107, R112). -/
def decodeLaneMem (x : XF) (store abuf : Bool) (k : Hdr → SizeCode → Ord → Nat → MemArg → Instr) :
    Except Reject Instr :=
  match sizeOf x.sub with
  | none => .error .illop
  | some z =>
    if store && !storeSize z then .error .illop
    else
      let am := x.mod % 4
      let sh := bitsAt x.mod 2 2
      let o := bitsAt x.mod 4 2
      let mode : AMode := if am = 1 then .sv else if am = 2 then .sl else .v
      let ordBad := o == 3 || (o == 2 && (store || abuf))
      let scopeBad := abuf && o == 1 && decide (1 < x.c % 4)
      let aBad := if am = 0 then x.isLit || (!abuf && x.a % 2 == 1) else !x.isLit && decide (63 < x.a)
      let rsv := rsvBad x { ll := true, a := !x.isLit, b := am == 1, c := o == 1, mod := 63, imm := immAll }
        || (am != 1 && sh != 0) || (o == 1 && decide (3 < x.c))
      judge rsv (am == 3 || ordBad || scopeBad || aBad || x.d % regsOfSize z != 0)
        (k x.h z ⟨o, if o = 1 then x.c % 4 else 0⟩ x.d ⟨mode, sh, x.src x.a, x.b, sextNat 32 x.imm⟩)

/-- LDU and STU in an extended form (R103, R104, R115). -/
def decodeUniMem (x : XF) (store : Bool) (k : Hdr → SizeCode → Ord → Nat → Src → Int → Instr) : Except Reject Instr :=
  match sizeOf x.sub with
  | some .b32 | some .b64 =>
    let z : SizeCode := if x.sub = 4 then .b32 else .b64
    let o := bitsAt x.mod 4 2
    let rsv := rsvBad x { ll := true, a := !x.isLit, b := false, c := o == 1, mod := 48, imm := immAll }
      || (o == 1 && decide (3 < x.c))
    judge rsv (o == 3 || (o == 2 && store) || decide (63 < x.d) || (!x.isLit && decide (63 < x.a)))
      (k x.h z ⟨o, if o = 1 then x.c % 4 else 0⟩ x.d (x.src x.a) (sextNat 32 x.imm))
  | _ => .error .illop

/-- Atomic subops 16z + a (R39). -/
def atomSub (sub : Nat) : Option (AOp × Bool) :=
  match sub / 16, aopOf (sub % 16) with
  | 0, some op => some (op, false)
  | 1, some op => if op = .fadd ∨ op = .fmin ∨ op = .fmax then none else some (op, true)
  | _, _ => none

/-- The address of ATOM and RED (R105, R116). -/
def atomAddr (x : XF) : MemArg :=
  ⟨if x.mod % 4 = 2 then .sl else .v, 0, .reg x.a, 0, sextNat 32 x.imm⟩

def atomBad (x : XF) : Bool :=
  let am := x.mod % 4
  am == 1 || am == 3 || (am == 0 && x.a % 2 == 1) || (am == 2 && decide (63 < x.a))

def atomRsv (x : XF) : Bool := bitsAt x.mod 4 2 == 0 && bitsAt x.mod 2 2 != 0

def atomOrd (x : XF) : Ord := ⟨bitsAt x.mod 4 2, bitsAt x.mod 2 2⟩

/-- ATOM (R116). -/
def decodeAtom (x : XF) : Except Reject Instr :=
  match atomSub x.sub with
  | none => .error .illop
  | some (op, wide) =>
    let cas := op == .cas
    let odd (n : Nat) := wide && n % 2 == 1
    let rsv := rsvBad x { ll := true, b := cas || !x.isLit, c := cas && !x.isLit, mod := 63, imm := immAll } || atomRsv x
    let b : Src := if cas then .reg x.b else x.src x.b
    let c : Src := if cas then x.src x.c else .reg 0
    judge rsv (atomBad x || odd x.d || odd x.b || odd x.c) (.atom x.h op wide (atomOrd x) x.d (atomAddr x) b c)

/-- RED (R116). -/
def decodeRed (x : XF) : Except Reject Instr :=
  match atomSub x.sub with
  | some (op, wide) =>
    if op = .xchg ∨ op = .cas then .error .illop
    else
      let rsv := rsvBad x { ll := true, d := false, b := !x.isLit, mod := 63, imm := immAll } || atomRsv x
      judge rsv (atomBad x || (wide && x.b % 2 == 1)) (.red x.h op wide (atomOrd x) (atomAddr x) (x.src x.b))
  | none => .error .illop

/-- RATOM (R128). -/
def decodeRatom (x : XF) : Except Reject Instr :=
  match atomSub x.sub with
  | none => .error .illop
  | some (op, wide) =>
    let cas := op == .cas
    let bReg := cas || !x.isLit
    let cReg := cas && !x.isLit
    ext x { ll := true, b := bReg, c := cReg, imm := immAll }
      (decide (15 < x.d) || decide (63 < x.a) || (bReg && decide (63 < x.b)) || (cReg && decide (63 < x.c)))
      (.ratom x.h op wide x.d x.a (if cas then .reg x.b else x.src x.b) (if cas then x.src x.c else .reg 0)
        (sextNat 32 x.imm))

/-- WAITA (R118). -/
def decodeWaita (x : XF) : Except Reject Instr :=
  let acq := bitAt x.mod 5
  let rsv := rsvBad x { ll := true, b := !x.isLit, c := acq, mod := 63, imm := immAll } || (acq && decide (3 < x.c))
  match relOf (x.mod % 8) with
  | some rel =>
    judge rsv (decide (63 < x.d) || decide (63 < x.a) || (!x.isLit && decide (63 < x.b)))
      (.waita x.h rel (bitAt x.mod 3) (bitAt x.mod 4) acq (if acq then x.c % 4 else 0) x.d x.a (x.src x.b)
        (sextNat 32 x.imm))
  | none => if rsv then .error .illrsv else .error .illfld

/-- CWAITGE (R126). -/
def decodeCwaitge (x : XF) : Except Reject Instr :=
  let acq := bitAt x.mod 2
  let rsv := rsvBad x { ll := true, b := !x.isLit, mod := 7, imm := immAll } || (!acq && x.mod % 4 != 0)
  judge rsv (decide (7 < x.d) || decide (63 < x.a) || (!x.isLit && decide (63 < x.b)))
    (.cwaitge x.h acq (x.mod % 4) x.d x.a (x.src x.b) (sextNat 32 x.imm))

/-- CADD (R127). -/
def decodeCadd (x : XF) : Except Reject Instr :=
  let rel := bitAt x.mod 2
  let rsv := rsvBad x { ll := true, d := false, b := !x.isLit, mod := 15, imm := immAll } || (!rel && x.mod % 4 != 0)
  judge rsv (decide (63 < x.a) || (!x.isLit && decide (63 < x.b)))
    (.cadd x.h rel (bitAt x.mod 3) (x.mod % 4) x.a (x.src x.b) (sextNat 32 x.imm))

/-- FENCE (R119). -/
def decodeFence (x : XF) : Except Reject Instr :=
  let u : Uses := { ll := true, d := false, a := false, b := false }
  let c := x.sub % 4
  match x.sub / 4 with
  | 0 => ext x u false (.fenceAcq x.h c)
  | 1 => ext x u false (.fenceRel x.h c)
  | 2 => ext x u false (.fenceSc x.h c)
  | _ => .error .illop

/-- COMMIT (R122). -/
def decodeCommit (x : XF) : Except Reject Instr :=
  let ctr := bitAt x.mod 0
  let u : Uses := { ll := true, d := false, a := ctr, b := false, mod := 1 }
  let c : Option Nat := if ctr then some x.a else none
  let bad := ctr && decide (63 < x.a)
  match x.sub with
  | 0 => ext x u bad (.commitTeam x.h c)
  | 1 => ext x u bad (.commitGrid x.h c)
  | 2 => ext x u bad (.commitPod x.h c)
  | _ => .error .illop

/-- BAR (R124). -/
def decodeBar (x : XF) : Except Reject Instr :=
  let u : Uses := { ll := true, d := false, b := false, imm := immAll }
  let nBad := decide (x.imm < 1 ∨ 33 < x.imm)
  match x.sub with
  | 0 => ext x u (decide (15 < x.a) || nBad) (.bararv x.h x.a x.imm)
  | 1 => ext x { u with imm := 0 } (decide (15 < x.a)) (.barwt x.h x.a)
  | 2 => ext x u (decide (15 < x.a) || nBad) (.barsync x.h x.a x.imm)
  | _ => .error .illop

/-- LDC and STC (R113). -/
def decodeCbuf (x : XF) (k : Hdr → Bool → Nat → Nat → Src → BitVec 32 → Instr) : Except Reject Instr :=
  if x.sub ≠ 0 then .error .illop
  else ext x { ll := true, b := !x.isLit, mod := 1, imm := immAll }
    (decide (15 < x.a) || (!x.isLit && decide (63 < x.b)))
    (k x.h (bitAt x.mod 0) x.d x.a (x.src x.b) (BitVec.ofNat 32 x.imm))

/-- The coordinates and counter of COPY, COPYP and COPYH (R195, R210). -/
def copyArg (x : XF) : CopyArg :=
  ⟨x.a, x.b, if bitAt x.mod 4 then some x.c else none, bitsAt x.mod 2 2, sextNat 16 (x.imm % 2 ^ 16),
   sextNat 16 (x.imm / 2 ^ 16)⟩

/-- Reserved and out-of-range conditions shared by the copies (R195). -/
def copyRsv (x : XF) (mods : Nat) (imm : Nat) : Bool :=
  let ctr := bitAt x.mod 4
  rsvBad x { ll := true, c := ctr, mod := mods, imm := imm } || (!ctr && bitsAt x.mod 2 2 != 0)

def copyFld (x : XF) : Bool :=
  let ctr := bitAt x.mod 4
  (ctr && bitsAt x.mod 2 2 == 0) || decide (63 < x.d) || decide (63 < x.a) || decide (63 < x.b)
    || (ctr && decide (63 < x.c))

/-- COPY, COPYM, COPYP, COPYH (R210). -/
def decodeCopy (x : XF) : Except Reject Instr :=
  if x.sub ≠ 0 then .error .illop
  else
    let mode := x.mod % 4
    let side := bitAt x.mod 5
    judge (copyRsv x 63 immAll || (side && mode != 2)) (copyFld x) (.copy x.h mode x.d side (copyArg x))

def decodeCopym (x : XF) : Except Reject Instr :=
  if x.sub ≠ 0 then .error .illop
  else
    judge (copyRsv x 60 0xFFFF00FF) (copyFld x)
      (.copym x.h x.d (bitAt x.mod 5) (BitVec.ofNat 8 x.imm)
        { copyArg x with c2 := sextNat 16 (x.imm / 2 ^ 16), c3 := 0 })

def decodeCopyp (x : XF) : Except Reject Instr :=
  if x.sub ≠ 0 then .error .illop
  else judge (copyRsv x 63 immAll) (copyFld x || decide (1 < x.mod % 4))
    (.copyp x.h (x.mod % 4) x.d (bitAt x.mod 5) (copyArg x))

def decodeCopyh (x : XF) : Except Reject Instr :=
  if x.sub ≠ 0 then .error .illop
  else judge (copyRsv x 31 immAll) (copyFld x || decide (1 < x.mod % 4)) (.copyh x.h (x.mod % 4) x.d (copyArg x))

/-- COLL (R216). -/
def decodeColl (x : XF) : Except Reject Instr :=
  let u : Uses := { ll := true, d := false, b := false, mod := 15 }
  let ty := x.mod % 4
  let sc := bitsAt x.mod 2 2
  let bad := decide (1 < ty) || decide (sc < 2) || decide (63 < x.a)
  match x.sub with
  | 0 => ext x u bad (.collAr x.h ty sc x.a)
  | 1 => ext x u bad (.collRs x.h ty sc x.a)
  | 2 => ext x u bad (.collAg x.h ty sc x.a)
  | 3 => ext x u bad (.collBc x.h ty sc x.a)
  | _ => .error .illop

/-- TAPE (R276, R277). -/
def decodeTape (x : XF) : Except Reject Instr :=
  let cut := bitAt x.mod 0
  match x.sub with
  | 0 =>
    ext x { ll := true, d := !cut, a := cut, b := false, mod := 1 } (decide (63 < x.d) || decide (63 < x.a))
      (if cut then .tapemarkCut x.h x.a else .tapemark x.h x.d)
  | 1 => ext x { ll := true, b := false } (decide (63 < x.d) || decide (63 < x.a)) (.tapespill x.h x.d x.a)
  | 2 => ext x { ll := true, d := false } (decide (63 < x.a) || decide (63 < x.b)) (.tapefill x.h x.a x.b)
  | _ => .error .illop

/-- DIR (R287, R288). -/
def decodeDir (x : XF) : Except Reject Instr :=
  let hi (n : Nat) := decide (63 < n)
  match x.sub with
  | 0 => ext x { ll := true, b := !x.isLit, imm := 255 } (hi x.d || hi x.a || (!x.isLit && hi x.b))
           (.dirins x.h x.d x.a (x.src x.b) (BitVec.ofNat 8 x.imm))
  | 1 => ext x { ll := true, a := !x.isLit, b := false } (hi x.d || (!x.isLit && hi x.a)) (.dirdel x.h x.d (x.src x.a))
  | 2 => ext x { ll := true, c := !x.isLit } (hi x.d || hi x.a || hi x.b || (!x.isLit && hi x.c))
           (.dirmove x.h x.d x.a x.b (x.src x.c))
  | 3 =>
    let mode := x.mod % 4
    let key := mode == 2
    let u : Uses := { ll := true, a := key || !x.isLit, b := key && !x.isLit, mod := 3 }
    ext x u (mode == 3 || hi x.d || ((key || !x.isLit) && hi x.a) || (key && !x.isLit && hi x.b))
      (.dirlook x.h mode x.d (if key then .reg x.a else x.src x.a) (if key then x.src x.b else .reg 0))
  | _ => .error .illop

/-- Only subop 0x00 is assigned to an opcode without a space (R39). -/
def sub0 (x : XF) (k : Except Reject Instr) : Except Reject Instr := if x.sub = 0 then k else .error .illop

/-- The extended forms of the group opcodes with LEN 0b10, and 0b11 where the map admits it (R36). -/
def decodeExt (r : Raw) : Except Reject Instr :=
  let x := extFields r
  let hi (n : Nat) := decide (63 < n)
  let len2 (k : Except Reject Instr) : Except Reject Instr := if x.isLit then .error .illfld else k
  match opOf r.w0 with
  | 0x02 => len2 <| sub0 x <| ext x { d := false, a := false, b := false, imm := immAll } false
      (.braExt x.h (sextNat 32 x.imm))
  | 0x03 => len2 <| sub0 x <| extBr x .branyExt
  | 0x04 => len2 <| sub0 x <| extBr x .brallExt
  | 0x05 => len2 <| sub0 x <| extBr x .brnoneExt
  | 0x06 => len2 <| sub0 x <|
      judge (rsvBad x { d := false, a := false, b := false, mod := 63, imm := immAll } || slideBad x) false
        (.callExt x.h (sextNat 32 x.imm) (slideField x))
  | 0x07 => len2 <| sub0 x <| ext x { d := false, b := false, imm := immAll } (hi x.a)
      (.brx x.h x.a (sextNat 32 x.imm))
  | 0x08 => len2 <| sub0 x <|
      judge (rsvBad x { d := false, b := false, mod := 63, imm := immAll } || slideBad x) (hi x.a)
        (.callx x.h x.a (sextNat 32 x.imm) (slideField x))
  | 0x0A => len2 <| sub0 x <| ext x { d := false, a := false, b := false } false (.exitExt x.h)
  | 0x0C => len2 <| sub0 x <| ext x { d := false, a := false, b := false, imm := 15 } false (.trap x.h (x.imm % 16))
  | 0x10 => len2 <| decodeEmop x
  | 0x11 => len2 <| sub0 x <| ext x { a := false, b := false } (decide (7 < x.d)) (.elect x.h x.d)
  | 0x12 => len2 <| decodePlog x
  | 0x14 => decodeSalu x
  | 0x15 => sub0 x <| ext x { a := false, b := false, imm := if x.isLit then 0 else immAll } (hi x.d)
      (.smoviLong x.h x.d (match x.lit with | some c => .lit c | none => .imm (BitVec.ofNat 32 x.imm)))
  | 0x16 => sub0 x <| ext x { b := false, imm := if x.isLit then 0 else immAll } (hi x.d || hi x.a)
      (.saddiLong x.h x.d x.a (match x.lit with | some c => .lit c | none => .imm (BitVec.ofNat 32 x.imm)))
  | 0x17 => sub0 x <| ext x { b := !x.isLit, mod := 7, imm := immAll } (hi x.d || hi x.a || (!x.isLit && hi x.b))
      (.slea x.h x.d x.a (x.src x.b) (x.mod % 8) (BitVec.ofNat 32 x.imm))
  | 0x18 => len2 <| decodeSbf x
  | 0x19 => decodeScmp x
  | 0x1A => sub0 x <| ext x { c := !x.isLit } (hi x.d || decide (7 < x.a) || hi x.b || (!x.isLit && hi x.c))
      (.ssel x.h x.d x.a x.b (x.src x.c))
  | 0x1B => len2 <| sub0 x <|
      let vec := bitAt x.mod 0
      ext x { a := false, b := false, mod := 1, imm := immAll } ((!vec && hi x.d) || !srReadable x.imm vec)
        (.sreadsrExt x.h vec x.d (BitVec.ofNat 32 x.imm))
  | 0x1C => len2 <| sub0 x <| ext x { a := false, b := false, imm := immAll } (hi x.d || !srWritable x.imm)
      (.swritesrExt x.h x.d (BitVec.ofNat 32 x.imm))
  | 0x20 => len2 <| decodeShfl x
  | 0x21 => len2 <| sub0 x <| ext x { b := false } (hi x.d || decide (7 < x.a)) (.ballot x.h x.d x.a)
  | 0x22 => len2 <| match lredOf x.sub with
      | some op => ext x { b := false } (hi x.d) (.lred x.h op x.d x.a)
      | none => .error .illop
  | 0x23 => len2 <| sub0 x <| ext x (laneUses x) (hi x.d || (!bitAt x.mod 0 && hi x.b))
      (.readlane x.h x.d x.a (laneSrc x))
  | 0x24 => len2 <| sub0 x <| ext x (laneUses x) (hi x.a || (!bitAt x.mod 0 && hi x.b))
      (.writelane x.h x.d x.a (laneSrc x))
  | 0x25 => len2 <| sub0 x <|
      let im := bitAt x.mod 0
      ext x { ll := true, a := !im, b := false, mod := 1, imm := if im then immAll else 0 }
        (decide (15 < x.d) || hi x.a) (.qpush x.h x.d (if im then .imm (BitVec.ofNat 32 x.imm) else .reg x.a))
  | 0x26 => len2 <| sub0 x <|
      let t := bitAt x.mod 0
      ext x { ll := true, b := t, mod := 1 } (hi x.d || decide (15 < x.a) || decide (7 < x.b))
        (.qpop x.h x.d x.a (if t then some x.b else none))
  | 0x28 => decodeVialu x
  | 0x29 => sub0 x <| ext x { a := !x.isLit, b := false, imm := immAll } false
      (.vaddiLong x.h x.d (x.src x.a) (.imm (BitVec.ofNat 32 x.imm)))
  | 0x2A => len2 <| decodeVbit x
  | 0x2B => decodeVcmp x
  | 0x2C => len2 <| sub0 x <| ext x { c := true } (decide (7 < x.a)) (.vsel x.h x.d x.a x.b x.c)
  | 0x2D => decodeVmov x
  | 0x30 => decodeVfalu x
  | 0x31 => decodeVfma x
  | 0x32 => decodeVfcmp x
  | 0x33 => len2 <| decodeVsfu x
  | 0x34 => len2 <| decodeVcvt x
  | 0x35 => len2 <| decodeVcvtsr x
  | 0x36 => len2 <| sub0 x <| ext x { a := false, b := false, imm := 3 } false (.rngfill x.h x.d (x.imm % 4 + 1))
  | 0x37 => len2 <| sub0 x <|
      let g := bitAt x.mod 0
      ext x { ll := true, b := g, c := !g, mod := 1 } (hi x.b || hi x.c) (.scalecalc x.h g x.d x.a x.b x.c)
  | 0x38 => len2 <| decodeVquant x
  | 0x40 => decodeLaneMem x false false .ldLong
  | 0x41 => decodeLaneMem x true false .stLong
  | 0x42 => decodeLaneMem x false true .ldaLong
  | 0x43 => decodeLaneMem x true true .staLong
  | 0x44 => decodeCbuf x .ldc
  | 0x45 => decodeCbuf x .stc
  | 0x46 => decodeUniMem x false .lduLong
  | 0x47 => decodeUniMem x true .stuLong
  | 0x48 => decodeAtom x
  | 0x49 => decodeRed x
  | 0x4A => sub0 x <| decodeWaita x
  | 0x4B => len2 <| decodeFence x
  | 0x4C => len2 <| sub0 x <| ext x { ll := true, d := false, a := false, b := false } false (.aliasf x.h)
  | 0x4D => len2 <| decodeCommit x
  | 0x4E => len2 <| decodeBar x
  | 0x4F => sub0 x <| decodeCwaitge x
  | 0x50 => sub0 x <| decodeCadd x
  | 0x51 => decodeRatom x
  | 0x68 => len2 <| decodeCopy x
  | 0x69 => len2 <| decodeCopym x
  | 0x6A => len2 <| decodeCopyp x
  | 0x6B => len2 <| decodeCopyh x
  | 0x6C => len2 <| sub0 x <| ext x { a := false, b := false } (hi x.d) (.cbatch x.h x.d)
  | 0x6D => len2 <| sub0 x <|
      let im := bitAt x.mod 0
      ext x { ll := true, a := !im, b := false, mod := 1, imm := if im then immAll else 0 }
        (decide (7 < x.d) || hi x.a) (.cwaitb x.h x.d (if im then .imm (BitVec.ofNat 32 x.imm) else .reg x.a))
  | 0x6E => len2 <| sub0 x <|
      let rev := bitAt x.mod 0
      ext x { ll := true, d := !rev, b := !rev, mod := 1 } (hi x.d || hi x.a || hi x.b)
        (if rev then .aexportRev x.h x.a else .aexport x.h x.d x.a x.b)
  | 0x6F => len2 <| sub0 x <| ext x { ll := true, d := false, a := false, b := false } false (.opfence x.h)
  | 0x70 => len2 <| decodeColl x
  | 0x71 => len2 <| sub0 x <| ext x { ll := true, mod := 1 } (hi x.d || hi x.a || hi x.b)
      (.fmtsel x.h (bitAt x.mod 0) x.d x.a x.b)
  | 0x72 => len2 <| sub0 x <| ext x { ll := true, d := false, a := false, b := false } false (.revm x.h)
  | 0x73 => len2 <| sub0 x <| ext x { ll := true, d := false, a := false, b := false } false (.fwdm x.h)
  | 0x74 => len2 <| decodeTape x
  | 0x75 => decodeDir x
  | 0x76 => sub0 x <| ext x { ll := true, a := !x.isLit, b := false, mod := 15 }
      (decide (4 < x.mod % 8) || decide (15 < x.d) || (!x.isLit && hi x.a))
      (.solicit x.h (x.mod % 8) (bitAt x.mod 3) x.d (x.src x.a))
  | 0x77 => len2 <| sub0 x <| ext x { ll := true, d := false, b := false } (hi x.a) (.respond x.h x.a)
  | 0x78 => len2 <| sub0 x <|
      let q := bitAt x.mod 2
      ext x { ll := true, d := q, b := false, mod := 7 } (x.mod % 4 == 0 || decide (15 < x.d) || hi x.a)
        (.nmpost x.h (x.mod % 4) (if q then some x.d else none) x.a)
  | 0x79 => len2 <| sub0 x <| ext x { ll := true, c := true, mod := 3, imm := immAll }
      (decide (7 < x.d) || hi x.a || hi x.b || hi x.c || decide (x.imm < 1 ∨ 4096 < x.imm))
      (.nmgather x.h (x.mod % 4) x.d x.a x.b x.c x.imm)
  | _ => .error .illfld

/-- The base forms of the group opcodes, LEN 0b00, and 0b01 where the map admits it (R10, R36). -/
def decodeBase (r : Raw) : Except Reject Instr :=
  let h := baseHdr r false
  let lit := h.form == .baseLit
  let d := bitsAt r.w0 14 6
  let a := bitsAt r.w0 8 6
  let i8 := bitsAt r.w0 0 8
  let i14 := bitsAt r.w0 0 14
  let len0 (k : Except Reject Instr) : Except Reject Instr := if lit then .error .illfld else k
  match opOf r.w0 with
  | 0x00 => len0 <| decodeHeader r
  | 0x01 => len0 <| baseN r .nop
  | 0x02 => len0 <| .ok (.bra h (sextNat 20 (bitsAt r.w0 0 20)))
  | 0x03 => len0 <| baseJP r .brany
  | 0x04 => len0 <| baseJP r .brall
  | 0x05 => len0 <| baseJP r .brnone
  | 0x06 => len0 <| .ok (.call h (sextNat 20 (bitsAt r.w0 0 20)))
  | 0x09 => len0 <| baseN r .ret
  | 0x0A => len0 <| baseN r .exit
  | 0x0B => len0 <| baseN r .yield
  | 0x0D => len0 <| baseN r .rte
  | 0x14 => base3R r .sadd .saddLong
  | 0x15 => if lit then judge (i14 != 0) false (.smoviLong h d (.lit r.lit)) else .ok (.smovi h d (sextNat 14 i14))
  | 0x16 =>
    if lit then judge (i8 != 0) false (.saddiLong h d a (.lit r.lit)) else .ok (.saddi h d a (sextNat 8 i8))
  | 0x1B => len0 <| judge false (!srReadable (sextNat 14 i14) false) (.sreadsr h d (sextNat 14 i14))
  | 0x1C => len0 <| judge false (!srWritable (sextNat 14 i14)) (.swritesr h d (sextNat 14 i14))
  | 0x28 => base3R r .vadd (fun h => .vaddLong h false false)
  | 0x29 =>
    if lit then judge (i8 != 0) false (.vaddiLong h d (.reg a) (.lit r.lit)) else .ok (.vaddi h d a (sextNat 8 i8))
  | 0x2D => if lit then judge (i14 != 0) false (.vmoviLong h d (.lit r.lit)) else .ok (.vmovi h d (sextNat 14 i14))
  | 0x30 => base3R r .vfadd (fun h => .vfaddLong h .f32 .rne)
  | 0x31 => base3R r .vfma (fun h d a b => .vfmaLong h .f32 .rne d a b (.reg d))
  | 0x40 => baseRM r true .ld .ldLong
  | 0x41 => baseRM r true .st .stLong
  | 0x42 => baseRM r false .lda .ldaLong
  | 0x43 => baseRM r false .sta .staLong
  | 0x46 => baseRMU r .ldu .lduLong
  | 0x47 => baseRMU r .stu .stuLong
  | _ => .error .illfld

/-- Opcodes that no row of R36 assigns (R37). -/
def unassignedOp (op : Nat) : Bool :=
  decide (op = 0x0E ∨ op = 0x0F ∨ op = 0x13 ∨ (0x1D ≤ op ∧ op ≤ 0x1F) ∨ op = 0x27 ∨ op = 0x2E ∨ op = 0x2F
    ∨ (0x39 ≤ op ∧ op ≤ 0x3F) ∨ (0x52 ≤ op ∧ op ≤ 0x57) ∨ op = 0x66 ∨ op = 0x67 ∨ 0x7A ≤ op)

/-- Opcodes of matrix-stream instructions (R38). -/
def streamOp (op : Nat) : Bool := decide (0x58 ≤ op ∧ op ≤ 0x65)

/-- Decode an instruction that a group fetches, in the order of R26. -/
def decodeGroup (r : Raw) : Except Reject Instr :=
  let op := opOf r.w0
  if unassignedOp op then .ok (.unassignedOpcode (BitVec.ofNat 32 r.w0))
  else if streamOp op then .error .illop
  else if lenOf r.w0 < 2 then decodeBase r else decodeExt r

/-! ### Matrix-stream opcodes -/

/-- Mask selectors of IMM32 (R195, R204). -/
def masksOf (x : XF) : Masks := ⟨bitsAt x.imm 0 3, bitsAt x.imm 4 3, bitsAt x.imm 8 3⟩

def masksBad (k : Masks) : Bool := decide (4 < k.mks) || decide (4 < k.nks) || decide (4 < k.kks)

/-- The extended matrix-stream instructions (R195, R196, R269). -/
def decodeStreamExt (r : Raw) : Except Reject Instr :=
  let x0 := extFields r
  -- DIST and FS must be zero (R196); a guard is a field value out of range (R16)
  let x := { x0 with guardBad := x0.guardBad || x0.h.dist != 0 }
  let k := masksOf x
  let len2 (e : Except Reject Instr) : Except Reject Instr := if x.isLit then .error .illfld else e
  let hi (n m : Nat) := decide (m < n)
  let odd (n : Nat) := n % 2 == 1
  let c32 := BitVec.ofNat 32 x.imm
  match opOf r.w0 with
  | 0x0A => len2 <| sub0 x <| ext x { d := false, a := false, b := false } x.gv (.exitExt x.h)
  | 0x58 => len2 <| sub0 x <| ext x { c := true, mod := 3, imm := 0x777 }
      (x.gv || hi x.d 15 || hi x.a 31 || hi x.b 63 || hi x.c 31 || odd x.c || masksBad k)
      (.mma x.d x.a x.b x.c (bitAt x.mod 0) (bitAt x.mod 1) k)
  | 0x59 => len2 <| sub0 x <| ext x { imm := 0x777 }
      (x.gv || hi x.d 31 || odd x.d || hi x.a 15 || hi x.b 31 || odd x.b || masksBad k || k.kks != 4)
      (.mdrain x.d x.a x.b k)
  | 0x5A => len2 <| sub0 x <|
      let mov := bitAt x.mod 0
      ext x { b := false, mod := 1, imm := 0x777 }
        (x.gv || hi x.d 15 || hi x.a (if mov then 15 else 31) || masksBad k || k.kks != 4) (.maccst x.d x.a mov k)
  | 0x5B => len2 <| sub0 x <| ext x { d := false, b := false } (x.gv || hi x.a 15) (.mwait x.a)
  | 0x5C => len2 <| sub0 x <| ext x { d := false, b := false, imm := immAll }
      (x.gv || hi x.a 15 || decide (x.imm < 1 ∨ 33 < x.imm)) (.msig x.a x.imm)
  | 0x5D =>
    match (match x.sub with | 0 => some MaskCls.mk | 1 => some .nk | 2 => some .kk | _ => none) with
    | none => .error .illop
    | some cls =>
      let n := bitAt x.mod 0
      let useA := !n && !x.isLit
      let lim := if cls = .kk then 256 else 128
      let al := if cls = .kk then 4 else 2
      ext x { a := useA, b := false, mod := 1, imm := if n then immAll else 0 }
        (x.gv || hi x.d 3 || (n && hi x.imm lim) || (useA && (hi x.a 31 || x.a % al != 0)))
        (.msetm cls x.d (match n, x.lit with
          | true, some c => .countLit x.imm c
          | true, none => .count x.imm
          | false, some c => .lit c
          | false, none => .reg x.a))
  | 0x5E => len2 <| sub0 x <|
      let mode := x.mod % 4
      ext x { a := mode != 1, b := false, mod := 3, imm := immAll }
        (x.gv || mode == 3 || hi x.d 31 || (mode == 0 && odd x.d) || hi x.a 31) (.mfmt mode x.d x.a c32)
  | 0x5F => len2 <| sub0 x <|
      let p := bitAt x.mod 0
      ext x { d := false, a := !p, b := false, mod := 1, imm := immAll }
        (x.gv || hi x.a 31 || (p && (decide (2 ^ 21 ≤ x.imm) || x.imm % 16 != 0))) (.munf p x.a c32)
  | 0x60 => len2 <| sub0 x <|
      let v := bitAt x.mod 0
      ext x { d := false, a := v, b := false, mod := 1, imm := if v then 0 else immAll } (x.gv || hi x.a 31)
        (.mloop v x.a c32)
  | 0x62 => len2 <| sub0 x <| ext x { b := false } (x.gv || hi x.d 3 || hi x.a 31) (.knotset x.d x.a)
  | 0x63 => len2 <| sub0 x <| ext x { c := true, imm := 0x707 }
      (x.gv || hi x.d 15 || hi x.a 15 || hi x.b 31 || hi x.c 31 || odd x.c || masksBad k) (.frder x.d x.a x.b x.c k)
  | 0x64 => len2 <| sub0 x <| ext x { c := true, imm := 0x777 }
      (x.gv || hi x.d 31 || hi x.a 15 || hi x.b 31 || hi x.c 31 || odd x.c || masksBad k) (.frgrad x.d x.a x.b x.c k)
  | 0x65 => len2 <| sub0 x <| ext x { c := true, imm := 0x13F }
      (x.gv || hi x.d 15 || hi x.a 63 || hi x.b 3 || hi x.c 3) (.frefine x.d x.a x.b x.c (x.imm % 64) (bitAt x.imm 8))
  | _ => .error .illfld

/-- The base matrix-stream words: NOP, EXIT and MEND (R38, R196). -/
def decodeStreamBase (r : Raw) : Except Reject Instr :=
  let rsv := distOf r.w0 != 0 || bitsAt r.w0 0 20 != 0
  if lenOf r.w0 = 1 then .error .illfld
  else match opOf r.w0 with
    | 0x01 => judge rsv false (.nop (baseHdr r false))
    | 0x0A => judge rsv false (.exit (baseHdr r false))
    | 0x61 => judge rsv false .mend
    | _ => .error .illfld

/-- Opcodes that a matrix stream admits (R38). -/
def streamAdmits (op : Nat) : Bool := decide (op = 0x01 ∨ op = 0x0A ∨ (0x58 ≤ op ∧ op ≤ 0x65))

/-- Decode an instruction that a matrix stream fetches (R38, R196). -/
def decodeStream (r : Raw) : Except Reject Instr :=
  let op := opOf r.w0
  if !streamAdmits op then .error .illop
  else if lenOf r.w0 < 2 then decodeStreamBase r
  else if op = 0x01 ∨ op = 0x61 then .error .illfld
  else decodeStreamExt r

/-! ### Rhizoid words -/

/-- Rhizoid fields (R335). -/
structure ZF where
  opc : Nat
  d : Nat
  a : Nat
  b : Nat
  c : Nat
  fn : Nat
  imm : Nat
  w : Nat
  r3 : Nat      -- bits 23:21
  r5 : Nat      -- bits 20:16

def zFields (w : Nat) : ZF :=
  { opc := bitsAt w 26 6, d := bitsAt w 21 5, a := bitsAt w 16 5, b := bitsAt w 11 5, c := bitsAt w 6 5,
    fn := bitsAt w 0 6, imm := bitsAt w 0 16, w := bitsAt w 24 2, r3 := bitsAt w 21 3, r5 := bitsAt w 16 5 }

/-- Decode an address-thread word (R335 to R337, R339 to R343). -/
def decodeZaddr (w : Nat) : Except Reject Instr :=
  let z := zFields w
  let i16 := BitVec.ofNat 16 z.imm
  let hi (n : Nat) := decide (15 < n)
  match z.opc with
  | 0x00 => judge (bitsAt w 0 26 != 0) false .zaend
  | 0x01 => judge (z.a != 0) (hi z.d) (.zalui z.d i16)
  | 0x02 => judge false (hi z.d || hi z.a) (.zaaddi z.d z.a i16)
  | 0x03 => judge (z.c != 0 || z.fn != 0) (hi z.d || hi z.a || hi z.b) (.zaadd z.d z.a z.b)
  | 0x04 => judge (z.d != 0 || z.r5 != 0) false (.zabra i16)
  | 0x05 => judge (z.r5 != 0) (hi z.d) (.zadbnz z.d i16)
  | 0x08 => judge (z.r3 != 0) (hi z.a) (.zld z.w z.a i16)
  | 0x09 => judge (z.r3 != 0) (hi z.a) (.zst z.w z.a i16)
  | 0x0A => judge (z.r3 != 0) (hi z.a) (.zlock z.w z.a i16)
  | 0x0B => judge (z.r3 != 0) (hi z.a) (.zunlk z.w z.a i16)
  | 0x0C => judge (bitsAt w 0 26 != 0) false .zunlkAll
  | 0x0D =>
    let word := bitAt z.fn 1
    judge (bitAt z.fn 0) (hi z.d || hi z.a || hi z.b || (word && decide (15 < z.c)))
      (.zwpair z.d z.a z.b (z.c + 1) (bitsAt z.fn 4 2) (bitsAt z.fn 2 2) word)
  | _ => .error .illop

/-- Decode an arithmetic-thread word (R335 to R337, R340, R344 to R347). -/
def decodeZarith (w : Nat) : Except Reject Instr :=
  let z := zFields w
  let i16 := BitVec.ofNat 16 z.imm
  let cf := z.c != 0 || z.fn != 0
  match z.opc with
  | 0x20 => judge (bitsAt w 0 26 != 0) false .zeend
  | 0x21 => judge (z.a != 0) false (.zelui z.d i16)
  | 0x22 => .ok (.zeori z.d z.a i16)
  | 0x23 => judge (z.d != 0 || z.r5 != 0) false (.zebra i16)
  | 0x24 => judge (z.r5 != 0) false (.zedbnz z.d i16)
  | 0x25 => judge (z.a != 0 || z.b != 0 || cf) (z.d != 0 && z.d != 16) (.zpop z.d)
  | 0x26 => judge (z.d != 0 || z.b != 0 || cf) (z.a != 0 && z.a != 16) (.zpush z.a)
  | 0x27 => judge (z.c != 0) (z.fn / 2 != 0) (.ziadd (bitAt z.fn 0) z.d z.a z.b)
  | 0x28 => judge cf (z.d % 2 == 1) (.zimulw z.d z.a z.b)
  | 0x29 => judge (z.c != 0 || z.fn / 4 != 0) false (.zdot8 (bitAt z.fn 0) (bitAt z.fn 1) z.d z.a z.b)
  | 0x2A => judge (z.c != 0 || z.fn / 4 != 0) false (.zdot4 (bitAt z.fn 0) (bitAt z.fn 1) z.d z.a z.b)
  | 0x2B =>
    let kind := z.fn % 4
    let k := bitsAt z.fn 2 3
    judge (bitAt z.fn 5) (kind == 3 || (kind == 0 && k != 0) || (kind == 1 && decide (3 < k)))
      (.zdq kind k z.d z.a z.b z.c)
  | 0x2C => judge cf false (.zfadd z.d z.a z.b)
  | 0x2D => judge cf false (.zfsub z.d z.a z.b)
  | 0x2E => judge cf false (.zfmul z.d z.a z.b)
  | 0x2F => judge (z.fn != 0) false (.zfma z.d z.a z.b z.c)
  | 0x30 => judge cf false (.zfmin z.d z.a z.b)
  | 0x31 => judge cf false (.zfmax z.d z.a z.b)
  | 0x32 => judge (z.b != 0 || cf) false (.zfsqrt z.d z.a)
  | 0x33 => judge (z.b != 0 || cf) false (.zfrsq z.d z.a)
  | 0x34 => judge (z.b != 0 || z.c != 0) (z.fn / 2 != 0) (.zunpk (bitAt z.fn 0) z.d z.a)
  | 0x35 => judge cf false (.zpack z.d z.a z.b)
  | _ => .error .illop

/-! ### From bytes -/

/-- The words of an instruction whose bytes follow one another from the base word on (R7). -/
def rawOfBytes (bs : List (BitVec 8)) : Raw :=
  let w0 := natOfBytes (bs.take 4)
  let w1 := natOfBytes ((bs.drop 4).take 4)
  let w2 := natOfBytes ((bs.drop 8).take 4)
  let w3 := natOfBytes ((bs.drop 12).take 4)
  let w4 := natOfBytes ((bs.drop 16).take 4)
  match lenOf w0 with
  | 0 => ⟨w0, 0, 0, 0⟩
  | 1 => ⟨w0, 0, 0, BitVec.ofNat 64 (w1 + 2 ^ 32 * w2)⟩
  | 2 => ⟨w0, w1, w2, 0⟩
  | _ => ⟨w0, w1, w2, BitVec.ofNat 64 (w3 + 2 ^ 32 * w4)⟩

/-- The instruction that the model's decoders read from a table word (little-endian bytes, bits above `nbits` zero).
A word of LEN 0b00 or 0b01 is read as a group's, then a matrix stream's, then a Rhizoid thread's; a word of LEN 0b10 or
0b11, which a group would continue past 32 bits, is read as an arithmetic thread's first when it has 32 bits. -/
def decodeTableWord (nbits w : Nat) : Option Instr :=
  let bs := bytesOfNat 20 (w % 2 ^ nbits)
  let r := rawOfBytes bs
  let orElse (a : Except Reject Instr) (b : Option Instr) : Option Instr :=
    match a with
    | .ok i => some i
    | .error _ => b
  let grp := orElse (decodeGroup r) (orElse (decodeStream r) none)
  let rhz := orElse (decodeZaddr r.w0) (orElse (decodeZarith r.w0) none)
  if nbits ≤ 32 ∧ 2 ≤ lenOf r.w0 then (match rhz with | some i => some i | none => grp)
  else (match grp with | some i => some i | none => rhz)

/-! ### The encoder -/

/-- LEN of a form (R7). -/
def lenCode : Form → Nat
  | .base => 0
  | .baseLit => 1
  | .ext => 2
  | .extLit => 3

/-- A base word with its low 20 bits, and the literal of LEN 0b01 (R6, R10, R12). -/
def encBase (h : Hdr) (op low : Nat) (lit : BitVec 64) : Raw :=
  ⟨lenCode h.form * 2 ^ 30 + h.dist * 2 ^ 27 + op * 2 ^ 20 + low, 0, 0, lit⟩

/-- GV, GN and GP in their places (R13). -/
def encGuard : Option Guard → Nat
  | none => 0
  | some g => 2 ^ 11 + bit g.neg * 2 ^ 10 + g.num * 2 ^ 7

/-- The words of an extended form (R13, R14). -/
def encExt (h : Hdr) (op sub mod d a b c imm : Nat) (lit : BitVec 64) : Raw :=
  ⟨lenCode h.form * 2 ^ 30 + h.dist * 2 ^ 27 + op * 2 ^ 20 + sub * 2 ^ 12 + encGuard h.guard + bit h.fs * 2 ^ 6 + mod,
   d * 2 ^ 24 + a * 2 ^ 16 + b * 2 ^ 8 + c, imm, lit⟩

/-- The register number of a source, zero where an immediate or literal replaces it (R14). -/
def Src.num : Src → Nat
  | .reg n => n
  | .imm _ => 0
  | .lit _ => 0

def Src.litBits : Src → BitVec 64
  | .lit c => c
  | .reg _ => 0
  | .imm _ => 0

def Src.immBits : Src → Nat
  | .imm c => c.toNat
  | .reg _ => 0
  | .lit _ => 0

def Src.isImm : Src → Bool
  | .imm _ => true
  | .reg _ => false
  | .lit _ => false

/-- A binary form whose last source may be a literal; only `sub` 0 has a base form with literal (R12, R36). -/
def encBin (h : Hdr) (op sub mod d a : Nat) (b : Src) : Raw :=
  match h.form with
  | .baseLit => encBase h op (d * 2 ^ 14 + a * 2 ^ 8) b.litBits
  | _ => encExt h op sub mod d a b.num 0 0 b.litBits

/-- A comparison: .imm sets MOD bit 0 (R66, R87, R91). -/
def encCmp (h : Hdr) (op sub mods d a : Nat) (b : Src) : Raw :=
  encExt h op sub (mods + bit b.isImm) d a b.num 0 b.immBits b.litBits

def enc3 (h : Hdr) (op d a b : Nat) : Raw := encBase h op (d * 2 ^ 14 + a * 2 ^ 8 + b * 4) 0

def encJP (h : Hdr) (op p : Nat) (neg : Bool) (off : Int) : Raw :=
  encBase h op (p * 2 ^ 17 + bit neg * 2 ^ 16 + fieldOf 16 off) 0

def encExtBr (h : Hdr) (op p : Nat) (neg : Bool) (off : Int) : Raw :=
  encExt h op 0 (bit neg) 0 p 0 0 (fieldOf 32 off) 0

def encSlide : Option Nat → Nat
  | none => 32
  | some k => k / 8

/-- The RM base forms (R10): an offset scaled by `size`, or the literal. -/
def encRM (h : Hdr) (op size d a : Nat) (off : Int) : Raw :=
  match h.form with
  | .baseLit => encBase h op (d * 2 ^ 14 + a * 2 ^ 8 + bit h.fs) (BitVec.ofInt 64 off)
  | _ => encBase h op (d * 2 ^ 14 + a * 2 ^ 8 + fieldOf 7 (off / size) * 2 + bit h.fs) 0

def amCode : AMode → Nat
  | .v => 0 | .sv => 1 | .sl => 2

/-- LD, ST, LDA, STA beyond their short base form (R103, R104). -/
def encLaneMem (h : Hdr) (op : Nat) (z : SizeCode) (o : Ord) (d : Nat) (m : MemArg) : Raw :=
  match h.form with
  | .baseLit => encRM h op 4 d m.base.num m.off
  | _ => encExt h op (sizeCode z) (amCode m.mode + m.sh * 4 + o.code * 16) d m.base.num m.idx o.scope
           (fieldOf 32 m.off) m.base.litBits

def encUniMem (h : Hdr) (op : Nat) (z : SizeCode) (o : Ord) (d : Nat) (a : Src) (off : Int) : Raw :=
  match h.form with
  | .baseLit => encRM h op 8 d a.num off
  | _ => encExt h op (sizeCode z) (o.code * 16) d a.num 0 o.scope (fieldOf 32 off) a.litBits

def atomCode (op : AOp) (wide : Bool) : Nat := 16 * bit wide + aopCode op

def frelCode : FRel → Nat
  | .rel r => relCode r
  | .ord => 6
  | .unord => 7

def encCopy (h : Hdr) (op mods d : Nat) (c : CopyArg) (imm : Nat) : Raw :=
  encExt h op 0 (mods + c.scope * 4 + bit c.ctr.isSome * 16) d c.lay c.coord (c.ctr.getD 0) imm 0

def copyImm (c : CopyArg) : Nat := fieldOf 16 c.c2 + fieldOf 16 c.c3 * 2 ^ 16

def shflCode : ShflMode → Nat
  | .idx => 0 | .up => 1 | .dn => 2 | .xor => 3

/-- The header of an extended matrix-stream word: DIST, FS and guard zero (R196). -/
def streamHdr (f : Form) : Hdr := ⟨f, 0, false, none⟩

def encMasks (k : Masks) : Nat := k.mks + k.nks * 16 + k.kks * 256

/-- A Rhizoid word in format ZR or ZI (R335). -/
def encZR (opc d a b c fn : Nat) : Nat := opc * 2 ^ 26 + d * 2 ^ 21 + a * 2 ^ 16 + b * 2 ^ 11 + c * 2 ^ 6 + fn

def encZI (opc d a : Nat) (i : BitVec 16) : Nat := opc * 2 ^ 26 + d * 2 ^ 21 + a * 2 ^ 16 + i.toNat

/-- A Rhizoid word in format ZM (R335). -/
def encZM (opc w a : Nat) (i : BitVec 16) : Nat := opc * 2 ^ 26 + w * 2 ^ 24 + a * 2 ^ 16 + i.toNat

/-- The word of a Rhizoid instruction (R335 to R347). -/
def encodeZ : Instr → Option Nat
  | .zaend => some 0
  | .zeend => some (encZR 0x20 0 0 0 0 0)
  | .zalui d c => some (encZI 0x01 d 0 c)
  | .zelui d c => some (encZI 0x21 d 0 c)
  | .zaaddi d a c => some (encZI 0x02 d a c)
  | .zeori d a c => some (encZI 0x22 d a c)
  | .zaadd d a b => some (encZR 0x03 d a b 0 0)
  | .zabra o => some (encZI 0x04 0 0 o)
  | .zebra o => some (encZI 0x23 0 0 o)
  | .zadbnz a o => some (encZI 0x05 a 0 o)
  | .zedbnz a o => some (encZI 0x24 a 0 o)
  | .zld w a o => some (encZM 0x08 w a o)
  | .zst w a o => some (encZM 0x09 w a o)
  | .zlock w a o => some (encZM 0x0A w a o)
  | .zunlk w a o => some (encZM 0x0B w a o)
  | .zunlkAll => some (encZR 0x0C 0 0 0 0 0)
  | .zwpair ap at' as n wp wt word => some (encZR 0x0D ap at' as (n - 1) (wp * 16 + wt * 4 + bit word * 2))
  | .zpop d => some (encZR 0x25 d 0 0 0 0)
  | .zpush a => some (encZR 0x26 0 a 0 0 0)
  | .ziadd sat d a b => some (encZR 0x27 d a b 0 (bit sat))
  | .zimulw d a b => some (encZR 0x28 d a b 0 0)
  | .zdot8 sat uns d a b => some (encZR 0x29 d a b 0 (bit sat + bit uns * 2))
  | .zdot4 sat uns d a b => some (encZR 0x2A d a b 0 (bit sat + bit uns * 2))
  | .zdq kind k d a b c => some (encZR 0x2B d a b c (kind + k * 4))
  | .zfadd d a b => some (encZR 0x2C d a b 0 0)
  | .zfsub d a b => some (encZR 0x2D d a b 0 0)
  | .zfmul d a b => some (encZR 0x2E d a b 0 0)
  | .zfma d a b c => some (encZR 0x2F d a b c 0)
  | .zfmin d a b => some (encZR 0x30 d a b 0 0)
  | .zfmax d a b => some (encZR 0x31 d a b 0 0)
  | .zfsqrt d a => some (encZR 0x32 d a 0 0 0)
  | .zfrsq d a => some (encZR 0x33 d a 0 0 0)
  | .zunpk hi d a => some (encZR 0x34 d a 0 0 (bit hi))
  | .zpack d a b => some (encZR 0x35 d a b 0 0)
  | _ => none

/-- The words of a matrix-stream instruction (R195, R196, R269), NOP and EXIT apart. -/
def encodeStream : Instr → Option Raw
  | .mma acc xa ws xf neg nacc k =>
    some (encExt (streamHdr .ext) 0x58 0 (bit neg + bit nacc * 2) acc xa ws xf (encMasks k) 0)
  | .mdrain xd acc xc k => some (encExt (streamHdr .ext) 0x59 0 0 xd acc xc 0 (encMasks k) 0)
  | .maccst acc src mov k => some (encExt (streamHdr .ext) 0x5A 0 (bit mov) acc src 0 0 (encMasks k) 0)
  | .mwait b => some (encExt (streamHdr .ext) 0x5B 0 0 0 b 0 0 0 0)
  | .msig b n => some (encExt (streamHdr .ext) 0x5C 0 0 0 b 0 0 n 0)
  | .msetm cls d src =>
    let sub := match cls with | .mk => 0 | .nk => 1 | .kk => 2
    some (match src with
      | .count n => encExt (streamHdr .ext) 0x5D sub 1 d 0 0 0 n 0
      | .countLit n c => encExt (streamHdr .extLit) 0x5D sub 1 d 0 0 0 n c
      | .reg x => encExt (streamHdr .ext) 0x5D sub 0 d x 0 0 0 0
      | .lit c => encExt (streamHdr .extLit) 0x5D sub 0 d 0 0 0 0 c)
  | .mfmt mode d a c => some (encExt (streamHdr .ext) 0x5E 0 mode d a 0 0 c.toNat 0)
  | .munf plain a c => some (encExt (streamHdr .ext) 0x5F 0 (bit plain) 0 a 0 0 c.toNat 0)
  | .mloop x a c => some (encExt (streamHdr .ext) 0x60 0 (bit x) 0 a 0 0 c.toNat 0)
  | .mend => some (encBase (streamHdr .base) 0x61 0 0)
  | .knotset d a => some (encExt (streamHdr .ext) 0x62 0 0 d a 0 0 0 0)
  | .frder accd acca xa xf k => some (encExt (streamHdr .ext) 0x63 0 0 accd acca xa xf (k.mks + k.kks * 256) 0)
  | .frgrad xd acca xa xf k => some (encExt (streamHdr .ext) 0x64 0 0 xd acca xa xf (encMasks k) 0)
  | .frefine accd ws kna knd i0 btr =>
    some (encExt (streamHdr .ext) 0x65 0 0 accd ws kna knd (i0 + bit btr * 256) 0)
  | _ => none

/-- The words of a group instruction (R10, R13, R79, R103, R195, R269, R353, R355). -/
def encodeGroup : Instr → Option Raw
  | .clauseHeader wait sa sb => some ⟨wait.toNat * 2 ^ 8 + sa.getD 15 * 2 ^ 4 + sb.getD 15, 0, 0, 0⟩
  | .nop h => some (encBase h 0x01 0 0)
  | .bra h off => some (encBase h 0x02 (fieldOf 20 off) 0)
  | .braExt h off => some (encExt h 0x02 0 0 0 0 0 0 (fieldOf 32 off) 0)
  | .brany h p neg off => some (encJP h 0x03 p neg off)
  | .branyExt h p neg off => some (encExtBr h 0x03 p neg off)
  | .brall h p neg off => some (encJP h 0x04 p neg off)
  | .brallExt h p neg off => some (encExtBr h 0x04 p neg off)
  | .brnone h p neg off => some (encJP h 0x05 p neg off)
  | .brnoneExt h p neg off => some (encExtBr h 0x05 p neg off)
  | .brx h a off => some (encExt h 0x07 0 0 0 a 0 0 (fieldOf 32 off) 0)
  | .call h off => some (encBase h 0x06 (fieldOf 20 off) 0)
  | .callExt h off sl => some (encExt h 0x06 0 (encSlide sl) 0 0 0 0 (fieldOf 32 off) 0)
  | .callx h a off sl => some (encExt h 0x08 0 (encSlide sl) 0 a 0 0 (fieldOf 32 off) 0)
  | .ret h => some (encBase h 0x09 0 0)
  | .exit h => some (encBase h 0x0A 0 0)
  | .exitExt h => some (encExt h 0x0A 0 0 0 0 0 0 0 0)
  | .yield h => some (encBase h 0x0B 0 0)
  | .trap h n => some (encExt h 0x0C 0 0 0 0 0 0 n 0)
  | .rte h => some (encBase h 0x0D 0 0)
  | .emrd h d => some (encExt h 0x10 0 0 d 0 0 0 0 0)
  | .emwr h a => some (encExt h 0x10 1 0 0 a 0 0 0 0)
  | .emand h p => some (encExt h 0x10 2 0 0 p 0 0 0 0)
  | .emor h p => some (encExt h 0x10 3 0 0 p 0 0 0 0)
  | .emandn h p => some (encExt h 0x10 4 0 0 p 0 0 0 0)
  | .emsetp h d => some (encExt h 0x10 5 0 d 0 0 0 0 0)
  | .elect h d => some (encExt h 0x11 0 0 d 0 0 0 0 0)
  | .pand h d a b => some (encExt h 0x12 0x0 0 d a b 0 0 0)
  | .por h d a b => some (encExt h 0x12 0x1 0 d a b 0 0 0)
  | .pxor h d a b => some (encExt h 0x12 0x2 0 d a b 0 0 0)
  | .pandn h d a b => some (encExt h 0x12 0x3 0 d a b 0 0 0)
  | .pnot h d a => some (encExt h 0x12 0x4 0 d a 0 0 0 0)
  | .pmov h d a => some (encExt h 0x12 0x5 0 d a 0 0 0 0)
  | .spand h d a b => some (encExt h 0x12 0x8 0 d a b 0 0 0)
  | .spor h d a b => some (encExt h 0x12 0x9 0 d a b 0 0 0)
  | .spxor h d a b => some (encExt h 0x12 0xA 0 d a b 0 0 0)
  | .spandn h d a b => some (encExt h 0x12 0xB 0 d a b 0 0 0)
  | .spnot h d a => some (encExt h 0x12 0xC 0 d a 0 0 0 0)
  | .spmov h d a => some (encExt h 0x12 0xD 0 d a 0 0 0 0)
  | .sadd h d a b => some (enc3 h 0x14 d a b)
  | .saddLong h d a b => some (encBin h 0x14 0x0 0 d a b)
  | .ssub h d a b => some (encExt h 0x14 0x1 0 d a b.num 0 0 b.litBits)
  | .smul h d a b => some (encExt h 0x14 0x2 0 d a b.num 0 0 b.litBits)
  | .smulh h sg d a b => some (encExt h 0x14 (if sg then 3 else 4) 0 d a b.num 0 0 b.litBits)
  | .sand h d a b => some (encExt h 0x14 0x5 0 d a b.num 0 0 b.litBits)
  | .sor h d a b => some (encExt h 0x14 0x6 0 d a b.num 0 0 b.litBits)
  | .sxor h d a b => some (encExt h 0x14 0x7 0 d a b.num 0 0 b.litBits)
  | .sandn h d a b => some (encExt h 0x14 0x8 0 d a b.num 0 0 b.litBits)
  | .sshl h d a b => some (encExt h 0x14 0x9 0 d a b.num 0 0 b.litBits)
  | .sshr h d a b => some (encExt h 0x14 0xA 0 d a b.num 0 0 b.litBits)
  | .ssar h d a b => some (encExt h 0x14 0xB 0 d a b.num 0 0 b.litBits)
  | .smin h sg d a b => some (encExt h 0x14 (if sg then 0xC else 0xD) 0 d a b.num 0 0 b.litBits)
  | .smax h sg d a b => some (encExt h 0x14 (if sg then 0xE else 0xF) 0 d a b.num 0 0 b.litBits)
  | .smovi h d c => some (encBase h 0x15 (d * 2 ^ 14 + fieldOf 14 c) 0)
  | .smoviLong h d c => some (match h.form with
      | .baseLit => encBase h 0x15 (d * 2 ^ 14) c.litBits
      | _ => encExt h 0x15 0 0 d 0 0 0 c.immBits c.litBits)
  | .saddi h d a c => some (encBase h 0x16 (d * 2 ^ 14 + a * 2 ^ 8 + fieldOf 8 c) 0)
  | .saddiLong h d a c => some (match h.form with
      | .baseLit => encBase h 0x16 (d * 2 ^ 14 + a * 2 ^ 8) c.litBits
      | _ => encExt h 0x16 0 0 d a 0 0 c.immBits c.litBits)
  | .slea h d a b sh c => some (encExt h 0x17 0 sh d a b.num 0 c.toNat b.litBits)
  | .sbfx h sg d a pos len => some (encExt h 0x18 (bit sg) 0 d a 0 0 (pos + (len - 1) * 256) 0)
  | .sbfi h d a pos len => some (encExt h 0x18 2 0 d a 0 0 (pos + (len - 1) * 256) 0)
  | .sclz h d a => some (encExt h 0x18 3 0 d a 0 0 0 0)
  | .spopc h d a => some (encExt h 0x18 4 0 d a 0 0 0 0)
  | .sbrev h d a => some (encExt h 0x18 5 0 d a 0 0 0 0)
  | .scmp h rel sg d a b => some (encCmp h 0x19 (relCode rel + (if sg then 0 else 8)) 0 d a b)
  | .ssel h d sp t f => some (encExt h 0x1A 0 0 d sp t f.num 0 f.litBits)
  | .sreadsr h d sr => some (encBase h 0x1B (d * 2 ^ 14 + fieldOf 14 sr) 0)
  | .sreadsrExt h vec d sr => some (encExt h 0x1B 0 (bit vec) d 0 0 0 sr.toNat 0)
  | .swritesr h a sr => some (encBase h 0x1C (a * 2 ^ 14 + fieldOf 14 sr) 0)
  | .swritesrExt h a sr => some (encExt h 0x1C 0 0 a 0 0 0 sr.toNat 0)
  | .shfl h m d a b c => some (encExt h 0x20 (shflCode m) 0 d a b 0 c 0)
  | .ballot h d p => some (encExt h 0x21 0 0 d p 0 0 0 0)
  | .readlane h d a l => some (encExt h 0x23 0 (bit l.isImm) d a l.num 0 l.immBits 0)
  | .writelane h d a l => some (encExt h 0x24 0 (bit l.isImm) d a l.num 0 l.immBits 0)
  | .lred h op d a => some (encExt h 0x22 (lredCode op) 0 d a 0 0 0 0)
  | .qpush h q s => some (encExt h 0x25 0 (bit s.isImm) q s.num 0 0 s.immBits 0)
  | .qpop h d q t => some (encExt h 0x26 0 (bit t.isSome) d q (t.getD 0) 0 0 0)
  | .vadd h d a b => some (enc3 h 0x28 d a b)
  | .vaddLong h sat n32 d a b => some (encBin h 0x28 0x00 (bit sat + bit n32 * 2) d a b)
  | .vsub h sat n32 d a b => some (encExt h 0x28 0x01 (bit sat + bit n32 * 2) d a b.num 0 0 b.litBits)
  | .vmul h d a b => some (encExt h 0x28 0x02 0 d a b.num 0 0 b.litBits)
  | .vmulh h sg d a b => some (encExt h 0x28 (if sg then 3 else 4) 0 d a b.num 0 0 b.litBits)
  | .vmad h d a b c => some (encExt h 0x28 0x05 0 d a b c.num 0 c.litBits)
  | .vand h d a b => some (encExt h 0x28 0x06 0 d a b.num 0 0 b.litBits)
  | .vor h d a b => some (encExt h 0x28 0x07 0 d a b.num 0 0 b.litBits)
  | .vxor h d a b => some (encExt h 0x28 0x08 0 d a b.num 0 0 b.litBits)
  | .vandn h d a b => some (encExt h 0x28 0x09 0 d a b.num 0 0 b.litBits)
  | .vnot h d a => some (encExt h 0x28 0x0A 0 d a.num 0 0 0 a.litBits)
  | .vshl h d a b => some (encExt h 0x28 0x0B 0 d a b.num 0 0 b.litBits)
  | .vshr h d a b => some (encExt h 0x28 0x0C 0 d a b.num 0 0 b.litBits)
  | .vsar h d a b => some (encExt h 0x28 0x0D 0 d a b.num 0 0 b.litBits)
  | .vmin h sg d a b => some (encExt h 0x28 (if sg then 0x0E else 0x0F) 0 d a b.num 0 0 b.litBits)
  | .vmax h sg d a b => some (encExt h 0x28 (if sg then 0x10 else 0x11) 0 d a b.num 0 0 b.litBits)
  | .vabs h sat d a => some (encExt h 0x28 0x12 (bit sat) d a.num 0 0 0 a.litBits)
  | .vneg h sat d a => some (encExt h 0x28 0x13 (bit sat) d a.num 0 0 0 a.litBits)
  | .vaddi h d a c => some (encBase h 0x29 (d * 2 ^ 14 + a * 2 ^ 8 + fieldOf 8 c) 0)
  | .vaddiLong h d a c => some (match h.form with
      | .baseLit => encBase h 0x29 (d * 2 ^ 14 + a.num * 2 ^ 8) c.litBits
      | _ => encExt h 0x29 0 0 d a.num 0 0 c.immBits a.litBits)
  | .vmov h d a => some (encExt h 0x2D 0 0 d a.num 0 0 0 a.litBits)
  | .vmovs h hi d a => some (encExt h 0x2D 1 (bit hi) d a.num 0 0 0 a.litBits)
  | .vmovi h d c => some (encBase h 0x2D (d * 2 ^ 14 + fieldOf 14 c) 0)
  | .vmoviLong h d c => some (match h.form with
      | .baseLit => encBase h 0x2D (d * 2 ^ 14) c.litBits
      | _ => encExt h 0x2D 2 0 d 0 0 0 c.immBits c.litBits)
  | .vbfx h sg d a pos len => some (encExt h 0x2A (bit sg) 0 d a 0 0 (pos + (len - 1) * 256) 0)
  | .vbfi h d a pos len => some (encExt h 0x2A 2 0 d a 0 0 (pos + (len - 1) * 256) 0)
  | .vclz h d a => some (encExt h 0x2A 3 0 d a 0 0 0 0)
  | .vpopc h d a => some (encExt h 0x2A 4 0 d a 0 0 0 0)
  | .vbrev h d a => some (encExt h 0x2A 5 0 d a 0 0 0 0)
  | .vprfx h incl d a b => some (encExt h 0x2A 6 (bit incl) d a b 0 0 0)
  | .vbmand h d p a b => some (encExt h 0x2A 7 0 d a b p 0 0)
  | .visect h d a b c => some (encExt h 0x2A 8 0 d a b c 0 0)
  | .vcmp h rel sg d a b => some (encCmp h 0x2B (relCode rel + (if sg then 0 else 8)) 0 d a b)
  | .vsel h d p t f => some (encExt h 0x2C 0 0 d p t f 0 0)
  | .vfadd h d a b => some (enc3 h 0x30 d a b)
  | .vfaddLong h f m d a b => some (encBin h 0x30 (8 * fclsCode f) (rmCode m) d a b)
  | .vfsub h f m d a b => some (encExt h 0x30 (8 * fclsCode f + 1) (rmCode m) d a b.num 0 0 b.litBits)
  | .vfmul h f m d a b => some (encExt h 0x30 (8 * fclsCode f + 2) (rmCode m) d a b.num 0 0 b.litBits)
  | .vfmin h f d a b => some (encExt h 0x30 (8 * fclsCode f + 3) 0 d a b.num 0 0 b.litBits)
  | .vfmax h f d a b => some (encExt h 0x30 (8 * fclsCode f + 4) 0 d a b.num 0 0 b.litBits)
  | .vfabs h f d a => some (encExt h 0x30 (8 * fclsCode f + 5) 0 d a.num 0 0 0 a.litBits)
  | .vfneg h f d a => some (encExt h 0x30 (8 * fclsCode f + 6) 0 d a.num 0 0 0 a.litBits)
  | .vfma h d a b => some (enc3 h 0x31 d a b)
  | .vfmaLong h f m d a b c => some (match h.form with
      | .baseLit => encBase h 0x31 (d * 2 ^ 14 + a * 2 ^ 8) b.litBits
      | _ => encExt h 0x31 (8 * fclsCode f) (rmCode m) d a b.num c.num 0 c.litBits)
  | .vfms h f m d a b c => some (encExt h 0x31 (8 * fclsCode f + 1) (rmCode m) d a b.num c.num 0 c.litBits)
  | .vfnma h f m d a b c => some (encExt h 0x31 (8 * fclsCode f + 2) (rmCode m) d a b.num c.num 0 c.litBits)
  | .vfcmp h f rel hi d a b => some (encCmp h 0x32 (8 * fclsCode f + frelCode rel) (bit hi * 2) d a b)
  | .vrcp h d a => some (encExt h 0x33 0 0 d a 0 0 0 0)
  | .vrsq h d a => some (encExt h 0x33 1 0 d a 0 0 0 0)
  | .vsqrt h d a => some (encExt h 0x33 2 0 d a 0 0 0 0)
  | .vexp2 h d a => some (encExt h 0x33 3 0 d a 0 0 0 0)
  | .vlog2 h d a => some (encExt h 0x33 4 0 d a 0 0 0 0)
  | .vsin h d a => some (encExt h 0x33 5 0 d a 0 0 0 0)
  | .vcos h d a => some (encExt h 0x33 6 0 d a 0 0 0 0)
  | .vtanh h d a => some (encExt h 0x33 7 0 d a 0 0 0 0)
  | .vsigm h d a => some (encExt h 0x33 8 0 d a 0 0 0 0)
  | .verf h d a => some (encExt h 0x33 9 0 d a 0 0 0 0)
  | .vcvt h dt st m sat satf d a sidx didx =>
    some (encExt h 0x34 (16 * tyCode dt + tyCode st) (rmCode m + bit sat * 8 + bit satf * 16) d a 0 0
      (didx + sidx * 256) 0)
  | .vcvtsr h dt satf d a b didx => some (encExt h 0x35 (16 * tyCode dt) (bit satf * 16) d a b 0 didx 0)
  | .rngfill h d n => some (encExt h 0x36 0 0 d 0 0 0 (n - 1) 0)
  | .scalecalc h g d a b c => some (encExt h 0x37 0 (bit g) d a b c 0 0)
  | .vquant h dt m d a b c didx => some (encExt h 0x38 (16 * tyCode dt) (rmCode m) d a b c didx 0)
  | .ld h d m => some (encRM h 0x40 4 d m.base.num m.off)
  | .ldLong h z o d m => some (encLaneMem h 0x40 z o d m)
  | .st h d m => some (encRM h 0x41 4 d m.base.num m.off)
  | .stLong h z o d m => some (encLaneMem h 0x41 z o d m)
  | .lda h d m => some (encRM h 0x42 4 d m.base.num m.off)
  | .ldaLong h z o d m => some (encLaneMem h 0x42 z o d m)
  | .sta h d m => some (encRM h 0x43 4 d m.base.num m.off)
  | .staLong h z o d m => some (encLaneMem h 0x43 z o d m)
  | .ldc h col d acc b c => some (encExt h 0x44 0 (bit col) d acc b.num 0 c.toNat b.litBits)
  | .stc h col d acc b c => some (encExt h 0x45 0 (bit col) d acc b.num 0 c.toNat b.litBits)
  | .ldu h d a off => some (encRM h 0x46 8 d a off)
  | .lduLong h z o d a off => some (encUniMem h 0x46 z o d a off)
  | .stu h d a off => some (encRM h 0x47 8 d a off)
  | .stuLong h z o d a off => some (encUniMem h 0x47 z o d a off)
  | .atom h op wide o d m b c =>
    some (encExt h 0x48 (atomCode op wide) (amCode m.mode + o.scope * 4 + o.code * 16) d m.base.num b.num c.num
      (fieldOf 32 m.off) (if op = .cas then c.litBits else b.litBits))
  | .red h op wide o m b =>
    some (encExt h 0x49 (atomCode op wide) (amCode m.mode + o.scope * 4 + o.code * 16) 0 m.base.num b.num 0
      (fieldOf 32 m.off) b.litBits)
  | .waita h rel n b64 acq sc d a b off =>
    some (encExt h 0x4A 0 (relCode rel + bit n * 8 + bit b64 * 16 + bit acq * 32) d a b.num sc (fieldOf 32 off)
      b.litBits)
  | .fenceAcq h sc => some (encExt h 0x4B sc 0 0 0 0 0 0 0)
  | .fenceRel h sc => some (encExt h 0x4B (4 + sc) 0 0 0 0 0 0 0)
  | .fenceSc h sc => some (encExt h 0x4B (8 + sc) 0 0 0 0 0 0 0)
  | .aliasf h => some (encExt h 0x4C 0 0 0 0 0 0 0 0)
  | .commitTeam h c => some (encExt h 0x4D 0 (bit c.isSome) 0 (c.getD 0) 0 0 0 0)
  | .commitGrid h c => some (encExt h 0x4D 1 (bit c.isSome) 0 (c.getD 0) 0 0 0 0)
  | .commitPod h c => some (encExt h 0x4D 2 (bit c.isSome) 0 (c.getD 0) 0 0 0 0)
  | .bararv h b n => some (encExt h 0x4E 0 0 0 b 0 0 n 0)
  | .barwt h b => some (encExt h 0x4E 1 0 0 b 0 0 0 0)
  | .barsync h b n => some (encExt h 0x4E 2 0 0 b 0 0 n 0)
  | .cwaitge h acq sc d a b off => some (encExt h 0x4F 0 (sc + bit acq * 4) d a b.num 0 (fieldOf 32 off) b.litBits)
  | .cadd h rel poison sc a b off =>
    some (encExt h 0x50 0 (sc + bit rel * 4 + bit poison * 8) 0 a b.num 0 (fieldOf 32 off) b.litBits)
  | .ratom h op wide q a b c off =>
    some (encExt h 0x51 (atomCode op wide) 0 q a b.num c.num (fieldOf 32 off)
      (if op = .cas then c.litBits else b.litBits))
  | .copy h mode d side c => some (encCopy h 0x68 (mode + bit side * 32) d c (copyImm c))
  | .copym h ws side m c => some (encCopy h 0x69 (bit side * 32) ws c (m.toNat + fieldOf 16 c.c2 * 2 ^ 16))
  | .copyp h mode d srca c => some (encCopy h 0x6A (mode + bit srca * 32) d c (copyImm c))
  | .copyh h mode d c => some (encCopy h 0x6B mode d c (copyImm c))
  | .cbatch h d => some (encExt h 0x6C 0 0 d 0 0 0 0 0)
  | .cwaitb h d n => some (encExt h 0x6D 0 (bit n.isImm) d n.num 0 0 n.immBits 0)
  | .aexport h d a b => some (encExt h 0x6E 0 0 d a b 0 0 0)
  | .aexportRev h a => some (encExt h 0x6E 0 1 0 a 0 0 0 0)
  | .opfence h => some (encExt h 0x6F 0 0 0 0 0 0 0 0)
  | .collAr h ty sc a => some (encExt h 0x70 0 (ty + sc * 4) 0 a 0 0 0 0)
  | .collRs h ty sc a => some (encExt h 0x70 1 (ty + sc * 4) 0 a 0 0 0 0)
  | .collAg h ty sc a => some (encExt h 0x70 2 (ty + sc * 4) 0 a 0 0 0 0)
  | .collBc h ty sc a => some (encExt h 0x70 3 (ty + sc * 4) 0 a 0 0 0 0)
  | .fmtsel h b d a t => some (encExt h 0x71 0 (bit b) d a t 0 0 0)
  | .revm h => some (encExt h 0x72 0 0 0 0 0 0 0 0)
  | .fwdm h => some (encExt h 0x73 0 0 0 0 0 0 0 0)
  | .tapemark h d => some (encExt h 0x74 0 0 d 0 0 0 0 0)
  | .tapemarkCut h a => some (encExt h 0x74 0 1 0 a 0 0 0 0)
  | .tapespill h d a => some (encExt h 0x74 1 0 d a 0 0 0 0)
  | .tapefill h a b => some (encExt h 0x74 2 0 0 a b 0 0 0)
  | .dirins h d key loc dens => some (encExt h 0x75 0 0 d key loc.num 0 dens.toNat loc.litBits)
  | .dirdel h d a => some (encExt h 0x75 1 0 d a.num 0 0 0 a.litBits)
  | .dirmove h d a core loc => some (encExt h 0x75 2 0 d a core loc.num 0 loc.litBits)
  | .dirlook h mode d a b =>
    some (encExt h 0x75 3 mode d a.num b.num 0 0 (if mode = 2 then b.litBits else a.litBits))
  | .solicit h op pod q a => some (encExt h 0x76 0 (op + bit pod * 8) q a.num 0 0 0 a.litBits)
  | .respond h a => some (encExt h 0x77 0 0 0 a 0 0 0 0)
  | .nmpost h sc q a => some (encExt h 0x78 0 (sc + bit q.isSome * 4) (q.getD 0) a 0 0 0 0)
  | .nmgather h esz d a b c n => some (encExt h 0x79 0 esz d a b c n 0)
  | .unassignedOpcode w => some ⟨w.toNat, 0, 0, 0⟩
  | _ => none

/-- The words of a raw instruction in address order (R7). -/
def wordsOf (r : Raw) : List Word :=
  let w (n : Nat) := BitVec.ofNat 32 n
  match lenOf r.w0 with
  | 0 => [w r.w0]
  | 1 => [w r.w0, w r.lit.toNat, w (r.lit.toNat / 2 ^ 32)]
  | 2 => [w r.w0, w r.ow, w r.iw]
  | _ => [w r.w0, w r.ow, w r.iw, w r.lit.toNat, w (r.lit.toNat / 2 ^ 32)]

/-- The words of an instruction; an event has none. -/
def encode (i : Instr) : List Word :=
  match encodeGroup i with
  | some r => wordsOf r
  | none =>
    match encodeStream i with
    | some r => wordsOf r
    | none =>
      match encodeZ i with
      | some w => [BitVec.ofNat 32 w]
      | none => []

end Sys2Proof
end

