-- ==== Sys2Proof/Config.lean ====
section
/-!
DEFINITION. What the spec leaves to the implementation, and the free values: constants with no body, so that no
proof can know what they are. Each is named in the assumption log.
-/

namespace Sys2Proof.Config

/-- A free 32-bit value for lane `lane`, at a plain counter of the state (R5 'undefined value'; log entry 1). -/
opaque freeLane (count lane : Nat) : BitVec 32

/-- A free 64-bit value at a plain counter of the state (R5 'undefined value'; log entry 1). -/
opaque freeDword (count : Nat) : BitVec 64

/-- A free byte at a plain counter of the state and an index (R5 'undefined value'; log entry 1). -/
opaque freeByte (count index : Nat) : BitVec 8

/-- A free bit at a plain counter of the state (R5 'undefined value'; log entry 1). -/
opaque freeBit (count : Nat) : Bool

/-- The functions whose results the spec calls faithful (R92, R227, R250): one of the two FP32 values that bracket
the exact result, the same at every execution. -/
inductive Faithful where
  | rsq | exp2 | log2 | sin | cos | tanh | sigm | erf
  | gelu | silu | gelu' | silu' | sigm' | tanh'
  deriving DecidableEq, Repr

/-- Whether the faithful result of `f` at the input bits `x` is the upper of the two bracketing values
(R92: one of the two, the same for a given input at every issue; log entry 2). -/
opaque faithfulUp (f : Faithful) (x : BitVec 32) : Bool

/-- The HBM channel that the device's hashed interleave gives a 2 KiB block of an ordinary page, by its number (R1, R155,
R364; log entry 3). -/
opaque ordinaryChannel (block : Nat) : Nat

/-- The DRAM row within its channel of a physical address of an ordinary page (R161, R364; log entry 3). -/
opaque ordinaryRow (pa : Nat) : Nat

/-- The bank within its channel of a physical address of an ordinary page (R364, R366; log entry 3). -/
opaque ordinaryBank (pa : Nat) : Nat

/-- The pseudo-channel-contiguous frames of compute-capable pages: the channel of a 2 MiB frame (R362; log entry 3). -/
opaque frameChannel (frame : Nat) : Nat

/-- The pseudo-channel of that channel in which the frame lies (R362, R364; log entry 3). -/
opaque framePseudo (frame : Nat) : Bool

/-- The number of the frame within its pseudo-channel (R364; log entry 3). -/
opaque frameIndex (frame : Nat) : Nat

/-- The port a flow takes: a hash of source unit, destination device and kind (R418; log entry 3). -/
opaque flowPort (src dst kind : Nat) : Nat

/-- What follows the index in the XMSS signature over a message at a leaf, by the key pair of a public key: randomiser,
WOTS+ chains and authentication nodes (R421, R422; log entry 4). -/
opaque xmssSign (key : List (BitVec 8)) (leaf : Nat) (msg : List (BitVec 8)) : List (BitVec 8)

/-- Keazor's root public key (R421; log entry 4). -/
opaque rootKey : List (BitVec 8)

/-- The device's attestation public key (R422; log entry 4). -/
opaque attestKey : List (BitVec 8)

/-- The SHAKE256 digest, 32 bytes (R421, R422; log entry 4). -/
opaque shake256 (msg : List (BitVec 8)) : List (BitVec 8)

/-- The KMAC256 tag of a mark record under the mark key (R423, R424; log entry 4). -/
opaque kmac256 (key : Nat) (msg : List (BitVec 8)) : List (BitVec 8)

/-- The device's fused serial, 16 bytes (R422; log entry 4). -/
opaque serial : List (BitVec 8)

/-- Where a group's undo ring begins in the owner's debug area, by its team and its number in it: the spec names the area
and not the places of the rings in it (R405; log entry 10). -/
opaque undoRing (team gid : Nat) : Nat

/-- L1 and instruction-cache line size in bytes: the spec names lines and gives no size (R177; log entry 5). -/
def lineBytes : Nat := 64

/-- Cores of the device (R68). -/
def cores : Nat := 768

/-- Clusters of the device (R68, R325). -/
def clusters : Nat := 96

/-- HBM channels of the device (R1). -/
def channels : Nat := 512

/-- Bytes of a channel's spill region (R160). -/
def spillBytes : Nat := 2 ^ 23

/-- The first physical address beyond those that can be mapped: of each channel's 2 GiB, 2,040 MiB (R1, R160, R362). -/
def mappable : Nat := channels * (2 ^ 31 - spillBytes)

/-- The physical address of a channel's spill region (R160): the regions lie above what can be mapped, in the order of the
channels, up to 1 TiB (R1; log entry 3). -/
def spillAt (ch : Nat) : Nat := mappable + ch * spillBytes

end Sys2Proof.Config
end

