-- ==== Sys2Proof/Machine/Formats.lean ====
section
/-!
DEFINITION. Number formats, rounding, flushing and the exact arithmetic that every unit uses (R88 to R100, R223 to
R235).
-/

namespace Sys2Proof.Machine

/-- The special exponents of a format (R224): infinities and NaNs, the two NaNs of E4M3, or none. -/
inductive Special where
  | ieee | e4m3 | none
  deriving DecidableEq, Repr

/-- A floating-point format: exponent bits, mantissa bits, bias and special values (R223, R224). -/
structure Fmt where
  eb : Nat
  mb : Nat
  bias : Nat
  sp : Special
  deriving DecidableEq, Repr

def fmtF32 : Fmt := ⟨8, 23, 127, .ieee⟩
def fmtF16 : Fmt := ⟨5, 10, 15, .ieee⟩
def fmtBf16 : Fmt := ⟨8, 7, 127, .ieee⟩
def fmtE5m2 : Fmt := ⟨5, 2, 15, .ieee⟩
def fmtE4m3 : Fmt := ⟨4, 3, 7, .e4m3⟩
def fmtE2m1 : Fmt := ⟨2, 1, 1, .none⟩
def fmtE3m5 : Fmt := ⟨3, 5, 3, .none⟩

/-- The format of a float element type; integer types are not read through it. -/
def fmtOf : Ty → Fmt
  | .f16 => fmtF16
  | .bf16 => fmtBf16
  | .e4m3 => fmtE4m3
  | .e5m2 => fmtE5m2
  | .e2m1 => fmtE2m1
  | .f32 | .i32 | .n32 | .i8 | .n8 | .i4 | .n4 | .i64 | .n64 => fmtF32

def fclsTy : FCls → Ty
  | .f32 => .f32 | .f16 => .f16 | .bf16 => .bf16

/-- The weight of the sign bit. -/
def Fmt.signBit (f : Fmt) : Nat := 2 ^ (f.eb + f.mb)

/-- The all-ones exponent field. -/
def Fmt.topE (f : Fmt) : Nat := 2 ^ f.eb - 1

/-- The code of the largest finite value (R224). -/
def Fmt.maxCode (f : Fmt) : Nat :=
  match f.sp with
  | .ieee => f.topE * 2 ^ f.mb - 1
  | .e4m3 => f.topE * 2 ^ f.mb + 2 ^ f.mb - 2
  | .none => f.topE * 2 ^ f.mb + 2 ^ f.mb - 1

/-- The code of infinity where the format has one. -/
def Fmt.infCode (f : Fmt) : Nat := f.topE * 2 ^ f.mb

/-- The canonical NaN (R88, R224). -/
def Fmt.nan (f : Fmt) : Nat :=
  match f.sp with
  | .ieee => f.topE * 2 ^ f.mb + 2 ^ (f.mb - 1)
  | .e4m3 => f.topE * 2 ^ f.mb + 2 ^ f.mb - 1
  | .none => 0

/-- What a code stands for: a NaN, an infinity, or the exact value ± m · 2^e (R223, R224). -/
inductive FV where
  | nan (neg sig : Bool)
  | inf (neg : Bool)
  | fin (neg : Bool) (m : Nat) (e : Int)
  deriving DecidableEq, Repr

/-- Read a code; `flush` reads a subnormal as zero of its sign (R88, R223, R224). -/
def unpack (f : Fmt) (flush : Bool) (x : Nat) : FV :=
  let neg := bitAt x (f.eb + f.mb)
  let e := bitsAt x f.mb f.eb
  let m := bitsAt x 0 f.mb
  let ordinary : FV :=
    if e = 0 then .fin neg (if flush then 0 else m) (1 - f.bias - f.mb)
    else .fin neg (m + 2 ^ f.mb) (e - f.bias - f.mb)
  match f.sp with
  | .ieee =>
    if e = f.topE then
      if m = 0 then .inf neg else .nan neg (m < 2 ^ (f.mb - 1))
    else ordinary
  | .e4m3 => if e = f.topE ∧ m = 2 ^ f.mb - 1 then .nan neg false else ordinary
  | .none => ordinary

/-- Round the magnitude m · 2^e to a quantum 2^t (R226). -/
def roundAt (md : RMode) (neg : Bool) (m : Nat) (e t : Int) : Nat :=
  if t ≤ e then m * 2 ^ (e - t).toNat
  else
    let k := (t - e).toNat
    let q := m / 2 ^ k
    let r := m % 2 ^ k
    let up : Bool := match md with
      | .rne => decide (2 ^ k < 2 * r) || (2 * r == 2 ^ k && q % 2 == 1)
      | .rtz => false
      | .rup => r != 0 && !neg
      | .rdn => r != 0 && neg
    q + bit up

/-- The quantum exponent of the binade that holds m · 2^e (R223, R226). -/
def quantum (f : Fmt) (m : Nat) (e : Int) : Int := max (Nat.log2 m + e) (1 - f.bias) - f.mb

/-- The code of a magnitude q · 2^t, q at most 2^(mb + 1), at a quantum of the format; codes above `maxCode` overflow. -/
def codeOf (f : Fmt) (q : Nat) (t : Int) : Nat :=
  let t' := (t + f.mb + f.bias - 1).toNat
  -- at the lowest quantum t' is 0 and q is its own code; a carry into the next binade adds up
  q + t' * 2 ^ f.mb

/-- Round ± m · 2^e once to a format: overflow by R88, or the largest finite value with `satf`, and in E4M3 and E2M1
always the largest finite value (R95, R226); `fout` replaces a subnormal result by zero (R88). -/
def pack (f : Fmt) (md : RMode) (satf fout neg : Bool) (m : Nat) (e : Int) : Nat :=
  let s := bit neg * f.signBit
  if m = 0 then s
  else
    let t := quantum f m e
    let c := codeOf f (roundAt md neg m e t) t
    if f.maxCode < c then
      let toMax : Bool := f.sp != .ieee || satf || (match md with
        | .rne => false | .rtz => true | .rup => neg | .rdn => !neg)
      s + (if toMax then f.maxCode else f.infCode)
    else if fout && decide (c < 2 ^ f.mb) then s
    else s + c

/-- A code with sign `neg` of infinity: in E4M3 and E2M1 the largest finite value (R95). -/
def packInf (f : Fmt) (neg : Bool) : Nat :=
  bit neg * f.signBit + (if f.sp = .ieee then f.infCode else f.maxCode)

/-- A result with its invalid mark. -/
structure FRes where
  x : Nat
  inv : Bool
  deriving DecidableEq, Repr

def FV.isNan : FV → Bool
  | .nan _ _ => true
  | .inf _ => false
  | .fin _ _ _ => false

def FV.isSig : FV → Bool
  | .nan _ s => s
  | .inf _ => false
  | .fin _ _ _ => false

def FV.neg : FV → FV
  | .nan n s => .nan (!n) s
  | .inf n => .inf (!n)
  | .fin n m e => .fin (!n) m e

/-- The signed integer multiple of 2^e0 that a finite value is, for an e0 at most its exponent. -/
def scaled (neg : Bool) (m : Nat) (e e0 : Int) : Int :=
  let v : Int := m * 2 ^ (e - e0).toNat
  if neg then -v else v

/-- The exact sum of two finite values; a zero sum has the sign R88 gives it. -/
def addFin (md : RMode) (n1 : Bool) (m1 : Nat) (e1 : Int) (n2 : Bool) (m2 : Nat) (e2 : Int) : Bool × Nat × Int :=
  let e0 := min e1 e2
  let v := scaled n1 m1 e1 e0 + scaled n2 m2 e2 e0
  if v = 0 then
    (if m1 = 0 ∧ m2 = 0 ∧ n1 = n2 then n1 else md == .rdn, 0, e0)
  else (decide (v < 0), v.natAbs, e0)

/-- Round a sum of two values (R88). -/
def sumV (f : Fmt) (md : RMode) (fout : Bool) (a b : FV) : FRes :=
  match a, b with
  | .nan _ s, y => ⟨f.nan, s || y.isSig⟩
  | x, .nan _ s => ⟨f.nan, s || x.isSig⟩
  | .inf n, .inf k => if n = k then ⟨packInf f n, false⟩ else ⟨f.nan, true⟩
  | .inf n, .fin _ _ _ => ⟨packInf f n, false⟩
  | .fin _ _ _, .inf k => ⟨packInf f k, false⟩
  | .fin n1 m1 e1, .fin n2 m2 e2 =>
    let r := addFin md n1 m1 e1 n2 m2 e2
    ⟨pack f md false fout r.1 r.2.1 r.2.2, false⟩

/-- The exact product of two values, and whether it is 0 × ∞ (R88). -/
def mulV : FV → FV → FV × Bool
  | .nan n s, y => (.nan n (s || y.isSig), false)
  | x, .nan n s => (.nan n (s || x.isSig), false)
  | .inf n, .inf k => (.inf (n != k), false)
  | .inf n, .fin k m _ => if m = 0 then (.nan false false, true) else (.inf (n != k), false)
  | .fin n m _, .inf k => if m = 0 then (.nan false false, true) else (.inf (n != k), false)
  | .fin n1 m1 e1, .fin n2 m2 e2 => (.fin (n1 != n2) (m1 * m2) (e1 + e2), false)

/-- Round a value to a format (R88). -/
def packV (f : Fmt) (md : RMode) (fout : Bool) : FV → FRes
  | .nan _ s => ⟨f.nan, s⟩
  | .inf n => ⟨packInf f n, false⟩
  | .fin n m e => ⟨pack f md false fout n m e, false⟩

/-- round(a + b) on codes (R89). -/
def fAdd (f : Fmt) (md : RMode) (fin fout : Bool) (a b : Nat) : FRes :=
  sumV f md fout (unpack f fin a) (unpack f fin b)

/-- round(a − b) on codes (R89). -/
def fSub (f : Fmt) (md : RMode) (fin fout : Bool) (a b : Nat) : FRes :=
  sumV f md fout (unpack f fin a) (unpack f fin b).neg

/-- round(a × b) on codes (R89). -/
def fMul (f : Fmt) (md : RMode) (fin fout : Bool) (a b : Nat) : FRes :=
  let p := mulV (unpack f fin a) (unpack f fin b)
  let r := packV f md fout p.1
  ⟨r.x, r.inv || p.2⟩

/-- round(± a × b ± c) on codes, one rounding (R90). 0 × ∞ is invalid whatever c is (R88). -/
def fFma (f : Fmt) (md : RMode) (negP negC fin fout : Bool) (a b c : Nat) : FRes :=
  let p := mulV (unpack f fin a) (unpack f fin b)
  let pv := if negP then p.1.neg else p.1
  let cv := unpack f fin c
  let r := sumV f md fout pv (if negC then cv.neg else cv)
  ⟨r.x, r.inv || p.2⟩

/-- Numbers ordered as values: negative, zero or positive as the first is below, equal to or above the second. -/
def cmpV : FV → FV → Int
  | .inf n, .inf k => (if n then -1 else 1) - (if k then -1 else 1)
  | .inf n, _ => if n then -1 else 1
  | _, .inf k => if k then 1 else -1
  | .fin n1 m1 e1, .fin n2 m2 e2 => scaled n1 m1 e1 (min e1 e2) - scaled n2 m2 e2 (min e1 e2)
  | _, _ => 0

/-- Whether a read value counts as zero with sign. -/
def FV.sign : FV → Bool
  | .nan n _ => n
  | .inf n => n
  | .fin n _ _ => n

/-- A code as read: a flushed subnormal is zero of its sign (R89). -/
def asRead (f : Fmt) (flush : Bool) (x : Nat) : Nat :=
  match unpack f flush x with
  | .fin n 0 _ => bit n * f.signBit
  | _ => x % (2 * f.signBit)

/-- The smaller or the larger operand as read (R89). -/
def fMinMax (f : Fmt) (isMax fin : Bool) (a b : Nat) : Nat :=
  let x := unpack f fin a
  let y := unpack f fin b
  let pick (first : Bool) : Nat := if first then asRead f fin a else asRead f fin b
  match x.isNan, y.isNan with
  | true, true => f.nan
  | true, false => pick false
  | false, true => pick true
  | false, false =>
    let c := cmpV x y
    let below : Bool := decide (c < 0) || (c == 0 && x.sign && !y.sign)     -- a below b, −0 below +0
    if c == 0 && x.sign == y.sign then pick true
    else pick (below != isMax)

/-- The smaller or the larger operand; a signalling NaN is an invalid operation (R88, R89). -/
def fExtreme (f : Fmt) (isMax fin : Bool) (a b : Nat) : FRes :=
  ⟨fMinMax f isMax fin a b, (unpack f fin a).isSig || (unpack f fin b).isSig⟩

/-- A relation on values (R40). -/
def relInt (r : Rel) (c : Int) : Bool :=
  match r with
  | .eq => c == 0
  | .ne => c != 0
  | .lt => decide (c < 0)
  | .le => decide (c ≤ 0)
  | .gt => decide (0 < c)
  | .ge => decide (0 ≤ c)

/-- VFCMP on codes (R91). -/
def fCmp (f : Fmt) (r : FRel) (fin : Bool) (a b : Nat) : Bool × Bool :=
  let x := unpack f fin a
  let y := unpack f fin b
  let nan := x.isNan || y.isNan
  let v : Bool := match r with
    | .ord => !nan
    | .unord => nan
    | .rel .ne => nan || relInt .ne (cmpV x y)
    | .rel k => !nan && relInt k (cmpV x y)
  (v, x.isSig || y.isSig)

/-! ### Flush controls -/

/-- The FMODE class of an element width (R95, R228): class 0 4-bit, 1 8-bit, 2 16-bit, 3 32-bit. -/
def fmodeClass (bits : Nat) : Nat := if bits = 4 then 0 else if bits = 8 then 1 else if bits = 16 then 2 else 3

/-- Flush-inputs of an FMODE value for a width (R68). -/
def flushIn (fmode : BitVec 8) (bits : Nat) : Bool := fmode.getLsbD (2 * fmodeClass bits)

/-- Flush-results of an FMODE value for a width (R68). -/
def flushOut (fmode : BitVec 8) (bits : Nat) : Bool := fmode.getLsbD (2 * fmodeClass bits + 1)

/-! ### Integers -/

/-- The range of an integer type (R225). -/
def intRange (t : Ty) : Int × Int :=
  match t with
  | .i32 | .i8 | .i4 | .i64 => (-(2 ^ (tyBits t - 1)), 2 ^ (tyBits t - 1) - 1)
  | _ => (0, 2 ^ tyBits t - 1)

/-- The value of an integer code (R225). -/
def intVal (t : Ty) (x : Nat) : Int :=
  match t with
  | .i32 | .i8 | .i4 | .i64 => sextNat (tyBits t) (x % 2 ^ tyBits t)
  | _ => (x % 2 ^ tyBits t : Nat)

/-- Clamp to a range, and whether that changed the value. -/
def clampI (r : Int × Int) (v : Int) : Int × Bool :=
  if v < r.1 then (r.1, true) else if r.2 < v then (r.2, true) else (v, false)

/-- A result with its status marks. -/
structure CRes where
  x : Nat
  inv : Bool
  sati : Bool
  deriving DecidableEq, Repr

/-- The nearest integer of ± m · 2^e in a mode (R95). -/
def roundInt (md : RMode) (neg : Bool) (m : Nat) (e : Int) : Int :=
  let q : Int := roundAt md neg m e 0
  if neg then -q else q

/-- VCVT of one element (R95). -/
def convert (dt st : Ty) (md : RMode) (sat satf fin fout : Bool) (x : Nat) : CRes :=
  if tyIsInt st then
    let v := intVal st x
    if tyIsInt dt then
      let c := clampI (intRange dt) v
      if sat then ⟨fieldOf (tyBits dt) c.1, false, c.2⟩ else ⟨fieldOf (tyBits dt) v, false, false⟩
    else ⟨pack (fmtOf dt) md satf fout (v < 0) v.natAbs 0, false, false⟩
  else
    match unpack (fmtOf st) fin x with
    | .nan n s =>
      if tyIsInt dt then ⟨0, true, false⟩
      else if dt = .e2m1 then ⟨0, true, false⟩
      else if dt = .e4m3 then ⟨bit n * 0x80 + 0x7F, s, false⟩
      else ⟨(fmtOf dt).nan, s, false⟩
    | .inf n =>
      if tyIsInt dt then ⟨fieldOf (tyBits dt) (if n then (intRange dt).1 else (intRange dt).2), false, true⟩
      else ⟨packInf (fmtOf dt) n, false, false⟩
    | .fin n m e =>
      if tyIsInt dt then
        let c := clampI (intRange dt) (roundInt md n m e)
        ⟨fieldOf (tyBits dt) c.1, false, c.2⟩
      else ⟨pack (fmtOf dt) md satf fout n m e, false, false⟩

/-- VCVTSR of one element with 32 random bits (R96). -/
def convertSr (dt : Ty) (satf fin fout : Bool) (x rnd : Nat) : CRes :=
  match unpack fmtF32 fin x with
  | .fin n m e =>
    let f := fmtOf dt
    if m = 0 then ⟨bit n * f.signBit, false, false⟩
    else
      let t := quantum f m e
      let q := roundAt .rtz n m e t
      -- u < ρ: rnd · 2^t < (|x| − q · 2^t) · 2^32, in units of 2^(min e t)
      let e0 := min e t
      let big := m * 2 ^ (e - e0).toNat
      let low := q * 2 ^ (t - e0).toNat
      let up := decide (rnd * 2 ^ (t - e0).toNat < (big - low) * 2 ^ 32)
      ⟨pack f .rne satf fout n (q + bit up) t, false, false⟩
  | _ => convert dt .f32 .rtz false satf fin fout x

/-- Divide magnitudes: a quotient with 64 bits to spare below the precision of any format, its lowest bit marking a
remainder, so that one rounding of it is the rounding of the exact quotient. -/
def quot (m1 : Nat) (e1 : Int) (m2 : Nat) (e2 : Int) : Nat × Int :=
  let k := Nat.log2 m2 + 64
  let n := m1 * 2 ^ k
  (2 * (n / m2) + bit (n % m2 != 0), e1 - e2 - k - 1)

/-- A square root with its lowest bit marking a remainder. -/
def sqrtMag (m : Nat) (e : Int) : Nat × Int :=
  let m1 := if e % 2 = 0 then m else 2 * m
  let e1 := if e % 2 = 0 then e else e - 1
  let big := m1 * 4 ^ 64
  let r := isqrt big
  (2 * r + bit (r * r != big), e1 / 2 - 64 - 1)

/-- VQUANT of one element (R99, R100). -/
def quantise (dt : Ty) (md : RMode) (fin fout : Bool) (x code band : Nat) : CRes :=
  match unpack fmtBf16 false (band % 2 ^ 16) with
  | .fin false bm be =>
    if bm = 0 then ⟨0, true, false⟩
    else if code = 0 then ⟨0, false, false⟩
    else
      match unpack fmtE3m5 false code with
      | .fin _ cm ce =>
        let f := fmtOf dt
        match unpack fmtF32 fin x with
        | .nan n s =>
          if dt = .e4m3 then ⟨bit n * 0x80 + 0x7F, s, false⟩
          else if dt = .e5m2 then ⟨bit n * 0x80 + 0x7E, s, false⟩
          else ⟨0, true, false⟩
        | .inf n =>
          if tyIsInt dt then ⟨fieldOf (tyBits dt) (if n then (intRange dt).1 else (intRange dt).2), false, true⟩
          else ⟨bit n * f.signBit + f.maxCode, false, false⟩
        | .fin n m e =>
          let q := quot m e (cm * bm) (ce + be)
          if tyIsInt dt then
            let c := clampI (intRange dt) (roundInt md n q.1 q.2)
            ⟨fieldOf (tyBits dt) c.1, false, c.2⟩
          else ⟨pack f md true fout n q.1 q.2, false, false⟩
      | _ => ⟨0, false, false⟩
  | _ => ⟨0, true, false⟩

/-! ### SCALECALC -/

/-- |flush_in(x)| as an exact magnitude with exponent −149, or none for a NaN or an infinity (R99). -/
def absMag (fin : Bool) (x : Nat) : Option Nat :=
  match unpack fmtF32 fin x with
  | .fin _ m e => some (m * 2 ^ (e + 149).toNat)
  | _ => none

/-- Whether `a` · 2^−149 ≤ 189 · 2^k (R99). -/
def bandHolds (a : Nat) (k : Int) : Bool :=
  if 0 ≤ k + 149 then decide (a ≤ 189 * 2 ^ (k + 149).toNat) else false

/-- ceil(log2(A / 189)) from a first guess below it, at least −133 (R99). -/
def bandExpGo (a : Nat) : Nat → Int → Int
  | 0, k => k
  | n + 1, k => if bandHolds a k then k else bandExpGo a n (k + 1)

def bandExp (a : Nat) : Int :=
  if a = 0 then 0 else max (bandExpGo a 16 (Nat.log2 a - 149 - 8)) (-133)

/-- The E3M5 code of a block maximum in a band, with SATI and SCUF (R99). -/
def blockCode (a : Nat) (bm : Nat) (be : Int) : Nat × Bool × Bool :=
  if a = 0 then (0, false, false)
  else
    let q := quot a (-149) (6 * bm) be
    let above := roundAt .rdn false q.1 q.2 (-40)
    let exact := decide (above * 2 ^ ((-40) - q.2).toNat = q.1)
    -- ideal > 31.5, ideal < 2^−7, in units of 2^−40
    if decide (63 * 2 ^ 39 < above) || (above == 63 * 2 ^ 39 && !exact) then (0xFF, true, false)
    else if above < 2 ^ 33 then (0x01, false, true)
    else (pack fmtE3m5 .rup false false false q.1 q.2, false, false)

/-! ### Faithful functions

A function value is computed as a fixed-point number with `fixP` fraction bits, far finer than any distance between an
inexact value of these functions and an FP32 value; its lowest bit is then set as a mark that it is not exact. -/

/-- Fraction bits of the fixed-point evaluation (log entry 2). -/
def fixP : Nat := 640

/-- The fixed-point unit. -/
def fixOne : Int := 2 ^ fixP

def fmul (a b : Int) : Int := a * b / fixOne

/-- Sum of a series: term by term with `next`, which gives term n from term n − 1. -/
def series (next : Nat → Int → Int) : Nat → Nat → Int → Int → Int
  | 0, _, _, acc => acc
  | k + 1, n, t, acc => series next k (n + 1) (next n t) (acc + t)

/-- e^x for |x| ≤ 1, fixed point. -/
def expSmall (x : Int) : Int := series (fun n t => fmul t x / (n + 1)) 140 0 fixOne 0

/-- Repeated squaring. -/
def sqTimes : Nat → Int → Int
  | 0, x => x
  | k + 1, x => sqTimes k (fmul x x)

/-- e^x for −256 ≤ x ≤ 0, fixed point. -/
def expNeg (x : Int) : Int := sqTimes 8 (expSmall (x / 256))

/-- Σ s^i / ((2 i + 1) k^(2 i + 1)) over `n` terms, fixed point: atanh(1 / k) for s = 1, atan(1 / k) for s = −1. -/
def arcInv (s : Int) (k n : Nat) : Int :=
  (List.range n).foldl (fun (acc : Int) (i : Nat) => acc + s ^ i * (fixOne / ((k : Int) ^ (2 * i + 1) * (2 * (i : Int) + 1)))) 0

/-- ln 2 = 2 atanh(1/3). -/
def ln2 : Int := 2 * arcInv 1 3 220

/-- π by Machin's formula: 16 atan(1/5) − 4 atan(1/239). -/
def fixPi : Int := 16 * arcInv (-1) 5 150 - 4 * arcInv (-1) 239 50

/-- ln y for 1 ≤ y < 2, fixed point: 2 atanh((y − 1) / (y + 1)). -/
def lnSmall (y : Int) : Int :=
  let z := (y - fixOne) * fixOne / (y + fixOne)
  let z2 := fmul z z
  2 * ((List.range 220).foldl (fun (a : Int × Int) i => (a.1 + a.2 / (2 * (i : Int) + 1), fmul a.2 z2)) (0, z)).1

/-- sin y for 0 ≤ y ≤ 2, fixed point. -/
def sinSmall (y : Int) : Int :=
  let y2 := fmul y y
  series (fun n t => -(fmul t y2) / ((2 * n + 2) * (2 * n + 3))) 90 0 y 0

/-- cos y for 0 ≤ y ≤ 2, fixed point. -/
def cosSmall (y : Int) : Int :=
  let y2 := fmul y y
  series (fun n t => -(fmul t y2) / ((2 * n + 1) * (2 * n + 2))) 90 0 fixOne 0

/-- ∫ e^(−t²) from 0 to x for 0 ≤ x ≤ 8, fixed point. -/
def gaussInt (x : Int) : Int :=
  let x2 := fmul x x
  ((List.range 600).foldl
    (fun (a : Int × Int) i => (a.1 + a.2 / (2 * i + 1), -(fmul a.2 x2) / (i + 1))) (0, x)).1

/-- √ of a fixed-point number. -/
def fixSqrt (x : Int) : Int := isqrt (x.toNat * 2 ^ fixP)

/-- erf x for 0 ≤ x ≤ 8, fixed point. -/
def erfSmall (x : Int) : Int := 2 * gaussInt x * fixOne / fixSqrt fixPi

/-- ± m · 2^e in fixed point, rounded toward zero. -/
def toFix (neg : Bool) (m : Nat) (e : Int) : Int :=
  let v : Int := if 0 ≤ e + fixP then m * 2 ^ (e + fixP).toNat else m / 2 ^ (-(e + fixP)).toNat
  if neg then -v else v

/-- A fixed-point value that is not exact, as a magnitude with a mark below its last bit. -/
def markFix (v : Int) : Bool × Nat × Int := (decide (v < 0), 2 * v.natAbs + 1, -(fixP : Int) - 1)

/-- One of the two FP32 values that bracket ± m · 2^e (the value itself if representable), as `faithfulUp` chooses
(R92, R227). -/
def faithful (fn : Config.Faithful) (x : Nat) (fout neg : Bool) (m : Nat) (e : Int) : Nat :=
  pack fmtF32 (if Config.faithfulUp fn (BitVec.ofNat 32 x) then .rup else .rdn) false fout neg m e

def faithfulFix (fn : Config.Faithful) (x : Nat) (fout : Bool) (v : Int) : Nat :=
  let r := markFix v
  faithful fn x fout r.1 r.2.1 r.2.2

/-- One in FP32. -/
def f32One : Nat := 0x3F800000

/-- |a| ≥ 2^k for a finite magnitude. -/
def geTwo (m : Nat) (e k : Int) : Bool := m != 0 && decide (k ≤ Nat.log2 m + e)

/-- 1/a (R92). -/
def sfuRcp (fin fout : Bool) (a : Nat) : FRes :=
  match unpack fmtF32 fin a with
  | .nan _ _ => ⟨fmtF32.nan, false⟩
  | .inf n => ⟨bit n * fmtF32.signBit, false⟩
  | .fin n m e =>
    if m = 0 then ⟨packInf fmtF32 n, false⟩
    else
      let q := quot 1 0 m e
      ⟨pack fmtF32 .rne false fout n q.1 q.2, false⟩

/-- 1/√a (R92). -/
def sfuRsq (fin fout : Bool) (a : Nat) : FRes :=
  match unpack fmtF32 fin a with
  | .nan _ _ => ⟨fmtF32.nan, false⟩
  | .inf n => if n then ⟨fmtF32.nan, true⟩ else ⟨0, false⟩
  | .fin n m e =>
    if m = 0 then ⟨packInf fmtF32 n, false⟩
    else if n then ⟨fmtF32.nan, true⟩
    else
      -- 1/√(m · 2^e) = √(2^−e / m)
      let q := quot (2 ^ 128) (-128) m e
      let r := sqrtMag q.1 q.2
      -- the quotient's own mark makes the root inexact unless m is a power of two
      ⟨faithful .rsq a fout false r.1 r.2, false⟩

/-- √a (R92). -/
def sfuSqrt (fin fout : Bool) (a : Nat) : FRes :=
  match unpack fmtF32 fin a with
  | .nan _ _ => ⟨fmtF32.nan, false⟩
  | .inf n => if n then ⟨fmtF32.nan, true⟩ else ⟨packInf fmtF32 false, false⟩
  | .fin n m e =>
    if m = 0 then ⟨bit n * fmtF32.signBit, false⟩
    else if n then ⟨fmtF32.nan, true⟩
    else
      let r := sqrtMag m e
      ⟨pack fmtF32 .rne false fout false r.1 r.2, false⟩

/-- Whether a finite magnitude is an integer, and that integer. -/
def asInt (neg : Bool) (m : Nat) (e : Int) : Option Int :=
  let v : Option Nat :=
    if 0 ≤ e then some (m * 2 ^ e.toNat) else if m % 2 ^ (-e).toNat = 0 then some (m / 2 ^ (-e).toNat) else none
  v.map fun n => if neg then -(n : Int) else n

/-- 2^a (R92). -/
def sfuExp2 (fin fout : Bool) (a : Nat) : FRes :=
  match unpack fmtF32 fin a with
  | .nan _ _ => ⟨fmtF32.nan, false⟩
  | .inf n => if n then ⟨0, false⟩ else ⟨packInf fmtF32 false, false⟩
  | .fin n m e =>
    if geTwo m e 9 then
      -- |a| ≥ 512: past every FP32 magnitude
      if n then ⟨faithful .exp2 a fout false 1 (-512), false⟩ else ⟨faithful .exp2 a fout false 1 512, false⟩
    else
      match asInt n m e with
      | some k => ⟨faithful .exp2 a fout false 1 k, false⟩
      | none =>
        let v := toFix n m e
        let k := v / fixOne                     -- floor
        let r := v - k * fixOne
        let p := expNeg (fmul r ln2 - ln2)      -- 2^(r − 1)
        let mk := markFix p
        ⟨faithful .exp2 a fout false mk.2.1 (mk.2.2 + k + 1), false⟩

/-- log₂ a (R92). -/
def sfuLog2 (fin fout : Bool) (a : Nat) : FRes :=
  match unpack fmtF32 fin a with
  | .nan _ _ => ⟨fmtF32.nan, false⟩
  | .inf n => if n then ⟨fmtF32.nan, true⟩ else ⟨packInf fmtF32 false, false⟩
  | .fin n m e =>
    if m = 0 then ⟨packInf fmtF32 true, false⟩
    else if n then ⟨fmtF32.nan, true⟩
    else
      let k : Int := Nat.log2 m + e
      if m = 2 ^ Nat.log2 m then ⟨pack fmtF32 .rne false fout (k < 0) k.natAbs 0, false⟩
      else
        let y := toFix false m (-(Nat.log2 m : Int))
        ⟨faithfulFix .log2 a fout (k * fixOne + lnSmall y * fixOne / ln2), false⟩

/-- sin(π r) for r in (0, 1) with r · 2^fixP exact or finer than needed. -/
def sinPi (r : Int) : Int :=
  let r' := if 2 * r ≤ fixOne then r else fixOne - r
  sinSmall (fmul r' fixPi)

/-- The part of |a| above the largest even integer at most |a|, exactly, as a number of units 2^min(e, 0). -/
def mod2 (m : Nat) (e : Int) : Nat × Nat :=
  if 0 ≤ e then (m * 2 ^ e.toNat % 2, 0) else (m % 2 ^ (1 + (-e).toNat), (-e).toNat)

/-- sin(π a) (R92). -/
def sfuSin (fin fout : Bool) (a : Nat) : FRes :=
  match unpack fmtF32 fin a with
  | .nan _ _ => ⟨fmtF32.nan, false⟩
  | .inf _ => ⟨fmtF32.nan, true⟩
  | .fin n m e =>
    let r := mod2 m e
    let u := 2 ^ r.2
    if r.1 % u = 0 then ⟨bit n * fmtF32.signBit, false⟩
    else
      let neg := (n != decide (u < r.1))
      let h := r.1 % u
      if 2 * h = u then ⟨bit neg * fmtF32.signBit + f32One, false⟩
      else
        let v := sinPi (toFix false h (-(r.2 : Int)))
        ⟨faithfulFix .sin a fout (if neg then -v else v), false⟩

/-- cos(π a) (R92). -/
def sfuCos (fin fout : Bool) (a : Nat) : FRes :=
  match unpack fmtF32 fin a with
  | .nan _ _ => ⟨fmtF32.nan, false⟩
  | .inf _ => ⟨fmtF32.nan, true⟩
  | .fin _ m e =>
    let r := mod2 m e
    let u := 2 ^ r.2
    if r.1 = 0 then ⟨f32One, false⟩
    else if r.1 = u then ⟨fmtF32.signBit + f32One, false⟩
    else if 2 * (r.1 % u) = u then ⟨0, false⟩
    else
      let h := r.1 % u                          -- cos(π(h/u)), negated past 1
      let v := cosSmall (fmul (toFix false h (-(r.2 : Int))) fixPi / 2)
      let c := 2 * fmul v v - fixOne            -- from the half angle
      ⟨faithfulFix .cos a fout (if u < r.1 then -c else c), false⟩

/-- tanh of a positive fixed-point number at most 128, from e^(−2x). -/
def tanhFix (x : Int) : Int :=
  let q := expNeg (-2 * x)
  (fixOne - q) * fixOne / (fixOne + q)

/-- A magnitude just below one. -/
def belowOne : Int := fixOne - 1

/-- tanh a (R92). -/
def sfuTanh (fin fout : Bool) (a : Nat) : FRes :=
  match unpack fmtF32 fin a with
  | .nan _ _ => ⟨fmtF32.nan, false⟩
  | .inf n => ⟨bit n * fmtF32.signBit + f32One, false⟩
  | .fin n m e =>
    if m = 0 then ⟨bit n * fmtF32.signBit, false⟩
    else
      let v := if geTwo m e 6 then belowOne else tanhFix (toFix false m e)
      ⟨faithfulFix .tanh a fout (if n then -v else v), false⟩

/-- 1 / (1 + e^−x) of a fixed-point number with |x| ≤ 256. -/
def sigmFix (x : Int) : Int :=
  if 0 ≤ x then fixOne * fixOne / (fixOne + expNeg (-x))
  else
    let q := expNeg x
    q * fixOne / (fixOne + q)

/-- The sigmoid (R92). -/
def sfuSigm (fin fout : Bool) (a : Nat) : FRes :=
  match unpack fmtF32 fin a with
  | .nan _ _ => ⟨fmtF32.nan, false⟩
  | .inf n => if n then ⟨0, false⟩ else ⟨f32One, false⟩
  | .fin n m e =>
    if m = 0 then ⟨0x3F000000, false⟩
    else if geTwo m e 8 then ⟨faithfulFix .sigm a fout (if n then 0 else belowOne), false⟩
    else ⟨faithfulFix .sigm a fout (sigmFix (toFix n m e)), false⟩

/-- erf a (R92). -/
def sfuErf (fin fout : Bool) (a : Nat) : FRes :=
  match unpack fmtF32 fin a with
  | .nan _ _ => ⟨fmtF32.nan, false⟩
  | .inf n => ⟨bit n * fmtF32.signBit + f32One, false⟩
  | .fin n m e =>
    if m = 0 then ⟨bit n * fmtF32.signBit, false⟩
    else
      let v := if geTwo m e 3 then belowOne else erfSmall (toFix false m e)
      ⟨faithfulFix .erf a fout (if n then -v else v), false⟩

end Sys2Proof.Machine
end

