-- ==== Sys2Proof/Machine/State.lean ====
section
/-!
DEFINITION. The state of one Felros 940 and of the memory of its pod, as plain data, and the state after reset.
Every field names the rule of spec/ that gives it. A field marked MODEL is the model's own bookkeeping.
-/

namespace Sys2Proof.Machine

/-- The causes of R389: every code of R27, R43, R76, R129, R139, R172, R218, R268, R292, R356, R388 and R407. -/
inductive Cause where
  | illop | illfld | illrsv | regrange | hdrrun | retuf | wsovf | pcbad | privop | sliderng | qbound | mfmtbad
  | mloopbad | dbgstep | swt (n : Nat)
  | misaln | addrbad | dxlate | dperm | ifetch
  | abound | ctile | cbound | barmix | wslot | copyoob | cbfut | aexpbad
  | defret | defquota | defsize | commitscope | ctrdef | defeng | applyue | statnd
  | tapefull | tapeempty | tapeseq | adjsize | gatom | gord | frgnd
  | dirbad | censbad | respbad
  | lrecbad | lfit | copyfail | collmis | hwlink | graphbad | preemptrst
  | nmbad | zillop | zillrsv | zillfld | zwin | zmisaln | znolock | zlkmax | zlktime | zqdead | zqleft | zlkend
  | zparity | dblflt | sramue | memue | ctxkill
  deriving DecidableEq, Repr

/-- The reasons a step stops. -/
inductive Fault where
  /-- Raised by an event or a peer's message when the state gives it no occurrence (no such operation, copy, census,
  command or team, or a condition of its rule not met). Safe: the machine takes no such step there. -/
  | notEnabled (row : String)
  /-- Raised by an instruction's meaning when the party of `State.cur` is not of the instruction's kind (a group
  instruction with no group). Safe: no such fetch exists. -/
  | noParty (row : String)
  deriving DecidableEq, Repr

/-- The reasons a step is refused. -/
inductive Refusal where
  /-- Raised by Dispatch for an instruction that has no meaning yet. Safe: nothing is claimed of it. -/
  | notModelled (mnemonic : String)
  deriving DecidableEq, Repr

/-- Memory: address and byte pairs in rising address order, no entry equal to 0, which an unlisted address reads as
(R431: device memory is cleared at module reset). Device memory keys are `device · 2^48 + physical address`. -/
abbrev Memory := List Host.Cell

/-! ### Groups -/

/-- One write of a destination (R143): vector registers by physical number, with the lanes written. -/
inductive RegWr where
  | v (phys : Nat) (mask : Mask) (x : VReg)
  | s (n : Nat) (x : Dword)
  | p (n : Nat) (mask x : Mask)
  | sp (n : Nat) (b : Bool)
  | em (x : Mask)
  | fmode (x : BitVec 8)
  | statusSet (x : BitVec 3)
  | statusClear (x : BitVec 3)
  | frsz (x : BitVec 8)
  | wsp (x : Dword)
  | tr (n : Nat) (x : Dword)        -- a trap record register by number (R394)
  deriving DecidableEq, Repr

/-- A fixed-latency write that is seen from clock `land` on (R143). -/
structure PendWr where
  land : Nat
  wr : RegWr
  deriving DecidableEq, Repr

/-- The registers of a group (R17, R45, R50, R68, R134). `v` is indexed by physical number (R50). -/
structure Regs where
  v : Vector VReg 256
  s : Vector Dword 64
  p : Vector Mask 8
  sp : Vector Bool 8
  em : Mask
  pc : Dword
  fmode : BitVec 8
  status : BitVec 3
  deriving DecidableEq, Repr

/-- The window and call state of a group (R50, R68). -/
structure Window where
  wb : Nat
  fdepth : BitVec 32
  frsz : BitVec 8
  wsp : Dword
  wslim : Dword
  deriving DecidableEq, Repr

/-- Completion flags and clause state (R20 to R22, R43). -/
structure Flags where
  cf : Vector Nat 12
  flagA : Option Nat
  flagB : Option Nat
  wait : BitVec 12
  hdrRun : Nat
  deriving DecidableEq, Repr

/-- A trap record (R394): what TRCAUSE to TRINFO hold, with the tape positions the faulted lanes own (R301). -/
structure TrapRec where
  cause : BitVec 9
  rev : Bool
  pc : Dword
  mask : Mask
  smask : Mask
  em : Mask
  scause : BitVec 9
  addr : Dword
  rpc : Dword
  rep : Mask
  skid : Nat
  info : BitVec 4
  tape : List (Nat × Nat × Nat)     -- lane, word, position
  deriving DecidableEq, Repr

/-- A replay that RTE has ordered: the active set, the resume pc and the tape positions of its lanes (R397, R301). -/
structure Replay where
  active : Mask
  rpc : Dword
  tape : List (Nat × Nat × Nat)
  deriving DecidableEq, Repr

/-- The trap state of a group (R391 to R399). -/
structure TrapSt where
  pending : Option (TrapRec × Option Nat)   -- a cause raised and not yet entered, with its operation's flag
  tr : TrapRec
  mode : Bool                               -- the mode saved at handler entry (R270, R396)
  scr : Vector Dword 4
  inHandler : Bool
  replay : Option Replay
  skid : Nat                                -- instructions issued since the halt broadcast
  entry : Nat                               -- MODEL: the next operation identifier at the last handler entry
  deriving DecidableEq, Repr

/-- A destination that a long-latency operation has pending. -/
inductive Dst where
  | v (phys : Nat) (m : Mask)
  | s (n : Nat)
  | sp (n : Nat)
  | p (n : Nat)
  deriving DecidableEq, Repr

/-- A destination whose operation's flag has not cleared (R24, R143): the lanes on which another operation's result has
landed since its issue (all of them for a destination without lanes), and whether a fixed-latency write has reached its
register meanwhile. -/
structure PendDst where
  id : Nat
  flag : Option Nat
  dst : Dst
  clash : Mask
  met : Bool
  deriving DecidableEq, Repr

/-- Issue state of a group (R24, R25, R49, R143, R145). -/
structure Issue where
  last : Option Nat          -- clock of the previous issue
  hold : Nat                 -- earliest clock of the next issue (branches, calls, traps)
  ready : Nat                -- clock at which the last hold by completions lapsed (R145)
  yield : Option Nat         -- clock of the last YIELD (R58, R145)
  memReady : Nat             -- clock at which the last hold of memory instructions lapsed (R145)
  pend : List PendWr
  dsts : List PendDst        -- destinations that hold undefined values (R24)
  memHold : List Nat         -- operations that hold later memory instructions (R107, R119, R121)
  allHold : List Nat         -- operations that hold all issue (R124)
  deriving DecidableEq, Repr

/-- A closed copy batch of a group (R213). -/
structure Batch where
  num : BitVec 32
  copies : List Nat
  deriving DecidableEq, Repr

/-- A byte range of the A-buffer, or of a tile or a slot, of a team (R198, R215). -/
inductive Region where
  | abuf (lo n : Nat)
  | tile (t : Nat)
  | slot (w : Nat)
  deriving DecidableEq, Repr

/-- Who writes and reads a team's buffers (R174): its groups, its stream, a copy of this device by its number, a peer
device. -/
inductive BufParty where
  | group (gid : Nat)
  | stream
  | copy (id : Nat)
  | peer (dev : Nat)
  deriving DecidableEq, Repr

/-- MODEL: a write of a region of a team's buffers, and whom the synchronisation of R179 has brought it to (R213, R215,
R253, R259): the operation that wrote, the OPFENCE that covers it (0 for a write that needs none), the parties that it has
reached, and what carries it on: barrier phases, memory words, groups whose FENCE covers it, and groups that have read
such a word with no acquire yet. -/
structure BufWrite where
  reg : Region
  src : BufParty
  op : Nat
  fence : Option Nat
  reached : List BufParty
  bars : List (Nat × Nat)
  keys : List Nat
  fenced : List Nat
  read : List Nat
  deriving DecidableEq, Repr

/-- Engine-facing state of a group (R124, R213, R270). -/
structure Eng where
  rev : Bool                          -- reverse mode
  batch : BitVec 32                   -- batch number
  pendCopies : List Nat
  batches : List Batch
  rb : BitVec 32
  lp : Vector (Option Nat) 16         -- pending phase per barrier
  seen : Vector Nat 16                -- MODEL: newest phase whose wait completed, per barrier (R198)
  deriving DecidableEq, Repr

/-- One entry of a group's undo log (R405). -/
structure Undo where
  n : Nat                   -- MODEL: the clock at which its instruction issued
  pc : Dword
  kind : Nat
  target : Dword
  mask : Dword
  old : List Byte
  seq : Nat                 -- its place in the ring is this modulo 2,048
  out : Bool                -- it stands in the debug area as it is
  deriving DecidableEq, Repr

/-- A group (R134, R135). -/
structure Group where
  gid : Nat
  part : Nat                -- partition (R136)
  producer : Bool
  bud : Nat                 -- B, the role's register budget
  r : Regs
  w : Window
  f : Flags
  i : Issue
  t : TrapSt
  e : Eng
  undo : List Undo
  ended : Bool
  deriving DecidableEq, Repr

/-! ### Teams -/

/-- A team barrier (R124). -/
structure Bar where
  exp : Nat
  cnt : Nat
  ph : Nat
  deriving DecidableEq, Repr

/-- One queue entry: filled, or reserved for the reply of an operation (R73, R128). -/
structure QEnt where
  val : Option Dword
  owner : Nat
  deriving DecidableEq, Repr

/-- What binds a queue (R73, R128, R290, R354). -/
inductive Bound where
  | ratom
  | census
  | nm
  deriving DecidableEq, Repr

/-- A team queue (R73 to R75). -/
structure Queue where
  bound : Option Bound
  ents : List QEnt
  deriving DecidableEq, Repr

/-- One tape position (R300, R301): a record, a position whose store is in flight, a hole, a record whose pop is in
flight, a held record, or a free position below others. -/
inductive TapePos where
  | filled (r : BitVec 128)
  | taken
  | hole
  | popping (r : BitVec 128)
  | held (r : BitVec 128)
  | free
  deriving DecidableEq, Repr

/-- An exported window (R214). -/
structure Win where
  num : Nat
  lo : Nat
  len : Nat
  deriving DecidableEq, Repr

/-- A matrix instruction's regions, what it writes (tiles with their rows and columns, A-buffer runs, runs of memory
keys), and the barrier phase after which groups may touch the regions (R198). -/
structure Busy where
  id : Nat
  rd : List Region
  wr : List Region
  tiles : List (Nat × BitVec 128 × BitVec 128)
  outA : List (Nat × Nat)
  outM : List (Nat × Nat)
  sig : Option (Nat × Nat)
  bad : Bool                        -- its results are undefined (R198, R215)
  deriving DecidableEq, Repr

/-- An open MLOOP (R208): address of the instruction after it, and passes left. -/
structure Loop where
  body : Dword
  left : Nat
  deriving DecidableEq, Repr

/-- The unfold descriptor (R201): plain with a pitch, or 64 loaded bytes. -/
inductive Unfold where
  | plain (pitch : Nat)
  | loaded (d : BitVec 512)
  deriving DecidableEq, Repr

/-- An engine operation in flight (R243): landing clock, and the tile elements that land with their bits, or the
records of an FRGRAD still to enter the Sporangium with their memory keys (R283, R317). -/
structure MOp where
  id : Nat
  tile : Option Nat
  land : Nat
  elems : List (Nat × Word)
  recs : List (Nat × Word)
  deriving DecidableEq, Repr

/-- An MDRAIN in a context's drain queue (R239), with its registers and masks as read at issue. -/
structure Drain where
  id : Nat
  pc : Dword
  acc : Nat
  dst : Dword
  pitch : Dword
  ctl : Dword
  stat : Dword
  mrow : BitVec 128
  ncol : BitVec 128
  undef : Bool                      -- MODEL: its registers hold undefined values, and nothing traps (R221)
  resv : List Nat                   -- memory keys of the lines that its add-on-store has reserved (R251, R367)
  deriving DecidableEq, Repr

/-- A matrix stream (R196, R239). -/
structure MStream where
  ctxNo : Nat                       -- sequencer context (R239)
  pc : Dword
  x : Vector Dword 32
  mkr : Vector (BitVec 128) 4
  nkr : Vector (BitVec 128) 4
  kkr : Vector (BitVec 256) 4
  knr : Vector Dword 4
  unf : Unfold
  loops : List Loop
  lp : Vector (Option Nat) 16
  mops : List MOp                   -- results not yet landed
  drains : List Drain
  tileFree : List (Nat × Nat)       -- tile, clock at which MDRAIN or MACCST.mov reads of it end (R244)
  busy : List Busy                  -- MODEL: regions not yet released to groups (R198)
  ints : List Nat                   -- tiles that hold INT32 results (R205)
  seen : Vector Nat 16              -- MODEL: newest phase whose MWAIT completed, per barrier (R179)
  undef : List Nat                  -- MODEL: registers loaded from bytes that no synchronisation had brought (R221)
  hold : Nat                        -- earliest clock of the next issue
  ended : Bool
  deriving DecidableEq, Repr

/-- A responder's part of a team (R291, R328). -/
structure Resp where
  cid : Nat
  core : Nat
  ent : Nat
  asker : Nat
  arg : Dword                       -- the descriptor's ARG, which ARGPTR reads (R289)
  answer : Option Dword
  late : Bool
  faultCause : Option (BitVec 9)
  deriving DecidableEq, Repr

/-- A team's resources on its core (R136, R148, R242). -/
structure Alloc where
  abase : Nat
  asize : Nat
  tiles : List Nat
  slots : List Nat
  tapeb : Nat
  deriving DecidableEq, Repr

/-- Records made and not yet covered by a completed commit (R122, R153, R166): the counts of COMMITs made before them,
whether they are aimed at a peer device, a responder's census with its scope, and how many. -/
structure Made where
  et : Nat
  eg : Nat
  ep : Nat
  peer : Bool
  census : Option (Nat × Bool)
  wait : Option (Nat × Nat)         -- of an FRGRAD, until the phase of the MSIG after it (R317)
  n : Nat
  deriving DecidableEq, Repr

/-- A team's deferred-path state (R122, R153, R166, R291). -/
structure TeamDef where
  tag : Nat
  gridUnit : Bool
  nTeam : Nat
  nGrid : Nat
  nPod : Nat
  open' : Nat                       -- COMMITs that have not completed
  made : List Made                  -- R166, for a team unit
  quota : Nat
  popped : List (Nat × Bool)        -- censuses popped and not yet covered, with pod scope (R291)
  opened : List Nat                 -- censuses open
  asked : List (Nat × Bool)         -- MODEL: censuses whose second entry is not popped, with pod scope (R291)
  deriving DecidableEq, Repr

/-- Why a team is halted (R390 to R392). -/
inductive Halt where
  | running
  | settling (since : Nat)          -- halt broadcast, siblings may still issue their skid
  | service (cause : BitVec 9)      -- halted for service firmware
  deriving DecidableEq, Repr

/-- A team (R134). -/
structure Team where
  uid : Nat
  ctx : Nat
  grid : Nat                        -- grid uid
  teamId : Nat
  core : Nat
  prio : Nat
  al : Alloc
  groups : List Group
  stream : Option MStream
  bars : Vector Bar 16
  queues : Vector Queue 16
  tape : List TapePos
  wins : List Win
  writes : List BufWrite            -- MODEL: what is known of the writes of its buffers (R215, R253)
  d : TeamDef
  halt : Halt
  srec : Option TrapRec             -- the record of a cause of the matrix stream, drain or FRGRAD (R390, R394)
  resp : Option Resp
  ended : Bool
  deriving DecidableEq, Repr

/-! ### Long-latency operations -/

/-- The register destination of a memory operation: physical vector registers, or a uniform register. -/
inductive MDst where
  | v (phys : List Nat)
  | s (n : Nat)
  | none
  deriving DecidableEq, Repr

/-- What translating an address answers (R108, R400, R401): a cause, or the location's memory key with what its page
says of it: served by L1, deferred, differentiable with its shadow's key and whether the shadow is deferred. With a cause,
what is known of the page: whether it is differentiable, and then whether its shadow is deferred. -/
inductive Xl where
  | bad (c : BitVec 9) (g : Option Bool)
  | at (key : Nat) (l1 dfr : Bool) (sh : Option (Nat × Bool))
  deriving DecidableEq, Repr

/-- One lane's access: lane, byte address, data words read at issue (b, then c for .cas), and its translation. -/
structure LaneAcc where
  lane : Nat
  va : Nat
  b : BitVec 128
  c : BitVec 64
  x : Xl
  deriving DecidableEq, Repr

/-- What a long-latency operation does when it completes, with its operands as read at issue (R24). -/
inductive OpKind where
  | regs (ws : List RegWr)
  | qpush (q : Nat) (x : Dword)
  | qpop (d q : Nat) (try? : Option Nat)
  | mem (store : Bool) (z : SizeCode) (o : Ord) (rev : Bool) (dst : MDst) (ls : List LaneAcc) (fmode : BitVec 8)
      (tape : List (Nat × Nat × Nat)) (commit : Option Nat)     -- positions by lane and word; implicit commit (R274)
  | abuf (store : Bool) (z : SizeCode) (o : Ord) (dst : MDst) (ls : List LaneAcc)
  | cbuf (store : Bool) (acc : Nat) (dst : MDst) (ls : List LaneAcc)
  | atom (op : AOp) (wide : Bool) (o : Ord) (dst : MDst) (ls : List LaneAcc) (fmode : BitVec 8)
  | waita (rel : Rel) (n b64 : Bool) (acq : Option Nat) (d : Nat) (a : LaneAcc)
  | cwaitge (acq : Option Nat) (d : Nat) (a : LaneAcc)
  | cadd (rel : Option Nat) (poison : Bool) (a : LaneAcc)
  | fence (kind scope : Nat)
  | aliasf (gone : Bool)                                        -- the lines are discarded already (R121)
  | commit (cid : Nat)
  | arrive (b n : Nat)
  | barwt (b : Nat) (target : Option Nat)
  | barsync (b n : Nat) (target : Option Nat)
  | ratom (op : AOp) (wide : Bool) (q : Nat) (a : LaneAcc) (fmode : BitVec 8)
  | copy (id : Nat)
  | coll (id : Nat)
  | cwaitb (d : Nat) (n : BitVec 32)
  | aexportRev (win : Nat)
  | opfence
  | fmtsel (d : Nat) (a : LaneAcc) (tmpl : Dword) (opB : Bool)
  | mode (rev : Bool)
  | tapespill (d va : Nat) (recs : List (Nat × BitVec 128))     -- address; memory key and record
  | tapefill (va : Nat) (keys : List (Nat × Bool)) (pos : List Nat) -- address; memory key, and whether L1 serves it
  | dirins (d : Nat) (key loc : Dword) (dens : BitVec 8)
  | dirlook (d mode : Nat) (a b : Dword)
  | dirdel (d : Nat) (handle : Dword)
  | dirmove (d : Nat) (id : Nat)
  | solicit (cid : Nat)
  | nmpost (id : Nat)
  | nmgather (id d idx dst n esz : Nat) (badI badD : Bool)  -- A-buffer offsets; a group has met one of them (R355)
  deriving DecidableEq, Repr

/-- A long-latency operation in flight (R22, R24): its issuer, flag, instruction and kind. `after` counts the
instructions the group issued after it (R392). -/
structure Op where
  id : Nat
  tid : Nat
  gid : Nat
  flag : Option Nat
  pc : Dword
  next : Dword
  kind : OpKind
  after : Nat
  issued : Nat
  uni : Option Mask                       -- `em` at the issue of a uniform instruction (R129)
  deriving DecidableEq, Repr

/-! ### Cores -/

/-- A line of the L1 data cache, or of the instruction cache, tagged by context and virtual address (R9, R182). -/
structure Line where
  ctx : Nat
  va : Nat
  bytes : List Byte
  key : Nat                  -- MODEL: the memory key of its first byte
  behind : Bool              -- MODEL: an engine has written its bytes at the home since its fill (R180, R184)
  deriving DecidableEq, Repr

/-- A store in a core's write-through queue (R177). -/
structure WStore where
  seq : Nat                  -- MODEL: its place in the order of entries
  ctx : Nat
  tid : Nat
  gid : Nat
  va : Nat
  key : Nat                  -- memory key of the first byte
  rel : Option Nat           -- MODEL: the store is this operation's release at device or pod scope (R185)
  acked : Bool               -- MODEL: a FENCE.rel has taken it as acknowledged before its moment (R120, R189)
  bytes : List Byte
  deriving DecidableEq, Repr

/-- A translation held in a TLB (R402): the walk's result for one page. -/
structure TlbEnt where
  ctx : Nat
  vpage : Nat                -- virtual address of the page
  level : Nat
  pte : BitVec 128
  deriving DecidableEq, Repr

/-- A deferred record in transit or staged (R151 to R153), with its origin (R155). -/
structure DRec where
  value : Dword
  dev : Nat
  pa : Nat
  opr : AOp                  -- xchg stands for store (R152)
  wide : Bool
  tag : Nat
  et : Nat
  eg : Nat
  ep : Nat
  census : Option Nat
  team : Nat                 -- making team, for the count of R166
  maker : Option (Nat × Nat) -- team and group that made it; none once several makers combined (R158)
  src : Nat                  -- source device
  ue : Bool                  -- hit by an uncorrectable error while staged (R171)
  wait : Option (Nat × Nat)  -- of an FRGRAD, until the phase of the MSIG after it: the stream's team, the instruction (R317)
  deriving DecidableEq, Repr

/-- One Sporangium entry (R154). -/
inductive Spor where
  | entry (r : DRec)
  | token (cid team : Nat)
  deriving DecidableEq, Repr

/-- A time for which a partition's unit was occupied (R93): whether it is the VSFU, first clock, first clock after. -/
structure UnitUse where
  part : Nat
  sfu : Bool
  lo : Nat
  hi : Nat
  deriving DecidableEq, Repr

/-- The turn of a group's issue (R145): the counter of free values after it, its clock, core and partition, its team's
PRIO, its ready age as twice the clock from which the instruction was eligible, one more after a YIELD (R58), and the
clocks that it waited, those apart in which only its unit held it. -/
structure Turn where
  n : Nat
  clock : Nat
  core : Nat
  part : Nat
  prio : Nat
  since : Nat
  waited : Nat
  deriving DecidableEq, Repr

/-- What SREADSR reads of RNGKEY (`ctr` false) or RNGCTR until a SWRITESR's latency has passed (R143, R144). -/
structure RngOld where
  land : Nat
  ctx : Nat
  ctr : Bool
  old : Dword
  deriving DecidableEq, Repr

/-- A core (R68, R98, R136, R154, R177, R239, R380, R402). -/
structure Core where
  rng : List (Nat × Dword × Dword)         -- context, RNGKEY, RNGCTR
  rngOld : List RngOld
  l1 : List Line
  icache : List Line
  wtq : List WStore
  tlb : List TlbEnt
  spor : List Spor
  abuf : Memory
  cbuf : Memory
  wbuf : Memory
  left : List (Nat × Nat × Nat)            -- kind (0 A-buffer page, 1 tile, 2 slot), number, context that last used it
  fmaFree : Vector Nat 8                   -- clock at which each partition's FMA unit frees (R93)
  sfuFree : Vector Nat 8
  unitUse : List UnitUse                   -- the units' recent occupations, newest first (R145)
  partLast : Vector (Option Nat) 8         -- last issue clock per partition (R145)
  engFree : Nat                            -- clock at which the matrix engine frees (R243)
  engLast : Nat                            -- context the engine served last (R241)
  drainFree : Nat
  portFree : Nat
  temp : Nat
  droops : List Nat
  hot : Bool
  coolSince : Option Nat
  census : List (Nat × List Nat)           -- censuses followed, with the entries taken (R326)
  respQ : List (Nat × Nat × Bool)          -- queued responders: census, entry, late (R327)
  deriving DecidableEq, Repr

/-! ### The deferred path -/

/-- A Sorus bin (R155): destination device and channel (0 for a remote bin), its records, and when the first entered. -/
structure Bin where
  dev : Nat
  ch : Nat
  recs : List DRec
  since : Nat
  deriving DecidableEq, Repr

/-- What a Sorus has sent, for its touched sets (R155): tag and epoch or census, device, channel. -/
structure Touch where
  tag : Nat
  et : Nat
  eg : Nat
  ep : Nat
  census : Option Nat
  dev : Nat
  ch : Nat
  deriving DecidableEq, Repr

/-- A cluster's Sorus (R155). -/
structure Sorus where
  bins : List Bin
  touched : List Touch
  deriving DecidableEq, Repr

/-- A packet, or a marker, on its way from a Sorus to a device's Thallus units (R156, R162). -/
inductive Packet where
  | recs (cluster dev : Nat) (rs : List DRec)
  | marker (cluster dev ch cid : Nat)
  deriving DecidableEq, Repr

/-- A Thallus (R160, R161): staged records oldest first, the places of the spilled ones among them in the spill region, in
records, markers held, and rows applied and pending a commit's completion (R164). -/
structure Thallus where
  staged : List DRec
  slots : List Nat
  markers : List (Nat × Nat)               -- cluster, commit
  rows : List (Nat × Nat)                  -- commit, row base address
  deriving DecidableEq, Repr

/-- A commit's scope (R122, R168). -/
inductive CScope where
  | team | grid | pod | endTeam | endGrid
  deriving DecidableEq, Repr

/-- A commit under way (R162). -/
structure Commit where
  id : Nat
  scope : CScope
  n : Nat
  ctx : Nat
  grid : Nat
  team : Nat
  tags : List Nat
  census : List Nat
  ops : List Nat                           -- COMMIT operations that it completes
  ctrs : List (Nat × Nat × Nat)            -- counter va, context, scope (R122)
  arrived : List Nat                       -- teams whose arrival the Sorus units have reported
  tokens : List Nat                        -- teams whose token was placed
  podGo : Bool                             -- the lowest-numbered device's word that all have arrived (R163)
  closed : Bool                            -- closes sent
  shipped : List Nat                       -- clusters that acted on the close
  toShip : List Nat                        -- clusters the close went to
  marked : List (Nat × Nat × Nat)          -- cluster, device, channel
  applySent : List (Nat × Nat × Nat)       -- device, channel, marker count
  acked : List (Nat × Nat)
  podDone : Bool
  poison : Bool
  deriving DecidableEq, Repr

/-- A tag in use (R153): the DEFERQ admitted with it (R167) and its commit unit, a grid or one team of it. -/
structure TagUse where
  tag : Nat
  defq : Nat
  grid : Nat
  team : Option Nat
  deriving DecidableEq, Repr

/-- A commit unit of another device, admitted on this one (R167): the device, the unit's tag there, its DEFERQ, the tag
that it holds here, under which its responders on this device make their records (R331), and the pod grid that it belongs
to, by context and number. -/
structure PeerUnit where
  dev : Nat
  tag : Nat
  defq : Nat
  own : Nat
  pod : Option (Nat × Nat)
  deriving DecidableEq, Repr

/-- A peer's commit under way here (R163): the device, its number there and here, and for a pod grid's arrival the grid's
context and number and the arrival's. -/
structure PeerCommit where
  dev : Nat
  cid : Nat
  own : Nat
  pod : Option (Nat × Nat × Nat)
  deriving DecidableEq, Repr

/-- A launch record's fields (R137). -/
structure LRec where
  ngrp : Nat
  nprod : Nat
  cores : Bool
  cunit : Bool
  msv : Bool
  prio : Nat
  bprod : Nat
  bcons : Nat
  abytes : Nat
  ctiles : Nat
  wslots : Nat
  deferq : Nat
  tapeb : Nat
  gx : Nat
  gy : Nat
  gz : Nat
  gentry : Dword
  mentry : Dword
  argp : Dword
  cplctr : Dword
  wsbase : Dword
  wsbytes : Nat
  deriving DecidableEq, Repr

/-- What the devices of a pod grid tell its lowest-numbered one, and that one the others (R141, R163, R419): what a
device's own check of its launch record has found (0: it has passed), with the record where it could be read, every local
team has made arrival n (`pod`: of COMMIT.POD), a commit is applied, every local team has ended; the outcome of the joint
check (0: every device has passed), closes may go, a commit is complete, every team has ended. -/
inductive PodWord where
  | checked (fail : Nat) (lr : Option LRec)
  | outcome (fail : Nat)
  | arrived (pod : Bool) (n : Nat)
  | applied (pod : Bool) (n : Nat)
  | ended
  | go (pod : Bool) (n : Nat)
  | complete (pod : Bool) (n : Nat)
  | allEnded
  deriving DecidableEq, Repr

/-- A word of a device about a pod grid, by context and number. -/
structure PodSaid where
  dev : Nat
  ctx : Nat
  podNo : Nat
  word : PodWord
  deriving DecidableEq, Repr

/-- The deferred path of the device (R153 to R167). -/
structure Deferred where
  sorus : List (Nat × Sorus)
  packets : List Packet
  thallus : List ((Nat × Nat) × Thallus)   -- by device and channel
  commits : List Commit
  tags : List TagUse                       -- tags in use (R153)
  foreign : List PeerUnit                  -- admitted commit units of other devices (R167)
  peerCommits : List PeerCommit
  podSaid : List PodSaid                   -- what other devices have said of pod grids (R141, R163)
  waiting : List (Nat × Option Nat)        -- units waiting for tag and admission: grid uid, team
  deriving DecidableEq, Repr

/-! ### Launch records, grids, dispatch -/

/-- How far a grid has come (R381, R379, R147, R141). -/
inductive GPhase where
  | waitPod          -- joint launch check of a pod grid (R419)
  | waitUnit         -- waiting for tag or admission
  | dispatch
  | done
  | saved            -- listed in the save area after a PREEMPT (R385)
  deriving DecidableEq, Repr

/-- A grid (R134, R381). -/
structure Grid where
  uid : Nat
  ctx : Nat
  seq : Nat
  lr : LRec
  recAddr : Dword
  phase : GPhase
  tag : Option Nat
  made : List Made                  -- R166, for a grid unit
  cursor : Nat                      -- lowest TEAMID not handed out
  again : List Nat                  -- withdrawn teams to hand out first (R386)
  ended : List Nat                  -- TEAMIDs of ended teams
  podNo : Option Nat                -- its number as a pod grid (R419)
  cmd : Option (BitVec 32 × Dword)  -- host and SEQ of the LAUNCH that awaits a status
  node : Option Nat                 -- task node that launched it
  fail : Option (BitVec 9)          -- what this device's own check of a pod grid's record found (R419)
  reached : List Nat                -- cores whose lines its launch has discarded (R9, R187)
  code : Memory                     -- MODEL: what stood in memory at its launch, for fetching (R9)
  deriving DecidableEq, Repr

/-- A team in a cluster queue (R379): its grid and TEAMID, its place in the order of handing out, and when it was handed
out (R380). -/
structure QTeam where
  grid : Nat
  team : Nat
  order : Nat
  since : Nat
  deriving DecidableEq, Repr

/-- What may wait for a cool core (R380): a team of a grid, a co-resident grid, a responder of a census at an entry of a
core, the reduce team of a step of a collective. -/
inductive HotKey where
  | team (grid t : Nat)
  | grid (g : Nat)
  | resp (core cid ent : Nat)
  | reduce (id st : Nat)
  deriving DecidableEq, Repr

/-- Dispatch state (R379): cluster queues, and the next sequence number. -/
structure Dispatch where
  queues : List (Nat × List QTeam)
  nextSeq : Nat
  order : Nat
  hotWait : List (HotKey × Nat)     -- what waits because only hot cores fit, and since when
  deriving DecidableEq, Repr

/-! ### Copies and collectives -/

/-- Where a copy's packed side lies, and the kind of the command (R210, R377). -/
inductive CKind where
  | toa | froma | tows (side : Bool) | mem | pmem (srca : Bool) | pwin (srca : Bool) | toh | fromh
  | multicast (side : Bool) (targets : List (Nat × Nat))     -- team uid, slot
  deriving DecidableEq, Repr

/-- A layout record (R209). -/
structure Layout where
  base : Dword
  rank : Nat
  esz : Nat
  oobz : Bool
  ext : List Nat
  str : List Int
  box : List Nat
  ok : Bool
  deriving DecidableEq, Repr

/-- MODEL: how far a packed byte of a running piece is (R178, R371): not read, read, or written. -/
inductive PByte where
  | unread
  | got (b : Byte)
  | put
  deriving DecidableEq, Repr

/-- A piece of a copy that an engine has started and not ended (R256), with its packed bytes. -/
structure PieceRun where
  piece : Nat
  bytes : List PByte
  deriving DecidableEq, Repr

/-- A copy command (R210, R255, R256). -/
structure Copy where
  id : Nat
  ctx : Nat
  owner : Option (Nat × Nat)        -- issuing team and group
  node : Option Nat                 -- or task node
  core : Nat
  kind : CKind
  dst : Dword
  lay : Dword
  coord : List Int
  ctr : Option (Dword × Nat)        -- counter address, scope
  op : Option Nat
  pc : Dword
  form : Option Layout
  started : Nat                     -- pieces started
  running : List PieceRun                -- those of them that have not ended
  total : Nat
  failed : Option (BitVec 9 × Dword)
  ack : Bool                        -- host acknowledgement awaited
  adds : Bool                       -- the remote counter add is still to come
  done : Bool
  issued : Nat                      -- clock of its issue, or of the first host piece that may be unacknowledged (R264)
  deriving DecidableEq, Repr

/-- A collective at this device's rank (R216, R265, R266). -/
structure Coll where
  id : Nat
  ctx : Nat
  comm : Nat
  oper : Nat                        -- 0 ar, 1 rs, 2 ag, 3 bc
  ty : Nat
  scope : Nat
  owner : Option (Nat × Nat)
  node : Option Nat
  desc : Dword
  op : Option Nat
  read : Bool                       -- descriptor read, and the collective entered
  src : Dword
  dsta : Dword
  cnt : Nat
  ctr : Dword
  root : Nat
  staged : List (Nat × List Byte)   -- chunk step, bytes landed so far
  stepsDone : List Nat              -- chunk steps whose reduce team has run
  sent : List (Nat × List Byte)     -- chunks sent to the next position
  credit : List Nat                 -- chunk steps for which the next position has staging room (R266)
  acked : List Nat                  -- chunks that the next position has acknowledged (R266)
  before : Memory                   -- MODEL: device memory at its issue, to tell which source elements change (R267)
  undef : Bool                      -- its source and destination overlap (R267)
  failed : Option (BitVec 9)
  info : Dword                      -- what its failure report carries: an address, or the rank that was reset (R268)
  done : Bool
  pc : Dword
  deriving DecidableEq, Repr

/-! ### Directory and census -/

/-- A directory slot (R322). -/
structure DirEnt where
  core : Nat
  ent : Nat
  v : Bool
  ctx : Nat
  gen : BitVec 8
  key : Dword
  loc : Dword
  dens : BitVec 8
  mov : Bool
  run : Bool
  ans : List Nat
  more : List Nat                   -- MODEL: open censuses answered that ANS has dropped (R288)
  deriving DecidableEq, Repr

/-- A DIRMOVE under way (R323). -/
structure DirMove where
  id : Nat
  handle : Dword
  toCore : Nat
  toEnt : Option Nat                -- the slot reserved at issue; none where the target was full
  loc : Dword
  ctx : Nat
  left : Bool
  fromCore : Nat
  key : Dword
  dens : BitVec 8
  ans : List Nat
  more : List Nat
  waits : List Nat                  -- censuses that reached the source while the entry was on its way (R329)
  deriving DecidableEq, Repr

/-- A combined report (R325, R330): value, answers, faults, and the cause of the first fault. -/
structure Part where
  value : Dword
  answers : Nat
  faults : Nat
  cause : BitVec 9
  deriving DecidableEq, Repr

/-- What a device takes part with in a census that a peer's team has opened (R331): the asker's device, this device's part
of the pod grid, the tag, unit and quota of the responders' records, and whether the close has come. -/
structure PeerAsk where
  dev : Nat
  grid : Nat
  tag : Nat
  gridUnit : Bool
  quota : Nat
  shut : Bool
  deriving DecidableEq, Repr

/-- A census (R289, R324, R330). -/
structure Census where
  id : Nat
  ident : Dword                     -- as a responder reads it
  slot : Nat
  asker : Nat                       -- team uid
  ctx : Nat
  q : Nat
  oper : Nat
  pod : Bool
  op : Option Nat
  key : Dword
  mask : Dword
  entry : Dword
  arg : Dword
  bresp : Nat
  ready : Bool                      -- descriptor read
  visited : List Nat
  cores : List (Nat × Nat × Part)   -- visited core: responders of the visit still to end, and its report so far
  lates : List (Nat × Part)         -- reports of ended late responders on their way, by core (R329)
  late : Nat                        -- acknowledged increments not yet matched by their report
  total : Part
  reported : List Nat
  peers : List Nat                  -- peer devices still to report
  heard : Option Nat                -- clock at which a device last reported (R331)
  done : Bool
  closed : List Nat                 -- cores that acknowledged the close
  peer : Option PeerAsk             -- of a peer's census; none of this device's own
  deriving DecidableEq, Repr

/-- Directory and census state of the device (R322 to R332). -/
structure CensusSt where
  dir : List DirEnt
  moves : List DirMove
  open' : List Census
  slotGen : List (Nat × Nat)        -- CGEN per slot
  named : List (Nat × Dword × Nat × Nat)  -- peers' censuses until a commit's close: device, identifier, number here, grid
  deriving DecidableEq, Repr

/-! ### Rhizoid units -/

/-- A Rhizoid descriptor's fields (R353). -/
structure NmDesc where
  img : Dword
  ilen : Nat
  aent : Nat
  eent : Nat
  ctr : Dword
  stat : Dword
  wbase : List Dword
  wlen : List Nat
  arg : List Word
  ok : Bool
  deriving DecidableEq, Repr

/-- A gather's operands (R355): team and group, source, index list offset, destination offset, count, element bytes. -/
structure Gather where
  tid : Nat
  gid : Nat
  src : Dword
  idx : Nat
  dst : Nat
  n : Nat
  esz : Nat
  deriving DecidableEq, Repr

/-- A command posted to a unit (R353, R354), or a gather (R355). -/
structure NmCmd where
  id : Nat
  ctx : Nat
  owner : Option (Nat × Nat)        -- issuing team and group (R185)
  scope : Nat
  reply : Option (Nat × Nat)        -- team and queue
  node : Option Nat
  op : Option Nat
  descAt : Dword
  desc : Option NmDesc
  image : List Byte
  winKey : List Nat                 -- memory keys of the windows
  ctrKey : Option Nat
  statKey : Option Nat
  ch : Nat
  gather : Option Gather
  deriving DecidableEq, Repr

/-- A row lock with its snapshot (R342, R351): the row's number, the physical address of its lowest byte, its 1 KiB. -/
structure ZLockSt where
  row : Nat
  base : Nat
  snap : List Byte
  since : Nat
  bad : List Nat                    -- ECC words of the snapshot that fail its check (R369)
  deriving DecidableEq, Repr

/-- A `dq` entry (R341): the memory key of its 64 bytes, the ZLD that reserved it, and the bytes once filled. -/
structure DqEnt where
  key : Nat
  pc : Int
  data : Option (List Byte)
  deriving DecidableEq, Repr

/-- A cause that has stopped both threads (R350), with what the status record says of it (R351). -/
structure ZStop where
  cause : BitVec 9
  pc : BitVec 12
  thr : Bool
  row : Nat
  nlk : Nat
  deriving DecidableEq, Repr

/-- A running Rhizoid command (R333, R334). -/
structure ZRun where
  cmd : NmCmd
  a : Vector Word 16
  e : Vector Word 32
  pcA : Int
  pcE : Int
  endA : Bool
  endE : Bool
  dq : List DqEnt
  wq : List (List Byte)
  locks : List ZLockSt
  lockWait : Option (Nat × Nat)     -- row of a ZLOCK that waits, and its issue clock
  sati : Bool
  inv : Bool
  start : Nat
  stop : Option ZStop
  deriving DecidableEq, Repr

/-- A Rhizoid unit (R333, R354, R365, R369). -/
structure Unit' where
  ch : Nat
  queue : List NmCmd
  run : Option ZRun
  openRows : List (Nat × Nat)       -- the banks that the unit holds, with the row open in each (R364, R366)
  slices : List (Nat × Nat)         -- those with a hold slice running: bank and the clock of its start (R366)
  served : List (Nat × Nat × List Nat) -- banks given up to the accesses then queued: bank, next identifier, keys (R366)
  offline : Bool
  deriving DecidableEq, Repr

/-! ### Contexts, task graph, command queues -/

/-- Task node states (R378). -/
inductive NState where
  | idle | waiting | ready | running | done
  deriving DecidableEq, Repr

/-- An armed task node: its record as read, and its state (R377, R378). -/
structure Node where
  ctx : Nat
  n : Nat
  kind : Nat
  csc : Nat
  payload : Dword
  cpl : Dword
  waits : List (Dword × Dword × Nat)      -- counter, target, scope
  met : List Nat                          -- waits that have completed
  bad : Bool                              -- one of them on bit 63
  st : NState
  result : Option (Option (BitVec 9))     -- the running work's outcome: completed, or failed with a cause
  deriving DecidableEq, Repr

/-- The kinds of queued command (R376). -/
inductive QKind where
  | launch (rec : Dword) (k : Nat)        -- `k`: its number among the LAUNCHes of its context (R419)
  | arm (first count : Nat)
  | waitc (addr target : Dword)
  | preempt (us : Nat)
  | resume
  | kill
  deriving DecidableEq, Repr

/-- A command in a command queue, with the host and SEQ of its reply (R376, R412). -/
structure QCmd where
  ctx : Nat
  queue : Nat
  host : BitVec 32
  seq : Dword
  kind : QKind
  started : Bool
  deriving DecidableEq, Repr

/-- A drain in progress (R383). -/
structure DrainSt where
  since : Nat
  queue : Option Nat                -- the queue of the PREEMPT; none for one that came from a peer (R383)
  deriving DecidableEq, Repr

/-- A registered host window (R413, R264). -/
structure HWin where
  ctx : Nat
  p : HwinPayload
  deriving DecidableEq, Repr

/-- A context (R413). -/
structure Ctx where
  num : Nat
  root : Nat
  thentry : Dword
  save : Dword
  dbgArea : Dword
  dbg : Bool
  stp : Bool
  deadline : Nat                    -- µs
  nodes : Nat
  nb : Dword
  pod : List Nat
  ownerKey : BitVec 32
  sharedKey : BitVec 32
  mark : Bool
  rates : Vector Nat 6
  buckets : Vector Int 6
  drain : Option DrainSt
  saved : Bool                      -- SAVED by a PREEMPT, until RESUME (R383, R386)
  launches : Nat                    -- LAUNCH commands received, for pod numbering (R419)
  tabs : List (Nat × Nat)           -- page tables that it has given the context: physical address and bytes (R400, R401)
  maps : List (Nat × Nat)           -- leaves the firmware has written: virtual address and level (R401, R413)
  deriving DecidableEq, Repr

/-- A communicator of a context (R216, R413, R419): its number and the devices of its ranks in ring order. -/
structure Comm where
  ctx : Nat
  num : Nat
  ranks : List Nat
  deriving DecidableEq, Repr

/-- A kept reply (R412), under its sender and SEQ, with the host it goes to: 0 while no owner holds the lease (R416). -/
structure Reply where
  host : BitVec 32
  seq : Dword
  cmd : BitVec 16
  ctx : Nat
  queue : Nat
  status : BitVec 16
  payload : List Byte
  dest : BitVec 32
  deriving DecidableEq, Repr

/-- An event that no host has acknowledged (R412). -/
structure Event where
  host : Option (BitVec 32)         -- none: no owner; kept until a CLAIM (R416)
  seq : Nat
  code : Nat
  ctx : Nat
  payload : List Byte
  born : Nat
  last : Nat
  deriving DecidableEq, Repr

/-- The lease (R414). -/
structure Lease where
  owner : BitVec 32
  term : Dword
  expiry : Nat                      -- ns
  deriving DecidableEq, Repr

/-- Bring-up and firmware state (R420 to R431). -/
structure Firm where
  powered : Bool
  step : Nat                        -- bring-up steps that have ended
  failed : Bool
  tripped : Bool
  standby : Bool                    -- the standby controller has retried step 2
  log : List Byte                   -- measurement log
  leaf : Nat                        -- next XMSS leaf (R422)
  markSeq : Nat
  markKey : Nat
  devNum : Nat
  failedParts : List (Nat × Nat)    -- step of bring-up, and the number of the stack, part or port that failed in it (R430)
  deriving DecidableEq, Repr

/-- Fabric and port state (R408, R417, R418). -/
structure Fabric where
  portsDown : List Nat
  lost : List Nat                   -- peers treated as lost
  silent : List (Nat × Nat × Nat)   -- peers that owe answers: how many, and since when they have sent nothing (R418)
  ethUp : Bool
  vdmDrops : Nat
  deriving DecidableEq, Repr

/-- Clocks, temperature and power (R426 to R429). -/
structure Power where
  points : List (Nat × Nat × Nat)   -- operating points that service firmware has set: island, MHz, mV (R426)
  steps : List (Nat × Nat)          -- islands that heat has stepped down: island, steps of 25 MHz (R427)
  stepping : List Nat               -- islands that step down: from 105 °C until below 100 °C (R427)
  heatAt : List (Nat × Nat)         -- MODEL: islands' last heat steps, with their clocks (R427)
  samples : List Nat                -- module power, newest first
  cap : Nat
  capping : Bool                    -- power has exceeded the cap and not fallen below it since (R429)
  lowered : Nat                     -- steps by which the cap has lowered the core islands (R429)
  loweredMem : Nat                  -- and then the L2 and base-die islands
  stretched : Nat                   -- clocks stretched by droop events
  period : Nat                      -- 10 µs periods whose boundary has refilled the buckets (R382)
  marked : List (Nat × Nat)         -- ECC words marked uncorrectable: device, 32-byte-aligned address
  corrected : Nat
  deriving DecidableEq, Repr

/-- A report to service firmware (R211, R390): its code, what COPYFAIL carries as its cause, pc, address. -/
structure Report where
  code : BitVec 9
  cause : Option (BitVec 9)
  pc : Dword
  addr : Dword
  deriving DecidableEq, Repr

/-- An RDMA request of a host of which packets are still to come (R382, R409): host, key, address, bytes, whether it
writes, how many bytes have been carried out, and the memory keys of a packet that waits at its home. -/
structure Rdma where
  host : BitVec 32
  key : BitVec 32
  va : Dword
  n : Nat
  data : Option (List Byte)         -- of a write
  got : Nat                         -- bytes of the packets that have been performed
  waits : List Nat
  deriving DecidableEq, Repr

/-- Host-facing state (R376, R409 to R416). -/
structure HostSt where
  lease : Lease
  replies : List Reply
  events : List Event
  sent : List (BitVec 32 × List Byte)     -- datagrams sent, newest first (R410)
  evSeq : Nat
  out : List (BitVec 32 × List Byte)      -- data returned by RDMA reads, host copies and mark records, newest first
  rdma : List Rdma                        -- RDMA requests under way (R382)
  naks : List (BitVec 32)                 -- hosts whose RDMA requests were answered with a NAK, newest first (R409)
  reports : List Report                  -- COPYFAIL and other reports to service firmware
  wins : List HWin
  comms : List Comm
  cmds : List QCmd
  deriving DecidableEq, Repr

/-! ### The machine -/

/-- A party that fetches and issues instructions: a group, a matrix stream, or a Rhizoid thread. -/
inductive Party where
  | group (tid gid : Nat)
  | stream (tid : Nat)
  | zaddr (ch : Nat)
  | zarith (ch : Nat)
  deriving DecidableEq, Repr

/-- A census as a peer's root sends it (R289, R331): its identifier, the pod grid's number, the tag of the asker's commit
unit where that is the team, and the descriptor's fields. -/
structure PeerCensus where
  ident : Dword
  podNo : Nat
  ctx : Nat
  unit : Option Nat
  oper : Nat
  key : Dword
  mask : Dword
  entry : Dword
  arg : Dword
  bresp : Nat
  deriving DecidableEq, Repr

/-- A commit of a peer at one of this device's Thallus units (R162, R163): its number there, the channel, whether it is
the implicit commit of an end, its count, tags and censuses, the context that is charged, and its pod grid's number. -/
structure PeerApply where
  cid : Nat
  ch : Nat
  last : Bool
  n : Nat
  tags : List Nat
  census : List Nat
  ctx : Nat
  podNo : Option Nat
  deriving DecidableEq, Repr

/-- What a peer device sends to this one (R156, R162, R163, R167, R170, R214, R262, R331, R383, R386, R387, R418). -/
inductive PeerMsg where
  | records (rs : List DRec)                          -- a record packet
  | apply (a : PeerApply) (bad : List Nat)            -- markers and apply; words that meet an error (R171)
  | completed (cid : Nat)                             -- a commit's completion, to the slices
  | admission (tag defq : Nat) (pod : Option (Nat × Nat)) -- admission of a unit, with its pod grid
  | release (tag : Nat) (discard : Bool)              -- its end; by a forced reset where its records are discarded
  | close (idents : List Dword)                       -- close of a commit that carries censuses
  | census (c : PeerCensus)
  | censusClose (ident : Dword)
  | pod (ctx podNo : Nat) (w : PodWord)               -- pod control
  | counter (pa scope : Nat) (poison : Bool)          -- remote counter add, at a scope (R262, R263)
  | window (core win off : Nat) (b : List Byte)       -- a write into an exported window
  | credit (id st : Nat)                              -- the next position has staging room for a chunk of a collective here
  | acked (id st : Nat)                               -- it has received that chunk
  | preempt (ctx us : Nat)
  | resume (ctx : Nat)
  | reset (ctx cause : Nat)
  deriving DecidableEq, Repr

/-- What moves next (MODEL): a party that issues, two groups of a team that issue as a pair (R146), an event of the
table, writes that another device's party performs on its own device's memory, what a peer sends here, a drain's
reservation of its lines (R251), an operating point that service firmware sets (R426), or the temperature of a die that is
no core's (R427). -/
inductive Item where
  | party (p : Party)
  | pair (tid a b : Nat)
  | event (i : Instr)
  | peer (cells : List Host.Cell)
  | message (src : Nat) (m : PeerMsg)
  | reserve (core : Nat)
  | operate (island mhz mv : Nat)
  | heat (island temp : Nat)
  deriving DecidableEq, Repr

/-- MODEL: a byte of device memory that a team's drain has written at its home, what stood there before, and the team:
until a group of the team releases at device scope, a copy may miss the write (R185, R310). -/
structure Drained where
  key : Nat
  old : Byte
  new : Byte
  tid : Nat
  deriving DecidableEq, Repr

/-- Work on the cores of the device. -/
structure Work where
  cores : List (Nat × Core)
  teams : List Team
  grids : List Grid
  disp : Dispatch
  ops : List Op
  copies : List Copy
  colls : List Coll
  nmPosted : List NmCmd             -- Rhizoid commands and gathers not yet accepted (R354)
  later : List (Nat × Nat × Bool)   -- counters' keys with the adds and poison marks that their homes hold back (R164, R342)
  drained : List Drained            -- drained bytes that no device-scope release has published (R185)
  deriving DecidableEq, Repr

/-- Contexts and their command-side state. -/
structure Ctxs where
  ctxs : List Ctx
  nodes : List Node
  deriving DecidableEq, Repr

/-- The machine. -/
structure State where
  clock : Nat                       -- ck since module reset (R68 CLOCK, R426)
  mem : Memory
  work : Work
  defer : Deferred
  cen : CensusSt
  units : List Unit'
  ctl : Ctxs
  host : HostSt
  firm : Firm
  fab : Fabric
  pow : Power
  ctlb : List (Nat × List TlbEnt)   -- cluster TLBs (R402)
  nextId : Nat                      -- MODEL: next operation, team, grid, copy, census or command identifier
  fresh : Nat                       -- MODEL: counter of free values
  turn : Turn                       -- MODEL: the turn of the group that issued last
  cur : Option Party                -- MODEL: the party that issues
  agenda : List Item                -- MODEL: what moves next, first first
  deriving DecidableEq, Repr

/-! ### Reset -/

/-- A core as reset leaves it (R98, R431). -/
def Core.reset : Core :=
  { rng := [], rngOld := [], l1 := [], icache := [], wtq := [], tlb := [], spor := [], abuf := [], cbuf := [], wbuf := [], left := [],
    fmaFree := Vector.replicate 8 0, sfuFree := Vector.replicate 8 0, unitUse := [], partLast := Vector.replicate 8 none,
    engFree := 0, engLast := 3, drainFree := 0, portFree := 0, temp := 0, droops := [], hot := false, coolSince := none,
    census := [], respQ := [] }

/-- The machine right after power is applied or module reset: nothing runs, memory, page tables, directories and the
measurement log are cleared (R431), the lease is free with TERM 0 (R414, R430), and bring-up has not begun (R430). -/
def State.reset : State :=
  { clock := 0
    mem := []
    work := { cores := [], teams := [], grids := [], disp := { queues := [], nextSeq := 0, order := 0, hotWait := [] }, ops := [],
              copies := [], colls := [], nmPosted := [], later := [], drained := [] }
    defer := { sorus := [], packets := [], thallus := [], commits := []
               tags := [], foreign := [], peerCommits := [], podSaid := [], waiting := [] }
    cen := { dir := [], moves := [], open' := [], slotGen := [], named := [] }
    units := []
    ctl := { ctxs := [], nodes := [] }
    host := { lease := { owner := 0, term := 0, expiry := 0 }, replies := [], events := [], sent := [], evSeq := 0
              out := [], rdma := [], naks := [], reports := [], wins := [], comms := [], cmds := [] }
    firm := { powered := false, step := 0, failed := false, tripped := false, standby := false, log := [], leaf := 0,
              markSeq := 0, markKey := 0, devNum := 0, failedParts := [] }
    fab := { portsDown := [], lost := [], silent := [], ethUp := false, vdmDrops := 0 }
    pow := { points := [], steps := [], stepping := [], heatAt := [], samples := [], cap := 4200
             capping := false, lowered := 0, loweredMem := 0, stretched := 0, period := 0, marked := [], corrected := 0 }
    ctlb := []
    nextId := 0
    fresh := 0
    turn := ⟨0, 0, 0, 0, 0, 0, 0⟩
    cur := none
    agenda := [] }

end Sys2Proof.Machine
end

