-- ==== Sys2Proof/Machine/Flags.lean ====
section
/-!
DEFINITION. Status bits, relations, cause codes and their routes (R40, R68, R69, R81, R389, R390).
-/

namespace Sys2Proof.Machine

/-- STATUS bits (R68). -/
def stSCUF : BitVec 3 := 1
def stSATI : BitVec 3 := 2
def stINV : BitVec 3 := 4

/-- STATUS bits from their conditions. -/
def stBits (scuf sati inv : Bool) : BitVec 3 :=
  (if scuf then stSCUF else 0) ||| (if sati then stSATI else 0) ||| (if inv then stINV else 0)

/-- A relation between two words, signed or unsigned (R40, R66, R87). -/
def relBv {w : Nat} (r : Rel) (signed : Bool) (a b : BitVec w) : Bool :=
  relInt r (if signed then a.toInt - b.toInt else (a.toNat : Int) - b.toNat)

/-- A saturating 32-bit addition or subtraction, with SATI (R81). -/
def satAdd (n32 sub : Bool) (a b : BitVec 32) : BitVec 32 × Bool :=
  let v (x : BitVec 32) : Int := if n32 then (x.toNat : Int) else x.toInt
  let e := if sub then v a - v b else v a + v b
  let c := clampI (if n32 then (0, 2 ^ 32 - 1) else (-(2 ^ 31), 2 ^ 31 - 1)) e
  (BitVec.ofInt 32 c.1, c.2)

/-- |a| or −a, clamped with `sat`, with SATI (R81). -/
def satNeg (abs sat : Bool) (a : BitVec 32) : BitVec 32 × Bool :=
  let e : Int := if abs then a.toInt.natAbs else -a.toInt
  if sat then
    let c := clampI (-(2 ^ 31), 2 ^ 31 - 1) e
    (BitVec.ofInt 32 c.1, c.2)
  else (BitVec.ofInt 32 e, false)

/-- The code of a cause (R27, R43, R76, R129, R139, R172, R218, R268, R292, R356, R388, R407). -/
def causeNat : Cause → Nat
  | .illop => 0x001 | .illfld => 0x002 | .illrsv => 0x003 | .regrange => 0x004 | .hdrrun => 0x005 | .retuf => 0x006
  | .wsovf => 0x007 | .pcbad => 0x008 | .privop => 0x009 | .sliderng => 0x00A | .qbound => 0x00B | .mfmtbad => 0x00C
  | .mloopbad => 0x00D | .dbgstep => 0x00E | .swt n => 0x030 + n % 16
  | .misaln => 0x040 | .addrbad => 0x041 | .dxlate => 0x042 | .dperm => 0x043 | .ifetch => 0x044
  | .abound => 0x080 | .ctile => 0x081 | .cbound => 0x082 | .barmix => 0x083 | .wslot => 0x084 | .copyoob => 0x085
  | .cbfut => 0x086 | .aexpbad => 0x087
  | .defret => 0x0C0 | .defquota => 0x0C1 | .defsize => 0x0C2 | .commitscope => 0x0C3 | .ctrdef => 0x0C4
  | .defeng => 0x0C5 | .applyue => 0x0C6 | .statnd => 0x0C7
  | .tapefull => 0x140 | .tapeempty => 0x141 | .tapeseq => 0x142 | .adjsize => 0x143 | .gatom => 0x144
  | .gord => 0x145 | .frgnd => 0x146
  | .dirbad => 0x180 | .censbad => 0x181 | .respbad => 0x182
  | .lrecbad => 0x1C0 | .lfit => 0x1C1 | .copyfail => 0x1C2 | .collmis => 0x1C3 | .hwlink => 0x1C4
  | .graphbad => 0x1C5 | .preemptrst => 0x1C6
  | .nmbad => 0x1C8 | .zillop => 0x1C9 | .zillrsv => 0x1CA | .zillfld => 0x1CB | .zwin => 0x1CC | .zmisaln => 0x1CD
  | .znolock => 0x1CE | .zlkmax => 0x1CF | .zlktime => 0x1D0 | .zqdead => 0x1D1 | .zqleft => 0x1D2 | .zlkend => 0x1D3
  | .zparity => 0x1D4 | .dblflt => 0x1D5 | .sramue => 0x1D6 | .memue => 0x1D7 | .ctxkill => 0x1D8

/-- The 9-bit code of a cause (R389). -/
def causeCode (c : Cause) : BitVec 9 := BitVec.ofNat 9 (causeNat c)

/-- Whether a cause of a group goes to the trap handler (R390); the others go to service firmware. -/
def toHandler : Cause → Bool
  | .dbgstep | .dblflt | .sramue | .memue | .applyue | .copyfail | .preemptrst | .ctxkill => false
  | _ => true

/-- Whether a code is a software cause SWT0 to SWT15 (R59, R395). -/
def isSwt (c : BitVec 9) : Bool := decide (0x030 ≤ c.toNat ∧ c.toNat ≤ 0x03F)

end Sys2Proof.Machine
end

