-- ==== Sys2Proof/Machine/Mem.lean ====
section
/-!
DEFINITION. Memory as a canonical list of cells (R3, R431), keyed lists, and indexed vectors.
-/

namespace Sys2Proof.Machine

/-- The byte at an address; an unlisted address reads 0 (R431). -/
def memGet : Memory → Nat → Byte
  | [], _ => 0
  | (k, b) :: r, a => if k = a then b else if a < k then 0 else memGet r a

/-- Write one byte, keeping the form: addresses rise strictly and no listed byte is 0. -/
def memSet : Memory → Nat → Byte → Memory
  | [], a, b => if b = 0 then [] else [(a, b)]
  | (k, c) :: r, a, b =>
    if a < k then (if b = 0 then (k, c) :: r else (a, b) :: (k, c) :: r)
    else if a = k then (if b = 0 then r else (a, b) :: r)
    else (k, c) :: memSet r a b

/-- Whether every key of the list is above `a`, keys rise strictly, and no byte is 0. -/
def wfFrom : Nat → Memory → Bool
  | _, [] => true
  | a, (k, b) :: r => decide (a ≤ k) && b != 0 && wfFrom (k + 1) r

/-- The canonical form of memory. -/
def Memory.wf (m : Memory) : Bool := wfFrom 0 m

/-- The n bytes from an address on. -/
def memGetN (m : Memory) (a n : Nat) : List Byte := (List.range n).map fun i => memGet m (a + i)

/-- Write bytes from an address on. -/
def memSetN : Memory → Nat → List Byte → Memory
  | m, _, [] => m
  | m, a, b :: bs => memSetN (memSet m a b) (a + 1) bs

/-- Write a list of cells. -/
def memSetCells : Memory → List Host.Cell → Memory
  | m, [] => m
  | m, (a, b) :: cs => memSetCells (memSet m a b) cs

/-- Clear n bytes from an address on. -/
def memClear (m : Memory) (a n : Nat) : Memory := m.filter fun c => !decide (a ≤ c.1 ∧ c.1 < a + n)

/-- The little-endian number of n bytes (R3). -/
def memNat (m : Memory) (a n : Nat) : Nat := natOfBytes (memGetN m a n)

/-- Write a number as n little-endian bytes (R3). -/
def memPut (m : Memory) (a n v : Nat) : Memory := memSetN m a (bytesOfNat n v)

/-- A list of bytes brought to a length. -/
def fitBytes (n : Nat) (l : List Byte) : List Byte := (List.range n).map fun i => l.getD i 0

/-! ### Keyed lists -/

/-- The value of a key. -/
def aGet {α : Type} : List (Nat × α) → Nat → Option α
  | [], _ => none
  | (k, v) :: r, n => if k = n then some v else aGet r n

/-- Set the value of a key, keys rising. -/
def aSet {α : Type} : List (Nat × α) → Nat → α → List (Nat × α)
  | [], n, v => [(n, v)]
  | (k, w) :: r, n, v => if n < k then (n, v) :: (k, w) :: r else if n = k then (n, v) :: r else (k, w) :: aSet r n v

/-- Remove a key. -/
def aDel {α : Type} (l : List (Nat × α)) (n : Nat) : List (Nat × α) := l.filter fun p => p.1 != n

/-! ### Indexed vectors -/

/-- Element i modulo the length; every index that an instruction can name is below it. -/
def vget {α : Type} {n : Nat} [NeZero n] (v : Vector α n) (i : Nat) : α :=
  v[i % n]'(Nat.mod_lt _ (Nat.pos_of_ne_zero (NeZero.ne n)))

/-- Replace element i modulo the length. -/
def vset {α : Type} {n : Nat} [NeZero n] (v : Vector α n) (i : Nat) (x : α) : Vector α n :=
  v.set (i % n) x (Nat.mod_lt _ (Nat.pos_of_ne_zero (NeZero.ne n)))

/-- A vector from its elements. -/
def vgen {α : Type} {n : Nat} (f : Nat → α) : Vector α n := Vector.ofFn fun i => f i.val

end Sys2Proof.Machine
end

