-- ==== Sys2Proof/Machine/Ops.lean ====
section
/-!
DEFINITION. Access to the parts of the state, register reads and writes in time (R143), the issue of a group
instruction (R16, R21 to R26, R45, R145), taking a trap and returning from one (R391 to R399), and long-latency
operations (R22 to R24).
-/

namespace Sys2Proof.Machine

/-! ### Parts of the state -/

/-- The team with a number. -/
def teamOf (s : State) (tid : Nat) : Option Team := s.work.teams.find? fun t => t.uid == tid

/-- The group of a team with a number. -/
def groupIn (t : Team) (gid : Nat) : Option Group := t.groups.find? fun g => g.gid == gid

/-- The group with a number of the team with a number. -/
def groupOf (s : State) (tid gid : Nat) : Option Group := (teamOf s tid).bind fun t => groupIn t gid

/-- Change one team. -/
def updTeam (s : State) (tid : Nat) (f : Team → Team) : State :=
  { s with work := { s.work with teams := s.work.teams.map fun t => if t.uid = tid then f t else t } }

/-- Change one group of a team. -/
def Team.updGroup (t : Team) (gid : Nat) (f : Group → Group) : Team :=
  { t with groups := t.groups.map fun g => if g.gid = gid then f g else g }

/-- Change one group. -/
def updGroup (s : State) (tid gid : Nat) (f : Group → Group) : State := updTeam s tid fun t => t.updGroup gid f

/-- A core; one that nothing has touched is as reset leaves it. -/
def coreOf (s : State) (n : Nat) : Core := (aGet s.work.cores n).getD Core.reset

/-- Replace a core. -/
def setCore (s : State) (n : Nat) (c : Core) : State := { s with work := { s.work with cores := aSet s.work.cores n c } }

/-- Change a core. -/
def updCore (s : State) (n : Nat) (f : Core → Core) : State := setCore s n (f (coreOf s n))

/-- The context with a number. -/
def ctxOf (s : State) (n : Nat) : Option Ctx := s.ctl.ctxs.find? fun c => c.num == n

/-- Change a context. -/
def updCtx (s : State) (n : Nat) (f : Ctx → Ctx) : State :=
  { s with ctl := { s.ctl with ctxs := s.ctl.ctxs.map fun c => if c.num = n then f c else c } }

/-- The grid with a number. -/
def gridOf (s : State) (uid : Nat) : Option Grid := s.work.grids.find? fun g => g.uid == uid

/-- Change a grid. -/
def updGrid (s : State) (uid : Nat) (f : Grid → Grid) : State :=
  { s with work := { s.work with grids := s.work.grids.map fun g => if g.uid = uid then f g else g } }

/-- Change the operations in flight. -/
def setOps (s : State) (f : List Op → List Op) : State := { s with work := { s.work with ops := f s.work.ops } }

/-- Advance the counter of free values. -/
def bump (s : State) : State := { s with fresh := s.fresh + 1 }

/-- Advance the counter of identifiers. -/
def bumpId (s : State) : State := { s with nextId := s.nextId + 1 }

/-- A report to service firmware (R211, R390). -/
def report (s : State) (r : Report) : State := { s with host := { s.host with reports := s.host.reports ++ [r] } }

/-- COPYFAIL, with its cause (R211). -/
def reportFail (s : State) (k : BitVec 9) (pc addr : Dword) : State := report s ⟨causeCode .copyfail, some k, pc, addr⟩

/-- The memory key of physical address 0 of a device. -/
def devBase (dev : Nat) : Nat := dev * 2 ^ 48

/-- The memory key of a physical address of this device. -/
def ownKey (s : State) (pa : Nat) : Nat := devBase s.firm.devNum + pa

/-- The device of a memory key. -/
def keyDev (key : Nat) : Nat := key / 2 ^ 48

/-- The physical address of a memory key. -/
def keyPa (key : Nat) : Nat := key % 2 ^ 48

/-- Whether bytes from a memory key on lie in a word marked uncorrectable (R171, R404). -/
def isMarked (s : State) (key n : Nat) : Bool :=
  s.pow.marked.any fun m => decide (devBase m.1 + m.2 < key + n ∧ key < devBase m.1 + m.2 + 32)

/-- The 32-byte word of a physical address, the unit in which words are marked (R404). -/
def eccWord (pa : Nat) : Nat := pa / 32 * 32

/-! ### Free values -/

/-- A vector register of free values, from a counter and the register's number. -/
def freeV (k n : Nat) : VReg := vgen fun l => Config.freeLane k (64 * n + l)

/-- A free uniform register or predicate register, by kind (0 `s`, 1 `p`, 2 `sp`) and number, beyond the vector
registers' places. -/
def freeU (k kind n : Nat) : Dword :=
  Config.freeLane k (16384 + 128 * kind + 2 * n + 1) ++ Config.freeLane k (16384 + 128 * kind + 2 * n)

/-! ### Registers -/

/-- The physical number of a window-relative register (R50). -/
def physOf (g : Group) (n : Nat) : Nat := (g.w.wb + n) % g.bud

/-- A vector register by physical number. -/
def physReg (g : Group) (n : Nat) : VReg := vget g.r.v n

/-- Merge a vector into a register in the lanes of a mask (R45). -/
def mergeV (m : Mask) (old new : VReg) : VReg := vgen fun l => if laneOn m l then vget new l else vget old l

/-- Merge a mask into a predicate in the lanes of a mask (R45). -/
def mergeP (m old new : Mask) : Mask := (old &&& ~~~m) ||| (new &&& m)

/-- Make one write (R143). -/
def applyWr (g : Group) (w : RegWr) : Group :=
  match w with
  | .v n m x => { g with r := { g.r with v := vset g.r.v n (mergeV m (vget g.r.v n) x) } }
  | .s n x => { g with r := { g.r with s := vset g.r.s n x } }
  | .p n m x => { g with r := { g.r with p := vset g.r.p n (mergeP m (vget g.r.p n) x) } }
  | .sp n b => { g with r := { g.r with sp := vset g.r.sp n b } }
  | .em x => { g with r := { g.r with em := x } }
  | .fmode x => { g with r := { g.r with fmode := x } }
  | .statusSet x => { g with r := { g.r with status := g.r.status ||| x } }
  | .statusClear x => { g with r := { g.r with status := g.r.status &&& ~~~x } }
  | .frsz x => { g with w := { g.w with frsz := x } }
  | .wsp x => { g with w := { g.w with wsp := x } }
  | .tr n x =>
    let tr := g.t.tr
    let t :=
      if n = 0x034 then { g.t with tr := { tr with em := x } }
      else if n = 0x037 then { g.t with tr := { tr with rpc := x } }
      else if n = 0x038 then { g.t with tr := { tr with rep := x } }
      else { g.t with scr := vset g.t.scr (n - 0x03B) x }
    { g with t := t }

/-- Make several writes in order. -/
def applyWrs (g : Group) (ws : List RegWr) : Group := ws.foldl applyWr g

/-- The order of pending writes: by time, and at one time a clearing of STATUS after the writes that set it (R69). -/
def PendWr.key (w : PendWr) : Nat :=
  2 * w.land + (match w.wr with | .statusClear _ => 1 | _ => 0)

/-- Insert a pending write after every write that is not later. -/
def pendIns (w : PendWr) : List PendWr → List PendWr
  | [] => [w]
  | x :: r => if w.key < x.key then w :: x :: r else x :: pendIns w r

/-- The destination of one register write. -/
def wrDst : RegWr → List Dst
  | .v n m _ => [.v n m]
  | .s n _ => [.s n]
  | .p n _ _ => [.p n]
  | .sp n _ => [.sp n]
  | _ => []

/-- The destinations of a memory operation's data. -/
def memDst (d : MDst) (ls : List LaneAcc) : List Dst :=
  if ls.isEmpty then []
  else match d with
    | .v ns => ns.map fun n => .v n (maskOf (ls.map fun l => l.lane))
    | .s n => [.s n]
    | .none => []

/-- Whether a lane's page is differentiable. -/
def Xl.isG : Xl → Bool
  | .bad _ g => g.isSome
  | .at _ _ _ sh => sh.isSome

/-- The destinations that an operation writes when it completes (R24). -/
def opDsts : OpKind → List Dst
  | .regs ws => ws.flatMap wrDst
  | .qpop d _ t => .s d :: (match t with | some n => [.sp n] | none => [])
  | .mem st _ _ rev d ls _ _ _ => memDst d (if rev then ls.filter fun a => a.x.isG == st else ls)
  | .abuf _ _ _ d ls => memDst d ls
  | .cbuf _ _ d ls => memDst d ls
  | .atom _ _ _ d ls _ => memDst d ls
  | .waita _ _ _ _ d _ => [.s d]
  | .cwaitge _ d _ => [.sp d]
  | .cwaitb d _ => [.sp d]
  | .fmtsel d _ _ _ => [.s d]
  | .tapespill d _ _ => [.s d]
  | .dirins d _ _ _ => [.s d]
  | .dirlook d _ _ _ => [.s d]
  | .dirdel d _ => [.s d]
  | .dirmove d _ => [.s d]
  | .nmgather _ d _ _ _ _ _ _ => [.sp d]
  | _ => []

/-- A free value in a destination, from a counter (R24). -/
def freeWr (k : Nat) : Dst → RegWr
  | .v n m => .v n m (freeV k n)
  | .s n => .s n (freeU k 0 n)
  | .sp n => .sp n ((freeU k 2 n).getLsbD 0)
  | .p n => .p n (-1) (freeU k 1 n)

/-- Whether two destinations share bits. -/
def dstMeets : Dst → Dst → Bool
  | .v a m, .v b k => a == b && (m &&& k) != 0
  | .s a, .s b => a == b
  | .sp a, .sp b => a == b
  | .p a, .p b => a == b
  | _, _ => false

/-- A destination's whole register. -/
def Dst.whole : Dst → Dst
  | .v n _ => .v n (-1)
  | .s n => .s n
  | .sp n => .sp n
  | .p n => .p n

/-- The lanes of a destination that a write of another shares with it; all of them for a destination without lanes. -/
def sharedLanes : Dst → Dst → Mask
  | .v a m, .v b k => if a = b then m &&& k else 0
  | a, b => if dstMeets a b then -1 else 0

/-- An operation that puts these destinations in flight: they hold undefined values from now on (R24). -/
def takeDsts (id : Nat) (flag : Option Nat) (ds : List Dst) (g : Group) : Group :=
  { g with i := { g.i with dsts := g.i.dsts ++ ds.map fun d => ⟨id, flag, d, 0, false⟩ } }

/-- A flag's count has fallen to zero, or an operation has none: its destinations hold defined values again (R24). -/
def freeDsts (p : PendDst → Bool) (g : Group) : Group :=
  { g with i := { g.i with dsts := g.i.dsts.filter fun e => !p e } }

/-- The group as an instruction reads it: pending destinations hold free values, the whole register once a fixed-latency
write has reached it (R24, R143). -/
def veil (k : Nat) (g : Group) : Group :=
  applyWrs g (g.i.dsts.map fun e => freeWr k (if e.met then e.dst.whole else e.dst))

/-- Make the pending writes whose order lies below a bound, in their order, and note those that reach a register that a
long-latency operation has pending (R143). -/
def settleTo (k : Nat) (g : Group) : Group :=
  let now := g.i.pend.takeWhile fun w => w.key < k
  let later := g.i.pend.dropWhile fun w => w.key < k
  let met (e : PendDst) : Bool := now.any fun w => (wrDst w.wr).any fun d => dstMeets e.dst.whole d.whole
  let g' := applyWrs g (now.map fun w => w.wr)
  { g' with i := { g'.i with pend := later, dsts := g'.i.dsts.map fun e => if met e then { e with met := true } else e } }

/-- Make the pending writes that are seen at clock `u` (R143). -/
def settleGroup (u : Nat) (g : Group) : Group := settleTo (2 * u + 2) g

/-- Bring a group's registers to clock `u`. -/
def settle (s : State) (tid gid u : Nat) : State := updGroup (bump s) tid gid (settleGroup u)

/-! ### Undo log (R405) -/

/-- The bytes of a vector register, lane 0 first (R52, R405). -/
def vBytes (x : VReg) : List Byte := x.toList.flatMap fun w => bytesOfNat 4 w.toNat

/-- The log entry of a write, with the value that it replaces. The target numbers physical vector registers, `s`
registers, and, under kind 2, `p0` to `p7`, `sp0` to `sp7` and `em` as 0 to 16 (log entry 10). -/
def undoOf (g : Group) (u : Nat) (pc : Dword) (w : RegWr) : List Undo :=
  match w with
  | .v n m _ => [⟨u, pc, 0, BitVec.ofNat 64 n, m, vBytes (vget g.r.v n), 0, false⟩]
  | .s n _ => [⟨u, pc, 1, BitVec.ofNat 64 n, 0, bytesOfNat 8 (vget g.r.s n).toNat, 0, false⟩]
  | .p n _ _ => [⟨u, pc, 2, BitVec.ofNat 64 n, 0, bytesOfNat 8 (vget g.r.p n).toNat, 0, false⟩]
  | .sp n _ => [⟨u, pc, 2, BitVec.ofNat 64 (8 + n), 0, bytesOfNat 8 (bit (vget g.r.sp n)), 0, false⟩]
  | .em _ => [⟨u, pc, 2, 16, 0, bytesOfNat 8 g.r.em.toNat, 0, false⟩]
  | _ => []

/-- An entry of 288 bytes as it is laid out in the debug area (R405). -/
def Undo.bytes (e : Undo) : List Byte :=
  bytesOfNat 8 (e.kind * 2 ^ 56 + e.pc.toNat % 2 ^ 56) ++ bytesOfNat 8 e.target.toNat ++ bytesOfNat 8 e.mask.toNat ++
    bytesOfNat 8 0 ++ (List.range 256).map fun i => e.old.getD i 0

/-- Add entries to a log, a ring of 2,048 with the newest last; they take the places after it. -/
def undoAdd (l new : List Undo) : List Undo :=
  let k := (l.getLast?.map fun e => e.seq + 1).getD 0
  let all := l ++ new.zipIdx.map fun p => { p.1 with seq := k + p.2 }
  if new.isEmpty then l else all.drop (all.length - 2048)

/-- Log writes of a group before they are made, with the values at their clock. -/
def logWrs (dbg : Bool) (u : Nat) (pc : Dword) (at' : Nat) (ws : List RegWr) (g : Group) : Group :=
  if dbg then
    let seen := settleGroup at' g
    { g with undo := undoAdd g.undo (ws.flatMap (undoOf seen u pc)) }
  else g

/-! ### What an instruction says of its issue -/

/-- The unit that an instruction occupies (R93), with its clocks. -/
inductive IUnit where
  | none
  | fma (n : Nat)
  | sfu (n : Nat)
  deriving DecidableEq, Repr

/-- The issue facts of an instruction: its row, header, whether it is a lane instruction (R45), its window-relative
vector numbers (R18), whether it is long-latency and then writes a register (R23), and whether it is a memory
instruction, which acquires and fences hold (R107, R119, R121). -/
structure Iss where
  row : String
  h : Hdr
  lane : Bool := false
  vs : List Nat := []
  ll : Bool := false
  wr : Bool := true
  mem : Bool := false
  unit : IUnit := .none

/-- A group at the issue of an instruction: the team and group as settled at clock `u`, the instruction's address, its
active lanes, whether a uniform guard holds, and the flag that FS selects. -/
structure Ctl where
  tid : Nat
  gid : Nat
  t : Team
  g : Group
  u : Nat
  pc : Dword
  next : Dword
  act : Mask
  uni : Bool
  on : Bool
  replay : Option Replay
  flag : Option Nat
  dbg : Bool
  id0 : Nat

/-- A cause with its lanes and address (R393, R394). -/
structure Raise where
  cause : Cause
  mask : Mask
  smask : Mask := 0
  scause : BitVec 9 := 0
  addr : Dword := 0

/-- What the own part of an instruction answers: its effects with the next pc and the clocks that hold the next issue,
a precise cause, a state in which a trap has been taken, or a hold that leaves everything as it stands. -/
inductive Body where
  | done (s : State)
  | jump (s : State) (pc : Dword) (hold : Nat)
  | trap (r : Raise)
  | stop (s : State)
  | held

def Ctl.s (c : Ctl) (n : Nat) : Dword := vget c.g.r.s n
def Ctl.v (c : Ctl) (n : Nat) : VReg := vget c.g.r.v (physOf c.g n)
def Ctl.p (c : Ctl) (n : Nat) : Mask := vget c.g.r.p n
def Ctl.sp (c : Ctl) (n : Nat) : Bool := vget c.g.r.sp n
def Ctl.em (c : Ctl) : Mask := c.g.r.em
/-- One lane of a vector register. -/
def Ctl.lane (c : Ctl) (n l : Nat) : BitVec 32 := vget (c.v n) l

/-! ### Causes across lanes -/

/-- A lane with its lowest cause and its address. -/
structure LaneCause where
  lane : Nat
  code : BitVec 9
  addr : Nat
  deriving DecidableEq, Repr

/-- The lowest code of a list. -/
def lowCode (l : List LaneCause) : BitVec 9 :=
  l.foldl (fun a x => if x.code < a then x.code else a) ((l.head?.map fun x => x.code).getD 0)

/-- The entry of the lowest lane. -/
def lowestLane : List LaneCause → Option LaneCause
  | [] => none
  | x :: r => match lowestLane r with
    | some y => if y.lane < x.lane then some y else some x
    | none => some x

/-- The winning cause of an instruction (R393): the lowest code with its lanes; the other faulting lanes, with their
lowest code, are secondary; the address is that of the lowest lane that wins. For a uniform instruction the mask is
`em` (R129). -/
structure Won where
  code : BitVec 9
  mask : Mask
  smask : Mask
  scode : BitVec 9
  addr : Nat
  deriving DecidableEq, Repr

def winner (uni : Option Mask) (l : List LaneCause) : Won :=
  let c := lowCode l
  let first := l.filter fun x => x.code == c
  let rest := l.filter fun x => x.code != c
  let a := ((lowestLane first).map fun x => x.addr).getD 0
  match uni with
  | some em => ⟨c, em, 0, 0, a⟩
  | none => ⟨c, maskOf (first.map fun x => x.lane), maskOf (rest.map fun x => x.lane), lowCode rest, a⟩

/-- The record of a precise cause with code and lanes as `winner` gives them (R394, R395). -/
def wonRec (g : Group) (pc : Dword) (w : Won) : TrapRec :=
  { cause := w.code, rev := g.e.rev, pc := pc, mask := w.mask, smask := w.smask, em := g.r.em, scause := w.scode,
    addr := BitVec.ofNat 64 w.addr, rpc := pc, rep := 0, skid := 0, info := 0, tape := [] }

/-! ### Lane faults after issue -/

/-- The access size in bytes (R40, R107). -/
def sizeBytes : SizeCode → Nat
  | .n8 | .i8 => 1
  | .n16 | .i16 => 2
  | .b32 => 4
  | .b64 => 8
  | .b128 => 16

/-- The cause that a lane of LD, ST, LDU or STU raises after issue, the lower code of several (R108, R109, R271, R274,
R393); `gridU`: its team's commit
unit is the grid. -/
def memFault (gridU store rev : Bool) (z : SizeCode) (o : Ord) (x : Xl) : Option (BitVec 9) :=
  match x with
  | .bad c _ => some c
  | .at _ _ dfr sh =>
    match sh with
    | some (_, sd) =>
      if rev && store && sd && gridU then some (causeCode .commitscope)
      else if sizeBytes z < 4 then some (causeCode .adjsize)
      else if rev && o.code == 1 then some (causeCode .gord)
      else none
    | none => if store && dfr && decide (sizeBytes z < 4) then some (causeCode .defsize) else none

/-- The cause that a lane of ATOM or RED raises after issue (R117, R271). -/
def atomFault (returns : Bool) (x : Xl) : Option (BitVec 9) :=
  match x with
  | .bad c _ => some c
  | .at _ _ dfr sh =>
    if sh.isSome then some (causeCode .gatom) else if returns && dfr then some (causeCode .defret) else none

/-- The cause that the one access of a uniform instruction raises after issue (R108, R307). -/
def uniFault (isCadd : Bool) (x : Xl) : Option (BitVec 9) :=
  match x with
  | .bad c _ => some c
  | .at _ _ _ sh => if isCadd && sh.isSome then some (causeCode .gatom) else none

/-- Whether a destination is a register. -/
def MDst.isNone : MDst → Bool
  | .none => true
  | .v _ => false
  | .s _ => false

/-- The lanes of an operation that fault after issue, by their translation (R108, R110). -/
def opFaults (gridU : Bool) (k : OpKind) : List LaneCause :=
  let pick (l : List LaneAcc) (f : Xl → Option (BitVec 9)) : List LaneCause :=
    l.filterMap fun a => (f a.x).map fun c => ⟨a.lane, c, a.va⟩
  match k with
  | .mem st z o rev _ ls _ _ _ => pick ls (memFault gridU st rev z o)
  | .atom _ _ _ d ls _ => pick ls (atomFault (!d.isNone))
  | .waita _ _ _ _ _ a => pick [a] (uniFault false)
  | .cwaitge _ _ a => pick [a] (uniFault false)
  | .cadd _ _ a => pick [a] (uniFault true)
  | .fmtsel _ a _ _ => pick [a] (uniFault false)
  | _ => []

/-! ### Taking a trap and returning from one (R390 to R399) -/

/-- A party of a team that could still issue: another group that has not ended, or the matrix stream. -/
def otherParties (t : Team) (gid : Nat) : Bool :=
  t.groups.any (fun g => g.gid != gid && !g.ended) || (match t.stream with | some m => !m.ended | none => false)

/-- The handler entry of a context; zero where there is none (R390). -/
def thentryOf (s : State) (ctx : Nat) : Dword := ((ctxOf s ctx).map fun c => c.thentry).getD 0

/-- Count a completion on a flag (R22); at zero it reports that its operations have completed (R24). -/
def decFlag (f : Option Nat) (g : Group) : Group :=
  match f with
  | some k =>
    let n := vget g.f.cf k - 1
    let g := { g with f := { g.f with cf := vset g.f.cf k n } }
    if n = 0 then freeDsts (fun e => e.flag == some k) g else g
  | none => g

/-- Enter the handler with a record (R396): the record is written, the mode is saved in it and set to forward, the
count of the faulting operation's flag falls by one, and the pc goes to THENTRY, whose first instruction is held 16 ck.
Registers, window, FMODE, STATUS and the flags A and B stay. At HDRRUN the eight headers' WAIT holds the handler's first
instruction, which is the next that the group issues (R21, R43); that the count of successive headers starts again at zero
is the model's choice (log entry 19). -/
def enterGroup (clock id : Nat) (entry : Dword) (rec : TrapRec) (flag : Option Nat) (g : Group) : Group :=
  let g := decFlag flag g
  { g with
    r := { g.r with pc := entry }
    f := { g.f with wait := if rec.cause = causeCode .hdrrun then g.f.wait else 0, hdrRun := 0 }
    i := { g.i with hold := max g.i.hold (clock + 16), ready := clock }
    t := { g.t with pending := none, tr := { rec with rev := g.e.rev }, mode := g.e.rev, inHandler := true, replay := none
                    skid := 0, entry := id }
    e := { g.e with rev := false } }

/-- The lowest-numbered group with a cause raised and not entered (R398). -/
def firstPending (t : Team) : Option Group :=
  t.groups.foldl (fun acc g =>
    match g.t.pending, acc with
    | none, a => a
    | some _, none => some g
    | some _, some h => if g.gid < h.gid then some g else some h) none

/-- Enter the handler for the lowest-numbered group that waits for it, if none is in its handler and the team is not
halted for service firmware (R396, R398). -/
def enterNext (s : State) (tid : Nat) : State :=
  match teamOf s tid with
  | none => s
  | some t =>
    if t.groups.any (fun g => g.t.inHandler) then s
    else match t.halt, firstPending t with
      | .service _, _ => s
      | _, none => s
      | _, some g =>
        match g.t.pending with
        | none => s
        | some (rec, flag) => updGroup s tid g.gid (enterGroup s.clock s.nextId (thentryOf s t.ctx) rec flag)

/-- Halt a team for service firmware with a record of one of its groups (R390, R392). -/
def haltService (s : State) (tid gid : Nat) (code : BitVec 9) (rec : TrapRec) : State :=
  let s := updTeam s tid fun t => { t with halt := .service code }
  let s := updGroup s tid gid fun g => { g with t := { g.t with tr := rec, pending := none } }
  report s ⟨code, none, rec.pc, rec.addr⟩

/-- A team halted for service firmware. -/
def Halt.isService : Halt → Bool
  | .running => false
  | .settling _ => false
  | .service _ => true

/-- A responder ends with a cause that would go to the trap handler; one that has ended, or that a cause has halted for
service firmware, keeps that ending (R328). -/
def endResponder (s : State) (tid : Nat) (code : BitVec 9) : State :=
  updTeam s tid fun t =>
    if t.ended || t.halt.isService then t
    else { t with ended := true, groups := t.groups.map fun g => { g with ended := true }
                  resp := t.resp.map fun r => { r with faultCause := some code } }

/-- A cause of a group (R390 to R399). A responder ends with it (R328). In its handler it becomes DBLFLT, with the inner
cause in TRSCAUSE and the outer record kept; a cause of service firmware, or any cause of a context without a handler,
halts the team; otherwise the team halts and the group enters the handler, at once where no other party of the team can
issue, and else when the halt has settled (TRAP_HANDLER_ENTRY). Writes that the group's issued instructions have yet to
make are seen at their own clocks (R69, R143); it issues nothing for 16 ck, and TREM is the mask that they leave (R392,
R394). `flag` is the faulting operation's. -/
def raiseRec (s : State) (tid gid : Nat) (route : Bool) (rec : TrapRec) (flag : Option Nat) : State :=
  match groupOf s tid gid, teamOf s tid with
  | some g, some t =>
    let r := { rec with em := (settleGroup (s.clock + 8) g).r.em }
    if t.resp.isSome && route then endResponder s tid r.cause
    else if g.t.inHandler then
      haltService s tid gid (causeCode .dblflt) { g.t.tr with scause := r.cause }
    else if !route || thentryOf s t.ctx = 0 then haltService s tid gid r.cause r
    else
      let s := updGroup s tid gid fun g => { g with t := { g.t with pending := some (r, flag) } }
      let s := updTeam s tid fun t =>
        match t.halt with
        | .running => { t with halt := .settling s.clock }
        | .settling _ | .service _ => t
      if otherParties t gid then s else enterNext s tid
  | _, _ => s

/-- The record of a precise cause (R394, R395). -/
def preciseRec (g : Group) (pc : Dword) (r : Raise) : TrapRec :=
  { cause := causeCode r.cause, rev := g.e.rev, pc := pc, mask := r.mask, smask := r.smask, em := g.r.em,
    scause := r.scause, addr := r.addr, rpc := if isSwt (causeCode r.cause) then pc + 12 else pc, rep := 0, skid := 0,
    info := 0, tape := [] }

/-- A precise cause at an instruction (R391): it stops the group before any effect. -/
def raisePrecise (s : State) (tid gid : Nat) (pc : Dword) (r : Raise) : State :=
  match groupOf s tid gid with
  | some g => raiseRec s tid gid (toHandler r.cause) (preciseRec g pc r) none
  | none => s

/-- The halted parties of a team go on, from now on eligible again (R145), or the next group with a cause enters its
handler (R397, R398). -/
def resumeTeam (s : State) (tid : Nat) : State :=
  match teamOf s tid with
  | none => s
  | some t =>
    if (firstPending t).isSome then enterNext s tid
    else updTeam s tid fun t =>
      { t with halt := .running
               groups := t.groups.map fun g => { g with t := { g.t with skid := 0 }, i := { g.i with ready := s.clock } } }

/-- Return from the handler (R397): `em` and the saved mode come back, the flags A and B do not; replay lanes make the
group reissue the instruction at TRPC on them and go on at TRRPC, otherwise it goes on at TRRPC. -/
def returnGroup (g : Group) : Group :=
  let tr := g.t.tr
  { g with
    r := { g.r with em := tr.em, pc := if tr.rep = 0 then tr.rpc else tr.pc }
    e := { g.e with rev := g.t.mode }
    t := { g.t with inHandler := false,
                    replay := if tr.rep = 0 then none else some ⟨tr.rep, tr.rpc, tr.tape⟩ } }

/-! ### The issue of a group instruction -/

/-- What stands between a group and an issue. -/
inductive Prep where
  | none
  | held (s : State)
  | trap (s : State)
  | go (c : Ctl) (s : State)

/-- Whether a team's halt lets a group issue (R392, R398): a group in its handler issues; with a handler running, or the
team halted for service firmware, no other does; while the halt settles a sibling issues at most 6 instructions within
64 ck, and a group whose own cause is raised issues nothing. -/
def mayIssue (t : Team) (g : Group) (clock : Nat) : Bool :=
  !g.ended && g.t.pending.isNone &&
    match t.halt with
    | .running => true
    | .service _ => false
    | .settling since =>
      g.t.inHandler ||
        (!t.groups.any (fun h => h.t.inHandler) && decide (g.t.skid < 6) && decide (clock < since + 64))

/-- Whether a flag of a wait mask is set (R21). -/
def waitsFlag (g : Group) : Bool := (List.range 12).any fun k => g.f.wait.getLsbD k && vget g.f.cf k != 0

/-- Whether every flag is clear (R52, R53, R57). -/
def flagsClear (g : Group) : Bool := (List.range 12).all fun k => vget g.f.cf k == 0

/-- Whether one of these operations is still in flight. -/
def opsLive (s : State) (ids : List Nat) : Bool := ids.any fun n => s.work.ops.any fun o => o.id == n

/-- The first operation identifier that counts for a group: in its handler, those of before the entry do not. -/
def firstId (g : Group) : Nat := if g.t.inHandler then g.t.entry else 0

/-- The words that an operation's accesses find at their homes: memory key and bytes. -/
def opWords (k : OpKind) : List (Nat × Nat) :=
  let at' (n : Nat) (a : LaneAcc) : List (Nat × Nat) := match a.x with
    | .bad _ _ => []
    | .at key _ _ sh => (key, n) :: (match sh with | some p => [(p.1, n)] | none => [])
  match k with
  | .mem _ z _ _ _ ls _ _ _ => ls.flatMap (at' (sizeBytes z))
  | .atom _ w _ _ ls _ => ls.flatMap (at' (if w then 8 else 4))
  | .waita _ _ b64 _ _ a => at' (if b64 then 8 else 4) a
  | .cwaitge _ _ a => at' 8 a
  | .cadd _ _ a => at' 8 a
  | .fmtsel _ a _ _ => at' 64 a
  | .tapefill _ ks _ => ks.map fun k => (k.1, 16)
  | _ => []

/-- Whether an access of an operation would find an uncorrectable word (R404). -/
def opMarked (s : State) (k : OpKind) : Bool := (opWords k).any fun w => isMarked s w.1 w.2

/-- A seventh instruction waits behind a memory instruction whose lanes will be found to fault (R392). -/
def checksPending (s : State) (t : Team) (g : Group) : Bool :=
  s.work.ops.any fun o => o.tid == t.uid && o.gid == g.gid && decide (firstId g ≤ o.id) && decide (6 ≤ o.after) &&
    (!(opFaults t.d.gridUnit o.kind).isEmpty || opMarked s o.kind)

/-- Holds that lapse by completions (R21, R107, R119, R121, R124, R392). -/
def heldByOps (s : State) (t : Team) (g : Group) (mem : Bool) : Bool :=
  waitsFlag g || opsLive s g.i.allHold || (mem && opsLive s g.i.memHold) || checksPending s t g

/-- The clock from which a partition's unit is free (R93). -/
def unitFree (c : Core) (part : Nat) : IUnit → Nat
  | .none => 0
  | .fma _ => vget c.fmaFree part
  | .sfu _ => vget c.sfuFree part

/-- The first clock at which a partition may issue: one issue per partition and clock, and at one clock a lower partition
before a higher, so that none issues at a clock at which a higher one has (R75, R98, R122, R145). -/
def slotFree (c : Core) (part : Nat) : Nat :=
  (List.range 8).foldl (fun n q => if q < part then n else max n ((vget c.partLast q).elim 0 fun l => l + 1)) 0

/-- The clock at which a group issues (R25, R49, R55, R93, R145): at least max(DIST, 1) after its previous issue, past
its holds, its unit and its partition's slot free. -/
def issueClock (s : State) (t : Team) (g : Group) (dist : Nat) (un : IUnit) : Nat :=
  let c := coreOf s t.core
  max (max s.clock (match g.i.last with | some l => l + max dist 1 | none => 0))
    (max (max g.i.hold (unitFree c g.part un)) (slotFree c g.part))

/-- The clock from which a group's instruction is eligible, but for its unit (R145). -/
def eligibleAt (g : Group) (dist : Nat) (mem : Bool) : Nat :=
  max (max g.i.ready (if mem then g.i.memReady else 0))
    (max (match g.i.last with | some l => l + max dist 1 | none => 0) g.i.hold)

/-- The clocks from `a` to before `b` in which other instructions occupied a unit of a partition (R93). -/
def unitBusy (c : Core) (part a b : Nat) : IUnit → Nat
  | .none => 0
  | .fma _ => busy false
  | .sfu _ => busy true
where
  busy (sfu : Bool) : Nat :=
    c.unitUse.foldl (fun n x => if x.part = part ∧ x.sfu = sfu then n + (min b x.hi - max a x.lo) else n) 0

/-- Whether the group's last issue was a YIELD (R58). -/
def hasYielded (g : Group) : Bool := g.i.yield.isSome && g.i.yield == g.i.last

/-- The turn in which a group's instruction issues at clock `u` (R145). After a YIELD its ready age is that of the
youngest group eligible from its clock (R58). -/
def turnAt (i : Iss) (s : State) (t : Team) (g : Group) (u : Nat) : Turn :=
  let e := eligibleAt g i.h.dist i.mem
  { n := s.fresh + 1, clock := u, core := t.core, part := g.part, prio := t.prio, since := 2 * e + bit (hasYielded g)
    waited := (u - e) - unitBusy (coreOf s t.core) g.part e u i.unit }

/-- Whether a guard holds on uniform predicates (R16). -/
def guardOn (g : Group) : Option Guard → Bool
  | none => true
  | some k => vget g.r.sp k.num != k.neg

/-- The lanes that a guard leaves (R16). -/
def guardMask (g : Group) : Option Guard → Mask
  | none => -1
  | some k => if k.neg then ~~~(vget g.r.p k.num) else vget g.r.p k.num

/-- The flag that FS selects (R22). -/
def flagOf (g : Group) (fs : Bool) : Option Nat := if fs then g.f.flagB else g.f.flagA

/-- The party of the state is a group that exists. -/
def curGroup (s : State) : Option (Team × Group) :=
  match s.cur with
  | some (.group tid gid) => (teamOf s tid).bind fun t => (groupIn t gid).map fun g => (t, g)
  | _ => none

/-- The length of the instruction in bytes (R7). -/
def isLen (h : Hdr) : Nat := formLen h.form

/-- Whether a flag's count is at its limit (R22). -/
def flagFull (g : Group) : Option Nat → Bool
  | some k => decide (63 ≤ vget g.f.cf k)
  | none => false

/-- Bring a group to its issue: its holds, its clock, the causes that depend on its state (R18, R19, R23), its active
lanes. One that would count above its flag's limit is held (R22). A precise cause of the decode checks stands on the
active lanes (R26). -/
def prep (i : Iss) (s : State) : Prep :=
  match curGroup s with
  | none => .none
  | some (t0, g0) =>
    let u := issueClock s t0 g0 i.h.dist i.unit
    if !mayIssue t0 g0 s.clock || !mayIssue t0 g0 u || heldByOps s t0 g0 i.mem then .held s
    else
      let k := s.fresh
      let s0 := s
      let s := settle { s with clock := u, turn := turnAt i s t0 g0 u } t0.uid g0.gid u
      match teamOf s t0.uid with
      | none => .none
      | some t =>
        match groupIn t g0.gid with
        | none => .none
        | some g1 =>
          let g := veil k g1
          let act := match g.t.replay with
            | some r => r.active
            | none => if i.lane then g.r.em &&& guardMask g i.h.guard else g.r.em
          let c : Ctl :=
            { tid := t.uid, gid := g0.gid, t := t, g := g, u := u, pc := g.r.pc,
              next := match g.t.replay with
                | some r => r.rpc
                | none => g.r.pc + BitVec.ofNat 64 (isLen i.h)
              act := act, uni := !i.lane, on := i.lane || g.t.replay.isSome || guardOn g i.h.guard, replay := g.t.replay
              flag := flagOf g i.h.fs
              dbg := ((ctxOf s t.ctx).map fun c => c.dbg).getD false, id0 := s.nextId }
          let cause : Option Cause :=
            if i.ll && i.wr && c.flag.isNone then some .illfld
            else if i.vs.any (fun n => g.bud ≤ n) then some .regrange
            else none
          if i.ll && c.on && flagFull g0 (flagOf g0 i.h.fs) then .held s0
          else match cause with
          | some k => .trap (raisePrecise s t.uid g.gid g.r.pc { cause := k, mask := act })
          | none => .go c s

/-- Note an occupation of a unit; one that ended 4,096 ck ago no longer counts in any group's turn (R145). -/
def noteUse (x : UnitUse) (l : List UnitUse) : List UnitUse := x :: l.filter fun y => x.lo < y.hi + 4096

/-- Occupy an instruction's unit (R93). -/
def occupy (un : IUnit) (part u : Nat) (c : Core) : Core :=
  match un with
  | .none => c
  | .fma n => { c with fmaFree := vset c.fmaFree part (u + n), unitUse := noteUse ⟨part, false, u, u + n⟩ c.unitUse }
  | .sfu n => { c with sfuFree := vset c.sfuFree part (u + n), unitUse := noteUse ⟨part, true, u, u + n⟩ c.unitUse }

/-- The group after an issue: the next pc, its holds, the consumed WAIT, the ended header run, and the skid (R21, R25,
R43, R392). -/
def retireGroup (u : Nat) (pc : Dword) (hold : Nat) (settling : Bool) (g : Group) : Group :=
  { g with
    r := { g.r with pc := pc }
    f := { g.f with wait := 0, hdrRun := 0 }
    i := { g.i with last := some u, hold := hold }
    t := { g.t with replay := none, skid := if settling then g.t.skid + 1 else g.t.skid } }

/-- Count an issued instruction behind the group's operations (R392). -/
def countAfter (tid gid lo hi : Nat) (o : Op) : Op :=
  if o.tid = tid ∧ o.gid = gid ∧ lo ≤ o.id ∧ o.id < hi then { o with after := o.after + 1 } else o


/-- After the instruction's own effects: unit and partition, pc, holds and skid counts. -/
def retireOnly (i : Iss) (c : Ctl) (s : State) (pc : Dword) (hold : Nat) : State :=
  let settling : Bool := (match c.t.halt with | .running => false | .settling _ => true | .service _ => true)
    && !c.g.t.inHandler
  let s := updCore s c.t.core fun k =>
    { occupy i.unit c.g.part c.u k with partLast := vset k.partLast c.g.part (some c.u) }
  let s := setOps s fun l => l.map (countAfter c.tid c.gid (firstId c.g) c.id0)
  updGroup s c.tid c.gid (retireGroup c.u pc hold settling)

/-- DBGSTEP after an instruction while the context's step bit is set (R406). -/
def dbgStep (c : Ctl) (s : State) : State :=
  if ((ctxOf s c.t.ctx).map fun k => k.stp).getD false then
    raisePrecise s c.tid c.gid c.pc { cause := .dbgstep, mask := c.em }
  else s

/-- The end of an issue. -/
def retire (i : Iss) (c : Ctl) (s : State) (pc : Dword) (hold : Nat) : State := dbgStep c (retireOnly i c s pc hold)

/-- Issue an instruction whose own part is `body` (R16, R26, R45). A false uniform guard leaves only the issue. -/
def issue (i : Iss) (body : Ctl → State → Body) (s : State) : Host.Outcome State Fault Refusal :=
  match prep i s with
  | .none => .fault (.noParty i.row)
  | .held s' => .next s'
  | .trap s' => .next s'
  | .go c s1 =>
    if c.on then
      match body c s1 with
      | .done s2 => .next (retire i c s2 c.next 0)
      | .jump s2 pc hold => .next (retire i c s2 pc hold)
      | .trap r => .next (raisePrecise s1 c.tid c.gid c.pc r)
      | .stop s2 => .next s2
      | .held => .next s
    else .next (retire i c s1 c.next 0)

/-! ### Results -/

/-- Writes that later instructions see from `lat` clocks after the issue (R143, R144). -/
def pendWrs (c : Ctl) (lat : Nat) (ws : List RegWr) (s : State) : State :=
  updGroup s c.tid c.gid fun g =>
    let g := logWrs c.dbg c.u c.pc (c.u + lat) ws g
    { g with i := { g.i with pend := ws.foldl (fun l w => pendIns ⟨c.u + lat, w⟩ l) g.i.pend } }

/-- Raise the count of a flag (R22). -/
def incFlag (f : Option Nat) (g : Group) : Group :=
  match f with
  | some k => { g with f := { g.f with cf := vset g.f.cf k (vget g.f.cf k + 1) } }
  | none => g

/-- Put a long-latency operation in flight: it takes its flag, and its destinations hold free values until that flag
reports completion (R22, R24). -/
def startOp (c : Ctl) (k : OpKind) (s : State) : State :=
  let ds := opDsts k
  let op : Op := { id := s.nextId, tid := c.tid, gid := c.gid, flag := c.flag, pc := c.pc, next := c.next, kind := k,
                   after := 0, issued := c.u, uni := if c.uni then some c.em else none }
  let s := updGroup s c.tid c.gid fun g =>
    takeDsts s.nextId c.flag ds (incFlag c.flag (logWrs c.dbg c.u c.pc c.u (ds.map (freeWr s.fresh)) g))
  setOps (bumpId s) fun l => l ++ [op]

/-- An operation in flight. -/
def opOf? (s : State) (id : Nat) : Option Op := s.work.ops.find? fun o => o.id == id

/-- An operation of a group completes: the count of its flag falls by one, the holds that it was part of lapse, and from
then on the ready age runs (R22, R145). -/
def wake (clock : Nat) (o : Op) (g : Group) : Group :=
  let h := freeDsts (fun e => e.id == o.id && e.flag.isNone) (decFlag o.flag g)
  let full := flagFull g o.flag
  let now := (waitsFlag g && !waitsFlag h) || g.i.allHold.contains o.id || full
  { h with i := { h.i with ready := if now then clock else h.i.ready
                           memReady := if g.i.memHold.contains o.id then clock else h.i.memReady } }

/-- An operation completes: it leaves, and the count of its flag falls by one (R22). -/
def endOp (s : State) (o : Op) : State :=
  updGroup (setOps s fun l => l.filter fun x => x.id != o.id) o.tid o.gid (wake s.clock o)

/-- Keep what stands in some of the lanes that a write shares with the results of other operations, as free values choose:
the moments at which they write have no order (R24). -/
def keepSome (k : Nat) (clash : Mask) (w : RegWr) : List RegWr :=
  match w with
  | .v n m x => [.v n (m &&& ~~~(clash &&& freeU k 3 n)) x]
  | .p n m x => [.p n (m &&& ~~~(clash &&& freeU k 4 n)) x]
  | .s n x => if clash != 0 && (freeU k 5 n).getLsbD 0 then [] else [.s n x]
  | .sp n b => if clash != 0 && (freeU k 6 n).getLsbD 0 then [] else [.sp n b]
  | w => [w]

/-- The lanes of a pending destination that writes share with it. -/
def PendDst.lanesIn (e : PendDst) (ds : List Dst) : Mask := ds.foldl (fun m d => m ||| sharedLanes e.dst d) 0

/-- Write registers of an operation's group now (a completion's results, R24): after the fixed-latency writes that are
seen by now, but before a clearing of STATUS at this clock (R69, R143). Where another operation's result has landed since
its issue, either result may stay. -/
def writeNow (s : State) (o : Op) (ws : List RegWr) : State :=
  updGroup (bump s) o.tid o.gid fun g =>
    let mine (w : RegWr) : Mask :=
      g.i.dsts.foldl (fun m e => if e.id = o.id ∧ e.lanesIn (wrDst w) ≠ 0 then m ||| e.clash else m) 0
    let g := applyWrs (settleTo (2 * s.clock + 1) g) (ws.flatMap fun w => keepSome s.fresh (mine w) w)
    let ds := ws.flatMap wrDst
    { g with i := { g.i with dsts := g.i.dsts.map fun e =>
        if e.id = o.id then e else { e with clash := e.clash ||| e.lanesIn ds } } }

/-- Hold the group's later memory instructions until the operation that is issued next completes (R107, R119, R121). -/
def holdMem (c : Ctl) (s : State) : State :=
  updGroup s c.tid c.gid fun g => { g with i := { g.i with memHold := s.nextId :: g.i.memHold } }

/-- Hold all of the group's issue until the operation that is issued next completes (R124). -/
def holdAll (c : Ctl) (s : State) : State :=
  updGroup s c.tid c.gid fun g => { g with i := { g.i with allHold := s.nextId :: g.i.allHold } }

/-! ### The common shapes of fixed-latency instructions -/

/-- A fixed-latency instruction that writes registers `lat` clocks after its issue (R143). -/
def fixed (i : Iss) (lat : Nat) (f : Ctl → List RegWr) (s : State) : Host.Outcome State Fault Refusal :=
  issue i (fun c s1 => .done (pendWrs c lat (f c) s1)) s

/-- A vector result in the active lanes. -/
def wrV (c : Ctl) (d : Nat) (f : Nat → BitVec 32) : RegWr := .v (physOf c.g d) c.act (vgen f)

/-- STATUS bits, where there are any. -/
def wrSt (x : BitVec 3) : List RegWr := if x = 0 then [] else [.statusSet x]

/-- The OR of STATUS bits over the active lanes. -/
def laneSt (m : Mask) (f : Nat → BitVec 3) : BitVec 3 := (lanesOf m).foldl (fun a l => a ||| f l) 0

end Sys2Proof.Machine
end

