-- ==== Sys2Proof/Machine/Translate.lean ====
section
/-!
DEFINITION. Addresses: page tables and translation (R298, R362, R400 to R403), rows of memory (R364), and the state of
a physical word (R404).
-/

namespace Sys2Proof.Machine

/-- A leaf entry of a page table (R401). -/
structure Leaf where
  level : Nat
  frame : Nat        -- physical address of the frame
  pdev : Nat
  sframe : Nat       -- physical address of the shadow frame
  r : Bool
  w : Bool
  x : Bool
  cache : Nat
  d : Bool
  g : Bool
  n : Bool
  f : Bool
  p : Bool
  shr : Bool
  deriving DecidableEq, Repr

/-- Bits of a leaf's size: 64 KiB, 2 MiB, 1 GiB (R400). -/
def leafBits : Nat → Nat
  | 0 => 16
  | 1 => 21
  | _ => 30

/-- The index of a virtual address at a level (R400). -/
def pteIndex (level va : Nat) : Nat :=
  match level with
  | 0 => bitsAt va 16 5
  | 1 => bitsAt va 21 9
  | 2 => bitsAt va 30 13
  | _ => bitsAt va 43 13

/-- Reserved bits and values of an entry (R401). -/
def pteReserved (e : Nat) : Bool :=
  bitsAt e 106 22 != 0 || bitsAt e 48 16 != 0 || bitsAt e 13 3 != 0 || decide (1 < bitsAt e 5 2)

/-- The fields of a leaf entry (R401). -/
def pteLeaf (level e : Nat) : Leaf :=
  { level := level, frame := bitsAt e 16 32 * 2 ^ 16, pdev := bitsAt e 96 10, sframe := bitsAt e 64 32 * 2 ^ 16
    r := bitAt e 2, w := bitAt e 3, x := bitAt e 4, cache := bitsAt e 5 2, d := bitAt e 7, g := bitAt e 8, n := bitAt e 9
    f := bitAt e 10, p := bitAt e 11, shr := bitAt e 12 }

/-- The attributes that make an entry invalid: D with N (R150), G with D, N or P (R271, R298), N at another size than
2 MiB or with P (R362), a misaligned frame or shadow frame, or a shadow frame that is not this device's memory (R1, R298,
R401). -/
def leafBad (l : Leaf) : Bool :=
  (l.d && l.n) || (l.g && (l.d || l.n || l.p)) || (l.n && (l.level != 1 || l.p)) ||
    l.frame % 2 ^ leafBits l.level != 0 ||
    (l.g && (l.sframe % 2 ^ leafBits l.level != 0 || decide (Config.mappable < l.sframe + 2 ^ leafBits l.level))) ||
    (!l.g && l.sframe != 0)

/-- What a walk finds: a leaf entry, no translation, or an uncorrectable table word (R401, R404). -/
inductive Walk where
  | leaf (level e : Nat)
  | none
  | marked
  deriving DecidableEq, Repr

/-- Walk the table from a level down (R400, R401). -/
def walkFrom (s : State) (va : Nat) : Nat → Nat → Walk
  | 0, _ => .none
  | k + 1, table =>
    let a := ownKey s (table + 16 * pteIndex k va)
    if isMarked s a 16 then .marked
    else
      let e := memNat s.mem a 16
      if !bitAt e 0 || pteReserved e then .none
      else if bitAt e 1 then (if k = 3 then .none else .leaf k e)
      else if k = 0 || bitsAt e 64 32 != 0 then .none
      else walkFrom s va k (bitsAt e 16 32 * 2 ^ 16)

/-- A translation held for a virtual address (R402). -/
def tlbFind (l : List TlbEnt) (ctx va : Nat) : Option TlbEnt :=
  l.find? fun e => e.ctx == ctx && e.vpage == va / 2 ^ leafBits e.level * 2 ^ leafBits e.level

/-- The leaf entry of an address: from the core's TLB, its cluster's, or a walk (R400 to R402). -/
def findLeaf (s : State) (core : Option Nat) (c : Ctx) (va : Nat) : Walk :=
  let hit := match core with
    | some n =>
      match tlbFind (coreOf s n).tlb c.num va with
      | some e => some e
      | none => tlbFind ((aGet s.ctlb (n / 8)).getD []) c.num va
    | none => none
  match hit with
  | some e => .leaf e.level e.pte.toNat
  | none => walkFrom s va 4 c.root

/-- Whether an address lies in a registered host window of a context (R108, R413). -/
def inHostWindow (s : State) (ctx va : Nat) : Bool :=
  s.host.wins.any fun w => w.ctx == ctx && decide (w.p.base.toNat ≤ va ∧ va < w.p.base.toNat + w.p.len)

/-- The leaves of a context that map a physical frame of this device (R298; log entry 11). -/
def mappingsOf (s : State) (c : Ctx) (frame level : Nat) : List Leaf :=
  c.maps.filterMap fun m =>
    match walkFrom s m.1 4 c.root with
    | .leaf k e =>
      let l := pteLeaf k e
      if !l.p && decide (l.frame < frame + 2 ^ leafBits level ∧ frame < l.frame + 2 ^ leafBits k) then some l else none
    | _ => none

/-- Whether the shadow of a leaf is invalid: its frame is mapped with G, N, F or P (R298). -/
def shadowBad (ms : List Leaf) : Bool := ms.any fun l => l.g || l.n || l.f

/-- Whether it is deferred: its frame is mapped with D (R271, R298; log entry 11). -/
def shadowDfr (ms : List Leaf) : Bool := ms.any fun l => l.d

/-- Translate an address for an access that reads, writes or executes (R8, R108, R298, R400, R401, R404). -/
def xlate (s : State) (core : Option Nat) (ctx va : Nat) (r w x : Bool) : Xl :=
  match ctxOf s ctx with
  | none => .bad (causeCode .dxlate) none
  | some c =>
    if 2 ^ 56 ≤ va then .bad (causeCode .dxlate) none
    else if inHostWindow s ctx va then .bad (causeCode .dperm) none
    else match findLeaf s core c va with
      | .none => .bad (causeCode .dxlate) none
      | .marked => .bad (causeCode .memue) none
      | .leaf level e =>
        let l := pteLeaf level e
        let ms := if l.g then mappingsOf s c l.sframe level else []
        if leafBad l || shadowBad ms then .bad (causeCode .dxlate) (if l.g then some false else none)
        else if (r && !l.r) || (w && !l.w) || (x && !l.x) then
          .bad (causeCode .dperm) (if l.g then some (shadowDfr ms) else none)
        else
          let off := va % 2 ^ leafBits level
          let dev := if l.p then l.pdev else s.firm.devNum
          .at (devBase dev + l.frame + off) (l.cache == 0 && !l.d && !l.p) l.d
            (if l.g then some (ownKey s (l.sframe + off / 4 * 4), shadowDfr ms) else none)

/-- The leaf that maps an address, where it is valid. -/
def leafAt (s : State) (ctx va : Nat) : Option Leaf :=
  match ctxOf s ctx with
  | none => none
  | some c =>
    match walkFrom s va 4 c.root with
    | .leaf level e => let l := pteLeaf level e; if leafBad l then none else some l
    | _ => none

/-- The memory key of an address at its home, for a device-side read or write with a permission (R185). -/
def homeKey (s : State) (ctx va : Nat) (write : Bool) : Except (BitVec 9) Nat :=
  match xlate s none ctx va (!write) write false with
  | .bad c _ => .error c
  | .at k _ _ _ => .ok k

/-! ### Rows -/

/-- Whether a physical frame of 2 MiB of this device is mapped as an N page (R362). -/
def isNFrame (s : State) (pa : Nat) : Bool :=
  s.ctl.ctxs.any fun c => c.maps.any fun m => m.2 == 1 &&
    (match walkFrom s m.1 4 c.root with
     | .leaf 1 e => let l := pteLeaf 1 e; l.n && l.frame == pa / 2 ^ 21 * 2 ^ 21
     | _ => false)

/-- The bank of an offset in an N frame (R364). -/
def nBank (pa : Nat) : Nat := bitsAt pa 8 4

/-- The row of an offset in an N frame, from the frame's first row (R364). -/
def nRow (pa : Nat) : Nat := bitsAt pa 14 7

/-- Where a byte of an N frame lies in its channel (R364). -/
structure DramAt where
  pseudo : Bool
  bank : Nat
  row : Nat
  column : Nat
  deriving DecidableEq, Repr

/-- The place of a byte of an N frame: RB is 128 times the frame's number within the pseudo-channel (R364). -/
def nPlace (pa : Nat) : DramAt :=
  let f := pa / 2 ^ 21
  { pseudo := Config.framePseudo f, bank := nBank pa, row := 128 * Config.frameIndex f + nRow pa
    column := 256 * bitsAt pa 12 2 + bitsAt pa 0 8 }

/-- A number for a bank of a unit's channel: its two pseudo-channels have banks of their own (R364). -/
def nBankId (pa : Nat) : Nat := 16 * bit (nPlace pa).pseudo + (nPlace pa).bank

/-- The channel of a physical address of an ordinary page: the interleave's grain is 2 KiB (R1, R364). -/
def ordinaryCh (pa : Nat) : Nat := Config.ordinaryChannel (pa / 2 ^ 11) % Config.channels

/-- A number for the DRAM row of a physical address of this device: in an N frame by R364, with the frame's number in the
place of RB, else as the hashed interleave gives it (R155, R161, R364; log entry 3). -/
def rowId (s : State) (pa : Nat) : Nat :=
  if isNFrame s pa then pa / 2 ^ 21 * 2 ^ 11 + nBank pa * 2 ^ 7 + nRow pa
  else 2 ^ 50 + ordinaryCh pa * 2 ^ 32 + Config.ordinaryRow pa

/-- The channel of a physical address (R155, R362). -/
def channelOf (s : State) (pa : Nat) : Nat :=
  if isNFrame s pa then Config.frameChannel (pa / 2 ^ 21) % Config.channels else ordinaryCh pa

/-- The 1 KiB of an N row, as the physical addresses of its four stripes (R364). -/
def nRowStripes (pa : Nat) : List Nat :=
  (List.range 4).map fun c => pa / 2 ^ 21 * 2 ^ 21 + nRow pa * 2 ^ 14 + c * 2 ^ 12 + nBank pa * 2 ^ 8

/-- A row marked pending by an apply, until the commit's completion reaches the slice (R164). -/
def rowPending (s : State) (key : Nat) : Bool :=
  s.defer.thallus.any fun t => t.2.rows.any fun r => t.1.1 == keyDev key && r.2 == rowId s (keyPa key)

/-- A row that a running Rhizoid command holds locked (R342, R367). -/
def rowLocked (s : State) (key : Nat) : Bool :=
  s.units.any fun u => match u.run with
    | some z => z.locks.any fun l => keyDev key == s.firm.devNum && l.row == rowId s (keyPa key)
    | none => false

/-- The bank within its channel of a physical address: one of 16 in each of two pseudo-channels (R364). -/
def bankOf (s : State) (pa : Nat) : Nat := if isNFrame s pa then nBankId pa else Config.ordinaryBank pa % 32

/-- A bank that its channel's unit holds with another row open than a location's (R366). -/
def bankHeld (s : State) (key : Nat) : Bool :=
  s.units.any fun u => !u.openRows.isEmpty && keyDev key == s.firm.devNum && u.ch == channelOf s (keyPa key) &&
    (match aGet u.openRows (bankOf s (keyPa key)) with
     | some row => row != rowId s (keyPa key)
     | none => false)

/-- Whether a drain's add-on-store, another than one named by its number, has reserved the line of a location (R251). -/
def lineReserved (s : State) (but : Option Nat) (key : Nat) : Bool :=
  s.work.teams.any fun t => t.stream.any fun m => m.drains.any fun d =>
    some d.id != but && d.resv.contains (key / Config.lineBytes * Config.lineBytes)

/-- An access waits at the home of a location, of all but a drain by its number (R164, R251, R342, R366, R367). -/
def homeWaitsBut (s : State) (but : Option Nat) (key : Nat) : Bool :=
  rowPending s key || rowLocked s key || bankHeld s key || lineReserved s but key

/-- An access to a location waits at its home. -/
def homeWaits (s : State) (key : Nat) : Bool := homeWaitsBut s none key

end Sys2Proof.Machine
end

