-- ==== Sys2Proof/Machine/Operands.lean ====
section
/-!
DEFINITION. Operand forms: last sources (R12, R14, R80, R104), vector pairs (R19), lane addresses (R105), the address
checks made before any lane (R106, R432), and causes across lanes (R393).
-/

namespace Sys2Proof.Machine

/-- A uniform source: register, sign-extended IMM32, or literal (R12, R14, R64, R66). -/
def Ctl.srcS (c : Ctl) : Src → Dword
  | .reg n => c.s n
  | .imm x => sext64 x
  | .lit x => x

/-- One lane of a vector source: register, IMM32, or literal bits 31:0 in every lane (R80). -/
def Ctl.srcV (c : Ctl) (x : Src) (l : Nat) : BitVec 32 :=
  match x with
  | .reg n => c.lane n l
  | .imm k => k
  | .lit k => k.setWidth 32

/-- The vector numbers that a source names (R18). -/
def srcRegs : Src → List Nat
  | .reg n => [n]
  | .imm _ => []
  | .lit _ => []

/-- The 64-bit vector pair n, n + 1 of a lane (R19, R78). -/
def Ctl.pair (c : Ctl) (n l : Nat) : BitVec 64 := (c.lane (n + 1) l) ++ (c.lane n l)

/-- A 64-bit vector source: a pair, or the literal (R104). -/
def Ctl.srcPair (c : Ctl) (x : Src) (l : Nat) : BitVec 64 :=
  match x with
  | .reg n => c.pair n l
  | .imm k => sext64 k
  | .lit k => k

/-- The registers of an access from its first on (R107). -/
def runRegs (d n : Nat) : List Nat := (List.range n).map fun j => d + j

/-- The data of a lane for a store: its registers, low first (R107). -/
def Ctl.data (c : Ctl) (d n l : Nat) : BitVec 128 :=
  (List.range n).foldl (fun acc j => acc ||| ((c.lane (d + j) l).setWidth 128 <<< (32 * j))) 0

/-- The byte address of a lane (R105): device memory takes a pair in AM V, the A-buffer a single register. -/
def Ctl.addr (c : Ctl) (m : MemArg) (abuf : Bool) (size l : Nat) : Nat :=
  let base : BitVec 64 := match m.mode with
    | .v => (match m.base with
      | .reg n => if abuf then (c.lane n l).setWidth 64 else c.pair n l
      | .imm k => sext64 k
      | .lit k => k)
    | .sv => c.srcS m.base + (sext64 (c.lane m.idx l) <<< m.sh)
    | .sl => c.srcS m.base + BitVec.ofNat 64 (l * size)
  (base + BitVec.ofInt 64 m.off).toNat

/-- The vector numbers that an address names (R18, R105). -/
def addrRegs (m : MemArg) (abuf : Bool) : List Nat :=
  match m.mode with
  | .v => (match m.base with | .reg n => if abuf then [n] else [n, n + 1] | .imm _ => [] | .lit _ => [])
  | .sv => [m.idx]
  | .sl => []

/-! ### Address checks -/

/-- The check of one address before any lane takes effect: MISALN, then ADDRBAD in device memory, or ABOUND in the
A-buffer (R106, R148). -/
def addrCause (abuf : Option Nat) (size a : Nat) : Option (BitVec 9) :=
  if a % min size 16 != 0 then some (causeCode .misaln)
  else match abuf with
    | some n => if n < a + size then some (causeCode .abound) else none
    | none => if 2 ^ 56 ≤ a then some (causeCode .addrbad) else none

/-- The lanes whose addresses fail (R106). -/
def addrCauses (abuf : Option Nat) (size : Nat) (ls : List (Nat × Nat)) : List LaneCause :=
  ls.filterMap fun p => (addrCause abuf size p.2).map fun c => ⟨p.1, c, p.2⟩

/-- The addresses of the active lanes. -/
def Ctl.addrs (c : Ctl) (m : MemArg) (abuf : Bool) (size : Nat) : List (Nat × Nat) :=
  (lanesOf c.act).map fun l => (l, c.addr m abuf size l)

/-- A register offset from a uniform address, modulo 2^64 (R115). -/
def Ctl.uaddr (c : Ctl) (a : Src) (off : Int) : Nat := (c.srcS a + BitVec.ofInt 64 off).toNat

/-- The body of an instruction whose address fails its check: a precise cause on those lanes (R106, R432). -/
def trapLanes (c : Ctl) (s : State) (uni : Bool) (l : List LaneCause) : Body :=
  .stop (raiseRec s c.tid c.gid true (wonRec c.g c.pc (winner (if uni then some c.em else none) l)) none)

end Sys2Proof.Machine
end

