-- ==== Sys2Proof/Machine/Control.lean ====
section
/-!
DEFINITION. Clause headers, branches, the execution mask, predicate logic, YIELD, TRAP and RTE (R20, R21, R43, R45 to
R49, R56 to R62, R397). NOP and EXIT, which a matrix stream also issues, and the calls, which access memory, have
files of their own.
-/

namespace Sys2Proof.Machine

/-! ### Clause headers -/

/-- Consume a header: the flags A and B, the flags that the next instruction waits for (R21). -/
def takeHeader (wait : BitVec 12) (a b : Option Nat) (g : Group) : Group :=
  { g with
    r := { g.r with pc := g.r.pc + 4 }
    f := { g.f with flagA := a, flagB := b, wait := g.f.wait ||| wait, hdrRun := g.f.hdrRun + 1 } }

/-- A clause header is consumed at fetch and takes no issue slot; the ninth in succession traps HDRRUN (R21, R43). -/
def execClauseHeader (wait : BitVec 12) (a b : Option Nat) (s : State) : Host.Outcome State Fault Refusal :=
  match curGroup s with
  | none => .fault (.noParty "CLAUSE_HEADER")
  | some (t, g) =>
    if !mayIssue t g s.clock then .next s
    else if 8 ≤ g.f.hdrRun then
      let s1 := settle s t.uid g.gid s.clock
      let em := ((groupOf s1 t.uid g.gid).map fun k => k.r.em).getD 0
      .next (raisePrecise s1 t.uid g.gid g.r.pc { cause := .hdrrun, mask := em })
    else .next (updGroup s t.uid g.gid (takeHeader wait a b))

/-! ### Branches -/

/-- The issue facts of a uniform control instruction. -/
def ctlIss (row : String) (h : Hdr) : Iss := { row := row, h := h }

/-- A relative target: the base word's address and a word offset (R48). -/
def relTgt (pc : Dword) (off : Int) : Dword := pc + BitVec.ofInt 64 (4 * off)

/-- Whether a target from a register or a frame is refused (R48, R53). -/
def pcBad (x : Dword) : Bool := x.toNat % 4 != 0 || decide (2 ^ 56 ≤ x.toNat)

/-- A relative branch: taken, it holds the target 4 ck; not taken, it holds nothing (R48, R49). -/
def branch (row : String) (h : Hdr) (off : Int) (take : Ctl → Bool) (s : State) : Host.Outcome State Fault Refusal :=
  issue (ctlIss row h) (fun c s1 => if take c then .jump s1 (relTgt c.pc off) (c.u + 4) else .done s1) s

/-- The predicate that a branch names, inverted where it says so (R48). -/
def brPred (p : Nat) (neg : Bool) (c : Ctl) : Mask := if neg then ~~~(c.p p) else c.p p

def takeAny (p : Nat) (neg : Bool) (c : Ctl) : Bool := (c.em &&& brPred p neg c) != 0
def takeAll (p : Nat) (neg : Bool) (c : Ctl) : Bool := (c.em &&& ~~~(brPred p neg c)) == 0
def takeNone (p : Nat) (neg : Bool) (c : Ctl) : Bool := (c.em &&& brPred p neg c) == 0

def execBra (h : Hdr) (off : Int) (s : State) : Host.Outcome State Fault Refusal :=
  branch "BRA" h off (fun _ => true) s
def execBraExt (h : Hdr) (off : Int) (s : State) : Host.Outcome State Fault Refusal :=
  branch "BRA_EXT" h off (fun _ => true) s
def execBrany (h : Hdr) (p : Nat) (neg : Bool) (off : Int) (s : State) : Host.Outcome State Fault Refusal :=
  branch "BRANY" h off (takeAny p neg) s
def execBranyExt (h : Hdr) (p : Nat) (neg : Bool) (off : Int) (s : State) : Host.Outcome State Fault Refusal :=
  branch "BRANY_EXT" h off (takeAny p neg) s
def execBrall (h : Hdr) (p : Nat) (neg : Bool) (off : Int) (s : State) : Host.Outcome State Fault Refusal :=
  branch "BRALL" h off (takeAll p neg) s
def execBrallExt (h : Hdr) (p : Nat) (neg : Bool) (off : Int) (s : State) : Host.Outcome State Fault Refusal :=
  branch "BRALL_EXT" h off (takeAll p neg) s
def execBrnone (h : Hdr) (p : Nat) (neg : Bool) (off : Int) (s : State) : Host.Outcome State Fault Refusal :=
  branch "BRNONE" h off (takeNone p neg) s
def execBrnoneExt (h : Hdr) (p : Nat) (neg : Bool) (off : Int) (s : State) : Host.Outcome State Fault Refusal :=
  branch "BRNONE_EXT" h off (takeNone p neg) s

/-- BRX: a register target, checked, held 6 ck (R48, R49). -/
def execBrx (h : Hdr) (a : Nat) (off : Int) (s : State) : Host.Outcome State Fault Refusal :=
  issue (ctlIss "BRX" h) (fun c s1 =>
    let tgt := c.s a + BitVec.ofInt 64 off
    if pcBad tgt then .trap { cause := .pcbad, mask := c.em } else .jump s1 tgt (c.u + 6)) s

/-! ### Yielding and trapping -/

/-- YIELD: the group becomes the youngest ready group (R58). -/
def execYield (h : Hdr) (s : State) : Host.Outcome State Fault Refusal :=
  issue (ctlIss "YIELD" h) (fun c s1 =>
    .done (updGroup s1 c.tid c.gid fun g => { g with i := { g.i with yield := some c.u } })) s

/-- TRAP raises its software cause (R59, R395). -/
def execTrap (h : Hdr) (n : Nat) (s : State) : Host.Outcome State Fault Refusal :=
  issue (ctlIss "TRAP" h) (fun c _ => .trap { cause := .swt n, mask := c.em }) s

/-- RTE returns from the handler and lets the team go on (R59, R397). -/
def execRte (h : Hdr) (s : State) : Host.Outcome State Fault Refusal :=
  issue (ctlIss "RTE" h) (fun c s1 =>
    if !c.g.t.inHandler then .trap { cause := .privop, mask := c.em }
    else if pcBad c.g.t.tr.rpc then .trap { cause := .pcbad, mask := c.em }
    else .stop (dbgStep c (resumeTeam (updGroup (retireOnly (ctlIss "RTE" h) c s1 c.next 0) c.tid c.gid returnGroup)
      c.tid))) s

/-! ### Execution mask and predicates -/

/-- A write of `em` (R60). -/
def emWrite (row : String) (h : Hdr) (f : Ctl → Mask) (s : State) : Host.Outcome State Fault Refusal :=
  fixed (ctlIss row h) 2 (fun c => [.em (f c)]) s

def execEmrd (h : Hdr) (d : Nat) (s : State) : Host.Outcome State Fault Refusal :=
  fixed (ctlIss "EMRD" h) 2 (fun c => [.s d c.em]) s
def execEmwr (h : Hdr) (a : Nat) (s : State) : Host.Outcome State Fault Refusal := emWrite "EMWR" h (fun c => c.s a) s
def execEmand (h : Hdr) (p : Nat) (s : State) : Host.Outcome State Fault Refusal :=
  emWrite "EMAND" h (fun c => c.em &&& c.p p) s
def execEmor (h : Hdr) (p : Nat) (s : State) : Host.Outcome State Fault Refusal :=
  emWrite "EMOR" h (fun c => c.em ||| c.p p) s
def execEmandn (h : Hdr) (p : Nat) (s : State) : Host.Outcome State Fault Refusal :=
  emWrite "EMANDN" h (fun c => c.em &&& ~~~(c.p p)) s
def execEmsetp (h : Hdr) (d : Nat) (s : State) : Host.Outcome State Fault Refusal :=
  fixed (ctlIss "EMSETP" h) 2 (fun c => [.p d (-1) c.em]) s

/-- The issue facts of a lane predicate instruction. -/
def lanIss (row : String) (h : Hdr) : Iss := { row := row, h := h, lane := true }

/-- The mask of the lowest lane of a mask that is not empty. -/
def lowLane (m : Mask) : Mask := 1#64 <<< lowestOne 64 m.toNat

/-- ELECT (R62). -/
def execElect (h : Hdr) (d : Nat) (s : State) : Host.Outcome State Fault Refusal :=
  fixed (lanIss "ELECT" h) 2 (fun c => if c.act = 0 then [] else [.p d c.act (lowLane c.act)]) s

/-- A lane predicate operation on the active lanes (R61). -/
def plog (row : String) (h : Hdr) (d : Nat) (f : Ctl → Mask) (s : State) : Host.Outcome State Fault Refusal :=
  fixed (lanIss row h) 2 (fun c => [.p d c.act (f c)]) s

def execPand (h : Hdr) (d a b : Nat) (s : State) : Host.Outcome State Fault Refusal :=
  plog "PAND" h d (fun c => c.p a &&& c.p b) s
def execPor (h : Hdr) (d a b : Nat) (s : State) : Host.Outcome State Fault Refusal :=
  plog "POR" h d (fun c => c.p a ||| c.p b) s
def execPxor (h : Hdr) (d a b : Nat) (s : State) : Host.Outcome State Fault Refusal :=
  plog "PXOR" h d (fun c => c.p a ^^^ c.p b) s
def execPandn (h : Hdr) (d a b : Nat) (s : State) : Host.Outcome State Fault Refusal :=
  plog "PANDN" h d (fun c => c.p a &&& ~~~(c.p b)) s
def execPnot (h : Hdr) (d a : Nat) (s : State) : Host.Outcome State Fault Refusal :=
  plog "PNOT" h d (fun c => ~~~(c.p a)) s
def execPmov (h : Hdr) (d a : Nat) (s : State) : Host.Outcome State Fault Refusal :=
  plog "PMOV" h d (fun c => c.p a) s

/-- A uniform predicate operation (R61). -/
def spLog (row : String) (h : Hdr) (d : Nat) (f : Ctl → Bool) (s : State) : Host.Outcome State Fault Refusal :=
  fixed (ctlIss row h) 2 (fun c => [.sp d (f c)]) s

def execSpand (h : Hdr) (d a b : Nat) (s : State) : Host.Outcome State Fault Refusal :=
  spLog "SPAND" h d (fun c => c.sp a && c.sp b) s
def execSpor (h : Hdr) (d a b : Nat) (s : State) : Host.Outcome State Fault Refusal :=
  spLog "SPOR" h d (fun c => c.sp a || c.sp b) s
def execSpxor (h : Hdr) (d a b : Nat) (s : State) : Host.Outcome State Fault Refusal :=
  spLog "SPXOR" h d (fun c => c.sp a != c.sp b) s
def execSpandn (h : Hdr) (d a b : Nat) (s : State) : Host.Outcome State Fault Refusal :=
  spLog "SPANDN" h d (fun c => c.sp a && !c.sp b) s
def execSpnot (h : Hdr) (d a : Nat) (s : State) : Host.Outcome State Fault Refusal :=
  spLog "SPNOT" h d (fun c => !c.sp a) s
def execSpmov (h : Hdr) (d a : Nat) (s : State) : Host.Outcome State Fault Refusal :=
  spLog "SPMOV" h d (fun c => c.sp a) s

end Sys2Proof.Machine
end

