-- ==== Sys2Proof/Machine/Records.lean ====
section
/-!
DEFINITION. Making deferred records, their quota, and placing commits (R109, R122, R149, R153, R154, R159, R166, R291).
-/

namespace Sys2Proof.Machine

/-- The team whose tag, epoch and quota a team's records take: a responder's are the asker's (R291). -/
def recOwner (s : State) (t : Team) : Team :=
  match t.resp with
  | some r => (teamOf s r.asker).getD t
  | none => t

/-- What a commit unit has made and no completed commit has covered (R166). -/
def unitMade (s : State) (t : Team) : List Made :=
  if t.d.gridUnit then ((gridOf s t.grid).map fun g => g.made).getD [] else t.d.made

/-- The count of R166. -/
def madeCount (l : List Made) : Nat := l.foldl (fun n m => n + m.n) 0

/-- A commit unit's quota (R137, R166). -/
def unitQuota (s : State) (t : Team) : Nat :=
  if t.d.gridUnit then ((gridOf s t.grid).map fun g => g.lr.deferq).getD 0 else t.d.quota

/-- Records of FRGRADs of a commit unit that have yet to enter their Sporangium (R283, R317). -/
def pendingRecs (s : State) (o : Team) : Nat :=
  (s.work.teams.filter fun t => t.uid == o.uid || (o.d.gridUnit && t.grid == o.grid)).foldl (fun n t =>
    n + (match t.stream with
      | some m => m.mops.foldl (fun k p => k + p.recs.length) 0
      | none => 0)) 0

/-- Records that a team may still make. -/
def quotaRoom (s : State) (t : Team) : Nat :=
  let o := recOwner s t
  unitQuota s o - madeCount (unitMade s o) - pendingRecs s o

/-- Whether a record of a team carries a census, and the census's scope (R291). -/
def recCensus (s : State) (t : Team) : Option (Nat × Bool) :=
  t.resp.map fun r => (r.cid, ((s.cen.open'.find? fun c => c.id == r.cid).map fun c => c.pod).getD false)

/-- Add to a list of counts. -/
def madeAdd (m : Made) : List Made → List Made
  | [] => [m]
  | x :: r => if { x with n := 0 } = { m with n := 0 } then { x with n := x.n + m.n } :: r else x :: madeAdd m r

/-- A record about to be made: operator, size, memory key of its word, value. -/
structure NewRec where
  op : AOp
  wide : Bool
  key : Nat
  value : Dword
  deriving DecidableEq, Repr

/-- A group's .fadd, .fmin and .fmax values are flushed when the record is made (R159). -/
def recValue (fmode : BitVec 8) (op : AOp) (x : Dword) : Dword :=
  match op with
  | .fadd | .fmin | .fmax => BitVec.ofNat 64 (asRead fmtF32 (flushIn fmode 32) (x.toNat % 2 ^ 32))
  | _ => x

/-- Whether a stream's record waits for a phase: the MSIG that follows its instruction has not been counted, or its phase
has not changed; the end of the team ends the wait (R207, R317). -/
def phaseWaits (s : State) (w : Option (Nat × Nat)) : Bool :=
  match w.bind fun w => (teamOf s w.1).map fun t => (t, w.2) with
  | none => false
  | some (t, id) => !t.ended && t.stream.any fun m => m.busy.any fun b => b.id == id &&
      (match b.sig with
       | none => true
       | some (bar, ph) => decide ((vget t.bars bar).ph ≤ ph))

/-- A record as made after the COMMITs that a team has issued (R122, R153). -/
def DRec.madeNow (d : TeamDef) (r : DRec) : DRec :=
  { r with et := d.nTeam % 8, eg := d.nGrid % 8, ep := d.nPod % 8 }

/-- Make records for a team, in order, on its core (R109, R151, R153). The maker's group is 32 for the matrix stream;
those of an FRGRAD, whose number is `wait`, are covered only from the phase of its MSIG on (R317). -/
def makeRecs (s : State) (tid gid : Nat) (wait : Option Nat) (rs : List NewRec) : State :=
  match teamOf s tid with
  | none => s
  | some t =>
    let o := recOwner s t
    let cen := recCensus s t
    let w := wait.map fun id => (tid, id)
    let rec1 (r : NewRec) : Spor := .entry
      { value := r.value, dev := keyDev r.key, pa := keyPa r.key, opr := r.op, wide := r.wide, tag := o.d.tag
        et := o.d.nTeam % 8, eg := o.d.nGrid % 8, ep := o.d.nPod % 8, census := cen.map fun c => c.1, team := o.uid
        maker := some (tid, gid), src := s.firm.devNum, ue := false, wait := w }
    let mk (peer : Bool) : Made :=
      { et := o.d.nTeam, eg := o.d.nGrid, ep := o.d.nPod, peer := peer, census := cen, wait := w
        n := (rs.filter fun r => (keyDev r.key != s.firm.devNum) == peer).length }
    let add (l : List Made) : List Made := [mk false, mk true].foldl (fun l m => if m.n = 0 then l else madeAdd m l) l
    let s := updCore s t.core fun c => { c with spor := c.spor ++ rs.map rec1 }
    if o.d.gridUnit then updGrid s o.grid fun g => { g with made := add g.made }
    else updTeam s o.uid fun t => { t with d := { t.d with made := add t.d.made } }

/-- The channel of a record on its device (R155). -/
def recChannel (s : State) (r : DRec) : Nat :=
  if r.dev = s.firm.devNum then channelOf s r.pa else ordinaryCh r.pa

/-- The touched entry of a record that is sent (R155). -/
def touchOf (s : State) (r : DRec) : Touch := ⟨r.tag, r.et, r.eg, r.ep, r.census, r.dev, recChannel s r⟩

/-- The records that a packet carries. -/
def Packet.recsOf : Packet → List DRec
  | .recs _ _ rs => rs
  | .marker _ _ _ _ => []

/-- The same packet with its records changed. -/
def Packet.mapRecs (f : DRec → DRec) : Packet → Packet
  | .recs c d rs => .recs c d (rs.map f)
  | .marker c d ch k => .marker c d ch k

/-- An FRGRAD's records that wait for a phase, wherever they stand on the deferred path, count as made after a COMMIT that
their team issues now (R317). -/
def renewWaiting (s : State) (t : Team) : State :=
  let mine (w : Option (Nat × Nat)) : Bool := w.any (fun w => w.1 == t.uid) && phaseWaits s w
  let new (r : DRec) : DRec := if mine r.wait then r.madeNow t.d else r
  let entry : Spor → Spor
    | .entry r => .entry (new r)
    | .token c k => .token c k
  let made (m : Made) : Made :=
    if mine m.wait then { m with et := t.d.nTeam, eg := t.d.nGrid, ep := t.d.nPod } else m
  let sent := (s.defer.packets.flatMap Packet.recsOf ++ s.defer.thallus.flatMap fun x => x.2.staged).filter fun r => mine r.wait
  let touch := (sent.map fun r => touchOf s (r.madeNow t.d)).dedup
  let s1 := updCore s t.core fun c => { c with spor := c.spor.map entry }
  let s2 := { s1 with defer := { s1.defer with
    sorus := s1.defer.sorus.map fun x => (x.1,
      { bins := x.2.bins.map fun b => { b with recs := b.recs.map new }
        touched := x.2.touched ++ if x.1 = t.core / 8 then touch.filter fun y => !x.2.touched.contains y else [] })
    packets := s1.defer.packets.map (Packet.mapRecs new)
    thallus := s1.defer.thallus.map fun x => (x.1, { x.2 with staged := x.2.staged.map new }) } }
  if t.d.gridUnit then updGrid s2 t.grid fun g => { g with made := g.made.map made }
  else updTeam s2 t.uid fun t => { t with d := { t.d with made := t.d.made.map made } }

/-- Room in a core's Sporangium (R154). -/
def sporRoom (s : State) (core : Nat) : Nat := 4096 - (coreOf s core).spor.length

/-! ### Placing commits -/

/-- A commit's next count in its scope for a team (R122). -/
def nextCount (t : Team) : CScope → Nat
  | .grid => t.d.nGrid + 1
  | .pod => t.d.nPod + 1
  | .team | .endTeam | .endGrid => t.d.nTeam + 1

/-- Advance a team's count of COMMITs of a scope, of which one more has not completed (R122, R153). -/
def bumpCount (sc : CScope) (d : TeamDef) : TeamDef :=
  let d := { d with open' := d.open' + 1 }
  match sc with
  | .grid => { d with nGrid := d.nGrid + 1 }
  | .pod => { d with nPod := d.nPod + 1, popped := [] }
  | .team => { d with nTeam := d.nTeam + 1 }
  | .endTeam | .endGrid => d

/-- The censuses whose responder records a token covers: at team and grid scope those of device scope, else all
(R291). -/
def tokenCensus (sc : CScope) (l : List (Nat × Bool)) : List Nat :=
  match sc with
  | .team | .grid => (l.filter fun p => !p.2).map fun p => p.1
  | .pod | .endTeam | .endGrid => l.map fun p => p.1

/-- A commit as its first token leaves it (R162). -/
def newCommit (id : Nat) (sc : CScope) (n ctx grid team : Nat) (tags : List Nat) : Commit :=
  { id := id, scope := sc, n := n, ctx := ctx, grid := grid, team := team, tags := tags, census := [], ops := [], ctrs := [],
    arrived := [], tokens := [], podGo := false, closed := false, shipped := [], toShip := [], marked := [],
    applySent := [], acked := [], podDone := false, poison := false }

/-- The commit of a scope that a team's next COMMIT joins: a grid's arrival n is one commit (R162). -/
def joinCommit (s : State) (t : Team) (sc : CScope) : Option Commit :=
  match sc with
  | .grid | .pod => s.defer.commits.find? fun c => c.scope == sc && c.grid == t.grid && c.n == nextCount t sc
  | .team | .endTeam | .endGrid => none

/-- Replace or append a commit. -/
def putCommit (s : State) (c : Commit) : State :=
  let l := s.defer.commits
  let l := if l.any (fun k => k.id == c.id) then l.map (fun k => if k.id = c.id then c else k) else l ++ [c]
  { s with defer := { s.defer with commits := l } }

/-- Place a COMMIT of a team: its token behind every record of the core, the team's counts (R122, R154, R162). Answers
the commit's identifier. `op` completes with it; `ctr` is added to. -/
def placeCommit (s : State) (tid : Nat) (sc : CScope) (op : Option Nat) (ctr : Option (Nat × Nat × Nat)) :
    State × Nat :=
  match teamOf s tid with
  | none => (s, 0)
  | some t =>
    let c0 := (joinCommit s t sc).getD (newCommit s.nextId sc (nextCount t sc) t.ctx t.grid t.uid [t.d.tag])
    let c := { c0 with
      census := c0.census ++ (tokenCensus sc t.d.popped).filter fun k => !c0.census.contains k
      ops := c0.ops ++ op.toList, ctrs := c0.ctrs ++ ctr.toList, tokens := c0.tokens ++ [tid] }
    let s := bumpId (putCommit s c)
    let s := updCore s t.core fun k => { k with spor := k.spor ++ [.token c.id tid] }
    let s := updTeam s tid fun t => { t with d := bumpCount sc t.d }
    (renewWaiting s { t with d := bumpCount sc t.d }, c.id)

end Sys2Proof.Machine
end

