-- ==== Sys2Proof/Machine/Access.lean ====
section
/-!
DEFINITION. How accesses are served: the L1 data cache, the write-through queue and the home (R107, R111, R116, R119,
R120, R164, R176, R177).
-/

namespace Sys2Proof.Machine

/-! ### L1 and the write-through queue -/

/-- The virtual address of the line that holds an address. -/
def lineVa (va : Nat) : Nat := va / Config.lineBytes * Config.lineBytes

/-- The line of a context at an address. -/
def lineFind (l : List Line) (ctx va : Nat) : Option Line := l.find? fun x => x.ctx == ctx && x.va == lineVa va

/-- Bytes of a list from an offset. -/
def slice (l : List Byte) (off n : Nat) : List Byte := (l.drop off).take n

/-- Replace bytes of a list from an offset. -/
def splice (l : List Byte) (off : Nat) (b : List Byte) : List Byte := l.take off ++ b ++ l.drop (off + b.length)

/-- Update the line that holds an address, if it is present (R177). -/
def l1Update (c : Core) (ctx va : Nat) (b : List Byte) : Core :=
  { c with l1 := c.l1.map fun x => if x.ctx = ctx ∧ x.va = lineVa va then { x with bytes := splice x.bytes (va - x.va) b }
                                   else x }

/-- Discard the line that holds an address. -/
def l1Drop (c : Core) (ctx va : Nat) : Core :=
  { c with l1 := c.l1.filter fun x => !(x.ctx == ctx && x.va == lineVa va) }

/-- Discard a context's lines (R107, R119, R121, R187). -/
def l1DropCtx (ctx : Nat) (c : Core) : Core := { c with l1 := c.l1.filter fun x => x.ctx != ctx }

/-- One byte with a core's queued stores to it applied in queue order (R177). -/
def queued (q : List WStore) (ctx va : Nat) (b : Byte) : Byte :=
  q.foldl (fun b e =>
    if e.ctx = ctx ∧ e.va ≤ va ∧ va < e.va + e.bytes.length then e.bytes.getD (va - e.va) b else b) b

/-- Bytes read at the home with the core's queued stores applied (R177). -/
def homeBytes (s : State) (core ctx va key n : Nat) : List Byte :=
  (List.range n).map fun i => queued (coreOf s core).wtq ctx (va + i) (memGet s.mem (key + i))

/-- A plain load of n bytes: from the line, filling it first, where L1 serves; else from the home, and then the line is
replaced, or updated by LD.nc (R107, R177). -/
def readLoad (s : State) (core ctx va key n : Nat) (l1 fromL1 nc : Bool) : List Byte × State :=
  if l1 && fromL1 && !nc then
    match lineFind (coreOf s core).l1 ctx va with
    | some x => (slice x.bytes (va - x.va) n, s)
    | none =>
      let lv := lineVa va
      let b := homeBytes s core ctx lv (key - (va - lv)) Config.lineBytes
      (slice b (va - lv) n, updCore s core fun c => { c with l1 := ⟨ctx, lv, b, key - (va - lv), false⟩ :: c.l1 })
  else
    let b := homeBytes s core ctx va key n
    (b, updCore s core fun c => if nc then l1Update c ctx va b else l1Drop c ctx va)

/-- Whether a load is served at the home, where it can wait and can meet an uncorrectable word (R164, R177, R404). -/
def atHome (s : State) (core ctx va : Nat) (l1 fromL1 nc : Bool) : Bool :=
  !(l1 && fromL1 && !nc && (lineFind (coreOf s core).l1 ctx va).isSome)

/-- A store enters the core's write-through queue and updates the line (R177). -/
def queueStore (s : State) (core ctx tid gid va key : Nat) (rel : Option Nat) (b : List Byte) : State :=
  bumpId (updCore s core fun c =>
    let c := l1Update c ctx va b
    { c with wtq := c.wtq ++ [⟨s.nextId, ctx, tid, gid, va, key, rel, false, b⟩] })

/-- A write at the home by an engine that acts for a command. The lines that hold its bytes are behind from then on
(R176, R184). -/
def engineStore (s : State) (key : Nat) (b : List Byte) : State :=
  let stale (l : Line) : Line :=
    if decide (l.key < key + b.length ∧ key < l.key + Config.lineBytes) then { l with behind := true } else l
  { s with mem := memSetN s.mem key b
           work := { s.work with cores := s.work.cores.map fun c => (c.1, { c.2 with l1 := c.2.l1.map stale }) } }

/-- Update the core's lines of a context that hold bytes of a physical place (R299). -/
def lineStore (s : State) (core ctx key : Nat) (b : List Byte) : State :=
  let put (l : Line) : Line :=
    if decide (l.ctx = ctx ∧ l.key ≤ key ∧ key + b.length ≤ l.key + Config.lineBytes) then
      { l with bytes := splice l.bytes (key - l.key) b }
    else l
  updCore s core fun c => { c with l1 := c.l1.map put }

/-- A write at the home that also updates the core's line if it is present (R299). -/
def homeStore (s : State) (core ctx va key : Nat) (b : List Byte) : State :=
  updCore { s with mem := memSetN s.mem key b } core fun c => l1Update c ctx va b

/-! ### Order within a group and against the queue -/

/-- A run of bytes an operation touches: space (0 device memory, 1 A-buffer, 2 + t tile t), first byte, bytes. -/
structure Span where
  space : Nat
  lo : Nat
  n : Nat
  deriving DecidableEq, Repr

/-- Whether two spans share a byte. -/
def spanMeets (a b : Span) : Bool := a.space == b.space && decide (a.lo < b.lo + b.n ∧ b.lo < a.lo + a.n)

/-- The bytes that an operation of a group accesses. -/
def opSpans : OpKind → List Span
  | .mem _ z _ _ _ ls _ _ _ => ls.map fun a => ⟨0, a.va, sizeBytes z⟩
  | .abuf _ z _ _ ls => ls.map fun a => ⟨1, a.va, sizeBytes z⟩
  | .cbuf _ t _ ls => ls.map fun a => ⟨2 + t, 4 * a.va, 4⟩
  | .atom _ w _ _ ls _ => ls.map fun a => ⟨0, a.va, if w then 8 else 4⟩
  | .waita _ _ b64 _ _ a => [⟨0, a.va, if b64 then 8 else 4⟩]
  | .cwaitge _ _ a => [⟨0, a.va, 8⟩]
  | .cadd _ _ a => [⟨0, a.va, 8⟩]
  | .ratom _ w _ a _ => [⟨0, a.va, if w then 8 else 4⟩]
  | .fmtsel _ a _ _ => [⟨0, a.va, 64⟩]
  | .tapespill _ va rs => [⟨0, va, 16 * rs.length⟩]
  | .tapefill va ks _ => [⟨0, va, 16 * ks.length⟩]
  | _ => []

/-- The earlier operations of an operation's group. -/
def earlier (s : State) (o : Op) : List Op :=
  s.work.ops.filter fun x => x.tid == o.tid && x.gid == o.gid && decide (x.id < o.id)

/-- An earlier operation of the group on the same bytes has not completed (R111). -/
def waitsBytes (s : State) (o : Op) : Bool :=
  let mine := opSpans o.kind
  (earlier s o).any fun x => (opSpans x.kind).any fun p => mine.any (spanMeets p)

/-- Whether the core's queue holds a store to the same bytes, which an access at the home awaits (R177). -/
def waitsQueue (s : State) (core ctx : Nat) (spans : List Span) : Bool :=
  (coreOf s core).wtq.any fun e => e.ctx == ctx && spans.any (spanMeets ⟨0, e.va, e.bytes.length⟩)

/-- Whether a lane reaches a G page. -/
def onG (a : LaneAcc) : Bool :=
  match a.x with
  | .bad _ _ => false
  | .at _ _ _ sh => sh.isSome

/-- What a release of a group waits for among its operations: stores, REDs, CADDs, atomics, RATOMs, and reverse-mode adds
(R107, R119, R128, R295). -/
def isWrite : OpKind → Bool
  | .mem st _ _ rev _ ls _ _ _ => st || (rev && ls.any onG)
  | .ratom _ _ _ _ _ => true
  | .abuf st _ _ _ _ => st
  | .cbuf st _ _ _ => st
  | .atom _ _ _ _ _ _ => true
  | .cadd _ _ _ => true
  | .tapespill _ _ _ => true
  | _ => false

/-- What an acquire fence of a group waits for; a reverse-mode load of a G page counts as an add alone (R119, R128, R295).
-/
def isRead : OpKind → Bool
  | .mem st _ _ rev _ ls _ _ _ => !st && !(rev && ls.all onG)
  | .abuf st _ _ _ _ => !st
  | .cbuf st _ _ _ => !st
  | .atom _ _ _ d _ _ => !d.isNone
  | .waita _ _ _ _ _ _ => true
  | .cwaitge _ _ _ => true
  | .ratom _ _ _ _ _ => true
  | .fmtsel _ _ _ _ => true
  | .tapefill _ _ _ => true
  | _ => false

/-- Whether the earlier writes of an operation's group have been performed at a scope: completed, and at device or pod
scope also out of the core's queue, with every store that is in it before the release takes its moment (R107, R120,
R180). -/
def released (s : State) (o : Op) (core scope : Nat) : Bool :=
  !((earlier s o).any fun x => isWrite x.kind) && (scope < 2 || (coreOf s core).wtq.isEmpty)

/-- Whether a group's own earlier stores have been performed at device scope (R121). -/
def storesHome (s : State) (o : Op) (core : Nat) : Bool :=
  !((earlier s o).any fun x => isWrite x.kind) && !(coreOf s core).wtq.any fun e => e.tid == o.tid && e.gid == o.gid

/-- Whether a core's queue holds a store that a FENCE.rel has taken as acknowledged and that still awaits its moment: what
its core writes elsewhere than through the queue comes after it (R120, R180, R189). -/
def ackWaits (s : State) (core : Nat) : Bool := (coreOf s core).wtq.any fun e => e.acked

/-- A FENCE.rel takes the stores of its core's queue as acknowledged (R120, R189). -/
def ackQueue (s : State) (core : Nat) : State :=
  updCore s core fun c => { c with wtq := c.wtq.map fun e => { e with acked := true } }

/-- A release at device scope or above publishes what the team's drains have written (R185). -/
def publish (s : State) (tid : Nat) (rel : Bool) (scope : Nat) : State :=
  if rel && decide (2 ≤ scope) then { s with work := { s.work with drained := s.work.drained.filter fun d => d.tid != tid } }
  else s

/-- Whether a release at device or pod scope that a group issued before a command has not been performed: what the command
reads comes after it (R185). -/
def relPending (s : State) (owner : Option (Nat × Nat)) (id : Nat) : Bool :=
  owner.any fun p =>
    (s.work.ops.any fun o => o.tid == p.1 && o.gid == p.2 && decide (o.id < id) && (match o.kind with
      | .mem st _ ord _ _ _ _ _ _ => st && ord.code == 1 && decide (2 ≤ ord.scope)
      | .atom _ _ ord _ _ _ => decide (2 ≤ ord.code) && decide (2 ≤ ord.scope)
      | .cadd rel _ _ => rel.any fun sc => decide (2 ≤ sc)
      | _ => false)) ||
    (s.work.cores.any fun c => c.2.wtq.any fun e => e.tid == p.1 && e.gid == p.2 && e.rel.any fun k => decide (k < id)) ||
    (teamOf s p.1).any fun t => ackWaits s t.core

/-- Whether the earlier reads of an operation's group have completed (R119). -/
def readsDone (s : State) (o : Op) : Bool := !((earlier s o).any fun x => isRead x.kind)

/-- The effect of an acquire on the core's L1: at device or pod scope the context's lines go (R107). At a narrower scope
those go, by replacement, that an engine's write has left behind, since the acquire may follow its release (R177, R180,
R184). -/
def acquireL1 (s : State) (core ctx scope : Nat) : State :=
  updCore s core fun c =>
    if 2 ≤ scope then l1DropCtx ctx c else { c with l1 := c.l1.filter fun l => !(l.ctx == ctx && l.behind) }

/-! ### Register results -/

/-- The value at a lane of a list, or zero. -/
def laneVal (res : List (Nat × Nat)) (l : Nat) : Nat := (aGet res l).getD 0

/-- The lanes of a result list. -/
def resMask (res : List (Nat × Nat)) : Mask := maskOf (res.map fun p => p.1)

/-- Extend a loaded value to its first register (R107). -/
def loadExt (z : SizeCode) (x : Nat) : Nat :=
  match z with
  | .i8 => fieldOf 32 (sextNat 8 (x % 2 ^ 8))
  | .i16 => fieldOf 32 (sextNat 16 (x % 2 ^ 16))
  | .n8 | .n16 | .b32 | .b64 | .b128 => x

/-- The register writes of lane values: register j takes bits 32 j + 31 : 32 j (R107). -/
def vecWrs (ns : List Nat) (j : Nat) (res : List (Nat × Nat)) : List RegWr :=
  match ns with
  | [] => []
  | n :: r => .v n (resMask res) (vgen fun l => BitVec.ofNat 32 (laneVal res l / 2 ^ (32 * j))) :: vecWrs r (j + 1) res

/-- The writes of an access's results: vector registers, or a uniform register zero-extended (R107, R115). -/
def resWrs (d : MDst) (res : List (Nat × Nat)) : List RegWr :=
  match d with
  | .v ns => if res.isEmpty then [] else vecWrs ns 0 res
  | .s n => (res.head?.map fun p => RegWr.s n (BitVec.ofNat 64 p.2)).toList
  | .none => []

end Sys2Proof.Machine
end

