-- ==== Sys2Proof/Machine/Buffers.lean ====
section
/-!
DEFINITION. The buffers of a core as a team reaches them: A-buffer bytes, tile elements, slot bytes (R113, R148, R174,
R242), and what an access to a region that a matrix instruction uses leaves undefined (R114, R198, R215).
-/

namespace Sys2Proof.Machine

/-! ### Contents -/

/-- Bytes of a team's A-buffer allocation. -/
def abufGet (s : State) (t : Team) (off n : Nat) : List Byte := memGetN (coreOf s t.core).abuf (t.al.abase + off) n

/-- Write bytes of a team's A-buffer allocation. -/
def abufPut (s : State) (t : Team) (off : Nat) (b : List Byte) : State :=
  updCore s t.core fun c => { c with abuf := memSetN c.abuf (t.al.abase + off) b }

/-- The physical tile of a team's tile number (R242). -/
def physTile (t : Team) (n : Nat) : Nat := t.al.tiles.getD n 0

/-- The address of element e of a physical tile in the C-buffer (R113, R173). -/
def tileAddr (phys e : Nat) : Nat := phys * 65536 + 4 * e

/-- Element e of a team's tile. -/
def tileGet (s : State) (t : Team) (n e : Nat) : Word :=
  BitVec.ofNat 32 (memNat (coreOf s t.core).cbuf (tileAddr (physTile t n) e) 4)

/-- Write element e of a team's tile. -/
def tilePut (s : State) (t : Team) (n e : Nat) (x : Word) : State :=
  updCore s t.core fun c => { c with cbuf := memPut c.cbuf (tileAddr (physTile t n) e) 4 x.toNat }

/-- The address of byte i of a physical slot in the W-buffer: 16 KiB of data and then 512 bytes of scale side (R173). -/
def slotAddr (phys i : Nat) : Nat := phys * 16896 + i

/-- Bytes of a team's slot. -/
def slotGet (s : State) (t : Team) (n i k : Nat) : List Byte :=
  memGetN (coreOf s t.core).wbuf (slotAddr (t.al.slots.getD n 0) i) k

/-- Write bytes of a team's slot. -/
def slotPut (s : State) (t : Team) (n i : Nat) (b : List Byte) : State :=
  updCore s t.core fun c => { c with wbuf := memSetN c.wbuf (slotAddr (t.al.slots.getD n 0) i) b }

/-! ### Regions -/

/-- Whether two regions share a byte. -/
def regMeets : Region → Region → Bool
  | .abuf a n, .abuf b k => decide (a < b + k ∧ b < a + n)
  | .tile a, .tile b => a == b
  | .slot a, .slot b => a == b
  | _, _ => false

/-- Whether a matrix instruction's regions are released to a group: the group has completed a wait on the phase of the
first MSIG after it, or on a later one (R198). -/
def releasedTo (g : Group) (b : Busy) : Bool :=
  match b.sig with
  | some (bar, ph) => decide (ph < vget g.e.seen bar)
  | none => false

/-- The matrix instructions of a team that use a region and have not released it to a group (R114, R198). -/
def busyFor (t : Team) (g : Group) (r : Region) : List Busy :=
  match t.stream with
  | some m => m.busy.filter fun b => (b.rd ++ b.wr).any (regMeets r) && !releasedTo g b
  | none => []

/-- The matrix instructions of a team that read a region and whose phase has not changed (R198). -/
def readersOf (t : Team) (r : Region) : List Busy :=
  match t.stream with
  | some m => m.busy.filter fun b => b.rd.any (regMeets r) &&
      (match b.sig with | some (bar, ph) => decide ((vget t.bars bar).ph ≤ ph) | none => true)
  | none => []

/-! ### Undefined contents -/

/-- Free bytes from a counter. -/
def freeBytes (k n : Nat) : List Byte := (List.range n).map fun i => Config.freeByte k i

/-- Free bytes from a counter, numbered by their places. -/
def freeRun (k at' n : Nat) : List Byte := (List.range n).map fun i => Config.freeByte k (at' + i)

/-- A free word of an element. -/
def freeWord (k i : Nat) : Word := Config.freeLane k i

/-- Write free values to every element of a tile that two masks select. -/
def spoilTile (k : Nat) (tb : Nat) (rows cols : BitVec 128) (c : Memory) : Memory :=
  (List.range 128).foldl (fun c m =>
    if rows.getLsbD m then
      (List.range 128).foldl (fun c n =>
        if cols.getLsbD n then memPut c (tileAddr tb (128 * m + n)) 4 (freeWord k (16384 * tb + 128 * m + n)).toNat else c) c
    else c) c

/-- The results of a matrix instruction become free values: landed ones in tiles, A-buffer and memory, and those still
to land (R114, R198). -/
def spoil (s : State) (tid : Nat) (b : Busy) : State :=
  match teamOf s tid with
  | none => s
  | some t =>
    let k := s.fresh
    let s := updCore (bump s) t.core fun c =>
      { c with
        cbuf := b.tiles.foldl (fun m x => spoilTile k (physTile t x.1) x.2.1 x.2.2 m) c.cbuf
        abuf := b.outA.foldl (fun m x => memSetN m (t.al.abase + x.1) (freeRun k x.1 x.2)) c.abuf }
    let s := { s with mem := b.outM.foldl (fun m x => memSetN m x.1 (freeRun k (2 ^ 24 + x.1) x.2)) s.mem }
    let free (e : Nat × Word) : Nat × Word := (e.1, freeWord k e.1)
    updTeam s tid fun t =>
      { t with stream := t.stream.map fun m => { m with
          mops := m.mops.map fun o =>
            if o.id = b.id then { o with elems := o.elems.map free, recs := o.recs.map free } else o
          busy := m.busy.map fun x => if x.id = b.id then { x with bad := true } else x } }

/-- Spoil every matrix instruction of a team that reads a region being written (R198). -/
def spoilReaders (s : State) (tid : Nat) (bs : List Busy) : State := bs.foldl (fun s b => spoil s tid b) s

/-- A write by a copy to a region: the matrix instructions that read it before their phase are undefined (R198). -/
def spoilWritten (s : State) (t : Team) (r : Region) : State := spoilReaders s t.uid (readersOf t r)

/-! ### Which writes a party reads (R174, R179, R213, R215, R253, R259) -/

/-- Change what is known of the writes of a team's buffers. -/
def updWrites (s : State) (tid : Nat) (f : Team → BufWrite → BufWrite) : State :=
  updTeam s tid fun t => { t with writes := t.writes.map (f t) }

/-- Note a write of a region, which takes the place of an earlier one of the region by the same writer; other writers' of
the same A-buffer bytes are gone. -/
def noteWrite (s : State) (tid : Nat) (src : BufParty) (op : Nat) (fence : Option Nat) (r : Region) : State :=
  let gone (w : BufWrite) : Bool := w.reg == r && (w.src == src || (match r with | .abuf _ _ => true | _ => false))
  updTeam s tid fun t =>
    { t with writes := ⟨r, src, op, fence, [], [], [], [], []⟩ :: t.writes.filter fun w => !gone w }

/-- A phase of a barrier whose wait a party has completed carries what arrivals of that phase released (R124, R179). -/
def phaseSeen (t : Team) (p : BufParty) (b : Nat × Nat) : Bool :=
  match p with
  | .group gid => t.groups.any fun g => g.gid == gid && decide (b.2 < vget g.e.seen b.1)
  | .stream => t.stream.any fun m => decide (b.2 < vget m.seen b.1)
  | .copy _ => false
  | .peer _ => false

/-- Whether a write happens before what a party does now. -/
def BufWrite.knownTo (w : BufWrite) (t : Team) (p : BufParty) : Bool :=
  w.src == p || w.reached.contains p || w.bars.any (phaseSeen t p)

/-- Whether a release of a party, by an operation, takes a write on: it knows it, and an OPFENCE before the release covers
it (R215). -/
def BufWrite.goesOn (w : BufWrite) (t : Team) (p : BufParty) (op : Nat) : Bool :=
  w.fence.any (fun f => decide (f ≤ op)) && w.knownTo t p

/-- An arrival on a barrier is a release of its party (R124, R179). -/
def carryBar (s : State) (tid : Nat) (p : BufParty) (op b ph : Nat) : State :=
  updWrites s tid fun t w => if w.goesOn t p op then { w with bars := (b, ph) :: w.bars } else w

/-- A group's store or atomic at memory words: a release takes the writes on, and so does a store after the group's FENCE;
an ordinary store ends what the words carried (R179). -/
def noteRelease (s : State) (tid gid op : Nat) (rel rmw : Bool) (keys : List Nat) : State :=
  updWrites s tid fun t w =>
    let on := (rel && w.goesOn t (.group gid) op) || w.fenced.contains gid
    let old := if rmw then w.keys else w.keys.filter fun k => !keys.contains k
    { w with keys := if on then (keys ++ old).dedup else old }

/-- A group's read of memory words: an acquire brings it what they carry; else its FENCE may (R179). -/
def noteAcquire (s : State) (tid gid : Nat) (acq : Bool) (keys : List Nat) : State :=
  updWrites s tid fun _ w =>
    if !keys.any w.keys.contains then w
    else if acq then { w with reached := .group gid :: w.reached }
    else { w with read := gid :: w.read }

/-- A group's FENCE: `rel` covers what its later stores carry, `acq` brings what its earlier reads found (R179). -/
def noteFence (s : State) (tid gid op : Nat) (rel acq : Bool) : State :=
  let s := if acq then updWrites s tid fun _ w =>
      if w.read.contains gid then { w with reached := .group gid :: w.reached } else w
    else s
  if rel then updWrites s tid fun t w => if w.goesOn t (.group gid) op then { w with fenced := gid :: w.fenced } else w
  else s

/-- OPFENCE covers the group's earlier writes of its buffers (R215). -/
def fenceWrites (s : State) (tid gid op : Nat) : State :=
  updWrites s tid fun _ w => if w.src == .group gid && decide (w.op < op) && w.fence.isNone then { w with fence := some op } else w

/-- A copy, or a gather, that a group issues reads what the group's own program order and its acquires bring (R215). -/
def bringTo (s : State) (tid gid op : Nat) (p : BufParty) : State :=
  updWrites s tid fun t w => if w.goesOn t (.group gid) op then { w with reached := p :: w.reached } else w

/-- The writes of a copy or a peer, in every team's buffers or in one's: a counter's add carries them, or a wait brings
them to a group (R184, R213, R259). -/
def carryCopy (s : State) (src : BufParty) (only : Option Nat) (key : Nat) : State :=
  s.work.teams.foldl (fun s t =>
    if only.all (· == t.uid) then updWrites s t.uid fun _ w => if w.src == src then { w with keys := key :: w.keys } else w
    else s) s

/-- A wait for copies brings their writes in the team's own buffers to the group that waits (R213, R259). -/
def bringCopies (s : State) (tid gid : Nat) (ids : List Nat) : State :=
  updWrites s tid fun _ w =>
    match w.src with
    | .copy k => if ids.contains k then { w with reached := .group gid :: w.reached } else w
    | _ => w

/-- Whether a party that reads a region races with a write of it: no OPFENCE and release, or no wait for the copy, brings
the write to the party (R215, R253). -/
def races (t : Team) (p : BufParty) (r : Region) : Bool :=
  t.writes.any fun w => regMeets r w.reg && !(w.fence.isSome && w.knownTo t p)

/-! ### Layout records (R209) -/

/-- A layout record from its 64 bytes. -/
def layoutOf (b : List Byte) : Layout :=
  let w := natOfBytes b
  let f (off n : Nat) := bitsAt w (8 * off) (8 * n)
  let rank := bitsAt w 64 3
  let rsv := bitsAt w 67 1 != 0 || bitsAt w 71 25 != 0 || f 0x0C 4 != 0 || f 0x38 8 != 0
  let use (i d : Nat) (x : Nat) := if i < rank then x else d
  let ext := (List.range 4).map fun i => use i 1 (f (0x10 + 4 * i) 4)
  let box := (List.range 4).map fun i => use i 1 (f (0x30 + 2 * i) 2)
  { base := BitVec.ofNat 64 (f 0 8), rank := rank, esz := 2 ^ bitsAt w 68 2, oobz := bitAt w 70, ext := ext
    str := (List.range 4).map fun i => if i < rank then sextNat 32 (f (0x20 + 4 * i) 4) else 0
    box := box, ok := decide (1 ≤ rank ∧ rank ≤ 4) && !rsv && ext.all (· != 0) && box.all (· != 0) }

/-- Elements of the box. -/
def Layout.count (l : Layout) : Nat := l.box.foldl (· * ·) 1

/-- Packed bytes of the box. -/
def Layout.bytes (l : Layout) : Nat := l.count * l.esz

/-! ### Windows (R214) -/

/-- A window handle's device, core and window number; none where its zero bits are not zero. -/
def handleParts (h : Nat) : Option (Nat × Nat × Nat) :=
  if bitsAt h 43 21 != 0 then none else some (bitsAt h 33 10, bitsAt h 23 10, bitsAt h 21 2)

/-- The team on this device that holds a window, with the window. -/
def windowOf (s : State) (core win : Nat) : Option (Team × Win) :=
  (s.work.teams.filter fun t => t.core == core && !t.ended).findSome? fun t =>
    (t.wins.find? fun w => w.num == win).map fun w => (t, w)

/-! ### Copies and gathers under way -/

/-- The bytes that a copy will write or has written, packed; before it is formed, as its record stands. -/
def copyBytes (s : State) (c : Copy) : Nat :=
  match c.form with
  | some l => l.bytes
  | none => match homeKey s c.ctx c.lay.toNat false with
    | .ok k => (layoutOf (memGetN s.mem k 64)).bytes
    | .error _ => 0

/-- The regions of teams' buffers that a copy writes. -/
def copyDest (s : State) (c : Copy) : List (Nat × Region) :=
  let own (r : Region) : List (Nat × Region) := (c.owner.map fun o => (o.1, r)).toList
  match c.kind with
  | .toa => own (.abuf c.dst.toNat (copyBytes s c))
  | .tows _ => own (.slot c.dst.toNat)
  | .multicast _ l => l.map fun x => (x.1, .slot x.2)
  | .pwin _ =>
    match handleParts c.dst.toNat with
    | some (dev, core, k) =>
      if dev != s.firm.devNum then []
      else ((windowOf s core k).map fun p => (p.1.uid, .abuf (p.2.lo + c.dst.toNat % 2 ^ 21) (copyBytes s c))).toList
    | none => []
  | .froma | .mem | .pmem _ | .toh | .fromh => []

/-- Whether a copy under way writes a region of a team. -/
def copiesTo (s : State) (t : Team) (r : Region) : Bool :=
  s.work.copies.any fun c => !c.done && c.failed.isNone && (copyDest s c).any fun x => x.1 == t.uid && regMeets r x.2

/-- Whether a run of A-buffer bytes meets the index list, and the destination, of an operation that is a gather. -/
def gatherMeets (k : OpKind) (lo n : Nat) : Bool × Bool :=
  match k with
  | .nmgather _ _ idx dst m esz _ _ =>
    (regMeets (.abuf lo n) (.abuf idx (4 * m)), regMeets (.abuf lo n) (.abuf dst (m * esz)))
  | _ => (false, false)

/-- Whether a run of A-buffer bytes meets a gather of a team that has not completed. -/
def gathersOn (s : State) (tid lo n : Nat) : Bool :=
  s.work.ops.any fun o => o.tid == tid && (let m := gatherMeets o.kind lo n; m.1 || m.2)

/-- Whether a team's stream reads a region that is being written, or was written by one with which it has not
synchronised: what it reads is undefined (R215, R221, R253, R355). -/
def streamRaces (s : State) (t : Team) (r : Region) : Bool :=
  races t .stream r || copiesTo s t r || s.work.ops.any fun o => o.tid == t.uid && (match r with
    | .abuf lo n => (gatherMeets o.kind lo n).2
    | _ => false)

/-- Note on a team's gathers that a group has stored to their bytes. -/
def spoilGathers (s : State) (tid lo n : Nat) : State :=
  { s with work := { s.work with ops := s.work.ops.map fun o =>
      if o.tid = tid then
        match o.kind with
        | .nmgather id d idx dst m esz bi bd =>
          let x := gatherMeets o.kind lo n
          { o with kind := .nmgather id d idx dst m esz (bi || x.1) (bd || x.2) }
        | _ => o
      else o } }

end Sys2Proof.Machine
end

