-- ==== Sys2Proof/Machine/MemIssue.lean ====
section
/-!
DEFINITION. The issue of loads, stores and atomics: addresses, checks, records, tape positions, holds (R103 to R117,
R154, R271 to R275, R299, R301).
-/

namespace Sys2Proof.Machine

/-- Registers of an access (R107). -/
def sizeRegs : SizeCode → Nat
  | .n8 | .i8 | .n16 | .i16 | .b32 => 1
  | .b64 => 2
  | .b128 => 4

/-- 32-bit words of an access. -/
def sizeWords (z : SizeCode) : Nat := sizeBytes z / 4

/-- Word j of a lane's data. -/
def wordAt (x : BitVec 128) (j : Nat) : Word := BitVec.ofNat 32 (x.toNat / 2 ^ (32 * j))

/-- The memory key of a translated lane. -/
def Xl.key : Xl → Nat
  | .bad _ _ => 0
  | .at k _ _ _ => k

/-- The memory key of the adjoint cell of word j of a lane, and whether its page is deferred (R271). -/
def Xl.shadow (x : Xl) (j : Nat) : Option (Nat × Bool) :=
  match x with
  | .bad _ _ => none
  | .at _ _ _ sh => sh.map fun p => (p.1 + 4 * j, p.2)

/-- Whether a lane's page is differentiable with a deferred shadow, whether or not the access faults there (R304). -/
def Xl.shadowDfr : Xl → Bool
  | .bad _ g => g == some true
  | .at _ _ _ sh => (sh.map fun p => p.2).getD false

/-- Whether a lane's page is deferred. -/
def Xl.isD : Xl → Bool
  | .bad _ _ => false
  | .at _ _ d _ => d

/-! ### Records -/

/-- The records that a lane of a load or a store makes (R109, R149, R273): a store to a D page, or a reverse-mode load of
a page whose shadow is deferred. -/
def laneRecs (store rev : Bool) (z : SizeCode) (fmode : BitVec 8) (a : LaneAcc) : List NewRec :=
  match a.x with
  | .bad _ _ => []
  | .at k _ dfr sh =>
    match sh with
    | some (sk, sd) =>
      if rev && !store && sd then
        (List.range (sizeWords z)).map fun j =>
          ⟨.fadd, false, sk + 4 * j, recValue fmode .fadd ((wordAt a.b j).setWidth 64)⟩
      else []
    | none =>
      if store && dfr then
        (match z with
         | .b128 => [⟨.xchg, true, k, BitVec.ofNat 64 a.b.toNat⟩, ⟨.xchg, true, k + 8, BitVec.ofNat 64 (a.b.toNat / 2 ^ 64)⟩]
         | .b64 => [⟨.xchg, true, k, BitVec.ofNat 64 a.b.toNat⟩]
         | .b32 => [⟨.xchg, false, k, BitVec.ofNat 64 (a.b.toNat % 2 ^ 32)⟩]
         | .n8 | .i8 | .n16 | .i16 => [])
      else []

/-- The lanes from the first whose records exceed the room (R109). -/
def overQuota (room : Nat) : List (LaneAcc × List NewRec) → List LaneAcc
  | [] => []
  | (a, rs) :: r => if room < rs.length then a :: r.map (fun p => p.1) else overQuota (room - rs.length) r

/-- A precise cause on lanes, or on `em` for a uniform instruction (R129, R393). -/
def lanesTrap (c : Ctl) (s : State) (k : Cause) (ls : List LaneAcc) : Body :=
  trapLanes c s c.uni (ls.map fun a => ⟨a.lane, causeCode k, a.va⟩)

/-- A precise cause on `em` (R292). -/
def emTrap (c : Ctl) (k : Cause) : Body := .trap { cause := k, mask := c.em }

/-! ### The tape -/

/-- Drop free positions from the top (R301). -/
def tapeTrim (l : List TapePos) : List TapePos :=
  (l.reverse.dropWhile fun p => p == .free).reverse

/-- Replace a position. -/
def tapePut (l : List TapePos) (i : Nat) (p : TapePos) : List TapePos := l.set i p

/-- What a pop finds at a position from the top: a record to take, a store still in flight, or another instruction's
hole or held record. -/
inductive PopAt where
  | take (r : BitVec 128)
  | wait
  | blocked
  | skip
  deriving DecidableEq, Repr

def popAt : TapePos → PopAt
  | .filled r => .take r
  | .taken => .wait
  | .hole => .blocked
  | .held _ => .blocked
  | .popping _ => .skip
  | .free => .skip

/-- The n top positions that a reverse store can take, topmost first, as pairs of position and what it finds (R301). -/
def topPositions (l : List TapePos) (n : Nat) : List (Nat × PopAt) :=
  (((List.range l.length).reverse.map fun i => (i, popAt (l.getD i .free))).filter fun p => p.2 != .skip).take n

/-- The physical address field of a tape record (R300). -/
def recPa (r : BitVec 128) : Nat := bitsAt r.toNat 2 46 * 4

/-- The value field of a tape record (R300). -/
def recVal (r : BitVec 128) : Word := BitVec.ofNat 32 (r.toNat / 2 ^ 96)

/-- A tape record (R300). -/
def tapeRec (value : Word) (lane gid pa : Nat) : BitVec 128 :=
  BitVec.ofNat 128 (value.toNat * 2 ^ 96 + lane * 2 ^ 69 + gid * 2 ^ 64 + pa / 4 % 2 ^ 46 * 4)

/-- Lanes and words in push order (R272). -/
def pushOrder (ls : List LaneAcc) (words : Nat) : List (Nat × Nat) :=
  ls.flatMap fun a => (List.range words).map fun j => (a.lane, j)

/-- What the tape part of a store answers: positions by lane and word and the new tape, a wait, or a cause. -/
inductive TapePlan where
  | go (pos : List (Nat × Nat × Nat)) (tape : List TapePos)
  | wait
  | trap (k : Cause) (ls : List LaneAcc)

/-- The position of a lane's word in a list. -/
def posOf (l : List (Nat × Nat × Nat)) (lane j : Nat) : Option Nat :=
  (l.find? fun p => p.1 == lane && p.2.1 == j).map fun p => p.2.2

/-- The positions of a forward store: those that a replay owns, and new ones above the highest in use (R301). -/
def planPush (tape : List TapePos) (cap words : Nat) (own : List (Nat × Nat × Nat)) (ls : List LaneAcc)
    (bad : LaneAcc → Bool) : TapePlan :=
  let mark (a : LaneAcc) : TapePos := if bad a then .hole else .taken
  let fresh := pushOrder (ls.filter fun a => (posOf own a.lane 0).isNone) words
  if cap < tape.length + fresh.length then .trap .tapefull []
  else
    let kind (lane : Nat) : TapePos := ((ls.find? fun a => a.lane == lane).map mark).getD .taken
    let tape1 := own.foldl (fun l p => if ls.any (fun a => a.lane == p.1) then tapePut l p.2.2 (kind p.1) else l) tape
    let pos := own ++ (List.range fresh.length).map fun i =>
      let p := fresh.getD i (0, 0); (p.1, p.2, tape.length + i)
    .go pos (tape1 ++ fresh.map fun p => kind p.1)

/-- The positions of a reverse store: those that a replay owns, and the top ones, lanes and words descending; each
record's address must be its word's (R274, R301). -/
def planPop (tape : List TapePos) (words : Nat) (own : List (Nat × Nat × Nat)) (ls : List LaneAcc)
    (bad : LaneAcc → Bool) : TapePlan :=
  let fresh := (pushOrder (ls.filter fun a => (posOf own a.lane 0).isNone) words).reverse
  let top := topPositions tape fresh.length
  if top.length < fresh.length then .trap .tapeempty []
  else if top.any (fun p => p.2 == .blocked) then .trap .tapeseq []
  else if top.any (fun p => p.2 == .wait) then .wait
  else
    let pos := own ++ (List.range fresh.length).map fun i =>
      let p := fresh.getD i (0, 0); (p.1, p.2, (top.getD i (0, .skip)).1)
    let recAt (i : Nat) : BitVec 128 := match tape.getD i .free with
      | .filled r => r
      | .held r => r
      | .popping r => r
      | _ => 0
    let wrong (a : LaneAcc) : Bool := !bad a && (List.range words).any fun j =>
      match posOf pos a.lane j with
      | some i => recPa (recAt i) != keyPa (a.x.key + 4 * j)
      | none => true
    let miss := ls.filter wrong
    if miss.isEmpty then
      .go pos (ls.foldl (fun l a => (List.range words).foldl (fun l j =>
        match posOf pos a.lane j with
        | some i => tapePut l i (if bad a then .held (recAt i) else .popping (recAt i))
        | none => l) l) tape)
    else .trap .tapeseq miss

/-! ### Undo log of stores (R405) -/

/-- The log entries of a store: one a lane, two for .b128, with the bytes as the group sees them; the store's own step
replaces them by those that it finds. -/
def storeUndo (s : State) (c : Ctl) (z : SizeCode) (ls : List LaneAcc) : List Undo :=
  let n := min (sizeBytes z) 8
  ls.flatMap fun a => (List.range (sizeBytes z / n)).map fun k =>
    ⟨c.u, c.pc, 3, BitVec.ofNat 64 (a.va + 8 * k), BitVec.ofNat 64 n,
      (homeBytes s c.t.core c.t.ctx (a.va + 8 * k) (a.x.key + 8 * k) n ++ List.replicate 8 0).take 8, 0, false⟩

/-! ### LD, ST, LDU, STU -/

/-- Put a load or store in flight, with its records, tape positions and implicit commit (R109, R154, R272 to R275,
R301, R304). `as`: the active lanes with their addresses; `data`: their register words. -/
def memStart (c : Ctl) (s : State) (store : Bool) (z : SizeCode) (o : Ord) (dst : MDst) (data : Nat → BitVec 128)
    (as : List (Nat × Nat)) : Body :=
  let rev := c.g.e.rev
  let ls : List LaneAcc := as.map fun p =>
    ⟨p.1, p.2, data p.1, 0, xlate s (some c.t.core) c.t.ctx p.2 (!store) store false⟩
  let bad (a : LaneAcc) : Bool := (memFault c.t.d.gridUnit store rev z o a.x).isSome
  let good := ls.filter fun a => !bad a
  let recs := (good.map fun a => (a, laneRecs store rev z c.g.r.fmode a)).filter fun p => !p.2.isEmpty
  let all := recs.flatMap fun p => p.2
  let excess := overQuota (quotaRoom s c.t) recs
  let gl := if store then ls.filter fun a => a.x.isG && decide (4 ≤ sizeBytes z) else []
  let own := (c.replay.map fun r => r.tape).getD []
  let plan := if gl.isEmpty then .go [] c.t.tape
    else if rev then planPop c.t.tape (sizeWords z) own gl bad
    else planPush c.t.tape (c.t.al.tapeb / 16) (sizeWords z) own gl bad
  let commit := store && rev && !c.t.d.gridUnit && ls.any fun a => a.x.shadowDfr
  if !excess.isEmpty then lanesTrap c s .defquota excess
  else match plan with
    | .wait => .held
    | .trap k l => if l.isEmpty then emTrap c k else lanesTrap c s k l
    | .go pos tape =>
      if sporRoom s c.t.core < all.length + bit commit ∨ (commit ∧ 4 ≤ c.t.d.open') then .held
      else
        let p := if commit then placeCommit s c.tid .team none none else (s, 0)
        let s := if all.isEmpty then p.1 else makeRecs p.1 c.tid c.gid none all
        let s := if gl.isEmpty then s else updTeam s c.tid fun t => { t with tape := tape }
        let s := if c.dbg && store then updGroup s c.tid c.gid fun g =>
            { g with undo := undoAdd g.undo (storeUndo s c z (good.filter fun a => !a.x.isD)) } else s
        let s := if !store && o.code == 1 then holdMem c s else s
        .done (startOp c (.mem store z o rev dst ls c.g.r.fmode pos (if commit then some p.2 else none)) s)

/-- The destination of a load or a reverse-mode store (R107, R274). -/
def vecDst (c : Ctl) (d n : Nat) : MDst := .v ((runRegs d n).map (physOf c.g))

/-- LD and ST (R107, R108). A reverse-mode store needs a flag (R274). -/
def memIssue (row : String) (h : Hdr) (store : Bool) (z : SizeCode) (o : Ord) (d : Nat) (m : MemArg) (s : State) :
    Host.Outcome State Fault Refusal :=
  issue { row := row, h := h, lane := true, vs := runRegs d (sizeRegs z) ++ addrRegs m false, ll := true, wr := !store,
          mem := true } (fun c s1 =>
    if store && c.g.e.rev && c.flag.isNone then emTrap c .illfld
    else
      let as := c.addrs m false (sizeBytes z)
      let bad := addrCauses none (sizeBytes z) as
      if !bad.isEmpty then trapLanes c s1 false bad
      else memStart c s1 store z o (if store && !c.g.e.rev then .none else vecDst c d (sizeRegs z))
        (fun l => c.data d (sizeRegs z) l) as) s

/-- LDU and STU (R115). -/
def uniMemIssue (row : String) (h : Hdr) (store : Bool) (z : SizeCode) (o : Ord) (d : Nat) (a : Src) (off : Int)
    (s : State) : Host.Outcome State Fault Refusal :=
  issue { row := row, h := h, ll := true, wr := !store, mem := true } (fun c s1 =>
    if store && c.g.e.rev && c.flag.isNone then emTrap c .illfld
    else
      let as := [(0, c.uaddr a off)]
      let bad := addrCauses none (sizeBytes z) as
      if !bad.isEmpty then trapLanes c s1 true bad
      else memStart c s1 store z o (if store && !c.g.e.rev then .none else .s d)
        (fun _ => (c.s d).setWidth 128) as) s

/-- A relaxed access. -/
def relaxed : Ord := ⟨0, 0⟩

def execLd (h : Hdr) (d : Nat) (m : MemArg) (s : State) : Host.Outcome State Fault Refusal :=
  memIssue "LD" h false .b32 relaxed d m s
def execLdLong (h : Hdr) (z : SizeCode) (o : Ord) (d : Nat) (m : MemArg) (s : State) :
    Host.Outcome State Fault Refusal :=
  memIssue "LD_LONG" h false z o d m s
def execSt (h : Hdr) (d : Nat) (m : MemArg) (s : State) : Host.Outcome State Fault Refusal :=
  memIssue "ST" h true .b32 relaxed d m s
def execStLong (h : Hdr) (z : SizeCode) (o : Ord) (d : Nat) (m : MemArg) (s : State) :
    Host.Outcome State Fault Refusal :=
  memIssue "ST_LONG" h true z o d m s
def execLdu (h : Hdr) (d a : Nat) (off : Int) (s : State) : Host.Outcome State Fault Refusal :=
  uniMemIssue "LDU" h false .b64 relaxed d (.reg a) off s
def execLduLong (h : Hdr) (z : SizeCode) (o : Ord) (d : Nat) (a : Src) (off : Int) (s : State) :
    Host.Outcome State Fault Refusal :=
  uniMemIssue "LDU_LONG" h false z o d a off s
def execStu (h : Hdr) (d a : Nat) (off : Int) (s : State) : Host.Outcome State Fault Refusal :=
  uniMemIssue "STU" h true .b64 relaxed d (.reg a) off s
def execStuLong (h : Hdr) (z : SizeCode) (o : Ord) (d : Nat) (a : Src) (off : Int) (s : State) :
    Host.Outcome State Fault Refusal :=
  uniMemIssue "STU_LONG" h true z o d a off s

/-! ### LDA, STA, LDC, STC -/

/-- A lane access to a buffer, which is not translated. -/
def bufAcc (lane off : Nat) (x : BitVec 128) : LaneAcc := ⟨lane, off, x, 0, .at 0 false false none⟩

/-- LDA and STA (R112, R148). -/
def abufIssue (row : String) (h : Hdr) (store : Bool) (z : SizeCode) (o : Ord) (d : Nat) (m : MemArg) (s : State) :
    Host.Outcome State Fault Refusal :=
  issue { row := row, h := h, lane := true, vs := runRegs d (sizeRegs z) ++ addrRegs m true, ll := true, wr := !store,
          mem := true } (fun c s1 =>
    let as := c.addrs m true (sizeBytes z)
    let bad := addrCauses (some c.t.al.asize) (sizeBytes z) as
    if !bad.isEmpty then trapLanes c s1 false bad
    else
      let ls := as.map fun p => bufAcc p.1 p.2 (c.data d (sizeRegs z) p.1)
      let s2 := if !store && o.code == 1 then holdMem c s1 else s1
      .done (startOp c (.abuf store z o (if store then .none else vecDst c d (sizeRegs z)) ls) s2)) s

def execLda (h : Hdr) (d : Nat) (m : MemArg) (s : State) : Host.Outcome State Fault Refusal :=
  abufIssue "LDA" h false .b32 relaxed d m s
def execLdaLong (h : Hdr) (z : SizeCode) (o : Ord) (d : Nat) (m : MemArg) (s : State) :
    Host.Outcome State Fault Refusal :=
  abufIssue "LDA_LONG" h false z o d m s
def execSta (h : Hdr) (d : Nat) (m : MemArg) (s : State) : Host.Outcome State Fault Refusal :=
  abufIssue "STA" h true .b32 relaxed d m s
def execStaLong (h : Hdr) (z : SizeCode) (o : Ord) (d : Nat) (m : MemArg) (s : State) :
    Host.Outcome State Fault Refusal :=
  abufIssue "STA_LONG" h true z o d m s

/-- LDC and STC: element e0 + lane, or e0 + 128 · lane with .col (R113). -/
def cbufIssue (row : String) (h : Hdr) (store col : Bool) (d acc : Nat) (b : Src) (k : BitVec 32) (s : State) :
    Host.Outcome State Fault Refusal :=
  issue { row := row, h := h, lane := true, vs := [d], ll := true, wr := !store, mem := true } (fun c s1 =>
    let e0 := (c.srcS b).toNat + k.toNat
    let es := (lanesOf c.act).map fun l => (l, if col then e0 + 128 * l else e0 + l)
    let out := es.filter fun p => decide (16383 < p.2)
    if c.t.al.tiles.length ≤ acc then emTrap c .ctile
    else if !out.isEmpty then trapLanes c s1 false (out.map fun p => ⟨p.1, causeCode .cbound, 0⟩)
    else
      let ls := es.map fun p => bufAcc p.1 p.2 ((c.lane d p.1).setWidth 128)
      .done (startOp c (.cbuf store acc (if store then .none else vecDst c d 1) ls) s1)) s

def execLdc (h : Hdr) (col : Bool) (d acc : Nat) (b : Src) (k : BitVec 32) (s : State) :
    Host.Outcome State Fault Refusal :=
  cbufIssue "LDC" h false col d acc b k s
def execStc (h : Hdr) (col : Bool) (d acc : Nat) (b : Src) (k : BitVec 32) (s : State) :
    Host.Outcome State Fault Refusal :=
  cbufIssue "STC" h true col d acc b k s

/-! ### ATOM, RED -/

/-- Whether an atomic's ORD acquires (R116). -/
def ordAcq (o : Ord) : Bool := o.code == 1 || o.code == 3

/-- Whether an atomic's ORD releases (R116). -/
def ordRel (o : Ord) : Bool := o.code == 2 || o.code == 3

/-- The value of a lane: 32 bits, or a pair (R116, R104). -/
def Ctl.aval (c : Ctl) (wide : Bool) (x : Src) (l : Nat) : BitVec 64 :=
  if wide then c.srcPair x l else (c.srcV x l).setWidth 64

/-- The vector registers of a value operand. -/
def avalRegs (wide : Bool) (x : Src) : List Nat := (srcRegs x).flatMap fun n => if wide then [n, n + 1] else [n]

/-- Discard the L1 lines of a list of accesses (R177). -/
def dropLines (s : State) (core ctx : Nat) (ls : List LaneAcc) : State :=
  updCore s core fun k => ls.foldl (fun k a => l1Drop k ctx a.va) k

/-- ATOM and RED (R116, R117). A RED lane on a D page makes a record. -/
def atomIssue (row : String) (h : Hdr) (op : AOp) (wide : Bool) (o : Ord) (d : Option Nat) (m : MemArg) (b k : Src)
    (s : State) : Host.Outcome State Fault Refusal :=
  let n := if wide then 2 else 1
  issue { row := row, h := h, lane := true
          vs := (match d with | some d => runRegs d n | none => []) ++ addrRegs m false ++ avalRegs wide b ++
            (if op = .cas then avalRegs wide k else [])
          ll := true, wr := d.isSome, mem := true } (fun c s1 =>
    let as := c.addrs m false (4 * n)
    let bad := addrCauses none (4 * n) as
    if !bad.isEmpty then trapLanes c s1 false bad
    else
      let ls : List LaneAcc := as.map fun p =>
        ⟨p.1, p.2, (c.aval wide b p.1).setWidth 128, if op = .cas then c.aval wide k p.1 else 0,
          xlate s1 (some c.t.core) c.t.ctx p.2 true true false⟩
      let recs : List (LaneAcc × List NewRec) :=
        if d.isSome then []
        else (ls.filter fun a => (atomFault false a.x).isNone && a.x.isD).map fun a =>
          (a, [⟨op, wide, a.x.key, recValue c.g.r.fmode op (a.b.setWidth 64)⟩])
      let all := recs.flatMap fun p => p.2
      let excess := overQuota (quotaRoom s1 c.t) recs
      if !excess.isEmpty then lanesTrap c s1 .defquota excess
      else if sporRoom s1 c.t.core < all.length then .held
      else
        let s2 := if all.isEmpty then s1 else makeRecs s1 c.tid c.gid none all
        let s3 := dropLines s2 c.t.core c.t.ctx ls
        let s4 := if ordAcq o then holdMem c s3 else s3
        .done (startOp c (.atom op wide o (match d with | some d => vecDst c d n | none => .none) ls c.g.r.fmode) s4)) s

def execAtom (h : Hdr) (op : AOp) (wide : Bool) (o : Ord) (d : Nat) (m : MemArg) (b k : Src) (s : State) :
    Host.Outcome State Fault Refusal :=
  atomIssue "ATOM" h op wide o (some d) m b k s
def execRed (h : Hdr) (op : AOp) (wide : Bool) (o : Ord) (m : MemArg) (b : Src) (s : State) :
    Host.Outcome State Fault Refusal :=
  atomIssue "RED" h op wide o none m b (.imm 0) s

end Sys2Proof.Machine
end

