-- ==== Sys2Proof/Machine/MemPerform.lean ====
section
/-!
DEFINITION. How loads, stores and atomics are performed (R107 to R117, R164, R176, R177, R271 to R275, R299, R301).
-/

namespace Sys2Proof.Machine

/-- The context and core of an operation, and whether more than six instructions have issued after it: a word that is
marked only then is not reported to it, since its group would have stopped (R392; log entry 37). -/
structure Who where
  core : Nat
  ctx : Nat
  t : Team
  g : Group
  late : Bool

def whoOf (s : State) (o : Op) : Option Who :=
  match teamOf s o.tid, groupOf s o.tid o.gid with
  | some t, some g => some ⟨t.core, t.ctx, t, g, decide (6 < o.after)⟩
  | _, _ => none

/-- What performing an operation's lanes gives: the state, the values of lanes, lanes that met an uncorrectable word,
STATUS bits. -/
structure Perf where
  s : State
  res : List (Nat × Nat)
  ue : List LaneCause
  st : BitVec 3

/-- A lane that met an uncorrectable word (R404). -/
def markedLane (a : LaneAcc) : LaneCause := ⟨a.lane, causeCode .memue, a.va⟩

/-- Whether an access meets an uncorrectable word that it reports (R392, R404). -/
def Who.meets (w : Who) (s : State) (key n : Nat) : Bool := !w.late && isMarked s key n

/-! ### LD, ST, LDU, STU -/

/-- Set a tape position of a team (R301). -/
def setTape (s : State) (tid i : Nat) (p : TapePos) : State :=
  updTeam s tid fun t => { t with tape := tapeTrim (tapePut t.tape i p) }

/-- A plain load lane (R107, R177). -/
def loadLane (w : Who) (z : SizeCode) (nc fromL1 : Bool) (a : LaneAcc) (key : Nat) (l1 : Bool) (p : Perf) : Perf :=
  if atHome p.s w.core w.ctx a.va l1 fromL1 nc && w.meets p.s key (sizeBytes z) then { p with ue := p.ue ++ [markedLane a] }
  else
    let r := readLoad p.s w.core w.ctx a.va key (sizeBytes z) l1 fromL1 nc
    { p with s := r.2, res := p.res ++ [(a.lane, loadExt z (natOfBytes r.1))] }

/-- One reverse-mode add to an adjoint cell, one step at the home (R273). -/
def addCell (fmode : BitVec 8) (key : Nat) (g : Word) (p : Perf) : Perf :=
  let r := fAdd fmtF32 .rne (flushIn fmode 32) (flushOut fmode 32) (memNat p.s.mem key 4) g.toNat
  { p with s := { p.s with mem := memPut p.s.mem key 4 r.x }, st := p.st ||| stBits false false r.inv }

/-- A reverse-mode load lane on a G page: adds, or records already made (R273). -/
def revLoadLane (w : Who) (z : SizeCode) (fmode : BitVec 8) (a : LaneAcc) (p : Perf) : Perf :=
  (List.range (sizeWords z)).foldl (fun p j =>
    match a.x.shadow j with
    | some (k, false) =>
      if w.meets p.s k 4 then (if p.ue.any (fun u => u.lane == a.lane) then p else { p with ue := p.ue ++ [markedLane a] })
      else addCell fmode k (wordAt a.b j) p
    | _ => p) p

/-- A plain store lane enters the queue; on a D page its records are already made (R108, R177). -/
def storeLane (w : Who) (gid : Nat) (z : SizeCode) (rel : Option Nat) (a : LaneAcc) (key : Nat) (dfr : Bool) (p : Perf) : Perf :=
  if dfr then p
  else { p with s := queueStore p.s w.core w.ctx w.t.uid gid a.va key rel (bytesOfNat (sizeBytes z) a.b.toNat) }

/-- A forward store lane on a G page: the old word to its tape position, the new one to the home (R272, R299). -/
def pushLane (w : Who) (gid : Nat) (z : SizeCode) (pos : List (Nat × Nat × Nat)) (a : LaneAcc) (key : Nat) (p : Perf) :
    Perf :=
  (List.range (sizeWords z)).foldl (fun p j =>
    let k := key + 4 * j
    let old := BitVec.ofNat 32 (memNat p.s.mem k 4)
    let s := homeStore p.s w.core w.ctx (a.va + 4 * j) k (bytesOfNat 4 (wordAt a.b j).toNat)
    { p with s := match posOf pos a.lane j with
        | some i => setTape s w.t.uid i (.filled (tapeRec old a.lane gid (keyPa k)))
        | none => s }) p

/-- The record at a position. -/
def tapeAt (s : State) (tid i : Nat) : BitVec 128 :=
  match ((teamOf s tid).map fun t => t.tape.getD i TapePos.free).getD TapePos.free with
  | .filled r => r
  | .popping r => r
  | .held r => r
  | _ => 0

/-- A reverse store lane on a G page, words descending: the cell read and cleared, the primal restored (R274). -/
def popLane (w : Who) (z : SizeCode) (pos : List (Nat × Nat × Nat)) (a : LaneAcc) (key : Nat) (p : Perf) : Perf :=
  let r := ((List.range (sizeWords z)).reverse).foldl (fun (q : Perf × Nat) j =>
    match a.x.shadow j, posOf pos a.lane j with
    | some (sk, _), some i =>
      let old := memNat q.1.s.mem sk 4
      let v := recVal (tapeAt q.1.s w.t.uid i)
      let s := lineStore { q.1.s with mem := memPut q.1.s.mem sk 4 0 } w.core w.ctx sk (bytesOfNat 4 0)
      let s := homeStore s w.core w.ctx (a.va + 4 * j) (key + 4 * j) (bytesOfNat 4 v.toNat)
      ({ q.1 with s := setTape s w.t.uid i .free }, q.2 + old * 2 ^ (32 * j))
    | _, _ => q) (p, 0)
  { r.1 with res := r.1.res ++ [(a.lane, r.2)] }

/-- The undo log's entries of a store's bytes hold what the store finds there (R405). -/
def foundOld (w : Who) (o : Op) (a : LaneAcc) (n key : Nat) (s : State) : State :=
  if w.g.undo.isEmpty then s
  else updGroup s o.tid o.gid fun g => { g with undo := g.undo.map fun e =>
    let va := e.target.toNat
    if e.kind = 3 ∧ e.n = o.issued ∧ e.pc = o.pc ∧ a.va ≤ va ∧ va < a.va + n then
      { e with out := false, old := (homeBytes s w.core w.ctx va (key + (va - a.va)) e.mask.toNat ++
          List.replicate 8 0).take 8 }
    else e }

/-- One lane of a load or a store. -/
def memLane (w : Who) (o : Op) (store : Bool) (z : SizeCode) (ord : Ord) (rev fromL1 : Bool) (fmode : BitVec 8)
    (pos : List (Nat × Nat × Nat)) (p : Perf) (a : LaneAcc) : Perf :=
  match a.x with
  | .bad _ _ => p
  | .at key l1 dfr sh =>
    match store, rev, sh with
    | false, true, some _ => revLoadLane w z fmode a p
    | false, _, _ => loadLane w z (ord.code == 2) fromL1 a key l1 p
    | true, true, some _ => popLane w z pos a key { p with s := foundOld w o a (sizeBytes z) key p.s }
    | true, false, some _ => pushLane w o.gid z pos a key { p with s := foundOld w o a (sizeBytes z) key p.s }
    | true, _, none => storeLane w o.gid z (if ord.code == 1 && decide (2 ≤ ord.scope) then some o.id else none) a key dfr
        { p with s := foundOld w o a (sizeBytes z) key p.s }

/-- Perform the lanes of a load or a store that do not fault: ascending, and on G pages in reverse mode descending for
a store (R111, R274). -/
def memPerform (s : State) (w : Who) (o : Op) (store : Bool) (z : SizeCode) (ord : Ord) (rev fromL1 : Bool)
    (ls : List LaneAcc) (fmode : BitVec 8) (pos : List (Nat × Nat × Nat)) : Perf :=
  let good := ls.filter fun a => (memFault w.t.d.gridUnit store rev z ord a.x).isNone
  let order := if store && rev then (good.filter fun a => !a.x.isG) ++ (good.filter fun a => a.x.isG).reverse else good
  order.foldl (memLane w o store z ord rev fromL1 fmode pos) ⟨s, [], [], 0⟩

/-- The memory keys that a lane reaches at the home, with whether it goes there at all (R164, R177, R299). -/
def homeKeys (s : State) (w : Who) (store : Bool) (ord : Ord) (rev fromL1 : Bool) (a : LaneAcc) :
    List Nat :=
  match a.x with
  | .bad _ _ => []
  | .at key l1 dfr sh =>
    match sh with
    | some (sk, sd) =>
      if rev then (if !store && sd then [] else [sk]) ++ (if store then [key] else [])
      else if store then [key]
      else if atHome s w.core w.ctx a.va l1 fromL1 (ord.code == 2) then [key] else []
    | none =>
      if store then []
      else if dfr || atHome s w.core w.ctx a.va l1 fromL1 (ord.code == 2) then [key] else []

/-- Whether a load or a store can be performed: its group's earlier accesses to the same bytes, its implicit commit, the
home, the queue, and for a release the group's earlier writes (R107, R111, R164, R177, R274). -/
def memReady (s : State) (w : Who) (o : Op) (store : Bool) (z : SizeCode) (ord : Ord) (rev fromL1 : Bool)
    (ls : List LaneAcc) (commit : Option Nat) : Bool :=
  let good := ls.filter fun a => (memFault w.t.d.gridUnit store rev z ord a.x).isNone
  let atG := good.filter fun a => a.x.isG && (store || rev)
  !waitsBytes s o &&
  (match commit with | some c => !(s.defer.commits.any fun k => k.id == c) | none => true) &&
  !(good.any fun a => (homeKeys s w store ord rev fromL1 a).any (homeWaits s)) &&
  !waitsQueue s w.core w.ctx (atG.map fun a => ⟨0, a.va, sizeBytes z⟩) &&
  (atG.isEmpty || !ackWaits s w.core) &&
  (!(store && ord.code == 1) ||
    (if atG.isEmpty then !((earlier s o).any fun x => isWrite x.kind) else released s o w.core ord.scope))

/-! ### LDA, STA, LDC, STC -/

/-- One lane of an A-buffer access: free values where a matrix instruction or a gather uses the bytes (R112, R114, R198,
R355). -/
def abufLane (w : Who) (o : Op) (store : Bool) (z : SizeCode) (p : Perf) (a : LaneAcc) : Perf :=
  let n := sizeBytes z
  let r := Region.abuf a.va n
  let used := busyFor w.t w.g r
  let free := !used.isEmpty || gathersOn p.s w.t.uid a.va n
  if store then
    let b := if free then freeBytes p.s.fresh n else bytesOfNat n a.b.toNat
    let s := if free then
        spoilReaders (spoilGathers (bump p.s) w.t.uid a.va n) w.t.uid (used.filter fun k => k.rd.any (regMeets r))
      else p.s
    { p with s := noteWrite (abufPut s w.t a.va b) w.t.uid (.group o.gid) o.id none r }
  else if free then { p with s := bump p.s, res := p.res ++ [(a.lane, loadExt z (natOfBytes (freeBytes p.s.fresh n)))] }
  else { p with res := p.res ++ [(a.lane, loadExt z (natOfBytes (abufGet p.s w.t a.va n)))] }

/-- One lane of a tile access (R113, R114, R198). -/
def cbufLane (w : Who) (o : Op) (store : Bool) (tile : Nat) (p : Perf) (a : LaneAcc) : Perf :=
  let r := Region.tile tile
  let used := busyFor w.t w.g r
  if store then
    let x := if used.isEmpty then BitVec.ofNat 32 a.b.toNat else freeWord p.s.fresh a.va
    let s := if used.isEmpty then p.s else spoilReaders (bump p.s) w.t.uid (used.filter fun k => k.rd.any (regMeets r))
    { p with s := noteWrite (tilePut s w.t tile a.va x) w.t.uid (.group o.gid) o.id none r }
  else if used.isEmpty then { p with res := p.res ++ [(a.lane, (tileGet p.s w.t tile a.va).toNat)] }
  else { p with s := bump p.s, res := p.res ++ [(a.lane, (freeWord p.s.fresh a.va).toNat)] }

/-! ### Atomics -/

/-- Signed or unsigned comparison of two values of a width. -/
def lessW (signed : Bool) (w a b : Nat) : Bool := if signed then decide (sextNat w a < sextNat w b) else decide (a < b)

/-- One atomic step: the new value, and whether it is invalid (R116). -/
def atomStep (op : AOp) (wide : Bool) (fin fout : Bool) (old b k : Nat) : Nat × Bool :=
  let w := if wide then 64 else 32
  let b := b % 2 ^ w
  match op with
  | .add => ((old + b) % 2 ^ w, false)
  | .fadd => let r := fAdd fmtF32 .rne fin fout old b; (r.x, r.inv)
  | .minI => (if lessW true w b old then b else old, false)
  | .minN => (if lessW false w b old then b else old, false)
  | .maxI => (if lessW true w old b then b else old, false)
  | .maxN => (if lessW false w old b then b else old, false)
  | .fmin => let r := fExtreme fmtF32 false fin old b; (r.x, r.inv)
  | .fmax => let r := fExtreme fmtF32 true fin old b; (r.x, r.inv)
  | .and => (old &&& b, false)
  | .or => (old ||| b, false)
  | .xor => (old ^^^ b, false)
  | .xchg => (b, false)
  | .cas => (if old = k % 2 ^ w then b else old, false)

/-- One atomic lane at the home (R116); a RED lane on a D page has made its record (R117). -/
def atomLane (w : Who) (op : AOp) (wide returns : Bool) (fmode : BitVec 8) (p : Perf) (a : LaneAcc) : Perf :=
  match a.x with
  | .bad _ _ => p
  | .at key _ dfr _ =>
    if dfr then p
    else
      let n := if wide then 8 else 4
      if w.meets p.s key n then { p with ue := p.ue ++ [markedLane a] }
      else
        let old := memNat p.s.mem key n
        let r := atomStep op wide (flushIn fmode 32) (flushOut fmode 32) old a.b.toNat a.c.toNat
        let s := updCore { p.s with mem := memPut p.s.mem key n r.1 } w.core fun k => l1Drop k w.ctx a.va
        { p with s := s, res := if returns then p.res ++ [(a.lane, old)] else p.res
                 st := p.st ||| stBits false false r.2 }

/-- Perform an atomic's lanes that do not fault, ascending (R116). -/
def atomPerform (s : State) (w : Who) (op : AOp) (wide : Bool) (dst : MDst) (ls : List LaneAcc) (fmode : BitVec 8) :
    Perf :=
  (ls.filter fun a => (atomFault (!dst.isNone) a.x).isNone).foldl (atomLane w op wide (!dst.isNone) fmode) ⟨s, [], [], 0⟩

/-- Whether accesses at the home can be performed (R111, R164, R177). -/
def homeReady (s : State) (w : Who) (o : Op) (ls : List LaneAcc) (n : Nat) : Bool :=
  !waitsBytes s o && !waitsQueue s w.core w.ctx (ls.map fun a => ⟨0, a.va, n⟩) && !ackWaits s w.core &&
    !(ls.any fun a => match a.x with
      | .bad _ _ => false
      | .at key _ _ _ => homeWaits s key)

/-! ### Completion of memory operations -/

/-- What performing an operation's access gives, where it can be performed now; none where it must wait or is no access
(R110). -/
def accessPerform (s : State) (o : Op) (fromL1 : Bool) : Option Perf :=
  match whoOf s o with
  | none => none
  | some w =>
    match o.kind with
    | .mem st z ord rev _ ls fmode pos commit =>
      if memReady s w o st z ord rev fromL1 ls commit then some (memPerform s w o st z ord rev fromL1 ls fmode pos)
      else none
    | .abuf st z ord _ ls =>
      if waitsBytes s o || (st && ord.code == 1 && !released s o w.core 1) then none
      else some (ls.foldl (abufLane w o st z) ⟨s, [], [], 0⟩)
    | .cbuf st tile _ ls =>
      if waitsBytes s o then none else some (ls.foldl (cbufLane w o st tile) ⟨s, [], [], 0⟩)
    | .atom op wide ord dst ls fmode =>
      if homeReady s w o (ls.filter fun a => !a.x.isD) (if wide then 8 else 4) &&
          (!ordRel ord || released s o w.core ord.scope) then
        some (atomPerform (publish s o.tid (ordRel ord) ord.scope) w op wide dst ls fmode)
      else none
    | _ => none

/-- The register destination of an access. -/
def accessDst : OpKind → MDst
  | .mem _ _ _ _ d _ _ _ _ => d
  | .abuf _ _ _ d _ => d
  | .cbuf _ _ d _ => d
  | .atom _ _ _ d _ _ => d
  | _ => .none

/-- The scope of an operation's acquire, if it has one (R107, R116). -/
def acqScope : OpKind → Option Nat
  | .mem st _ o _ _ _ _ _ _ => if !st && o.code == 1 then some o.scope else none
  | .abuf st _ o _ _ => if !st && o.code == 1 then some o.scope else none
  | .atom _ _ o _ _ _ => if ordAcq o then some o.scope else none
  | _ => none

/-- The place, among the words that synchronisation goes through, of an A-buffer byte of the team. -/
def abufWord (off : Nat) : Nat := 2 ^ 70 + off

/-- The words that an access reads or writes, as synchronisation goes through them (R179). -/
def syncWords (ls : List LaneAcc) : List Nat := ls.filterMap fun a => match a.x with | .at k _ _ _ => some k | .bad _ _ => none

/-- The adjoint cells that a reverse-mode access reaches: `own` those to which it has no records made (R273, R274). -/
def cellKeys (own : Bool) (z : SizeCode) (ls : List LaneAcc) : List Nat :=
  ls.flatMap fun a => (List.range (sizeWords z)).filterMap fun j =>
    match a.x.shadow j with
    | some (k, sd) => if own && sd then none else some k
    | none => none

/-- What an access's reads bring its group, and what its stores carry on, of the writes of the team's buffers (R179). In
reverse mode a load of a G page counts as a RED of its adds, which reads nothing, and a store as one of its clears and
restores (R295). -/
def noteSync (s : State) (o : Op) : State :=
  match o.kind with
  | .mem st z ord rev _ ls _ _ _ =>
    if st then
      noteRelease s o.tid o.gid o.id (ord.code == 1) false (syncWords ls ++ if rev then cellKeys false z ls else [])
    else
      let s := noteAcquire s o.tid o.gid (ord.code == 1) (syncWords (if rev then ls.filter fun a => !onG a else ls))
      if rev then noteRelease s o.tid o.gid o.id false true (cellKeys true z ls) else s
  | .abuf st _ ord _ ls =>
    let ks := ls.map fun a => abufWord a.va
    if st then noteRelease s o.tid o.gid o.id (ord.code == 1) false ks else noteAcquire s o.tid o.gid (ord.code == 1) ks
  | .atom _ _ ord d ls _ =>
    let ks := syncWords ls
    noteRelease (if d.isNone then s else noteAcquire s o.tid o.gid (ordAcq ord) ks) o.tid o.gid o.id (ordRel ord) true ks
  | _ => s

/-- Results, STATUS and acquire of an access whose lanes have been performed. -/
def accessWrite (o : Op) (w : Who) (p : Perf) : State :=
  let s := noteSync (writeNow p.s o (resWrs (accessDst o.kind) p.res ++ wrSt p.st)) o
  match acqScope o.kind with
  | some sc => acquireL1 s w.core w.ctx sc
  | none => s

/-- An access completes: every lane is performed and none faults (R22, R24). -/
def accessFinish (s : State) (o : Op) (fromL1 : Bool) : Option State :=
  match whoOf s o, accessPerform s o fromL1 with
  | some w, some p =>
    if (opFaults w.t.d.gridUnit o.kind).isEmpty && p.ue.isEmpty then some (endOp (accessWrite o w p) o) else none
  | _, _ => none

end Sys2Proof.Machine
end

