-- ==== Sys2Proof/Machine/Sync.lean ====
section
/-!
DEFINITION. Waits, fences, commits, barriers, counters, remote atomics and queue service (R73 to R75, R118 to R128).
-/

namespace Sys2Proof.Machine

/-! ### One address from `s` registers -/

/-- The issue facts of a uniform memory instruction. -/
def uniMem (row : String) (h : Hdr) (wr : Bool) : Iss := { row := row, h := h, ll := true, wr := wr, mem := true }

/-- A uniform access: its address checked (R432), its translation. -/
def uniAcc (c : Ctl) (s : State) (a : Src) (off : Int) (b k : Dword) (r w : Bool) : LaneAcc :=
  let va := c.uaddr a off
  ⟨0, va, b.setWidth 128, k, xlate s (some c.t.core) c.t.ctx va r w false⟩

/-- The check of one uniform address: MISALN for an address that is no multiple of the size, then ADDRBAD (R106, R216,
R217, R289, R353, R432). -/
def uniCheck (size a : Nat) : List LaneCause :=
  if a % size != 0 then [⟨0, causeCode .misaln, a⟩]
  else if 2 ^ 56 ≤ a then [⟨0, causeCode .addrbad, a⟩]
  else []

/-- A uniform memory instruction with one address of a size: the precise checks of R106 and R432 first. -/
def uniOp (row : String) (h : Hdr) (wr : Bool) (size : Nat) (a : Src) (off : Int) (body : Ctl → State → Body)
    (s : State) : Host.Outcome State Fault Refusal :=
  issue (uniMem row h wr) (fun c s1 =>
    let bad := uniCheck size (c.uaddr a off)
    if !bad.isEmpty then trapLanes c s1 true bad else body c s1) s

/-- The same where a queue is bound: QBOUND, the lower code, first (R76, R393). -/
def uniBind (row : String) (h : Hdr) (size : Nat) (a : Src) (off : Int) (bad : Ctl → Bool) (body : Ctl → State → Body)
    (s : State) : Host.Outcome State Fault Refusal :=
  issue (uniMem row h false) (fun c s1 =>
    let l := uniCheck size (c.uaddr a off)
    if bad c then .trap { cause := .qbound, mask := c.em }
    else if !l.isEmpty then trapLanes c s1 true l else body c s1) s

/-! ### WAITA, CWAITGE, CADD -/

def execWaita (h : Hdr) (rel : Rel) (n b64 acq : Bool) (scope d a : Nat) (b : Src) (off : Int) (s : State) :
    Host.Outcome State Fault Refusal :=
  uniOp "WAITA" h true (if b64 then 8 else 4) (.reg a) off (fun c s1 =>
    let x := uniAcc c s1 (.reg a) off (c.srcS b) 0 true false
    let s2 := if acq then holdMem c s1 else s1
    .done (startOp c (.waita rel n b64 (if acq then some scope else none) d x) s2)) s

def execCwaitge (h : Hdr) (acq : Bool) (scope d a : Nat) (b : Src) (off : Int) (s : State) :
    Host.Outcome State Fault Refusal :=
  uniOp "CWAITGE" h true 8 (.reg a) off (fun c s1 =>
    let x := uniAcc c s1 (.reg a) off (c.srcS b) 0 true false
    let s2 := if acq then holdMem c s1 else s1
    .done (startOp c (.cwaitge (if acq then some scope else none) d x) s2)) s

/-- CADD: a counter on a D page traps CTRDEF (R127). -/
def execCadd (h : Hdr) (rel poison : Bool) (scope a : Nat) (b : Src) (off : Int) (s : State) :
    Host.Outcome State Fault Refusal :=
  uniOp "CADD" h false 8 (.reg a) off (fun c s1 =>
    let x := uniAcc c s1 (.reg a) off (c.srcS b) 0 true true
    if x.x.isD then trapLanes c s1 true [⟨0, causeCode .ctrdef, x.va⟩]
    else .done (startOp c (.cadd (if rel then some scope else none) poison x)
      (dropLines s1 c.t.core c.t.ctx [x]))) s

/-- A counter after an addition (R127). -/
def counterAdd (old amount : Nat) (poison : Bool) : Nat :=
  (if poison || decide (2 ^ 63 ≤ old) then 2 ^ 63 else 0) + (old % 2 ^ 63 + amount % 2 ^ 63) % 2 ^ 63

/-- Whether WAITA's value satisfies its relation, at the access's width (R118). -/
def waitHolds (rel : Rel) (n b64 : Bool) (v b : Nat) : Bool :=
  let w := if b64 then 64 else 32
  let x (k : Nat) : Int := if n then ((k % 2 ^ w : Nat) : Int) else sextNat w (k % 2 ^ w)
  relInt rel (x v - x b)

/-- A value read at the home for a uniform access, with the core's queued stores (R177). -/
def uniRead (s : State) (w : Who) (a : LaneAcc) (n : Nat) : Nat :=
  natOfBytes (homeBytes s w.core w.ctx a.va a.x.key n)

/-- Acquire at a scope, if the operation acquires. -/
def acquireOpt (s : State) (w : Who) : Option Nat → State
  | some sc => acquireL1 s w.core w.ctx sc
  | none => s

/-- Whether a uniform access reads an uncorrectable word (R404). -/
def uniMarked (s : State) : OpKind → Bool
  | .waita _ _ b64 _ _ a => isMarked s a.x.key (if b64 then 8 else 4)
  | .cwaitge _ _ a => isMarked s a.x.key 8
  | .cadd _ _ a => isMarked s a.x.key 8
  | .fmtsel _ a _ _ => isMarked s a.x.key 64
  | .tapefill _ ks _ => ks.any fun k => isMarked s k.1 16
  | _ => false

/-- What a wait's read at the home does: its register, the line that held the word, which goes, and what the word brings
(R177, R179). -/
def waitRead (s : State) (o : Op) (a : LaneAcc) (acq : Option Nat) (ws : List RegWr) : State :=
  let s := noteAcquire (writeNow s o ws) o.tid o.gid acq.isSome [a.x.key]
  match whoOf s o with
  | some w => updCore s w.core fun k => l1Drop k w.ctx a.va
  | none => s

/-- WAITA, CWAITGE or CADD completes (R118, R126, R127). -/
def counterFinish (s : State) (o : Op) : Option State :=
  match whoOf s o with
  | none => none
  | some w =>
    match o.kind with
    | .waita rel n b64 acq d a =>
      let k := if b64 then 8 else 4
      let v := uniRead s w a k
      if !waitsBytes s o && !homeWaits s a.x.key && waitHolds rel n b64 v a.b.toNat then
        some (endOp (acquireOpt (waitRead s o a acq [.s d (BitVec.ofNat 64 v)]) w acq) o)
      else none
    | .cwaitge acq d a =>
      let v := uniRead s w a 8
      if !waitsBytes s o && !homeWaits s a.x.key && (decide (2 ^ 63 ≤ v) || decide (a.b.toNat % 2 ^ 63 ≤ v % 2 ^ 63)) then
        some (endOp (acquireOpt (waitRead s o a acq [.sp d (decide (2 ^ 63 ≤ v))]) w acq) o)
      else none
    | .cadd rel poison a =>
      if homeReady s w o [a] 8 && (match rel with | some sc => released s o w.core sc | none => true) then
        let s := { s with mem := memPut s.mem a.x.key 8 (counterAdd (memNat s.mem a.x.key 8) a.b.toNat poison) }
        let s := noteRelease s o.tid o.gid o.id rel.isSome true [a.x.key]
        let s := publish s o.tid rel.isSome (rel.getD 0)
        some (endOp (updCore s w.core fun k => l1Drop k w.ctx a.va) o)
      else none
    | _ => none

/-! ### Fences -/

/-- FENCE (R119). `kind`: 0 .acq, 1 .rel, 2 .sc. -/
def fenceIssue (row : String) (h : Hdr) (kind scope : Nat) (s : State) : Host.Outcome State Fault Refusal :=
  issue (uniMem row h false) (fun c s1 => .done (startOp c (.fence kind scope) (holdMem c s1))) s

def execFenceAcq (h : Hdr) (scope : Nat) (s : State) : Host.Outcome State Fault Refusal :=
  fenceIssue "FENCE_ACQ" h 0 scope s
def execFenceRel (h : Hdr) (scope : Nat) (s : State) : Host.Outcome State Fault Refusal :=
  fenceIssue "FENCE_REL" h 1 scope s
def execFenceSc (h : Hdr) (scope : Nat) (s : State) : Host.Outcome State Fault Refusal :=
  fenceIssue "FENCE_SC" h 2 scope s

def execAliasf (h : Hdr) (s : State) : Host.Outcome State Fault Refusal :=
  issue (uniMem "ALIASF" h false) (fun c s1 =>
    let now := Config.freeBit s1.fresh
    let s2 := holdMem c (bump s1)
    .done (startOp c (.aliasf now) (if now then acquireL1 s2 c.t.core c.t.ctx 2 else s2))) s

/-- The mode changes; that of a switch which issued before the entry of the handler that runs changes what the entry has
saved, since the handler runs forward and RTE restores the saved mode (R270, R397; log entry 40). -/
def setMode (id : Nat) (rev : Bool) (g : Group) : Group :=
  if g.t.inHandler && decide (id < g.t.entry) then { g with t := { g.t with mode := rev } }
  else { g with e := { g.e with rev := rev } }

/-- A fence, ALIASF or a mode switch completes (R119, R121, R270); the order of .sc completions is their total order.
ALIASF waits for the group's own stores; its lines have gone before them or go after them, a free choice (R121, R192; log
entry 5). -/
def fenceFinish (s : State) (o : Op) (strict : Bool) : Option State :=
  match whoOf s o with
  | none => none
  | some w =>
    match o.kind with
    | .fence kind scope =>
      let early := kind == 1 && !strict && released s o w.core 1
      if (kind == 0 || released s o w.core scope || early) && (kind == 1 || readsDone s o) then
        let s := noteFence s o.tid o.gid o.id (kind != 0) (kind != 1)
        let s := publish s o.tid (kind != 0) scope
        let s := if early && !released s o w.core scope then ackQueue s w.core else s
        some (endOp (if kind = 1 then s else acquireL1 s w.core w.ctx scope) o)
      else none
    | .aliasf gone =>
      if storesHome s o w.core then some (endOp (if gone then s else acquireL1 s w.core w.ctx 2) o) else none
    | .mode rev =>
      let behind := (earlier s o).any fun x => match x.kind with
        | .mode _ => true
        | _ => false
      if released s o w.core 1 && readsDone s o && !behind then
        some (endOp (updGroup s o.tid o.gid (setMode o.id rev)) o)
      else none
    | _ => none

/-! ### COMMIT -/

/-- COMMIT: refused to responders, and at team scope to teams whose unit is the grid; held behind four, and for room in
the log (R122, R153, R154, R291). -/
def commitIssue (row : String) (h : Hdr) (sc : CScope) (ctr : Option Nat) (s : State) :
    Host.Outcome State Fault Refusal :=
  issue (uniMem row h false) (fun c s1 =>
    if c.t.resp.isSome || (sc == .team && c.t.d.gridUnit) then emTrap c .commitscope
    else if 4 ≤ c.t.d.open' || sporRoom s1 c.t.core = 0 || ackWaits s1 c.t.core then .held
    else
      let p := placeCommit s1 c.tid sc (some (s1.nextId + 1))
        (ctr.map fun a => ((c.s a).toNat, c.t.ctx, match sc with | .team => 1 | .grid => 2 | _ => 3))
      .done (startOp c (.commit p.2) p.1)) s

def execCommitTeam (h : Hdr) (ctr : Option Nat) (s : State) : Host.Outcome State Fault Refusal :=
  commitIssue "COMMIT_TEAM" h .team ctr s
def execCommitGrid (h : Hdr) (ctr : Option Nat) (s : State) : Host.Outcome State Fault Refusal :=
  commitIssue "COMMIT_GRID" h .grid ctr s
def execCommitPod (h : Hdr) (ctr : Option Nat) (s : State) : Host.Outcome State Fault Refusal :=
  commitIssue "COMMIT_POD" h .pod ctr s

/-! ### Barriers -/

/-- A barrier after an arrival, and whether the expected counts disagree (R124). -/
def barArrive (b : Bar) (n : Nat) : Bar × Bool :=
  if b.cnt != 0 && b.exp != n then (b, true)
  else
    let c := b.cnt + 1
    if c = n then (⟨0, 0, b.ph + 1⟩, false) else (⟨n, c, b.ph⟩, false)

/-- Arrivals of a team on a barrier that have issued and are not yet counted, oldest first. -/
def pendingArrivals (s : State) (tid b : Nat) : List (Nat × Nat) :=
  s.work.ops.filterMap fun o => match o.kind with
    | .arrive k n => if o.tid = tid ∧ k = b then some (o.id, n) else none
    | .barsync k n none => if o.tid = tid ∧ k = b then some (o.id, n) else none
    | _ => none

/-- The barrier as it will stand after the arrivals already issued. -/
def barAfter (s : State) (t : Team) (b : Nat) : Bar :=
  (pendingArrivals s t.uid b).foldl (fun x p => (barArrive x p.2).1) (vget t.bars b)

/-- Change a team's barrier. -/
def setBar (s : State) (tid b : Nat) (x : Bar) : State := updTeam s tid fun t => { t with bars := vset t.bars b x }

/-- Set a group's pending phase. -/
def setLp (s : State) (tid gid b : Nat) (p : Option Nat) : State :=
  updGroup s tid gid fun g => { g with e := { g.e with lp := vset g.e.lp b p } }

def execBararv (h : Hdr) (b n : Nat) (s : State) : Host.Outcome State Fault Refusal :=
  issue (uniMem "BARARV" h false) (fun c s1 =>
    if (barArrive (barAfter s1 c.t b) n).2 then emTrap c .barmix
    else .done (startOp c (.arrive b n) s1)) s

/-- The phase that a BARWT waits to see changed, where it is known at issue: the group's pending phase, or with none the
phase at issue (R124). -/
def waitTarget (s : State) (c : Ctl) (b : Nat) : Option Nat :=
  let mine := s.work.ops.any fun o => o.tid == c.tid && o.gid == c.gid && (match o.kind with
    | .arrive k _ => k == b
    | _ => false)
  if mine then none else some ((vget c.g.e.lp b).getD (vget c.t.bars b).ph)

def execBarwt (h : Hdr) (b : Nat) (s : State) : Host.Outcome State Fault Refusal :=
  issue (uniMem "BARWT" h false) (fun c s1 =>
    .done (startOp c (.barwt b (waitTarget s1 c b)) (holdAll c s1))) s

def execBarsync (h : Hdr) (b n : Nat) (s : State) : Host.Outcome State Fault Refusal :=
  issue (uniMem "BARSYNC" h false) (fun c s1 =>
    if (barArrive (barAfter s1 c.t b) n).2 then emTrap c .barmix
    else .done (startOp c (.barsync b n none) (holdAll c s1))) s

/-- Whether an arrival can be counted: the group's earlier writes performed at team scope, and every arrival issued
before it on the barrier counted (R107, R124). -/
def arrivalReady (s : State) (w : Who) (o : Op) (b : Nat) : Bool :=
  released s o w.core 1 && !((pendingArrivals s o.tid b).any fun p => decide (p.1 < o.id))

/-- Count an arrival; the group's pending phase is the phase it arrived in (R124). -/
def countArrival (s : State) (w : Who) (o : Op) (b n : Nat) : State :=
  let x := vget w.t.bars b
  setLp (setBar (carryBar s o.tid (.group o.gid) o.id b x.ph) o.tid b (barArrive x n).1) o.tid o.gid b (some x.ph)

/-- A wait of a group ends: the pending phase empties, regions released by the phase are the group's again, and it is an
acquire at team scope, as of what an MSIG releases (R124, R179, R184, R198). -/
def endWait (s : State) (w : Who) (o : Op) (b ph : Nat) : State :=
  endOp (acquireL1 (updGroup s o.tid o.gid fun g =>
    { g with e := { g.e with lp := vset g.e.lp b none, seen := vset g.e.seen b ph } }) w.core w.ctx 1) o

/-- A barrier operation completes, or BARSYNC's arrival is counted (R124). -/
def barFinish (s : State) (o : Op) : Option State :=
  match whoOf s o with
  | none => none
  | some w =>
    match o.kind with
    | .arrive b n => if arrivalReady s w o b then some (endOp (countArrival s w o b n) o) else none
    | .barwt b target =>
      let ph := (vget w.t.bars b).ph
      let mine := (earlier s o).any fun x => match x.kind with
        | .arrive k _ => k == b
        | _ => false
      match mine, (match target with | some p => some p | none => vget w.g.e.lp b) with
      | false, some p => if ph = p then none else some (endWait s w o b ph)
      | false, none => some (endWait s w o b ph)
      | true, _ => none
    | .barsync b n none =>
      if arrivalReady s w o b then
        some (setOps (countArrival s w o b n) fun l => l.map fun x =>
          if x.id = o.id then { x with kind := .barsync b n (some (vget w.t.bars b).ph) } else x)
      else none
    | .barsync b _ (some p) =>
      let ph := (vget w.t.bars b).ph
      if ph = p then none else some (endWait s w o b ph)
    | _ => none

/-! ### Queues -/

/-- Change a team's queue. -/
def setQueue (s : State) (tid q : Nat) (x : Queue) : State :=
  updTeam s tid fun t => { t with queues := vset t.queues q x }

/-- Whether an earlier operation of a kind on the queue is unserved (R75). -/
def queueBehind (s : State) (o : Op) (p : OpKind → Bool) : Bool :=
  s.work.ops.any fun x => x.tid == o.tid && decide (x.id < o.id) && p x.kind

/-- Take the head entry of a queue; a binding ends when the queue empties, and a census's second entry leaves it popped
(R128, R290, R291). -/
def popQueue (s : State) (tid q : Nat) : State :=
  updTeam s tid fun t =>
    let x := vget t.queues q
    match x.ents with
    | [] => t
    | e :: r =>
      let t := { t with queues := vset t.queues q ⟨if r.isEmpty then none else x.bound, r⟩ }
      if r.any fun k => k.owner == e.owner then t
      else
        match t.d.asked.find? fun k => k.1 == e.owner with
        | some k => { t with d := { t.d with asked := t.d.asked.filter fun y => y.1 != k.1, popped := t.d.popped ++ [k] } }
        | none => t

/-- A QPUSH or a QPOP completes (R73 to R75). A QPUSH in flight when its queue becomes bound enters once the binding has
ended, which is the model's choice (log entry 39). -/
def queueFinish (s : State) (o : Op) : Option State :=
  match whoOf s o with
  | none => none
  | some w =>
    match o.kind with
    | .qpush q x =>
      let qu := vget w.t.queues q
      let behind := queueBehind s o fun k => match k with
        | .qpush p _ => p == q
        | _ => false
      if behind || qu.bound.isSome || decide (16 ≤ qu.ents.length) then none
      else some (endOp (setQueue s o.tid q { qu with ents := qu.ents ++ [⟨some x, o.id⟩] }) o)
    | .qpop d q try? =>
      let behind := queueBehind s o fun k => match k with
        | .qpop _ p _ => p == q
        | _ => false
      let head := ((vget w.t.queues q).ents.head?).bind fun e => e.val
      match behind, head, try? with
      | false, some v, none => some (endOp (writeNow (popQueue s o.tid q) o [.s d v]) o)
      | false, some v, some sp => some (endOp (writeNow (popQueue s o.tid q) o [.s d v, .sp sp true]) o)
      | _, _, some sp => some (endOp (writeNow s o [.s d 0, .sp sp false]) o)
      | _, _, none => none
    | _ => none

/-! ### Remote atomics -/

/-- Reserve two entries of a queue for a reply, binding it (R128, R290). -/
def reserve2 (b : Bound) (owner : Nat) (q : Queue) : Queue := ⟨some b, q.ents ++ [⟨none, owner⟩, ⟨none, owner⟩]⟩

/-- Whether binding a queue traps QBOUND: it is bound by another kind of operation, or free and holds entries (R128,
R290, R354). -/
def bindBad (b : Bound) (q : Queue) : Bool :=
  match q.bound with
  | some k => k != b
  | none => !q.ents.isEmpty

/-- RATOM (R128). -/
def execRatom (h : Hdr) (op : AOp) (wide : Bool) (q a : Nat) (b k : Src) (off : Int) (s : State) :
    Host.Outcome State Fault Refusal :=
  uniBind "RATOM" h (if wide then 8 else 4) (.reg a) off (fun c => bindBad .ratom (vget c.t.queues q)) (fun c s1 =>
    let qu := vget c.t.queues q
    if 14 < qu.ents.length then .held
    else
      let x := uniAcc c s1 (.reg a) off (c.srcS b) (if op = .cas then c.srcS k else 0) true true
      let s2 := setQueue s1 c.tid q (reserve2 .ratom s1.nextId qu)
      .done (startOp c (.ratom op wide q x c.g.r.fmode) (dropLines s2 c.t.core c.t.ctx [x]))) s

/-- Fill the two entries that an operation reserved (R128, R290, R354). -/
def fill2 (owner : Nat) (v e : Dword) (q : Queue) : Queue :=
  { q with ents := (q.ents.foldl (fun (a : List QEnt × Bool) x =>
      if x.owner = owner then (a.1 ++ [{ x with val := some (if a.2 then e else v) }], true) else (a.1 ++ [x], a.2))
      ([], false)).1 }

/-- The cause of a remote atomic, by its page (R128, R307, R404). -/
def ratomCause (s : State) (wide : Bool) (x : Xl) : Option (BitVec 9) :=
  match x with
  | .bad c _ => some c
  | .at k _ dfr sh =>
    if sh.isSome then some (causeCode .gatom) else if dfr then some (causeCode .defret)
    else if isMarked s k (if wide then 8 else 4) then some (causeCode .memue) else none

/-- RATOM_REPLY: the engine performs the atomic and fills the two entries (R128). The flag clears with its own reply, also
where an earlier RATOM of the queue is unanswered, which is the model's choice (log entry 39). -/
def execRatomReply (id : Nat) (s : State) : Host.Outcome State Fault Refusal :=
  match opOf? s id with
  | none => .fault (.notEnabled "RATOM_REPLY")
  | some o =>
    match whoOf s o, o.kind with
    | some w, .ratom op wide q a fmode =>
      let fin (s : State) (v e : Dword) : Host.Outcome State Fault Refusal :=
        .next (endOp (updTeam s o.tid fun t => { t with queues := vset t.queues q (fill2 id v e (vget t.queues q)) }) o)
      match ratomCause s wide a.x with
      | some k => fin s 0 (k.setWidth 64)
      | none =>
        if homeReady s w o [a] (if wide then 8 else 4) then
          let p := atomLane w op wide true fmode ⟨s, [], [], 0⟩ a
          fin (writeNow p.s o (wrSt p.st)) (BitVec.ofNat 64 (laneVal p.res 0)) 0
        else .fault (.notEnabled "RATOM_REPLY")
    | _, _ => .fault (.notEnabled "RATOM_REPLY")

end Sys2Proof.Machine
end

