-- ==== Sys2Proof/Machine/Faults.lean ====
section
/-!
DEFINITION. Causes found after issue, handler entry, and the walks that fill the TLBs (R110, R391 to R398, R402).
-/

namespace Sys2Proof.Machine

/-! ### After-issue causes -/

/-- Whether the group of an operation can report a cause of it now: none is raised already, no replay awaits its issue,
and a group in its handler reports what it has issued there (R392, R397, R398). -/
def mayReport (g : Group) (o : Op) : Bool :=
  g.t.pending.isNone && g.t.replay.isNone && decide (firstId g ≤ o.id)

/-- What lanes that met an uncorrectable word leave undefined of a destination; the other faulting lanes keep what it held
(R110, R404). -/
def lostDst (fs : List LaneCause) (d : Dst) : List Dst :=
  let lost := fs.filter fun f => f.code == causeCode .memue
  match d with
  | .v n m => [.v n (m &&& maskOf (lost.map fun f => f.lane))]
  | _ => if lost.isEmpty then [] else [d]

/-- The tape positions that the faulting lanes own (R301). -/
def faultTape (o : Op) (fs : List LaneCause) : List (Nat × Nat × Nat) :=
  match o.kind with
  | .mem _ _ _ _ _ _ _ pos _ => pos.filter fun p => fs.any fun f => f.lane == p.1
  | _ => []

/-- The record of an after-issue cause (R394, R395): the group resumes after its last skid instruction, at the headers
that stand before the next one. -/
def afterRec (g : Group) (o : Op) (fs : List LaneCause) : TrapRec :=
  let w := winner o.uni fs
  { cause := w.code, rev := g.e.rev, pc := o.pc, mask := w.mask, smask := w.smask, em := g.r.em, scause := w.scode
    addr := BitVec.ofNat 64 w.addr, rpc := g.r.pc - BitVec.ofNat 64 (4 * g.f.hdrRun), rep := w.mask ||| w.smask
    skid := o.after, info := 0, tape := faultTape o fs }

/-- Report the causes of an operation whose other lanes have been performed and written (R110, R391): it leaves, and its
flag's count falls when the handler is entered. -/
def reportFault (s : State) (o : Op) (fs : List LaneCause) : State :=
  let s := writeNow s o (((opDsts o.kind).flatMap (lostDst fs)).map (freeWr s.fresh))
  let s := updGroup (setOps s fun l => l.filter fun x => x.id != o.id) o.tid o.gid (freeDsts fun e => e.id == o.id)
  match groupOf s o.tid o.gid with
  | some g =>
    let r := afterRec g o fs
    raiseRec s o.tid o.gid (r.cause != causeCode .memue) r o.flag
  | none => s

/-- The cause of a uniform access by the state of its word (R404). -/
def uniCauses (s : State) (gridU : Bool) (o : Op) : List LaneCause :=
  let l := opFaults gridU o.kind
  if l.isEmpty && decide (o.after ≤ 6) && uniMarked s o.kind then
    match o.kind with
    | .waita _ _ _ _ _ a => [markedLane a]
    | .cwaitge _ _ a => [markedLane a]
    | .cadd _ _ a => [markedLane a]
    | .fmtsel _ a _ _ => [markedLane a]
    | .tapefill va _ _ => [⟨0, causeCode .memue, va⟩]
    | _ => []
  else l

/-- AFTER_ISSUE_FAULT: lanes without a cause are performed, the others keep their destinations, and the group's cause is
raised (R110, R391). -/
def execAfterIssueFault (id : Nat) (fromL1 : Bool) (s : State) : Host.Outcome State Fault Refusal :=
  match opOf? s id with
  | none => .fault (.notEnabled "AFTER_ISSUE_FAULT")
  | some o =>
    match whoOf s o with
    | none => .fault (.notEnabled "AFTER_ISSUE_FAULT")
    | some w =>
      if !mayReport w.g o then .fault (.notEnabled "AFTER_ISSUE_FAULT")
      else match accessPerform s o fromL1 with
        | some p =>
          let fs := opFaults w.t.d.gridUnit o.kind ++ p.ue
          if fs.isEmpty then .fault (.notEnabled "AFTER_ISSUE_FAULT")
          else .next (reportFault (accessWrite o w p) o fs)
        | none =>
          if (o.uni.isSome && !(uniCauses s w.t.d.gridUnit o).isEmpty) && !waitsBytes s o then
            .next (reportFault s o (uniCauses s w.t.d.gridUnit o))
          else .fault (.notEnabled "AFTER_ISSUE_FAULT")

/-! ### Handler entry -/

/-- TRAP_HANDLER_ENTRY: the lowest-numbered group with a cause enters its handler once the halt has settled (R392, R396,
R398). -/
def execTrapHandlerEntry (tid : Nat) (s : State) : Host.Outcome State Fault Refusal :=
  match teamOf s tid with
  | none => .fault (.notEnabled "TRAP_HANDLER_ENTRY")
  | some t =>
    match t.halt, firstPending t with
    | .settling _, some _ =>
      if t.groups.any (fun g => g.t.inHandler) then .fault (.notEnabled "TRAP_HANDLER_ENTRY")
      else .next (enterNext s tid)
    | _, _ => .fault (.notEnabled "TRAP_HANDLER_ENTRY")

/-! ### TLBs -/

/-- A TLB with a translation added; `n` entries are held (R402). -/
def tlbAdd (n : Nat) (e : TlbEnt) (l : List TlbEnt) : List TlbEnt :=
  (e :: l.filter fun x => !(x.ctx == e.ctx && x.vpage == e.vpage && x.level == e.level)).take n

/-- TLB_WALK_COMPLETE: the walk of a page serves the core's TLB, of 256 entries, and its cluster's, of 4,096; a walk that
finds no leaf installs nothing (R401, R402). -/
def execTlbWalkComplete (core ctx page : Nat) (s : State) : Host.Outcome State Fault Refusal :=
  match ctxOf s ctx with
  | none => .fault (.notEnabled "TLB_WALK_COMPLETE")
  | some c =>
    match walkFrom s page 4 c.root with
    | .leaf level e =>
      let en : TlbEnt := ⟨ctx, page / 2 ^ leafBits level * 2 ^ leafBits level, level, BitVec.ofNat 128 e⟩
      let s := updCore s core fun k => { k with tlb := tlbAdd 256 en k.tlb }
      .next { s with ctlb := aSet s.ctlb (core / 8) (tlbAdd 4096 en ((aGet s.ctlb (core / 8)).getD [])) }
    | .none => .next s
    | .marked => .next s

end Sys2Proof.Machine
end

