-- ==== Sys2Proof/Machine/Fetch.lean ====
section
/-!
DEFINITION. Fetching instruction words through a core's instruction cache (R8, R9, R239).
-/

namespace Sys2Proof.Machine

/-- What a fetch gives: bytes, a cause at an address, or a wait at the home (R8, R164, R404). -/
inductive FetchR where
  | bytes (b : List Byte) (s : State)
  | bad (c : Cause) (va : Nat)
  | held

/-- The cause of a fetch whose translation fails (R8, R404). -/
def fetchCause (c : BitVec 9) : Cause := if c = causeCode .memue then .memue else .ifetch

/-- The later of two launches. -/
def laterLaunch (a : Option Grid) (g : Grid) : Option Grid :=
  match a with
  | some x => if x.seq < g.seq then some g else some x
  | none => some g

/-- Device memory as the last launch of a team's context that reached its core found it: a line that any grid of the
context fills there serves the later ones too (R9). -/
def launchCode (s : State) (t : Team) : Memory :=
  let gs := s.work.grids.filter fun g => g.ctx == t.ctx && (g.uid == t.grid || g.reached.contains t.core)
  ((gs.foldl laterLaunch none).map fun g => g.code).getD s.mem

/-- The bytes of a line that a fetch brings. Of a word changed since the launch it may be the old or the new contents, and
it may differ from word to word: a free choice (R9; log entry 5). -/
def fetchLine (s : State) (code : Memory) (key : Nat) : List Byte :=
  (List.range (Config.lineBytes / 4)).flatMap fun i =>
    let new := memGetN s.mem (key + 4 * i) 4
    let old := memGetN code (key + 4 * i) 4
    if old == new || Config.freeBit (s.fresh + i) then old else new

/-- The state after such a choice. -/
def fetchDrawn (s : State) (code : Memory) (key : Nat) : State :=
  if memGetN code key Config.lineBytes == memGetN s.mem key Config.lineBytes then s
  else { s with fresh := s.fresh + Config.lineBytes / 4 }

/-- Fetch one word for a team: execute permission each time, then the instruction-cache line, filled from the home (R8,
R9). -/
def fetchWord (s : State) (t : Team) (va : Nat) : FetchR :=
  let core := t.core
  let ctx := t.ctx
  match xlate s (some core) ctx va false false true with
  | .bad c _ => .bad (fetchCause c) va
  | .at key _ _ _ =>
    match lineFind (coreOf s core).icache ctx va with
    | some l => .bytes (slice l.bytes (va - l.va) 4) s
    | none =>
      if homeWaits s key then .held
      else if isMarked s key 4 then .bad .memue va
      else
        let lv := lineVa va
        let k := key - (va - lv)
        let b := fetchLine s (launchCode s t) k
        .bytes (slice b (va - lv) 4)
          (updCore (fetchDrawn s (launchCode s t) k) core fun c => { c with icache := ⟨ctx, lv, b, k, false⟩ :: c.icache })

/-- Fetch `n` words from an address on (R8). -/
def fetchWords (s : State) (t : Team) : Nat → Nat → FetchR
  | 0, _ => .bytes [] s
  | n + 1, va =>
    match fetchWord s t va with
    | .bytes b s1 =>
      match fetchWords s1 t n (va + 4) with
      | .bytes r s2 => .bytes (b ++ r) s2
      | .bad c a => .bad c a
      | .held => .held
    | .bad c a => .bad c a
    | .held => .held

/-- Fetch every word of the instruction at an address (R7, R8). -/
def fetchIns (s : State) (t : Team) (va : Nat) : FetchR :=
  match fetchWord s t va with
  | .bytes b s1 =>
    match fetchWords s1 t (byteLen (natOfBytes b) / 4 - 1) (va + 4) with
    | .bytes r s2 => .bytes (b ++ r) s2
    | .bad c a => .bad c a
    | .held => .held
  | .bad c a => .bad c a
  | .held => .held

end Sys2Proof.Machine
end

