-- ==== Sys2Proof/Machine/MatrixMath.lean ====
section
/-!
DEFINITION. The arithmetic of the matrix engine: format blocks, unfolding, block scales, exact group sums, frond basis
values, refinement, and the drain's activation and conversion (R200 to R205, R230 to R235, R246 to R252, R279 to R284,
R312 to R316).
-/

namespace Sys2Proof.Machine

/-! ### Knot registers (R279, R312) -/

/-- A grid: out-of-grid mode, intervals, exponent of the spacing, left end as FP32 bits. -/
structure Knot where
  zero : Bool
  g : Nat
  e : Int
  t0 : Nat
  deriving DecidableEq, Repr

/-- The grid of a knot register, where its value is within the limits of R279. -/
def knotOf (x : Dword) : Option Knot :=
  let w := x.toNat
  let g := bitsAt w 40 8
  let fin : Bool := match unpack fmtF32 false (bitsAt w 0 32) with
    | .fin _ _ _ => true
    | _ => false
  if bitsAt w 49 15 != 0 || g = 0 || 61 < g || !fin then none
  else some ⟨bitAt w 48, g, sextNat 8 (bitsAt w 32 8), bitsAt w 0 32⟩

/-- Basis functions of a grid (R279). -/
def Knot.nb (k : Knot) : Nat := k.g + 3

/-- The padded count P (R280). -/
def Knot.pad (k : Knot) : Nat := pow2AtLeast 7 1 k.nb

/-- Inputs per MMA (R280). -/
def Knot.inputs (k : Knot) : Nat := 64 / k.pad

/-- A rational n / d · 2^e rounded RNE to FP32; an exact zero is +0 (R313). -/
def ratF32 (n : Int) (d : Nat) (e : Int) : Nat :=
  let q := quot n.natAbs e d 0
  if n = 0 then 0 else pack fmtF32 .rne false false (n < 0) q.1 q.2

/-- The values of a cubic B-spline of the grid, and of its derivative, at t = T / 2^s in interval q (R313). -/
def splineAt (k : Knot) (q : Nat) (T : Int) (s : Nat) (b : Nat) : Nat × Nat :=
  let D : Int := 2 ^ s
  let e3 : Int := -3 * s
  let e2 : Int := -2 * s - 1 - k.e
  if b = q then (ratF32 ((D - T) ^ 3) 6 e3, ratF32 (-(D - T) ^ 2) 1 e2)
  else if b = q + 1 then (ratF32 (3 * T ^ 3 - 6 * T ^ 2 * D + 4 * D ^ 3) 6 e3, ratF32 (3 * T ^ 2 - 4 * T * D) 1 e2)
  else if b = q + 2 then
    (ratF32 (-3 * T ^ 3 + 3 * T ^ 2 * D + 3 * T * D ^ 2 + D ^ 3) 6 e3, ratF32 (-3 * T ^ 2 + 2 * T * D + D ^ 2) 1 e2)
  else if b = q + 3 then (ratF32 (T ^ 3) 6 e3, ratF32 (T ^ 2) 1 e2)
  else (0, 0)

/-- The basis value and derivative of function b at a position u = U / 2^s from the left end, in the grid (R313). -/
def inGrid (k : Knot) (U : Int) (s b : Nat) : Nat × Nat :=
  let q := min (U / 2 ^ s).toNat (k.g - 1)
  splineAt k q (U - q * 2 ^ s) s b

/-- An input out of the grid, above it or below it (R314). -/
def outGrid (k : Knot) (above : Bool) (b : Nat) : Nat × Nat :=
  if k.zero then (0, 0) else ((inGrid k (if above then k.g else 0) 0 b).1, 0)

/-- β_b and β′_b at an activation, as FP32 bits (R313, R314). -/
def basis (k : Knot) (x : FV) (b : Nat) : Nat × Nat :=
  match x with
  | .nan _ _ => (fmtF32.nan, fmtF32.nan)
  | .inf n => outGrid k (!n) b
  | .fin n m e =>
    match unpack fmtF32 false k.t0 with
    | .fin n0 m0 e0 =>
      let lo := min e e0
      let v := scaled n m e lo - scaled n0 m0 e0 lo
      let eu := lo - k.e
      let U : Int := if 0 ≤ eu then v * 2 ^ eu.toNat else v
      let s : Nat := (-eu).toNat
      if U < 0 then outGrid k false b
      else if (k.g : Int) * 2 ^ s < U then outGrid k true b
      else inGrid k U s b
    | _ => (0, 0)

/-! ### Format blocks (R202, R280) -/

/-- A valid format block: element types, K, block lengths (0 for none), flushes, layout of B, scale offsets, and the grid
of frond mode. -/
structure MForm where
  ta : Ty
  tb : Ty
  k : Nat
  la : Nat
  lb : Nat
  fla : Bool
  flb : Bool
  flo : Bool
  btr : Bool
  ascl : Nat
  bscl : Nat
  bside : Nat
  frond : Option Knot
  deriving DecidableEq, Repr

/-- Element format codes (R202). -/
def mfmtTy : Nat → Option Ty
  | 1 => some .f16
  | 2 => some .bf16
  | 3 => some .e4m3
  | 4 => some .e5m2
  | 5 => some .e2m1
  | 8 => some .i8
  | 10 => some .i4
  | _ => none

/-- K of an element type (R202). -/
def kOf (t : Ty) : Nat := if tyBits t = 4 then 256 else if tyBits t = 8 then 128 else 64

/-- Block length codes (R202). -/
def blkLen (c : Nat) : Nat := if c = 0 then 0 else 4 * 2 ^ c

/-- Whether a type takes a block code (R202). -/
def blkOk (t : Ty) (c : Nat) : Bool :=
  if t = .e2m1 then c == 1 else if tyIsInt t || tyBits t == 16 then c == 0 else decide (c < 4)

/-- The format block in a register pair, where it is valid; `kn` gives the knot registers (R202, R280). -/
def mform (lo hi : Dword) (kn : Nat → Dword) : Option MForm :=
  let w := lo.toNat + 2 ^ 64 * hi.toNat
  let ac := bitsAt w 4 4
  let bc := bitsAt w 12 4
  let ascl := bitsAt w 22 21
  let bscl := bitsAt w 43 21
  let bside := bitsAt w 64 9
  let fla := bitAt w 18
  let flb := bitAt w 19
  let flo := bitAt w 20
  if bitsAt w 16 2 != 0 || bitsAt w 73 55 != 0 then none
  else match mfmtTy (bitsAt w 0 4) with
    | none => none
    | some ta =>
      if bitsAt w 8 4 = 14 then
        if tyBits ta != 16 || ac != 0 || 3 < bc || bside != 0 || bscl != 0 || ascl != 0 then none
        else (knotOf (kn bc)).map fun g => ⟨ta, .bf16, 64, 0, 0, fla, flb, flo, bitAt w 21, 0, 0, 0, some g⟩
      else match mfmtTy (bitsAt w 8 4) with
        | none => none
        | some tb =>
          let f : MForm := ⟨ta, tb, kOf ta, blkLen ac, blkLen bc, fla, flb, flo, bitAt w 21, ascl, bscl, bside, none⟩
          let ok := tyIsInt ta == tyIsInt tb && kOf ta == kOf tb && blkOk ta ac && blkOk tb bc &&
            !(tyIsInt ta && (fla || flb || flo)) &&
            (bc == 0 || (bside % 2 == 0 && decide (bside + 4 * (f.k / f.lb) ≤ 512)))
          if ok then some f else none

/-! ### Unfolding (R201, R246, R247) -/

/-- The fields of a loaded descriptor, per dimension T, H, W. -/
structure UDesc where
  base : Nat
  ch : Nat
  str : List Nat
  inn : List Nat
  out : List Nat
  ker : List Nat
  sd : List Nat
  dil : List Nat
  pad : List Nat
  deriving DecidableEq, Repr

/-- A byte field of a descriptor. -/
def udF (d : Nat) (off bytes : Nat) : Nat := bitsAt d (8 * off) (8 * bytes)

/-- The three values of a field at an offset with a distance. -/
def ud3 (d off step bytes : Nat) : List Nat := (List.range 3).map fun i => udF d (off + step * i) bytes

/-- A loaded descriptor, where it keeps the rules of R246; `four` for 4-bit elements. -/
def udesc (x : BitVec 512) (four : Bool) : Option UDesc :=
  let d := x.toNat
  let nd := bitsAt d 2 2
  let v : UDesc := { base := udF d 4 4, ch := udF d 8 2, str := ud3 d 0x10 4 4, inn := ud3 d 0x20 2 2, out := ud3 d 0x28 2 2
                     ker := ud3 d 0x30 1 1, sd := ud3 d 0x34 1 1, dil := ud3 d 0x38 1 1, pad := ud3 d 0x3C 1 1 }
  let rsv := bitsAt d 4 28 != 0 || udF d 0x0A 2 != 0 || udF d 0x0C 4 != 0 || udF d 0x1C 4 != 0 || udF d 0x26 2 != 0 ||
    udF d 0x2E 2 != 0 || udF d 0x33 1 != 0 || udF d 0x37 1 != 0 || udF d 0x3B 1 != 0 || udF d 0x3F 1 != 0
  let pos (l : List Nat) : Bool := l.all fun n => n != 0
  let unused := 3 - nd
  let unusedOk := (List.range unused).all fun i =>
    v.inn.getD i 0 == 1 && v.out.getD i 0 == 1 && v.ker.getD i 0 == 1 && v.sd.getD i 0 == 1 && v.dil.getD i 0 == 1 &&
      v.str.getD i 0 == 0 && v.pad.getD i 0 == 0
  let ok := bitsAt d 0 2 == 1 && nd != 0 && !rsv && decide (v.base < 2 ^ 21) && v.ch != 0 && !(four && v.ch % 2 == 1) &&
    v.str.all (fun n => decide (n < 2 ^ 21)) && pos v.inn && pos v.out && pos v.ker && pos v.sd && pos v.dil && unusedOk
  if ok then some v else none

/-- Where an element of an A row lies: an A-buffer byte, and whether it is the byte's high nibble. -/
structure APos where
  byte : Nat
  high : Bool
  deriving DecidableEq, Repr

/-- An offset of an element within its run: bytes, or nibbles of a 4-bit type (R201). -/
def elemOff (t : Ty) (base k : Nat) : APos :=
  if tyBits t = 4 then ⟨base + k / 2, k % 2 == 1⟩ else ⟨base + k * (tyBits t / 8), false⟩

/-- Element [m][k] under a loaded descriptor, or none where it is +0 and reads nothing (R247). -/
def unfoldPos (t : Ty) (v : UDesc) (xa m k : Nat) : Option APos :=
  let g (l : List Nat) (i : Nat) := l.getD i 0
  let o := xa % 2 ^ 32 + m
  let kg := xa / 2 ^ 32 + k
  let kt := g v.ker 0
  let kh := g v.ker 1
  let kw := g v.ker 2
  if g v.out 0 * g v.out 1 * g v.out 2 ≤ o || kt * kh * kw * v.ch ≤ kg then none
  else
    let op := [o / (g v.out 2 * g v.out 1), o / g v.out 2 % g v.out 1, o % g v.out 2]
    let q := kg / v.ch
    let kp := [q / (kw * kh), q / kw % kh, q % kw]
    let ip : List Int := (List.range 3).map fun i =>
      ((g op i * g v.sd i : Nat) : Int) - g v.pad i + (g kp i * g v.dil i : Nat)
    if (List.range 3).any (fun i => decide (ip.getD i 0 < 0 ∨ (g v.inn i : Int) ≤ ip.getD i 0)) then none
    else
      let b := (List.range 3).foldl (fun a i => a + (ip.getD i 0).toNat * g v.str i) v.base
      some (elemOff t b (kg % v.ch))

/-- How A rows are formed: a pitch, or a descriptor within its limits. -/
inductive Unf where
  | pitch (p : Nat)
  | desc (v : UDesc)
  deriving DecidableEq, Repr

/-- Where element [m][k] of A lies (R201, R247). -/
def aPos (f : MForm) (u : Unf) (xa m k : Nat) : Option APos :=
  match u with
  | .pitch p => some (elemOff f.ta (xa + m * p) k)
  | .desc v => unfoldPos f.ta v xa m k

/-- Bytes that one element's read takes. -/
def elemBytes (t : Ty) : Nat := if tyBits t = 4 then 1 else tyBits t / 8

/-- The numbers of the set bits of a mask of n bits. -/
def onBits {w : Nat} (n : Nat) (m : BitVec w) : List Nat := (List.range n).filter fun i => m.getLsbD i

/-- The A elements of a row that are read: the enabled terms, or in frond mode the inputs with an enabled term below nb
(R204, R281, R315). -/
def aTerms (f : MForm) (q : BitVec 256) : List Nat :=
  match f.frond with
  | none => onBits f.k q
  | some g => (List.range g.inputs).filter fun i => (List.range g.nb).any fun b => q.getLsbD (g.pad * i + b)

/-- A run of A-buffer bytes. -/
abbrev Run := Nat × Nat

/-- Join runs that follow on each other. -/
def joinRuns (l : List Run) : List Run :=
  (l.foldl (fun (acc : List Run) r =>
    match acc with
    | (lo, n) :: rest => if lo ≤ r.1 ∧ r.1 ≤ lo + n then (lo, max n (r.1 + r.2 - lo)) :: rest else r :: acc
    | [] => [r]) []).reverse

/-- The block code and the band scale of A for row m and block j (R203). -/
def aScaleAt (f : MForm) (m j : Nat) : Run × Run :=
  let n := f.k / f.la
  ((f.ascl + m * n + j, 1), (f.ascl + 128 * n + 2 * (m / 64 * n + j), 2))

/-- The A-buffer runs that the A operand reads (R203, R204, R247). -/
def aRuns (f : MForm) (u : Unf) (xa : Nat) (rows : List Nat) (q : BitVec 256) : List Run :=
  let ks := aTerms f q
  rows.flatMap fun m =>
    let here := ks.filter fun k => (aPos f u xa m k).isSome
    joinRuns (here.filterMap fun k => (aPos f u xa m k).map fun p => (p.byte, elemBytes f.ta)) ++
      (if f.la = 0 then []
       else (here.map fun k => k / f.la).dedup.flatMap fun j => [(aScaleAt f m j).1, (aScaleAt f m j).2])

/-- The A-buffer runs of B's block codes (R203). -/
def bRuns (f : MForm) (cols : List Nat) (q : BitVec 256) : List Run :=
  if f.lb = 0 then []
  else cols.flatMap fun n => ((onBits f.k q).map fun k => k / f.lb).dedup.map fun j => (f.bscl + n * (f.k / f.lb) + j, 1)

/-! ### Elements -/

/-- Whether a band scale makes the result undefined: negative, infinite or NaN (R230). -/
def bandBad (b : Nat) : Bool :=
  match unpack fmtBf16 false (b % 2 ^ 16) with
  | .fin n m _ => n && m != 0
  | _ => true

/-- A float element times its scales, exactly; a zero code or band gives zero of the element's sign (R230). -/
def scaleV (x : FV) (code band : Nat) : FV :=
  match unpack fmtE3m5 false code, unpack fmtBf16 false (band % 2 ^ 16) with
  | .fin _ cm ce, .fin _ bm be => if cm = 0 ∨ bm = 0 then .fin x.sign 0 0 else (mulV x (.fin false (cm * bm) (ce + be))).1
  | _, _ => .fin x.sign 0 0

/-- Raw bits of an element from its bytes. -/
def rawElem (t : Ty) (high : Bool) (bytes : List Byte) : Nat :=
  let n := natOfBytes bytes
  if tyBits t = 4 then (if high then n / 16 else n % 16) else n

/-- Element [m][k] of A as bits, read through `rd` from the A-buffer; none where it is +0. -/
def aRaw (f : MForm) (u : Unf) (xa : Nat) (rd : Nat → Nat → List Byte) (m k : Nat) : Option Nat :=
  (aPos f u xa m k).map fun p => rawElem f.ta p.high (rd p.byte (elemBytes f.ta))

/-- A′[m][k] (R204, R230). -/
def aVal (f : MForm) (u : Unf) (xa : Nat) (rd : Nat → Nat → List Byte) (m k : Nat) : FV :=
  match aRaw f u xa rd m k with
  | none => .fin false 0 0
  | some x =>
    let v := unpack (fmtOf f.ta) f.fla x
    if f.la = 0 then v
    else
      let r := aScaleAt f m (k / f.la)
      scaleV v (natOfBytes (rd r.1.1 1)) (natOfBytes (rd r.2.1 2))

/-- The index of element (k, n) in a slot (R203). -/
def bIndex (f : MForm) (k n : Nat) : Nat := if f.btr then k * 128 + n else n * f.k + k

/-- Element (k, n) of B as bits, read through `rw` from the slot (R203). -/
def bRaw (f : MForm) (rw : Nat → Nat → List Byte) (k n : Nat) : Nat :=
  let p := elemOff f.tb 0 (bIndex f k n)
  rawElem f.tb p.high (rw p.byte (elemBytes f.tb))

/-- The band scale of B for column n and block j, in the slot's scale side (R203). -/
def bBand (f : MForm) (rw : Nat → Nat → List Byte) (n j : Nat) : Nat :=
  natOfBytes (rw (16384 + f.bside + 2 * (n / 64 * (f.k / f.lb) + j)) 2)

/-- B′[k][n] (R204, R230). -/
def bVal (f : MForm) (rd rw : Nat → Nat → List Byte) (k n : Nat) : FV :=
  let v := unpack (fmtOf f.tb) f.flb (bRaw f rw k n)
  if f.lb = 0 then v
  else
    let j := k / f.lb
    scaleV v (natOfBytes (rd (f.bscl + n * (f.k / f.lb) + j) 1)) (bBand f rw n j)

/-- Whether any band scale in use makes the result undefined (R230). -/
def bandsBad (f : MForm) (u : Unf) (xa : Nat) (rd rw : Nat → Nat → List Byte) (rows cols : List Nat) (q : BitVec 256) :
    Bool :=
  let ks := onBits f.k q
  (f.la != 0 && rows.any fun m => ks.any fun k => (aPos f u xa m k).isSome &&
      bandBad (natOfBytes (rd (aScaleAt f m (k / f.la)).2.1 2))) ||
    (f.lb != 0 && cols.any fun n => ks.any fun k => bandBad (bBand f rw n (k / f.lb)))

/-! ### Sums (R204, R232, R233) -/

/-- The exact sum of finite terms as a multiple of a power of two. -/
def exactSum (ps : List FV) : Int × Int :=
  let es := ps.filterMap fun p => match p with
    | .fin _ m e => if m = 0 then none else some e
    | _ => none
  let e0 := es.foldl min (es.headD 0)
  (ps.foldl (fun a p => match p with
    | .fin n m e => if m = 0 then a else a + scaled n m e e0
    | _ => a) 0, e0)

def FV.isInf (neg : Bool) : FV → Bool
  | .inf n => n == neg
  | _ => false

def FV.isNegZero : FV → Bool
  | .fin true 0 _ => true
  | _ => false

/-- A group sum, rounded once (R204); an empty sum is +0 (R283). -/
def groupSum (flo : Bool) (ps : List FV) : Nat :=
  let up := ps.any (FV.isInf false)
  let dn := ps.any (FV.isInf true)
  if ps.any FV.isNan || (up && dn) then fmtF32.nan
  else if up || dn then packInf fmtF32 dn
  else if !ps.isEmpty && ps.all FV.isNegZero then fmtF32.signBit
  else
    let v := exactSum ps
    if v.1 = 0 then 0 else pack fmtF32 .rne false flo (v.1 < 0) v.1.natAbs v.2

/-- Add a group sum to an accumulator (R204). -/
def accStep (flo : Bool) (acc : Option Nat) (g : Nat) : Option Nat :=
  match acc with
  | none => some g
  | some a => some (fAdd fmtF32 .rne false flo a g).x

/-- Chain the sums of groups (R204, R283). -/
def accGroups (flo : Bool) (acc : Option Nat) (gs : List (List FV)) : Nat :=
  (gs.foldl (fun a ps => accStep flo a (groupSum flo ps)) acc).getD 0

/-- The product term k of element [m][n], before negation (R204, R281). -/
def termV (f : MForm) (u : Unf) (xa : Nat) (rd rw : Nat → Nat → List Byte) (q : BitVec 256) (m n k : Nat) : FV :=
  match f.frond with
  | none => if q.getLsbD k then (mulV (aVal f u xa rd m k) (bVal f rd rw k n)).1 else .fin false 0 0
  | some g =>
    let b := k % g.pad
    if q.getLsbD k && decide (b < g.nb) then
      (mulV (unpack fmtF32 false (basis g (aVal f u xa rd m (k / g.pad)) b).1) (bVal f rd rw k n)).1
    else .fin false 0 0

/-- An integer element of A; +0 terms are 0. -/
def aInt (f : MForm) (u : Unf) (xa : Nat) (rd : Nat → Nat → List Byte) (m k : Nat) : Int :=
  match aRaw f u xa rd m k with
  | none => 0
  | some x => intVal f.ta x

/-- One result element of an MMA (R204). -/
def mmaElem (f : MForm) (u : Unf) (xa : Nat) (rd rw : Nat → Nat → List Byte) (q : BitVec 256) (neg : Bool)
    (acc : Option Nat) (m n : Nat) : Nat :=
  if tyIsInt f.ta then
    let sum := (onBits f.k q).foldl (fun a k => a + aInt f u xa rd m k * intVal f.tb (bRaw f rw k n)) 0
    fieldOf 32 ((acc.getD 0 : Nat) + (if neg then -sum else sum))
  else
    accGroups f.flo acc ((List.range (f.k / 16)).map fun g => (List.range 16).map fun i =>
      let p := termV f u xa rd rw q m n (16 * g + i)
      if neg then p.neg else p)

/-- The result [m][i] of FRDER, with H read through `h` (R282). -/
def frderElem (f : MForm) (g : Knot) (u : Unf) (xa : Nat) (rd : Nat → Nat → List Byte) (q : BitVec 256)
    (h : Nat → Nat) (m i : Nat) : Nat :=
  let x := aVal f u xa rd m i
  groupSum f.flo (((List.range g.nb).filter fun b => q.getLsbD (g.pad * i + b)).map fun b =>
    (mulV (unpack fmtF32 false (h (g.pad * i + b))) (unpack fmtF32 false (basis g x b).2)).1)

/-- The record value of FRGRAD for term k and column n, with the output gradient read through `h` (R283). -/
def frgradElem (f : MForm) (g : Knot) (u : Unf) (xa : Nat) (rd : Nat → Nat → List Byte) (rows : BitVec 128)
    (h : Nat → Nat) (k : Nat) : Nat :=
  accGroups f.flo none ((List.range 8).map fun r =>
    (((List.range 16).map fun j => 16 * r + j).filter fun m => rows.getLsbD m).map fun m =>
      (mulV (unpack fmtF32 false (basis g (aVal f u xa rd m (k / g.pad)) (k % g.pad)).1)
        (unpack fmtF32 false (h m))).1)

/-! ### Refinement (R284, R316) -/

/-- The refined knot register (R284). -/
def refineKnot (x : Dword) : Dword :=
  let w := x.toNat
  let g := bitsAt w 40 8
  let e := fieldOf 8 (sextNat 8 (bitsAt w 32 8) - 1)
  BitVec.ofNat 64 (bitsAt w 0 32 + e * 2 ^ 32 + 2 * g % 256 * 2 ^ 40 + bitsAt w 48 16 * 2 ^ 48)

/-- A sum of weighted coefficients, divided by a power of two and rounded once; a zero is −0 only when every term is −0
(R88, R316). -/
def weighted (ts : List (Nat × Nat)) (shift : Int) : Nat :=
  let ps := ts.map fun t => (mulV (.fin false t.1 shift) (unpack fmtBf16 false (t.2 % 2 ^ 16))).1
  groupSum false ps

/-- Refined coefficient b′ from the coefficients read through `c` (R316). -/
def refined (c : Nat → Nat) (b' : Nat) : Nat :=
  let b := (b' + 1) / 2
  if b' % 2 = 0 then weighted [(1, c (b' / 2)), (1, c (b' / 2 + 1))] (-1)
  else weighted [(1, c (b - 1)), (6, c b), (1, c (b + 1))] (-3)

/-! ### Activations (R250) -/

/-- A result of magnitude below every FP32 value. -/
def tinyF (fn : Config.Faithful) (x : Nat) (neg : Bool) : Nat := faithful fn x false neg 1 (-400)

/-- 1/√(2π) in fixed point. -/
def invSqrt2Pi : Int := fixOne * fixOne / fixSqrt (2 * fixPi)

/-- Φ(x) of a fixed-point number with |x| ≤ 16. -/
def phiFix (x : Int) : Int :=
  let e := erfSmall (x.natAbs * fixOne / fixSqrt (2 * fixOne))
  if 0 ≤ x then (fixOne + e) / 2 else (fixOne - e) / 2

/-- The normal density of a fixed-point number with |x| ≤ 16. -/
def densFix (x : Int) : Int := fmul invSqrt2Pi (expNeg (-(fmul x x) / 2))

/-- σ′ from q = e^−|x|. -/
def sigmD (q : Int) : Int := q * fixOne / (fmul (fixOne + q) (fixOne + q))

/-- GELU and its derivative on a nonzero finite value (R250). -/
def geluFin (d : Bool) (x : Nat) (n : Bool) (m : Nat) (e : Int) : Nat :=
  let v := toFix n m e
  let fn := if d then Config.Faithful.gelu' else .gelu
  if geTwo m e 4 then
    if n then tinyF fn x true else faithfulFix fn x false (if d then fixOne + 1 else v - 1)
  else faithfulFix fn x false (if d then phiFix v + fmul v (densFix v) else fmul v (phiFix v))

/-- SiLU and its derivative on a nonzero finite value (R250). -/
def siluFin (d : Bool) (x : Nat) (n : Bool) (m : Nat) (e : Int) : Nat :=
  let v := toFix n m e
  let fn := if d then Config.Faithful.silu' else .silu
  if geTwo m e 8 then
    if n then tinyF fn x true else faithfulFix fn x false (if d then fixOne + 1 else v - 1)
  else
    let s := sigmFix v
    faithfulFix fn x false (if d then fmul s (fixOne + fmul v (fixOne - s)) else fmul v s)

/-- σ′ and 1 − tanh² on a nonzero finite value (R250). -/
def bellFin (tanh : Bool) (x : Nat) (m : Nat) (e : Int) : Nat :=
  let fn := if tanh then Config.Faithful.tanh' else .sigm'
  if geTwo m e 7 then tinyF fn x false
  else
    let v := toFix false m e
    faithfulFix fn x false (if tanh then 4 * sigmD (expNeg (-2 * v)) else sigmD (expNeg (-v)))

/-- f of an FP32 code (R250). -/
def actF (act x : Nat) : Nat :=
  match unpack fmtF32 false x with
  | .nan _ _ => fmtF32.nan
  | .inf n =>
    match act with
    | 1 => if n then 0 else packInf fmtF32 false
    | 2 | 3 => if n then fmtF32.signBit else packInf fmtF32 false
    | 4 => if n then 0 else f32One
    | _ => bit n * fmtF32.signBit + f32One
  | .fin n m e =>
    match act with
    | 1 => if n || m = 0 then 0 else x
    | 2 => if m = 0 then x else geluFin false x n m e
    | 3 => if m = 0 then x else siluFin false x n m e
    | 4 => (sfuSigm false false x).x
    | _ => (sfuTanh false false x).x

/-- f′ of an FP32 code (R250). -/
def actD (act x : Nat) : Nat :=
  match unpack fmtF32 false x with
  | .nan _ _ => fmtF32.nan
  | .inf n => if act ≤ 3 && !n then f32One else 0
  | .fin n m e =>
    match act with
    | 1 => if n || m = 0 then 0 else f32One
    | 2 => if m = 0 then 0x3F000000 else geluFin true x n m e
    | 3 => if m = 0 then 0x3F000000 else siluFin true x n m e
    | 4 => if m = 0 then 0x3E800000 else bellFin false x m e
    | _ => if m = 0 then f32One else bellFin true x m e

/-! ### The drain's conversion (R205, R249) -/

/-- A control word's fields (R205). -/
structure DCtl where
  qscl : Nat
  dsp : Bool
  add : Bool
  stat : Bool
  satf : Bool
  rm : RMode
  der : Bool
  act : Nat
  dt : Ty
  deriving DecidableEq, Repr

/-- The output types of the drain (R205). -/
def drainTy (c : Nat) : Option Ty :=
  match tyOf c with
  | some .f32 => some .f32
  | some .f16 => some .f16
  | some .bf16 => some .bf16
  | some .e4m3 => some .e4m3
  | some .e5m2 => some .e5m2
  | some .e2m1 => some .e2m1
  | some .i32 => some .i32
  | some .i8 => some .i8
  | some .i4 => some .i4
  | _ => none

/-- A control word for a tile that holds INT32 or FP32 results, where it is valid (R205, R249). -/
def drainCtl (x : Dword) (isInt : Bool) : Option DCtl :=
  let w := x.toNat
  let act := bitsAt w 4 4
  let der := bitAt w 9
  let add := bitAt w 14
  match drainTy (bitsAt w 0 4) with
  | none => none
  | some dt =>
    if bitsAt w 48 16 != 0 || bitsAt w 16 16 != 0 || bitAt w 8 || 5 < act || (der && act == 0) ||
        (isInt && (act != 0 || der)) || (!isInt && dt == .i32) || (add && dt != .f32) then none
    else some ⟨bitsAt w 32 16, bitAt w 15, add, bitAt w 13, bitAt w 12, rmOf (bitsAt w 10 2), der, act, dt⟩

/-- Divide by a quantisation scale, exactly (R249). -/
def qdiv (y : FV) (q : Nat) : FV :=
  match y, unpack fmtBf16 false q with
  | .nan _ _, _ => .nan false false
  | _, .nan _ _ => .nan false false
  | .inf _, .inf _ => .nan false false
  | .fin n _ _, .inf k => .fin (n != k) 0 0
  | .inf n, .fin k _ _ => .inf (n != k)
  | .fin n m e, .fin k qm qe =>
    if qm = 0 then (if m = 0 then .nan false false else .inf (n != k))
    else
      let r := quot m e qm qe
      .fin (n != k) r.1 r.2

/-- Convert an exact value to a type (R95, R249). -/
def convV (dt : Ty) (md : RMode) (satf : Bool) : FV → Nat
  | .nan n _ => if tyIsInt dt || dt = .e2m1 then 0 else if dt = .e4m3 then bit n * 0x80 + 0x7F else (fmtOf dt).nan
  | .inf n =>
    if tyIsInt dt then fieldOf (tyBits dt) (if n then (intRange dt).1 else (intRange dt).2) else packInf (fmtOf dt) n
  | .fin n m e =>
    if tyIsInt dt then fieldOf (tyBits dt) (clampI (intRange dt) (roundInt md n m e)).1
    else pack (fmtOf dt) md satf false n m e

/-- The statistic of an element: |q| in FP32 (R249). -/
def statOf (isInt : Bool) (md : RMode) : FV → Nat
  | .nan _ _ => fmtF32.nan
  | .inf _ => fmtF32.infCode
  | .fin n m e =>
    if isInt then pack fmtF32 .rne false false false (roundInt md n m e).natAbs 0
    else pack fmtF32 .rne false false false m e

/-- The quotient of an INT32 element is rounded to an integer in the drain's mode before it converts (R234, R249). -/
def intV (isInt : Bool) (md : RMode) : FV → FV
  | .fin n m e => if isInt then (let i := roundInt md n m e; .fin (i < 0) i.natAbs 0) else .fin n m e
  | v => v

/-- One element through steps 1 to 4 of R249: the converted bits and the statistic. -/
def drainElem (c : DCtl) (isInt : Bool) (y z : Nat) : Nat × Nat :=
  let v : FV :=
    if isInt then (let i := sextNat 32 y; .fin (i < 0) i.natAbs 0)
    else
      let x := if c.der then (fMul fmtF32 .rne false false y (actD c.act z)).x else if c.act != 0 then actF c.act y else y
      unpack fmtF32 false x
  let q := if c.qscl = 0 then v else intV isInt c.rm (qdiv v c.qscl)
  (convV c.dt c.rm c.satf q, statOf isInt c.rm q)

end Sys2Proof.Machine
end

