-- ==== Sys2Proof/Machine/Stream.lean ====
section
/-!
DEFINITION. The matrix stream: its issue and its stops, MMA, MACCST, FRDER, FRGRAD, FREFINE, KNOTSET, MDRAIN, the stream
registers, barriers and loops, the landing of engine results, and the drain unit (R195 to R208, R239 to R254, R279 to
R285).
-/

namespace Sys2Proof.Machine

/-! ### Issue -/

/-- Change a team's stream. -/
def updStream (s : State) (tid : Nat) (f : MStream → MStream) : State :=
  updTeam s tid fun t => { t with stream := t.stream.map f }

/-- Stop a team for a cause of its stream, its drain or its FRGRAD, which TRINFO names as 1, 2 or 3 (R196, R390, R394). -/
def stopTeam (s : State) (tid : Nat) (code : BitVec 9) (pc : Dword) (addr : Nat) (info : BitVec 4) : State :=
  let r : TrapRec := { cause := code, rev := false, pc := pc, mask := 0, smask := 0, em := 0, scause := 0
                       addr := BitVec.ofNat 64 addr, rpc := pc, rep := 0, skid := 0, info := info, tape := [] }
  let s := updTeam s tid fun t =>
    match t.halt with
    | .service _ => t
    | .running | .settling _ => { t with halt := .service code, srec := some r }
  report s ⟨code, none, pc, r.addr⟩

/-- A stream at the issue of an instruction. -/
structure SCtl where
  tid : Nat
  t : Team
  m : MStream
  u : Nat

/-- What a stream instruction answers: effects with the clock from which the next may issue, a jump, a cause with its
place, a state in which it still waits, or a wait that changes nothing. -/
inductive SBody where
  | done (s : State) (hold : Nat)
  | jump (s : State) (pc : Dword)
  | trap (c : Cause) (pc : Dword) (addr : Nat) (info : BitVec 4)
  | wait (s : State)
  | held

/-- The stream of the party of the state. -/
def curStream (s : State) : Option (Team × MStream) :=
  match s.cur with
  | some (.stream tid) => (teamOf s tid).bind fun t => t.stream.map fun m => (t, m)
  | _ => none

/-- Whether a stream may issue: it has not ended, and its team is not halted (R196, R392). -/
def mayStream (t : Team) (m : MStream) : Bool :=
  !m.ended && (match t.halt with | .running => true | .settling _ | .service _ => false)

/-- Issue a stream instruction of `len` bytes, not before a clock that `at'` gives (R196, R239). -/
def streamIssue (row : String) (len : Nat) (at' : State → Team → MStream → Nat) (body : SCtl → State → SBody)
    (s : State) : Host.Outcome State Fault Refusal :=
  match curStream s with
  | none => .fault (.noParty row)
  | some (t, m) =>
    if !mayStream t m then .next s
    else
      let u := max (max s.clock m.hold) (at' s t m)
      let s1 := { s with clock := u }
      let next (s2 : State) (pc : Dword) (hold : Nat) : Host.Outcome State Fault Refusal :=
        .next (updStream s2 t.uid fun k => { k with pc := pc, hold := max (u + 1) hold })
      match body ⟨t.uid, t, m, u⟩ s1 with
      | .done s2 hold => next s2 (m.pc + BitVec.ofNat 64 len) hold
      | .jump s2 pc => next s2 pc 0
      | .trap c pc addr info => .next (stopTeam s1 t.uid (causeCode c) pc addr info)
      | .wait s2 => .next s2
      | .held => .next s

/-- No unit to wait for. -/
def noWait : State → Team → MStream → Nat := fun _ _ _ => 0

/-- A cause of the instruction itself. -/
def SCtl.trap (c : SCtl) (k : Cause) : SBody := .trap k c.m.pc 0 1

def SCtl.x (c : SCtl) (n : Nat) : Dword := vget c.m.x n

/-- A register of the stream written. -/
def setX (n : Nat) (v : Dword) (m : MStream) : MStream := { m with x := vset m.x n v }

/-- Note whether registers hold undefined values. -/
def setUndef (ns : List Nat) (bad : Bool) (m : MStream) : MStream :=
  { m with undef := (if bad then ns else []) ++ m.undef.filter fun k => !ns.contains k }

/-- Whether a register pair holds undefined values. -/
def SCtl.pairUndef (c : SCtl) (n : Nat) : Bool := c.m.undef.contains n || c.m.undef.contains (n + 1)

/-- A 128-bit mask register, or all bits set (R204). -/
def maskReg (v : Vector (BitVec 128) 4) (sel : Nat) : BitVec 128 := if sel = 4 then -1 else vget v sel

def SCtl.rows (c : SCtl) (k : Masks) : BitVec 128 := maskReg c.m.mkr k.mks
def SCtl.cols (c : SCtl) (k : Masks) : BitVec 128 := maskReg c.m.nkr k.nks
def SCtl.terms (c : SCtl) (k : Masks) : BitVec 256 := if k.kks = 4 then -1 else vget c.m.kkr k.kks

/-! ### Registers and masks (R199 to R201, R279) -/

/-- Whether a queued drain writes the A-buffer (R245). -/
def drainsToBuf (m : MStream) : Bool := m.drains.any fun d => !d.ctl.getLsbD 15

/-- The state after a read of n bytes of the A-buffer by the stream: free bytes where it races with a write, the region
noted, and the port taken for 6 ck (R114, R199, R215, R239). -/
def bufTaken (c : SCtl) (s : State) (a n : Nat) (k : Bool → List Byte → MStream → MStream) : State :=
  let r := Region.abuf a n
  let bad := streamRaces s c.t r
  let b := if bad then freeBytes s.fresh n else abufGet s c.t a n
  let s := updStream (bump s) c.tid (k bad b)
  let e : Busy := { id := s.nextId, rd := [r], wr := [], tiles := [], outA := [], outM := [], sig := none, bad := false }
  updCore (updStream (bumpId s) c.tid fun m => { m with busy := m.busy ++ [e] }) c.t.core fun p =>
    { p with portFree := c.u + 6 }

/-- A read of the A-buffer by the stream: alignment and bounds, and earlier drains to it (R199, R239, R245). -/
def bufRead (c : SCtl) (s : State) (o : Dword) (n : Nat) (k : Bool → List Byte → MStream → MStream) : SBody :=
  let a := o.toNat
  if a % n != 0 then c.trap .misaln
  else if c.t.al.asize < a + n then c.trap .abound
  else if drainsToBuf c.m then .held
  else .done (bufTaken c s a n k) (c.u + 6)

/-- The clock at which the A-buffer port is free (R239, R243). -/
def portAt (s : State) (t : Team) (_ : MStream) : Nat := (coreOf s t.core).portFree

/-- MFMT (R199). -/
def execMfmt (mode d a : Nat) (imm : BitVec 32) (s : State) : Host.Outcome State Fault Refusal :=
  streamIssue "MFMT" 12 (if mode = 0 then portAt else noWait) (fun c s1 =>
    if mode = 0 then
      bufRead c s1 (c.x a + sext64 imm) 16 fun bad b m =>
        setUndef [d, d + 1] bad
          (setX (d + 1) (BitVec.ofNat 64 (natOfBytes (b.drop 8))) (setX d (BitVec.ofNat 64 (natOfBytes (b.take 8))) m))
    else
      let bad := mode != 1 && c.m.undef.contains a
      .done (updStream s1 c.tid fun m =>
        setUndef [d] bad (setX d (if mode = 1 then sext64 imm else c.x a + sext64 imm) m)) 0) s

/-- MUNF (R201). -/
def execMunf (plain : Bool) (a : Nat) (imm : BitVec 32) (s : State) : Host.Outcome State Fault Refusal :=
  streamIssue "MUNF" 12 (if plain then noWait else portAt) (fun c s1 =>
    if plain then .done (updStream s1 c.tid fun m => setUndef [32] false { m with unf := .plain imm.toNat }) 0
    else bufRead c s1 (c.x a + sext64 imm) 64 fun bad b m =>
      setUndef [32] bad { m with unf := .loaded (BitVec.ofNat 512 (natOfBytes b)) }) s

/-- The length of an MSETM, by its source (R200). -/
def msetmLen : MaskSrc → Nat
  | .count _ => 12
  | .countLit _ _ => 20
  | .reg _ => 12
  | .lit _ => 20

/-- The value of an MSETM (R200). -/
def msetmVal (c : SCtl) (src : MaskSrc) (words : Nat) : Nat :=
  match src with
  | .count n => 2 ^ n - 1
  | .countLit n _ => 2 ^ n - 1
  | .reg a => (List.range words).foldl (fun v j => v + (c.x (a + j)).toNat * 2 ^ (64 * j)) 0
  | .lit k => k.toNat

/-- MSETM (R200). -/
def execMsetm (cls : MaskCls) (d : Nat) (src : MaskSrc) (s : State) : Host.Outcome State Fault Refusal :=
  streamIssue "MSETM" (msetmLen src) noWait (fun c s1 =>
    .done (updStream s1 c.tid fun m =>
      match cls with
      | .mk => { m with mkr := vset m.mkr d (BitVec.ofNat 128 (msetmVal c src 2)) }
      | .nk => { m with nkr := vset m.nkr d (BitVec.ofNat 128 (msetmVal c src 2)) }
      | .kk => { m with kkr := vset m.kkr d (BitVec.ofNat 256 (msetmVal c src 4)) }) 0) s

/-- KNOTSET: a value outside the limits stops the team (R279). -/
def execKnotset (d a : Nat) (s : State) : Host.Outcome State Fault Refusal :=
  streamIssue "KNOTSET" 12 noWait (fun c s1 =>
    if (knotOf (c.x a)).isNone then c.trap .mfmtbad
    else .done (updStream s1 c.tid fun m => { m with knr := vset m.knr d (c.x a) }) 0) s

/-! ### Starting the engine -/

/-- Whether a tile can be read by the next engine instruction or drain: every writer of it has landed (R244). -/
def tileLanded (m : MStream) (tile : Nat) : Bool := !(m.mops.any fun o => o.tile == some tile)

/-- Whether a tile can be written: every queued drain that reads it has begun its occupancy (R244). -/
def tileUndrained (m : MStream) (tile : Nat) : Bool := !(m.drains.any fun d => d.acc == tile)

/-- The clock from which drains no longer read a tile (R244). -/
def tileFreeAt (m : MStream) (tile : Nat) : Nat := (aGet m.tileFree tile).getD 0

/-- The engine's next start, for a writer of a tile (R241, R244). -/
def engineAt (tile : Nat) (s : State) (t : Team) (m : MStream) : Nat := max (coreOf s t.core).engFree (tileFreeAt m tile)

/-- Whether a tile, or a slot, number is beyond the team's (R204). -/
def tileBad (t : Team) (n : Nat) : Bool := decide (t.al.tiles.length ≤ n)
def slotBad (t : Team) (n : Nat) : Bool := decide (t.al.slots.length ≤ n)

/-- Runs as regions. -/
def abRegs (l : List Run) : List Region := l.map fun r => .abuf r.1 r.2

/-- Runs that leave the allocation (R204, R247). -/
def runsBad (t : Team) (l : List Run) : Bool := l.any fun r => decide (t.al.asize < r.1 + r.2)

/-- What an engine instruction starts with: regions read, the tile written with the elements that land and the masks of
what it writes, whether the tile then holds INT32, records to make, and its occupancy and landing (R198, R243, R285). -/
structure Start where
  rd : List Region
  tile : Option Nat
  rows : BitVec 128
  cols : BitVec 128
  elems : List (Nat × Word)
  int : Option Bool
  recs : List (Nat × Word)
  occ : Nat
  lands : Nat

/-- The state after the start of an engine instruction: it takes the engine, its results land later, and its regions are
its own until the next MSIG's phase (R198, R241, R243). Where it races with a write of what it reads, its results are free
values (R215, R221, R253). -/
def engineTaken (c : SCtl) (s : State) (x : Start) : State :=
  let id := s.nextId
  let undef := x.rd.any (streamRaces s c.t)
  let val (e : Nat × Word) : Nat × Word := if undef then (e.1, freeWord s.fresh e.1) else e
  let op : MOp := { id := id, tile := x.tile, land := c.u + x.occ + x.lands, elems := x.elems.map val, recs := x.recs.map val }
  let b : Busy := { id := id, rd := x.rd, wr := x.tile.toList.map .tile, tiles := x.tile.toList.map fun t => (t, x.rows, x.cols)
                    outA := [], outM := [], sig := none, bad := undef }
  let s := updCore (bump (bumpId s)) c.t.core fun k => { k with engFree := c.u + x.occ, engLast := c.m.ctxNo }
  let ints (l : List Nat) : List Nat :=
    match x.tile, x.int with
    | some d, some true => d :: l.filter fun k => k != d
    | some d, some false => l.filter fun k => k != d
    | _, _ => l
  updStream s c.tid fun m => { m with mops := m.mops ++ [op], busy := m.busy ++ [b], ints := ints m.ints }

/-- An engine instruction starts, and the next may issue at once. -/
def startEngine (c : SCtl) (s : State) (x : Start) : SBody := .done (engineTaken c s x) 0

/-- The unfolding in force, within the limits of R246, or none. -/
def unfOf (m : MStream) (f : MForm) : Option Unf :=
  match m.unf with
  | .plain p => some (.pitch p)
  | .loaded d => (udesc d (tyBits f.ta == 4)).map .desc

/-- Whether the unfolding holds an undefined value: what an instruction computes from it is then undefined, and nothing
traps (R221). -/
def SCtl.unfUndef (c : SCtl) : Bool := c.m.undef.contains 32

/-- Whether an instruction's format block, or the unfolding, holds undefined values (R221). -/
def blockUndef (c : SCtl) (xf : Nat) : Bool := c.pairUndef xf || c.unfUndef

/-- Free values for the elements of some rows and columns of a tile. -/
def freeTile (k : Nat) (rows cols : BitVec 128) : List (Nat × Word) :=
  (onBits 128 rows).flatMap fun m => (onBits 128 cols).map fun n => (128 * m + n, freeWord k (128 * m + n))

/-- An engine instruction whose block or unfolding is undefined: the elements that it would write are free (R221; log
entry 24). -/
def startUndef (c : SCtl) (s : State) (rd : List Region) (tile : Option Nat) (rows cols : BitVec 128) (lands : Nat) : SBody :=
  startEngine c (bump s)
    { rd := rd, tile := tile, rows := rows, cols := cols, elems := if tile.isSome then freeTile s.fresh rows cols else []
      int := none, recs := [], occ := 64, lands := lands }

/-- The format block and unfolding that an instruction names (R201, R202). -/
def blockOf (c : SCtl) (xf : Nat) : Option (MForm × Unf) :=
  match mform (c.x xf) (c.x (xf + 1)) (vget c.m.knr) with
  | none => none
  | some f => (unfOf c.m f).map fun u => (f, u)

/-- The elements of a tile under two masks, with their indices 128 m + n. -/
def tileElems (rows cols : BitVec 128) (f : Nat → Nat → Nat) : List (Nat × Word) :=
  (onBits 128 rows).flatMap fun m => (onBits 128 cols).map fun n => (128 * m + n, BitVec.ofNat 32 (f m n))

/-- Every element of a list free. -/
def freeElems (k : Nat) (l : List (Nat × Word)) : List (Nat × Word) := l.map fun e => (e.1, freeWord k e.1)

/-! ### MMA, MACCST -/

/-- MMA, also in frond mode (R204, R281). -/
def execMma (acc xa ws xf : Nat) (neg nacc : Bool) (k : Masks) (s : State) : Host.Outcome State Fault Refusal :=
  streamIssue "MMA" 12 (engineAt acc) (fun c s1 =>
    if (!nacc && !tileLanded c.m acc) || !tileUndrained c.m acc || drainsToBuf c.m then .held
    else if tileBad c.t acc then c.trap .ctile
    else if slotBad c.t ws then c.trap .wslot
    else if blockUndef c xf then startUndef c s1 [.slot ws, .tile acc] (some acc) (c.rows k) (c.cols k) 8
    else match blockOf c xf with
      | none => c.trap .mfmtbad
      | some (f, u) =>
        let M := c.rows k
        let N := c.cols k
        let Q := c.terms k
        let a := (c.x xa).toNat
        let runs := aRuns f u a (onBits 128 M) Q ++ bRuns f (onBits 128 N) Q
        if runsBad c.t runs then c.trap .abound
        else
          let rd := abufGet s1 c.t
          let rw := slotGet s1 c.t ws
          let old (m n : Nat) : Option Nat := if nacc then none else some (tileGet s1 c.t acc (128 * m + n)).toNat
          let l := tileElems M N fun m n => mmaElem f u a rd rw Q neg (old m n) m n
          let l := if bandsBad f u a rd rw (onBits 128 M) (onBits 128 N) Q then freeElems s1.fresh l else l
          let rdTile := if nacc then [] else [Region.tile acc]
          startEngine c s1 { rd := abRegs runs ++ [.slot ws] ++ rdTile, tile := some acc, rows := M, cols := N, elems := l
                             int := some (tyIsInt f.ta), recs := [], occ := 64, lands := 8 }) s

/-- MACCST (R206). -/
def execMaccst (acc src : Nat) (mov : Bool) (k : Masks) (s : State) : Host.Outcome State Fault Refusal :=
  streamIssue "MACCST" 12 (engineAt acc) (fun c s1 =>
    if (mov && !tileLanded c.m src) || !tileUndrained c.m acc then .held
    else if tileBad c.t acc || (mov && tileBad c.t src) then c.trap .ctile
    else
      let M := c.rows k
      let N := c.cols k
      let v (m n : Nat) : Nat := if mov then (tileGet s1 c.t src (128 * m + n)).toNat else (c.x src).toNat
      startEngine c s1 { rd := if mov then [.tile src] else [], tile := some acc, rows := M, cols := N
                         elems := tileElems M N v, int := if mov then some (c.m.ints.contains src) else none, recs := []
                         occ := 16, lands := 0 }) s

/-! ### FRDER, FRGRAD, FREFINE -/

/-- The frond block of FRDER and FRGRAD: it must select frond mode (R280). -/
def frondOf (c : SCtl) (xf : Nat) : Option (MForm × Knot) :=
  (mform (c.x xf) (c.x (xf + 1)) (vget c.m.knr)).bind fun f => f.frond.map fun g => (f, g)

/-- The columns that FRDER writes: its inputs (R282). -/
def frderCols (g : Knot) : BitVec 128 := BitVec.ofNat 128 (2 ^ g.inputs - 1)

/-- FRDER (R282). -/
def execFrder (accd acca xa xf : Nat) (k : Masks) (s : State) : Host.Outcome State Fault Refusal :=
  streamIssue "FRDER" 12 (engineAt accd) (fun c s1 =>
    if !tileLanded c.m acca || !tileUndrained c.m accd || drainsToBuf c.m then .held
    else if tileBad c.t accd || tileBad c.t acca then c.trap .ctile
    else if c.pairUndef xf then startUndef c s1 [.tile acca] (some accd) (c.rows k) (-1) 8
    else match frondOf c xf with
      | none => c.trap .mfmtbad
      | some (f, g) =>
        let M := c.rows k
        let Q := c.terms k
        let a := (c.x xa).toNat
        if c.unfUndef then startUndef c s1 [.tile acca] (some accd) M (frderCols g) 8
        else match unfOf c.m f with
          | none => c.trap .mfmtbad
          | some u =>
            let runs := aRuns f u a (onBits 128 M) Q
            if runsBad c.t runs then c.trap .abound
            else
              let l := tileElems M (frderCols g) fun m i =>
                frderElem f g u a (abufGet s1 c.t) Q (fun j => (tileGet s1 c.t acca (128 * m + j)).toNat) m i
              startEngine c s1 { rd := abRegs runs ++ [.tile acca], tile := some accd, rows := M, cols := frderCols g
                                 elems := l, int := some false, recs := [], occ := 64, lands := 8 }) s

/-- A cause of FRGRAD, which TRINFO names (R394). -/
def SCtl.gtrap (c : SCtl) (k : Cause) : SBody := .trap k c.m.pc 0 3

/-- A cause given by its code, for translations. -/
def causeOfX (c : BitVec 9) : Cause := if c = causeCode .dperm then .dperm else if c = causeCode .memue then .memue else .dxlate

/-- The terms of FRGRAD in ascending order: enabled, and below nb (R283). -/
def gradTerms (g : Knot) (q : BitVec 256) : List Nat := (onBits 64 q).filter fun k => k % g.pad < g.nb

/-- The first cause among the gradient words, or their memory keys (R283). -/
def gradKeys : List Xl → Except Cause (List Nat)
  | [] => .ok []
  | x :: r =>
    match x with
    | .bad c _ => .error (causeOfX c)
    | .at key _ dfr _ => if dfr then (gradKeys r).map (key :: ·) else .error .frgnd

/-- FRGRAD from its A operand's runs on: every cause is found before any record is made, and their number is fixed by the
masks and nb (R283). `val` gives the gradient of a term and a column; with none the unfolding is undefined, and the values
are free. -/
def frgradGo (c : SCtl) (s : State) (g : Knot) (base : Dword) (acca : Nat) (k : Masks) (runs : List Run)
    (val : Option (Nat × Nat → Word)) : SBody :=
  if base.toNat % 4 != 0 then c.gtrap .misaln
  else if runsBad c.t runs then c.gtrap .abound
  else
    let kn := (onBits 128 (c.cols k)).flatMap fun n => (gradTerms g (c.terms k)).map fun j => (j, n)
    let xs := kn.map fun p =>
      xlate s (some c.t.core) c.t.ctx (base + BitVec.ofNat 64 (256 * p.2 + 4 * p.1)).toNat false true false
    match gradKeys xs with
    | .error e => c.gtrap e
    | .ok keys =>
      if quotaRoom s c.t < keys.length then c.gtrap .defquota
      else
        let free (p : Nat × Nat) : Word := freeWord s.fresh (128 * p.1 + p.2)
        startEngine c (if val.isNone then bump s else s)
          { rd := abRegs runs ++ [.tile acca], tile := none, rows := 0, cols := 0, elems := [], int := none
            recs := keys.zip (kn.map (val.getD free)), occ := 64, lands := 0 }

/-- The gradient of a term and a column (R283). -/
def gradVal (c : SCtl) (s : State) (f : MForm) (g : Knot) (u : Unf) (acca a : Nat) (k : Masks) (p : Nat × Nat) : Word :=
  BitVec.ofNat 32
    (frgradElem f g u a (abufGet s c.t) (c.rows k) (fun m => (tileGet s c.t acca (128 * m + p.2)).toNat) p.1)

/-- FRGRAD (R283). -/
def execFrgrad (xd acca xa xf : Nat) (k : Masks) (s : State) : Host.Outcome State Fault Refusal :=
  streamIssue "FRGRAD" 12 (engineAt 16) (fun c s1 =>
    if !tileLanded c.m acca || drainsToBuf c.m then .held
    else if tileBad c.t acca then c.gtrap .ctile
    else if c.pairUndef xf then startUndef c s1 [.tile acca] none 0 0 0
    else match frondOf c xf with
      | none => c.gtrap .mfmtbad
      | some (f, g) =>
        let a := (c.x xa).toNat
        if c.unfUndef then frgradGo c s1 g (c.x xd) acca k [] none
        else match unfOf c.m f with
          | none => c.gtrap .mfmtbad
          | some u =>
            frgradGo c s1 g (c.x xd) acca k (aRuns f u a (onBits 128 (c.rows k)) (c.terms k))
              (some (gradVal c s1 f g u acca a k))) s

/-- The block by which FREFINE reads its slot: BF16, without scales (R284). -/
def refineForm (btr : Bool) : MForm :=
  { ta := .bf16, tb := .bf16, k := 64, la := 0, lb := 0, fla := false, flb := false, flo := false
    btr := btr, ascl := 0, bscl := 0, bside := 0, frond := none }

/-- The inputs that FREFINE refines, from input i0 of the old knot on (R284). -/
def refinedInputs (g g2 : Knot) (i0 : Nat) : List Nat := (List.range g2.inputs).filter fun j => i0 + j < g.inputs

/-- The rows of a tile that some numbers name. -/
def rowSet (l : List Nat) : BitVec 128 := l.foldl (fun m r => m ||| (1#128 <<< r)) 0

/-- FREFINE (R284, R316). -/
def execFrefine (accd ws kna knd i0 : Nat) (btr : Bool) (s : State) : Host.Outcome State Fault Refusal :=
  streamIssue "FREFINE" 12 (engineAt accd) (fun c s1 =>
    if !tileUndrained c.m accd then .held
    else if tileBad c.t accd then c.trap .ctile
    else if slotBad c.t ws then c.trap .wslot
    else
      let kw := vget c.m.knr kna
      match knotOf kw with
      | none => c.trap .mfmtbad
      | some g =>
        let g2 : Knot := { g with g := 2 * g.g, e := g.e - 1 }
        if 61 < g2.g || decide (g.e - 1 < -128) then c.trap .mfmtbad
        else if g.inputs ≤ i0 then c.trap .illfld
        else
          let js := refinedInputs g g2 i0
          let l := js.flatMap fun j => (List.range g2.nb).flatMap fun b' => (List.range 128).map fun n =>
            (128 * (g2.pad * j + b') + n, BitVec.ofNat 32
              (refined (fun b => bRaw (refineForm btr) (slotGet s1 c.t ws) (g.pad * (i0 + j) + b) n) b'))
          let rows := rowSet (js.flatMap fun j => (List.range g2.nb).map fun b => g2.pad * j + b)
          let s2 := updStream s1 c.tid fun m => { m with knr := vset m.knr knd (refineKnot kw) }
          startEngine c s2 { rd := [.slot ws], tile := some accd, rows := rows, cols := -1, elems := l, int := some false
                             recs := [], occ := 64, lands := 8 }) s

/-! ### Landing (R243) -/

/-- The streams on a core, with their teams. -/
def streamsOn (s : State) (core : Nat) : List (Team × MStream) :=
  (s.work.teams.filter fun t => t.core == core).filterMap fun t => t.stream.map fun m => (t, m)

/-- MMA_LANDING: the results of an engine operation land, or the records of an FRGRAD enter the Sporangium as it has
room for them (R154, R243, R317). -/
def execMmaLanding (core id : Nat) (s : State) : Host.Outcome State Fault Refusal :=
  match (streamsOn s core).find? fun p => p.2.mops.any fun o => o.id == id with
  | none => .fault (.notEnabled "MMA_LANDING")
  | some (t, m) =>
    match m.mops.find? fun o => o.id == id with
    | none => .fault (.notEnabled "MMA_LANDING")
    | some o =>
      if m.mops.any fun x => decide (x.id < id) && (x.tile == o.tile) then .fault (.notEnabled "MMA_LANDING")
      else
        let s := { s with clock := max s.clock o.land }
        let n := sporRoom s core
        let now := o.recs.take n
        let later := o.recs.drop n
        if now.isEmpty && !later.isEmpty then .fault (.notEnabled "MMA_LANDING")
        else
          let s := match o.tile with
            | some d => o.elems.foldl (fun s e => tilePut s t d e.1 e.2) s
            | none => s
          let s := makeRecs s t.uid 32 (some id) (now.map fun r => ⟨.fadd, false, r.1, r.2.setWidth 64⟩)
          .next (updStream s t.uid fun m =>
            if later.isEmpty then { m with mops := m.mops.filter fun x => x.id != id }
            else { m with mops := m.mops.map fun x => if x.id = id then { x with recs := later } else x })

/-! ### The drain (R205, R239, R241, R249 to R252) -/

/-- Where element [m][n] goes, and whether into a high nibble (R205, R252). -/
def drainPos (c : DCtl) (dst pitch : Dword) (m n : Nat) : APos :=
  let p := bitsAt pitch.toNat 0 24
  let st := bitsAt pitch.toNat 24 8
  let w := fun (o : Nat) => dst.toNat + o
  if tyBits c.dt = 4 then
    if st = 0 then ⟨w (m * p + n / 2), n % 2 == 1⟩ else ⟨w (m * p + n * st), false⟩
  else ⟨w (m * p + n * (if st = 0 then tyBits c.dt / 8 else st)), false⟩

/-- The offset of the pre-activation of an element (R249). -/
def zPos (pitch : Dword) (m n : Nat) : Nat := bitsAt pitch.toNat 32 32 + 512 * m + 4 * n

/-- The A-buffer runs that a drain reads and writes (R198, R205). -/
def drainRuns (c : DCtl) (d : Drain) : List Run × List Run :=
  let el := (onBits 128 d.mrow).flatMap fun m => (onBits 128 d.ncol).map fun n => (m, n)
  (if c.der then joinRuns (el.map fun e => (zPos d.pitch e.1 e.2, 4)) else [],
   if c.dsp then [] else joinRuns (el.map fun e => ((drainPos c d.dst d.pitch e.1 e.2).byte, elemBytes c.dt)))

/-- MDRAIN: its registers and masks are read and it enters the drain queue (R205, R239, R248). With undefined registers it
drains as their free values say, as far as that goes, and nothing traps (R221; log entry 24). -/
def execMdrain (xd acc xc : Nat) (k : Masks) (s : State) : Host.Outcome State Fault Refusal :=
  streamIssue "MDRAIN" 12 noWait (fun c s1 =>
    if 4 ≤ c.m.drains.length then .held
    else if tileBad c.t acc then c.trap .ctile
    else
      let undef := c.pairUndef xd || c.pairUndef xc
      match drainCtl (c.x xc) (c.m.ints.contains acc) with
      | none => if undef then .done s1 0 else c.trap .mfmtbad
      | some dc =>
        let d : Drain := { id := s1.nextId, pc := c.m.pc, acc := acc, dst := c.x xd, pitch := c.x (xd + 1), ctl := c.x xc
                           stat := c.x (xc + 1), mrow := c.rows k, ncol := c.cols k, undef := undef, resv := [] }
        let r := drainRuns dc d
        let rd := Region.tile acc :: abRegs r.1
        let b : Busy := { id := d.id, rd := rd, wr := abRegs r.2, tiles := [], outA := [], outM := [], sig := none
                          bad := rd.any (streamRaces s1 c.t) }
        .done (updStream (bumpId s1) c.tid fun m => { m with drains := m.drains ++ [d], busy := m.busy ++ [b] }) 0) s

/-- The oldest MDRAIN of a core (R241). -/
def oldestDrain (s : State) (core : Nat) : Option (Team × MStream × Drain) :=
  (streamsOn s core).foldl (fun acc p =>
    match p.2.drains.head?, acc with
    | none, a => a
    | some d, none => some (p.1, p.2, d)
    | some d, some a => if d.id < a.2.2.id then some (p.1, p.2, d) else some a) none

/-- A drain under way: the state, what it has written in the A-buffer and in memory, the statistic so far, whether an
element was written, and a cause that ended it. -/
structure Draining where
  s : State
  outA : List Run
  outM : List Run
  stat : Nat
  any : Bool
  cause : Option Cause

/-- The bytes of one element after it is written or added on (R251, R252). -/
def drainBytes (c : DCtl) (high : Bool) (old : List Byte) (o : Nat) : List Byte :=
  if tyBits c.dt = 4 then
    let b := natOfBytes old
    [BitVec.ofNat 8 (if high then b % 16 + 16 * (o % 16) else b / 16 * 16 + o % 16)]
  else if c.add then bytesOfNat 4 (fAdd fmtF32 .rne false false (natOfBytes old) o).x
  else bytesOfNat (tyBits c.dt / 8) o

/-- What stood where a drain writes is kept until a release at device scope publishes the write (R185, R310). -/
def noteDrained (s : State) (tid key : Nat) (b : List Byte) : State :=
  let l := b.zipIdx.map fun x => Drained.mk (key + x.2) (memGet s.mem (key + x.2)) x.1 tid
  { s with work := { s.work with drained := l ++ s.work.drained.filter fun d => !(l.any fun x => x.key == d.key) } }

/-- One element of a drain, with the tile's and Z's bits and its conversion (R249 to R252). -/
def drainOne (c : DCtl) (isInt bad : Bool) (t : Team) (d : Drain) (p : Draining) (m n : Nat) : Draining :=
  if p.cause.isSome then p
  else
    let z := zPos d.pitch m n
    if c.der && z % 4 != 0 then { p with cause := some .misaln }
    else if c.der && t.al.asize < z + 4 then { p with cause := some .abound }
    else
      let y := (tileGet p.s t d.acc (128 * m + n)).toNat
      let zv := if c.der then natOfBytes (abufGet p.s t z 4) else 0
      let r := drainElem c isInt y zv
      let r := if bad then ((freeWord p.s.fresh (128 * m + n)).toNat, (freeWord p.s.fresh (2 ^ 20 + 128 * m + n)).toNat) else r
      let a := drainPos c d.dst d.pitch m n
      let k := elemBytes c.dt
      let ok (q : Draining) : Draining := { q with stat := max q.stat r.2, any := true }
      if a.byte % k != 0 then { p with cause := some .misaln }
      else if !c.dsp then
        if t.al.asize < a.byte + k then { p with cause := some .abound }
        else
          let b := drainBytes c a.high (abufGet p.s t a.byte k) r.1
          ok { p with s := abufPut p.s t a.byte b, outA := (a.byte, k) :: p.outA }
      else match xlate p.s (some t.core) t.ctx a.byte false true false with
        | .bad e _ => { p with cause := some (causeOfX e) }
        | .at key _ dfr _ =>
          if dfr then { p with cause := some .defeng }
          else if c.add && (leafAt p.s t.ctx a.byte).any (fun l => l.p) then { p with cause := some .dperm }
          else
            let b := drainBytes c a.high (memGetN p.s.mem key k) r.1
            ok { p with s := engineStore (noteDrained p.s t.uid key b) key b, outM := (key, k) :: p.outM }

/-- The statistics record of a drain (R205, R249), or its cause. -/
def drainStat (c : DCtl) (t : Team) (d : Drain) (p : Draining) : Draining :=
  if !c.stat || !p.any || p.cause.isSome then p
  else if d.stat.toNat % 4 != 0 then { p with cause := some .misaln }
  else match xlate p.s (some t.core) t.ctx d.stat.toNat false true false with
    | .bad e _ => { p with cause := some (causeOfX e) }
    | .at key _ dfr _ =>
      if !dfr then { p with cause := some .statnd }
      else if quotaRoom p.s t = 0 then { p with cause := some .defquota }
      else { p with s := makeRecs p.s t.uid 32 none [⟨.maxN, false, key, BitVec.ofNat 64 p.stat⟩] }

/-- The memory keys that a drain will write, as far as they translate. -/
def drainKeys (s : State) (c : DCtl) (t : Team) (d : Drain) : List Nat :=
  if !c.dsp then []
  else ((onBits 128 d.mrow).flatMap fun m => (onBits 128 d.ncol).map fun n => drainPos c d.dst d.pitch m n).filterMap
    fun a => match xlate s (some t.core) t.ctx a.byte false true false with
      | .at key _ _ _ => some key
      | .bad _ _ => none

/-- Whether a home slice, or another drain's reservation, holds a drain back (R164, R251). -/
def drainHeld (s : State) (c : DCtl) (t : Team) (d : Drain) : Bool := (drainKeys s c t d).any (homeWaitsBut s (some d.id))

/-- The oldest MDRAIN of a core, an add-on-store to device memory, has its lines reserved before it is applied, once no
other reservation and no locked row holds them (R251, R367). -/
def reserveDrain (core : Nat) (s : State) : Option State :=
  match oldestDrain s core with
  | none => none
  | some (t, m, d) =>
    match drainCtl d.ctl (m.ints.contains d.acc) with
    | none => none
    | some c =>
      let keys := drainKeys s c t d
      let lines := (keys.map fun k => k / Config.lineBytes * Config.lineBytes).dedup
      if !c.add || !d.resv.isEmpty || lines.isEmpty || keys.any (rowLocked s) || lines.any (lineReserved s (some d.id)) then none
      else some (updStream s t.uid fun m =>
        { m with drains := m.drains.map fun x => if x.id = d.id then { x with resv := lines } else x })

/-- DRAIN_EXECUTE: the drain unit takes the oldest MDRAIN of the core once its tile has landed, its home slices serve it
and its statistics record has room (R154, R164, R241, R249). A cause stops the team, and what was written stays. -/
def execDrainExecute (core : Nat) (s : State) : Host.Outcome State Fault Refusal :=
  match oldestDrain s core with
  | none => .fault (.notEnabled "DRAIN_EXECUTE")
  | some (t, m, d) =>
    let isInt := m.ints.contains d.acc
    match drainCtl d.ctl isInt with
    | none => .fault (.notEnabled "DRAIN_EXECUTE")
    | some c =>
      if !tileLanded m d.acc || drainHeld s c t d || (c.stat && sporRoom s core == 0) then
        .fault (.notEnabled "DRAIN_EXECUTE")
      else
        let u := max s.clock (coreOf s core).drainFree
        let s := updCore { s with clock := u } core fun k => { k with drainFree := u + 16 }
        let bad := m.busy.any fun b => b.id == d.id && b.bad
        let el := (onBits 128 d.mrow).flatMap fun i => (onBits 128 d.ncol).map fun n => (i, n)
        let p := el.foldl (fun p e => drainOne c isInt bad t d p e.1 e.2) ⟨s, [], [], 0, false, none⟩
        let p := drainStat c t d p
        let s := updStream (bump p.s) t.uid fun m =>
          { m with drains := m.drains.filter fun x => x.id != d.id
                   tileFree := aSet m.tileFree d.acc (u + 16)
                   busy := m.busy.map fun b => if b.id = d.id then { b with outA := p.outA, outM := p.outM } else b }
        .next (match (if d.undef then none else p.cause) with
          | some k => stopTeam s t.uid (causeCode k) d.pc 0 2
          | none => s)

/-! ### Barriers and loops (R207, R208) -/

/-- MSIG: counted once every earlier matrix instruction has completed; regions used so far are released by its phase
(R198, R207). -/
def execMsig (b n : Nat) (s : State) : Host.Outcome State Fault Refusal :=
  streamIssue "MSIG" 12 noWait (fun c s1 =>
    if !c.m.mops.isEmpty || !c.m.drains.isEmpty || !(pendingArrivals s1 c.tid b).isEmpty then .held
    else
      let x := vget c.t.bars b
      let r := barArrive x n
      if r.2 then c.trap .barmix
      else
        let sign (e : Busy) : Busy := if e.sig.isNone then { e with sig := some (b, x.ph) } else e
        .done (updStream (setBar (carryBar s1 c.tid .stream s1.nextId b x.ph) c.tid b r.1) c.tid fun m =>
          { m with lp := vset m.lp b (some x.ph), busy := m.busy.map sign }) 0) s

/-- MWAIT (R124, R207): with no pending phase, it waits for the phase at its issue to change. -/
def execMwait (b : Nat) (s : State) : Host.Outcome State Fault Refusal :=
  streamIssue "MWAIT" 12 noWait (fun c s1 =>
    let ph := (vget c.t.bars b).ph
    match vget c.m.lp b with
    | none => .wait (updStream s1 c.tid fun m => { m with lp := vset m.lp b (some ph) })
    | some p =>
      if ph = p then .held
      else .done (updStream s1 c.tid fun m => { m with lp := vset m.lp b none, seen := vset m.seen b ph }) 0) s

/-- Where skipping a loop's body ends: after its MEND, at a cause, or at a wait of the fetch. -/
inductive Skip where
  | to (pc : Dword) (s : State)
  | bad (c : Cause) (pc : Dword) (addr : Nat)
  | held

/-- Skip from an address at a depth of open MLOOPs (R208). -/
def skipFrom (t : Team) : Nat → Nat → Dword → State → Skip
  | 0, _, pc, _ => .bad .ifetch pc pc.toNat
  | fuel + 1, depth, pc, s =>
    match fetchWord s t pc.toNat with
    | .bad c a => .bad c pc a
    | .held => .held
    | .bytes b s1 =>
      let w := natOfBytes b
      let next := pc + BitVec.ofNat 64 (byteLen w)
      let op := opOf w
      if op = 0x60 then skipFrom t fuel (depth + 1) next s1
      else if op = 0x61 then (if depth = 0 then .to next s1 else skipFrom t fuel (depth - 1) next s1)
      else if op = 0x0A || !streamAdmits op then .bad .mloopbad pc 0
      else skipFrom t fuel depth next s1

/-- MLOOP (R208, R254). The fuel of a skip passes every word below 2^56. -/
def execMloop (x : Bool) (a : Nat) (imm : BitVec 32) (s : State) : Host.Outcome State Fault Refusal :=
  streamIssue "MLOOP" 12 noWait (fun c s1 =>
    let n := if x then bitsAt (c.x a).toNat 0 32 else imm.toNat
    let body := c.m.pc + 12
    if n = 0 then
      match skipFrom c.t (2 ^ 54) 0 body s1 with
      | .to pc s2 => .jump s2 pc
      | .bad k pc addr => .trap k pc addr 1
      | .held => .held
    else if 4 ≤ c.m.loops.length then c.trap .mloopbad
    else .done (updStream s1 c.tid fun m => { m with loops := ⟨body, n⟩ :: m.loops }) 0) s

/-- MEND (R208). -/
def execMend (s : State) : Host.Outcome State Fault Refusal :=
  streamIssue "MEND" 4 noWait (fun c s1 =>
    match c.m.loops with
    | [] => c.trap .mloopbad
    | l :: r =>
      if 1 < l.left then .jump (updStream s1 c.tid fun m => { m with loops := ⟨l.body, l.left - 1⟩ :: r }) l.body
      else .done (updStream s1 c.tid fun m => { m with loops := r }) 0) s

end Sys2Proof.Machine
end

