-- ==== Sys2Proof/Machine/Exit.lean ====
section
/-!
DEFINITION. What groups and matrix streams both issue: NOP, EXIT and words with an unassigned opcode; and the end of a
team (R26, R37, R56, R57, R141, R168, R211, R397).
-/

namespace Sys2Proof.Machine

/-! ### The end of a team -/

/-- Whether every group and the stream of a team have ended (R57). -/
def partiesEnded (t : Team) : Bool :=
  t.groups.all (fun g => g.ended) && (match t.stream with | some m => m.ended | none => true)

/-- The number of teams of a grid (R137). -/
def gridTeams (g : Grid) : Nat := g.lr.gx * g.lr.gy * g.lr.gz

/-- The pod set of a grid's context, where it is a pod grid (R419). -/
def podOf (s : State) (g : Grid) : List Nat :=
  if g.podNo.isSome then ((ctxOf s g.ctx).map fun c => c.pod).getD [] else []

/-- The TEAMIDs of a grid that run on this device (R419). -/
def localTeams (s : State) (g : Grid) : List Nat :=
  let pod := podOf s g
  if pod.isEmpty then List.range (gridTeams g)
  else (List.range (gridTeams g)).filter fun t => pod.getD (t % pod.length) 0 == s.firm.devNum

/-- Whether a core's log holds a record or a token of a team. -/
def sporHas (s : State) (core tid : Nat) : Bool :=
  (coreOf s core).spor.any fun e => match e with
    | .entry r => r.maker.any fun m => m.1 == tid
    | .token _ t => t == tid

/-- The teams of a grid in whose cores' logs the commit that ends it places a token: one team for each core whose log
holds something of the grid, and the team that ends last (R154, R168). -/
def endTokens (s : State) (g : Grid) (last : Nat) : List Team :=
  let ts := s.work.teams.filter fun t => t.grid == g.uid && t.resp.isNone
  let live := ts.filter fun t => t.uid == last || sporHas s t.core t.uid
  live.foldl (fun l t => if l.any fun x => x.core == t.core then l else l ++ [t]) []

/-- Place the commit that ends a grid unit, when its last team ends: tokens behind the records of its cores (R162, R168).
-/
def endGridUnit (s : State) (g : Grid) (last : Nat) : State :=
  let ts := s.work.teams.filter fun t => t.grid == g.uid && t.resp.isNone
  let toks := endTokens s g last
  let c0 := newCommit s.nextId .endGrid 0 g.ctx g.uid last g.tag.toList
  let c := { c0 with tokens := toks.map fun t => t.uid
                     census := (ts.flatMap fun t => t.d.popped.map fun p => p.1).dedup }
  let s := bumpId (putCommit s c)
  toks.foldl (fun s t => updCore s t.core fun k => { k with spor := k.spor ++ [.token c.id t.uid] }) s

/-- Whether an unfinished copy of a team writes a buffer of its own (R211). -/
def writesOwn (tid : Nat) (c : Copy) : Bool :=
  !c.done && (c.owner.map fun o => o.1) == some tid &&
    (match c.kind with
     | .toa => true
     | .tows _ => true
     | .multicast _ l => l.any fun x => x.1 == tid
     | _ => false)

/-- Whether a team does not end yet though its parties have: a copy of its own still writes its buffers (R211). -/
def copyPins (s : State) (tid : Nat) : Bool := s.work.copies.any (writesOwn tid)

/-- Whether the A-buffer and the tiles of a team that has ended are still in use: an LDA, STA, LDC or STC without a flag
is in flight, which EXIT does not wait for, or a copy of the team reads its A-buffer (R57, R140). -/
def bufPins (s : State) (tid : Nat) : Bool :=
  (s.work.ops.any fun o => o.tid == tid && (match o.kind with
    | .abuf _ _ _ _ _ => true
    | .cbuf _ _ _ _ => true
    | _ => false)) ||
  s.work.copies.any fun c => !c.done && (c.owner.any fun o => o.1 == tid) && (match c.kind with
    | .froma => true
    | .pmem a => a
    | .pwin a => a
    | _ => false)

/-- Whether a copy still writes slots of a team that has ended (R242, R258). -/
def castPins (s : State) (tid : Nat) : Bool :=
  s.work.copies.any fun c => !c.done && (match c.kind with | .multicast _ l => l.any (fun x => x.1 == tid) | _ => false)

/-- A team ends (R57, R168): its windows end, its grid counts it, and its commit unit's implicit commit is placed. A
responder's and a reduce team's endings are events of their own. -/
def endTeam (s : State) (tid : Nat) : State :=
  match teamOf s tid with
  | none => s
  | some t =>
    let s := updTeam s tid fun t => { t with ended := true, wins := [] }
    if t.resp.isSome then s
    else
      let s := updGrid s t.grid fun g => { g with ended := t.teamId :: g.ended }
      if !t.d.gridUnit then (placeCommit s tid .endTeam none none).1
      else match gridOf s t.grid with
        | some g => if g.ended.length = (localTeams s g).length then endGridUnit s g tid else s
        | none => s

/-- Whether the token of the commit that a team's end places finds room: its own commit's in its core's log, or that of a
grid's last team in each log where it stands (R154, R168). -/
def endRoom (s : State) (t : Team) : Bool :=
  t.resp.isSome ||
    (if !t.d.gridUnit then sporRoom s t.core != 0
     else match gridOf s t.grid with
       | some g => decide (g.ended.length + 1 < (localTeams s g).length) ||
           (endTokens s g t.uid).all fun k => sporRoom s k.core != 0
       | none => true)

/-- Whether a team ends now: its parties have ended, and no copy of its own still writes its buffers (R57, R211). -/
def teamEnds (s : State) (t : Team) : Bool := partiesEnded t && !t.ended && !copyPins s t.uid

/-- A team ends with its last party, or with the last copy that writes its buffers (R57, R211). -/
def partyEnded (s : State) (tid : Nat) : State :=
  match teamOf s tid with
  | some t => if teamEnds s t then endTeam s tid else s
  | none => s

/-- Whether a party of a team may end: where that ends the team, its commit's token finds room (R57, R154). `p` is the
team with the party ended. -/
def exitRoom (s : State) (p : Team) : Bool := !teamEnds s p || endRoom s p

/-- Whether a copy may complete or fail: where that ends its team, the commit's token finds room (R154, R211). -/
def copyEndRoom (s : State) (c : Copy) : Bool :=
  match c.owner.bind fun o => teamOf s o.1 with
  | none => true
  | some t => exitRoom { s with work := { s.work with copies := s.work.copies.filter fun x => x.id != c.id } } t

/-- The team of a copy that has completed or failed ends, where that is what it waited for (R211). -/
def copyEnded (s : State) (c : Copy) : State :=
  match c.owner with
  | some o => partyEnded s o.1
  | none => s

/-! ### EXIT -/

/-- A group ends; in the handler, the halted parties of the team go on (R57, R397). -/
def endGroup (s : State) (tid : Nat) (g : Group) : State :=
  let s := updGroup s tid g.gid fun k => { k with ended := true, t := { k.t with inHandler := false } }
  let s := if g.t.inHandler then resumeTeam s tid else s
  partyEnded s tid

/-- EXIT of a group: held until every flag is clear (R57). -/
def groupExit (row : String) (h : Hdr) (s : State) : Host.Outcome State Fault Refusal :=
  issue (ctlIss row h) (fun c s1 =>
    if !flagsClear c.g || !exitRoom s1 (c.t.updGroup c.gid fun k => { k with ended := true }) then .held
    else .stop (endGroup (retireOnly (ctlIss row h) c s1 c.next 0) c.tid c.g)) s

/-- EXIT of a stream: held until every matrix instruction has completed; with a loop open it raises MLOOPBAD (R197,
R208). -/
def streamExit (row : String) (len : Nat) (s : State) : Host.Outcome State Fault Refusal :=
  streamIssue row len noWait (fun c s1 =>
    if !c.m.loops.isEmpty then c.trap .mloopbad
    else if !c.m.mops.isEmpty || !c.m.drains.isEmpty || !exitRoom s1 { c.t with stream := some { c.m with ended := true } } then
      .held
    else .wait (partyEnded (updStream s1 c.tid fun m => { m with ended := true, pc := m.pc + BitVec.ofNat 64 len }) c.tid)) s

/-- Whether the party of the state is a matrix stream. -/
def onStream (s : State) : Bool :=
  match s.cur with
  | some (.stream _) => true
  | _ => false

def execExit (h : Hdr) (s : State) : Host.Outcome State Fault Refusal :=
  if onStream s then streamExit "EXIT" 4 s else groupExit "EXIT" h s

def execExitExt (h : Hdr) (s : State) : Host.Outcome State Fault Refusal :=
  if onStream s then streamExit "EXIT_EXT" 12 s else groupExit "EXIT_EXT" h s

/-! ### NOP -/

/-- NOP counts as an issue (R56). -/
def execNop (h : Hdr) (s : State) : Host.Outcome State Fault Refusal :=
  if onStream s then streamIssue "NOP" 4 noWait (fun _ s1 => .done s1 0) s
  else issue (ctlIss "NOP" h) (fun _ s1 => .done s1) s

/-! ### Words that decoding refuses -/

/-- A decode cause at a group's issue: precise, on its active lanes (R26); `guard` where the word is a lane
instruction's. -/
def groupReject (h : Hdr) (lane : Bool) (k : Cause) (s : State) : Host.Outcome State Fault Refusal :=
  issue { row := "UNASSIGNED_OPCODE", h := { h with guard := if lane then h.guard else none }, lane := lane }
    (fun c _ => .trap { cause := k, mask := if lane then c.act else c.em }) s

/-- A decode cause of a stream (R38, R196). -/
def streamReject (k : Cause) (s : State) : Host.Outcome State Fault Refusal :=
  streamIssue "UNASSIGNED_OPCODE" 4 noWait (fun c _ => c.trap k) s

/-- A word whose major opcode is unassigned traps ILLOP (R26, R37). -/
def execUnassignedOpcode (w : BitVec 32) (s : State) : Host.Outcome State Fault Refusal :=
  if onStream s then streamReject .illop s
  else groupReject { form := formOf w.toNat, dist := distOf w.toNat, fs := false, guard := none } false .illop s

end Sys2Proof.Machine
end

