-- ==== Sys2Proof/Machine/Copies.lean ====
section
/-!
DEFINITION. Copies: the instructions that issue them, their command forming, pieces, completion and failure; batches,
windows and the operand fence (R209 to R215, R255 to R264, R382, R423 to R425).
-/

namespace Sys2Proof.Machine

/-! ### Activity budgets (R382) -/

/-- Whether a context's bucket of a class lets a unit of work start; a rate of 0 is no limit. -/
def mayCharge (s : State) (ctx k : Nat) : Bool :=
  match ctxOf s ctx with
  | some c => vget c.rates k == 0 || decide (0 < vget c.buckets k)
  | none => true

/-- Take a whole charge, even below zero. -/
def charge (s : State) (ctx k n : Nat) : State :=
  updCtx s ctx fun c => if vget c.rates k = 0 then c else { c with buckets := vset c.buckets k (vget c.buckets k - n) }

/-! ### Addresses of engines -/

/-- The cause of a counter address of an engine (R261), or its memory key. -/
def engineCounter (s : State) (ctx : Nat) (a : Dword) : Except (BitVec 9) Nat :=
  if a.toNat % 8 != 0 then .error (causeCode .misaln)
  else match xlate s none ctx a.toNat false true false with
    | .bad c _ => .error c
    | .at k _ dfr _ => if dfr then .error (causeCode .defeng) else .ok k

/-- The cause of a destination element of an engine (R150, R210), or its memory key. -/
def engineDest (s : State) (ctx va : Nat) : Except (BitVec 9) Nat :=
  match xlate s none ctx va false true false with
  | .bad c _ => .error c
  | .at k _ dfr _ => if dfr then .error (causeCode .defeng) else .ok k

/-- Add to a counter, or set its poison mark (R127, R184). -/
def addCounter (s : State) (key amount : Nat) (poison : Bool) : State :=
  { s with mem := memPut s.mem key 8 (counterAdd (memNat s.mem key 8) amount poison) }

/-- The same, or once the counter's home no longer holds it back (R164, R342). -/
def addLater (s : State) (key amount : Nat) (poison : Bool) : State :=
  if homeWaits s key then { s with work := { s.work with later := s.work.later ++ [(key, amount, poison)] } }
  else addCounter s key amount poison

/-- Poison a counter without adding (R127, R211). -/
def poisonAt (s : State) (ctx : Nat) (a : Dword) : State :=
  match engineCounter s ctx a with
  | .ok k => addLater s k 0 true
  | .error _ => s

/-- Add 1 to a counter that still maps (R184). -/
def addAt (s : State) (ctx : Nat) (a : Dword) : State :=
  match engineCounter s ctx a with
  | .ok k => addLater s k 1 false
  | .error _ => s

/-- What counters' homes have held back is added where they do so no longer. -/
def addsDue (s : State) : State :=
  s.work.later.foldl (fun s x => addLater s x.1 x.2.1 x.2.2) { s with work := { s.work with later := [] } }

/-- Whether the home of a counter holds the add back (R164, R342). -/
def counterWaits (s : State) (ctx : Nat) (a : Dword) : Bool :=
  match engineCounter s ctx a with
  | .ok k => homeWaits s k
  | .error _ => false

/-! ### Elements of a box (R209, R210) -/

/-- The coordinates of packed element j: c_d + i_d (R210). -/
def Layout.at (l : Layout) (coord : List Int) (j : Nat) : List Int :=
  let b (d : Nat) := l.box.getD d 1
  let i := [j % b 0, j / b 0 % b 1, j / (b 0 * b 1) % b 2, j / (b 0 * b 1 * b 2)]
  (List.range 4).map fun d => (if d < l.rank then coord.getD d 0 else 0) + (i.getD d 0 : Nat)

/-- Whether element j lies inside the extents (R210). -/
def Layout.inside (l : Layout) (coord : List Int) (j : Nat) : Bool :=
  let c := l.at coord j
  (List.range 4).all fun d => decide (0 ≤ c.getD d 0 ∧ c.getD d 0 < (l.ext.getD d 1 : Nat))

/-- The tensor address of element j (R210). -/
def Layout.addr (l : Layout) (coord : List Int) (j : Nat) : Nat :=
  let c := l.at coord j
  (l.base + BitVec.ofInt 64 ((List.range 4).foldl (fun a d => a + c.getD d 0 * l.str.getD d 0) 0)).toNat

/-- Whether some element of the box lies outside the extents. -/
def Layout.leaves (l : Layout) (coord : List Int) : Bool :=
  (List.range 4).any fun d =>
    let c := if d < l.rank then coord.getD d 0 else 0
    decide (c < 0 ∨ (l.ext.getD d 1 : Int) < c + (l.box.getD d 1 : Nat))

/-! ### Windows (R214) -/

/-- AEXPORT: the window takes the lowest number free on its core (R214). -/
def execAexport (h : Hdr) (d a b : Nat) (s : State) : Host.Outcome State Fault Refusal :=
  issue (uniMem "AEXPORT" h true) (fun c s1 =>
    let lo := (c.s a).toNat
    let n := (c.s b).toNat
    if n = 0 || c.t.al.asize < lo + n || 4 ≤ c.t.wins.length then emTrap c .aexpbad
    else
      match (List.range 4).find? fun k => (windowOf s1 c.t.core k).isNone with
      | none => .held
      | some k =>
        let v : Dword := BitVec.ofNat 64 (s1.firm.devNum * 2 ^ 33 + c.t.core * 2 ^ 23 + k * 2 ^ 21)
        let s2 := updTeam s1 c.tid fun t => { t with wins := t.wins ++ [⟨k, lo, n⟩] }
        .done (startOp c (.regs [.s d v]) s2)) s

/-- AEXPORT.rev (R214). -/
def execAexportRev (h : Hdr) (a : Nat) (s : State) : Host.Outcome State Fault Refusal :=
  issue (uniMem "AEXPORT_REV" h false) (fun c s1 =>
    let v := (c.s a).toNat
    let mine := match handleParts v with
      | some (dev, core, k) => dev == s1.firm.devNum && core == c.t.core && v % 2 ^ 21 == 0 && c.t.wins.any fun w => w.num == k
      | none => false
    if !mine then emTrap c .aexpbad
    else
      let k := bitsAt v 21 2
      .done (startOp c (.aexportRev k) (updTeam s1 c.tid fun t => { t with wins := t.wins.filter fun w => w.num != k }))) s

/-! ### The operand fence and batches (R213, R215) -/

/-- OPFENCE (R215). -/
def execOpfence (h : Hdr) (s : State) : Host.Outcome State Fault Refusal :=
  issue (uniMem "OPFENCE" h false) (fun c s1 => .done (startOp c .opfence (holdMem c s1))) s

/-- CBATCH (R144, R213). Batch numbers wrap from 0xFFFF_FFFF to 1. -/
def execCbatch (h : Hdr) (d : Nat) (s : State) : Host.Outcome State Fault Refusal :=
  issue { row := "CBATCH", h := h, mem := true } (fun c s1 =>
    let b : BitVec 32 := if c.g.e.batch = -1 then 1 else c.g.e.batch + 1
    let s2 := updGroup s1 c.tid c.gid fun g =>
      { g with e := { g.e with batch := b, batches := g.e.batches ++ [⟨b, g.e.pendCopies⟩], pendCopies := [] } }
    .done (pendWrs c 2 [.s d (b.setWidth 64)] s2)) s

/-- Batch x is newer than batch y (R213). -/
def newer (x y : BitVec 32) : Bool := decide (1 ≤ (x - y).toNat ∧ (x - y).toNat < 2 ^ 31)

/-- CWAITB (R213). -/
def execCwaitb (h : Hdr) (d : Nat) (n : Src) (s : State) : Host.Outcome State Fault Refusal :=
  issue (uniMem "CWAITB" h true) (fun c s1 =>
    let k : BitVec 32 := (c.srcS n).setWidth 32
    if k != 0 && newer k c.g.e.batch then emTrap c .cbfut
    else .done (startOp c (.cwaitb d k) (holdMem c s1))) s

/-- A copy with a number. -/
def copyOf (s : State) (id : Nat) : Option Copy := s.work.copies.find? fun c => c.id == id

/-- Whether every copy of a batch has completed or failed, and whether one failed. -/
def batchDone (s : State) (b : Batch) : Bool := b.copies.all fun n => match copyOf s n with | some c => c.done | none => true
def batchFailed (s : State) (b : Batch) : Bool :=
  b.copies.any fun n => match copyOf s n with | some c => c.failed.isSome | none => false

/-- CWAITB, AEXPORT.rev or OPFENCE completes (R213 to R215). -/
def copySideFinish (s : State) (o : Op) : Option State :=
  match whoOf s o with
  | none => none
  | some w =>
    match o.kind with
    | .cwaitb d n =>
      if n = 0 then some (endOp (writeNow s o [.sp d false]) o)
      else
        let upTo := w.g.e.batches.filter fun b => !newer b.num n
        if upTo.all (batchDone s) then
          let bad := upTo.any fun b => newer b.num w.g.e.rb && batchFailed s b
          let s := bringCopies (writeNow s o [.sp d bad]) o.tid o.gid (upTo.flatMap fun b => b.copies)
          let s := acquireL1 s w.core w.ctx 1
          some (endOp (updGroup s o.tid o.gid fun g =>
            { g with e := { g.e with rb := if newer n g.e.rb then n else g.e.rb } }) o)
        else none
    | .aexportRev _ => some (endOp s o)
    | .opfence =>
      let waits := (earlier s o).any fun x => match x.kind with
        | .abuf _ _ _ _ _ => true
        | .cbuf _ _ _ _ => true
        | _ => false
      if waits then none
      else some (endOp (fenceWrites s o.tid o.gid o.id) o)
    | _ => none

/-! ### Issue (R210, R256, R258) -/

/-- A core's commands that still hold unstarted pieces (R256). -/
def hasUnstarted (c : Copy) : Bool :=
  !c.done && c.failed.isNone && (match c.form with | none => true | some _ => decide (c.started < c.total))

/-- Whether a core's copy queue has room for a command (R256). -/
def copyRoom (s : State) (core : Nat) : Bool :=
  decide ((s.work.copies.filter fun c => c.core == core && hasUnstarted c).length < 32)

/-- The coordinates of a copy (R210). -/
def copyCoord (c : Ctl) (x : CopyArg) : List Int :=
  let w := (c.s x.coord).toNat
  [sextNat 32 (w % 2 ^ 32), sextNat 32 (w / 2 ^ 32), x.c2, x.c3]

/-- Issue a copy: once if any lane is active (R210). Its flag counts its acceptance (R212). -/
def copyIssue (row : String) (h : Hdr) (x : CopyArg) (dst : Ctl → Dword) (slot : Option Nat) (kind : Ctl → State → CKind)
    (s : State) : Host.Outcome State Fault Refusal :=
  issue { row := row, h := h, lane := true, ll := true, wr := false, mem := true } (fun c s1 =>
    if c.act = 0 then .done s1
    else if (match slot with | some w => decide (c.t.al.slots.length ≤ w) | none => false) then emTrap c .wslot
    else if !copyRoom s1 c.t.core then .held
    else
      let id := s1.nextId
      let k : Copy :=
        { id := id, ctx := c.t.ctx, owner := some (c.tid, c.gid), node := none, core := c.t.core, kind := kind c s1
          dst := dst c, lay := c.s x.lay, coord := copyCoord c x, ctr := x.ctr.map fun n => (c.s n, x.scope)
          op := some (id + 1), pc := c.pc, form := none, started := 0, running := [], total := 0, failed := none, ack := false
          adds := false, done := false, issued := c.u }
      let s2 := bumpId { s1 with work := { s1.work with copies := s1.work.copies ++ [k] } }
      let s3 := updGroup s2 c.tid c.gid fun g => { g with e := { g.e with pendCopies := g.e.pendCopies ++ [id] } }
      .done (startOp c (.copy id) (bringTo s3 c.tid c.gid id (.copy id)))) s

/-- COPY (R210). -/
def execCopy (h : Hdr) (mode d : Nat) (side : Bool) (x : CopyArg) (s : State) : Host.Outcome State Fault Refusal :=
  let ws := mode = 2
  copyIssue "COPY" h x (fun c => if ws then BitVec.ofNat 64 d else c.s d) (if ws then some d else none)
    (fun _ _ => match mode with | 0 => .toa | 1 => .froma | 2 => .tows side | _ => .mem) s

/-- The target teams of a multicast, fixed at issue (R258). -/
def castTargets (s : State) (t : Team) (ws : Nat) (m : BitVec 8) : List (Nat × Nat) :=
  (s.work.teams.filter fun x => !x.ended && x.grid == t.grid && x.core / 8 == t.core / 8 && m.getLsbD (x.core % 8) &&
    x.resp.isNone && decide (ws < x.al.slots.length)).map fun x => (x.uid, ws)

/-- COPYM (R210, R258). -/
def execCopym (h : Hdr) (ws : Nat) (side : Bool) (m : BitVec 8) (x : CopyArg) (s : State) :
    Host.Outcome State Fault Refusal :=
  copyIssue "COPYM" h x (fun _ => BitVec.ofNat 64 ws) (some ws)
    (fun c s1 => .multicast side (castTargets s1 c.t ws m)) s

/-- COPYP (R210, R262). -/
def execCopyp (h : Hdr) (mode d : Nat) (srca : Bool) (x : CopyArg) (s : State) : Host.Outcome State Fault Refusal :=
  copyIssue "COPYP" h x (fun c => c.s d) none (fun _ _ => if mode = 0 then .pmem srca else .pwin srca) s

/-- COPYH (R210, R264). -/
def execCopyh (h : Hdr) (mode d : Nat) (x : CopyArg) (s : State) : Host.Outcome State Fault Refusal :=
  copyIssue "COPYH" h x (fun c => c.s d) none (fun _ _ => if mode = 0 then .toh else .fromh) s

/-! ### Forming a command (R209 to R212, R255, R261, R262, R425) -/

/-- Change a copy. -/
def updCopy (s : State) (id : Nat) (f : Copy → Copy) : State :=
  { s with work := { s.work with copies := s.work.copies.map fun c => if c.id = id then f c else c } }

/-- Whether the tensor side is the A-buffer. -/
def tensorInA : CKind → Bool
  | .froma | .pmem true | .pwin true => true
  | _ => false

/-- The host window that holds a packed side (R264). -/
def hostWindow (s : State) (c : Copy) (n : Nat) : Option HWin :=
  s.host.wins.find? fun w => w.ctx == c.ctx && decide (w.p.base.toNat ≤ c.dst.toNat ∧ c.dst.toNat + n ≤ w.p.base.toNat + w.p.len)

/-- Whether a tensor element lies on a page of the frame class (R423). -/
def onFPage (s : State) (ctx va : Nat) : Bool := match leafAt s ctx va with | some l => l.f | none => false

/-- Whether a host copy reads a page of the frame class. -/
def readsF (s : State) (c : Copy) (l : Layout) : Bool :=
  (List.range l.count).any fun j => l.inside c.coord j && onFPage s c.ctx (l.addr c.coord j)

/-- The device that a peer copy writes (R262). -/
def peerDev (s : State) (c : Copy) : Option Nat :=
  match c.kind with
  | .pmem _ => match xlate s none c.ctx c.dst.toNat false true false with
    | .at k _ _ _ => some (keyDev k)
    | .bad _ _ => none
  | .pwin _ => (handleParts c.dst.toNat).map fun p => p.1
  | _ => none

/-- Whether an address of a context lies on a P page. -/
def onPPage (s : State) (ctx va : Nat) : Bool := match leafAt s ctx va with | some l => l.p | none => false

/-- The counter's cause (R261), with that of a peer copy whose counter is not on a P page of the destination's device
(R262). -/
def ctrCause (s : State) (c : Copy) : Option (BitVec 9) :=
  match c.ctr with
  | none => none
  | some (a, _) =>
    match engineCounter s c.ctx a with
    | .error e => some e
    | .ok k =>
      match c.kind with
      | .pmem _ | .pwin _ =>
        if peerDev s c = some (keyDev k) && onPPage s c.ctx a.toNat then none else some (causeCode .dperm)
      | _ => none

/-- The limit and alignment of the packed side (R210, R255, R264). -/
def packedCause (s : State) (c : Copy) (l : Layout) : Option (BitVec 9) :=
  let n := l.bytes
  let d := c.dst.toNat
  let asize := ((c.owner.bind fun o => teamOf s o.1).map fun t => t.al.asize).getD 0
  let limit : Option (BitVec 9) :=
    match c.kind with
    | .toa => if asize < d + n then some (causeCode .abound) else none
    | .tows side | .multicast side _ => if (if side then 512 else 16384) < n then some (causeCode .abound) else none
    | .froma => none
    | .mem | .pmem _ => if 2 ^ 32 < n then some (causeCode .abound) else none
    | .pwin _ =>
      match handleParts d with
      | none => some (causeCode .dperm)
      | some (dev, core, k) =>
        if dev != s.firm.devNum then (if 2 ^ 21 < d % 2 ^ 21 + n then some (causeCode .abound) else none)
        else match windowOf s core k with
          | none => some (causeCode .dperm)
          | some (_, w) => if w.len < d % 2 ^ 21 + n then some (causeCode .abound) else none
    | .toh | .fromh =>
      if (hostWindow s c n).isNone then some (causeCode .dperm)
      else if 2 ^ 32 < n then some (causeCode .abound) else none
  let align : Option (BitVec 9) :=
    match c.kind with
    | .tows _ | .multicast _ _ => none
    | _ => if d % l.esz != 0 then some (causeCode .misaln) else none
  align.or limit

/-- The first element of a box, in packed order, whose tensor-side address is no multiple of the element size: the first
of all, or the first step along a dimension whose stride is none (R255). -/
def misElem (l : Layout) (coord : List Int) : Option Nat :=
  if l.addr coord 0 % l.esz != 0 then some 0
  else ((List.range l.rank).find? fun i => l.box.getD i 1 != 1 && l.str.getD i 0 % l.esz != 0).map fun i =>
    (l.box.take i).foldl (· * ·) 1

/-- The causes of a well-formed record that are known before any piece: an element outside the extents, a misaligned
element, the packed side, F data that cannot be marked. DESIGN CHOICE: of several the first in this order is reported, and
COPYOOB carries the layout record's address (R211 names neither; log entry 39). -/
def formCause (s : State) (c : Copy) (l : Layout) : Option (BitVec 9 × Nat) :=
  if !l.oobz && l.leaves c.coord then some (causeCode .copyoob, c.lay.toNat)
  else match misElem l c.coord, packedCause s c l with
    | some j, _ => some (causeCode .misaln, l.addr c.coord j)
    | none, some k => some (k, c.dst.toNat)
    | none, none =>
      match c.kind with
      | .toh =>
        if readsF s c l then
          let ring := ((hostWindow s c l.bytes).map fun w => w.p.ring.isSome).getD false
          let on := ((ctxOf s c.ctx).map fun x => x.mark).getD false
          if ring && on then none else some (causeCode .dperm, c.dst.toNat)
        else none
      | _ => none

/-- Lower the flag that a copy or collective took (R212, R267). -/
def endCopyOp (s : State) (op : Option Nat) : State :=
  match op.bind (opOf? s) with
  | some o => endOp s o
  | none => s

/-- The pieces of a formed command; a multicast with no target has none (R256, R258). -/
def pieces (c : Copy) (l : Layout) : Nat :=
  match c.kind with
  | .multicast _ [] => 0
  | _ => ceilDiv l.bytes 4096

/-- COPY_COMMAND_FORM: the counter is checked, the layout record read at its home, the command formed, and its flag
falls; or the command fails before any piece (R210 to R212, R255, R261). -/
def execCopyCommandForm (id : Nat) (s : State) : Host.Outcome State Fault Refusal :=
  match copyOf s id with
  | none => .fault (.notEnabled "COPY_COMMAND_FORM")
  | some c =>
    if c.form.isSome || c.failed.isSome || c.done || relPending s c.owner c.id then
      .fault (.notEnabled "COPY_COMMAND_FORM")
    else
      let fail (f : Copy → Copy) (k : BitVec 9) (a : Nat) : Host.Outcome State Fault Refusal :=
        .next (endCopyOp (updCopy s id fun x => { f x with failed := some (k, BitVec.ofNat 64 a) }) c.op)
      match ctrCause s c with
      | some k => fail (fun x => { x with ctr := none }) k ((c.ctr.map fun p => p.1.toNat).getD 0)
      | none =>
        if c.lay.toNat % 64 != 0 then fail (fun x => x) (causeCode .copyoob) c.lay.toNat
        else match homeKey s c.ctx c.lay.toNat false with
          | .error k => fail (fun x => x) k c.lay.toNat
          | .ok key =>
            if homeWaits s key then .fault (.notEnabled "COPY_COMMAND_FORM")
            else
              let l := layoutOf (memGetN s.mem key 64)
              if !l.ok then fail (fun x => x) (causeCode .copyoob) c.lay.toNat
              else match formCause s c l with
                | some (k, a) => fail (fun x => x) k a
                | none => .next (endCopyOp (updCopy s id fun x => { x with form := some l, total := pieces c l }) c.op)

/-! ### Pieces (R255 to R258, R262, R264, R424) -/

/-- The packed elements of piece p. -/
def pieceElems (l : Layout) (p : Nat) : List Nat :=
  let n := 4096 / l.esz
  (List.range (min n (l.count - p * n))).map fun i => p * n + i

/-- Whether a copy's packed side is on the host. -/
def Copy.onHost (c : Copy) : Bool := c.kind == .toh || c.kind == .fromh

/-- How far packed byte q of a copy is. -/
def Copy.byteAt (c : Copy) (q : Nat) : PByte :=
  if c.started ≤ q / 4096 then .unread
  else match c.running.find? fun r => r.piece == q / 4096 with
    | some r => r.bytes.getD (q % 4096) .put
    | none => .put

/-- Change the packed bytes of a copy's running pieces; a piece that is all written has ended. -/
def Copy.setBytes (c : Copy) (f : Nat → PByte → PByte) : Copy :=
  let run (r : PieceRun) : PieceRun := { r with bytes := r.bytes.zipIdx.map fun x => f (4096 * r.piece + x.2) x.1 }
  { c with running := (c.running.map run).filter fun r => r.bytes.any fun b => b != .put }

/-- Bytes that a command reads at a home: those of its team's drains that no device-scope release has published are seen
or missed, together and freely (R185, R310). -/
def seenBytes (s : State) (c : Copy) (key : Nat) (b : List Byte) : List Byte :=
  let missed (x : Byte × Nat) : Option Drained :=
    s.work.drained.find? fun d => d.key == key + x.2 && d.new == x.1 && c.owner.any fun o => o.1 == d.tid
  if s.work.drained.isEmpty || Config.freeBit s.fresh then b
  else b.zipIdx.map fun x => ((missed x).map fun d => d.old).getD x.1

/-- The bytes of a tensor element at its home or in the A-buffer, or its cause (R210, R255). -/
def readElem (s : State) (c : Copy) (t : Option Team) (l : Layout) (j : Nat) : Except (BitVec 9 × Nat) (List Byte) :=
  if !l.inside c.coord j then .ok (List.replicate l.esz 0)
  else
    let a := l.addr c.coord j
    if a % l.esz != 0 then .error (causeCode .misaln, a)
    else if tensorInA c.kind then
      match t with
      | some t =>
        if t.al.asize < a + l.esz then .error (causeCode .abound, a)
        else if races t (.copy c.id) (.abuf a l.esz) then .ok (freeRun s.fresh (j * l.esz) l.esz)
        else .ok (abufGet s t a l.esz)
      | none => .error (causeCode .abound, a)
    else match homeKey s c.ctx a false with
      | .error k => .error (k, a)
      | .ok key => .ok (seenBytes s c key (memGetN s.mem key l.esz))

/-- All of a list's results, or the first cause. -/
def allOk {α β : Type} (f : α → Except (BitVec 9 × Nat) β) : List α → Except (BitVec 9 × Nat) (List β)
  | [] => .ok []
  | x :: r =>
    match f x with
    | .error e => .error e
    | .ok y =>
      match allOk f r with
      | .error e => .error e
      | .ok ys => .ok (y :: ys)

/-- The elements that are read with element j of piece p: those of the piece, not yet read, in one aligned 16-byte chunk
of the tensor side (R371). -/
def chunkElems (c : Copy) (l : Layout) (p j : Nat) : List Nat :=
  (pieceElems l p).filter fun i => c.byteAt (i * l.esz) == .unread && l.addr c.coord i / 16 == l.addr c.coord j / 16

/-- The memory key at which an element of the tensor side is read, if it is read at a home and translates. -/
def srcKey (s : State) (c : Copy) (l : Layout) (j : Nat) : Option Nat :=
  if tensorInA c.kind then none else (homeKey s c.ctx (l.addr c.coord j) false).toOption

/-- Where packed byte q goes, counted in its destination: an address, an offset in a buffer or in a slot. -/
def destAt (s : State) (c : Copy) (l : Layout) (q : Nat) : Nat :=
  match c.kind with
  | .fromh => l.addr c.coord (q / l.esz) + q % l.esz
  | .tows _ | .multicast _ _ => q
  | .pwin _ =>
    let lo := match handleParts c.dst.toNat with
      | some (_, core, k) => ((windowOf s core k).map fun x => x.2.lo).getD 0
      | none => 0
    lo + c.dst.toNat % 2 ^ 21 + q
  | _ => c.dst.toNat + q

/-- The memory key at which packed byte q is written, if it is written at a home and translates. -/
def dstKey (s : State) (c : Copy) (l : Layout) (q : Nat) : Option Nat :=
  match c.kind with
  | .froma | .mem | .pmem _ | .fromh => (homeKey s c.ctx (destAt s c l q) true).toOption
  | _ => none

/-- The memory keys that a copy's running pieces have still to read or write. -/
def copyKeys (s : State) (c : Copy) (l : Layout) : List Nat :=
  c.running.flatMap fun r => r.bytes.zipIdx.filterMap fun x =>
    let q := 4096 * r.piece + x.2
    match x.1 with
    | .unread => srcKey s c l (q / l.esz)
    | .got _ => dstKey s c l q
    | .put => none

/-- Whether the tensor and packed bytes of a .mem copy overlap (R257). -/
def selfOverlap (s : State) (c : Copy) (l : Layout) : Bool :=
  let key (va : Nat) (w : Bool) : Option Nat := (homeKey s c.ctx va w).toOption
  let dsts := (List.range l.count).filterMap fun j => key (c.dst.toNat + j * l.esz) true
  c.kind == .mem && (List.range l.count).any fun j => l.inside c.coord j &&
    (match key (l.addr c.coord j) false with
     | some k => dsts.any fun d => decide (k < d + l.esz ∧ d < k + l.esz)
     | none => false)

/-- The bytes of the destination that are written in one step: an aligned 32-bit word (R178), and a whole 8-byte element
where another lands on the same place, since that place ends with one of them (R255). -/
def unitAt (c : Copy) (l : Layout) (q : Nat) : Nat :=
  let j := q / l.esz
  if c.kind == .fromh && l.esz == 8 && (List.range l.count).any (fun i =>
      i != j && l.inside c.coord i && l.addr c.coord i == l.addr c.coord j) then 8 else 4

/-- The packed bytes that go into the destination's word with packed byte q: near it, as the packed side is dense, or
anywhere in the box. -/
def wordBytes (s : State) (c : Copy) (l : Layout) (q : Nat) : List Nat :=
  let u := unitAt c l q
  let near := if c.kind == .fromh then (List.range l.bytes).filter fun x => l.inside c.coord (x / l.esz)
    else (List.range 7).filterMap fun i => if 3 ≤ q + i ∧ q + i - 3 < l.bytes then some (q + i - 3) else none
  near.filter fun x => destAt s c l x / u == destAt s c l q / u

/-- The packed bytes that are written with packed byte q, one for each byte of the word that the copy has not written yet:
q's own element, elsewhere any that has been read. None while one of them has not been read. -/
def wordWrite (s : State) (c : Copy) (l : Layout) (q : Nat) : Option (List Nat) :=
  let u := unitAt c l q
  let ws := wordBytes s c l q
  let got (x : Nat) : Bool := match c.byteAt x with | .got _ => true | _ => false
  let pick (a : Nat) : Option (List Nat) :=
    let l' := ws.filter fun x => destAt s c l x == a
    match l'.find? fun x => got x && x / l.esz == q / l.esz with
    | some x => some [x]
    | none =>
      if l'.isEmpty || l'.any (fun x => c.byteAt x == .put) then some []
      else (l'.find? got).map fun x => [x]
  if got q then ((List.range u).mapM fun i => pick (destAt s c l q / u * u + i)).map List.flatten else none

/-- A packed byte that has been read. -/
def Copy.val (c : Copy) (q : Nat) : Byte := match c.byteAt q with | .got b => b | _ => 0

/-- Write a region of a team's buffer by a copy or a peer: matrix instructions that read it before their phase become
undefined, and the write is noted (R198, R253). -/
def writeRegion (s : State) (t : Team) (src : BufParty) (r : Region) (f : State → State) : State :=
  noteWrite (f (spoilWritten s t r)) t.uid src 0 (some 0) r

/-- Write a slot of a team. -/
def castSlot (s : State) (src : BufParty) (tid slot : Nat) (side : Bool) (b : List (Nat × Byte)) : State :=
  match teamOf s tid with
  | some t =>
    if t.ended then s
    else writeRegion s t src (.slot slot) fun s =>
      b.foldl (fun s x => slotPut s t slot ((if side then 16384 else 0) + x.1) [x.2]) s
  | none => s

/-- A frame sent to a host window: its remote key, then the address and the bytes (R264). -/
def sendHost (s : State) (w : HWin) (a : Nat) (b : List Byte) : State :=
  { s with host := { s.host with out := (w.p.rkey, bytesOfNat 8 a ++ b) :: s.host.out } }

/-- A mark record (R424). -/
def markRecord (s : State) (w : HWin) (off : Nat) (b : List Byte) : List Byte :=
  let head := bytesOfNat 8 s.firm.markSeq ++ fitBytes 16 Config.serial ++
    bytesOfNat 8 (w.p.num % 2 ^ 16 * 2 ^ 48 + b.length % 2 ^ 13 * 2 ^ 35 + off % 2 ^ 35)
  head ++ fitBytes 32 (Config.kmac256 s.firm.markKey (head ++ b))

/-- Whether a piece holds data of the frame class (R423). -/
def pieceF (s : State) (c : Copy) (l : Layout) (p : Nat) : Bool :=
  (pieceElems l p).any fun j => l.inside c.coord j && onFPage s c.ctx (l.addr c.coord j)

/-- Send a piece to the host: F data goes with its mark record, and no further than a window that has a ring, with marking
on (R264, R423 to R425). -/
def sendPiece (s : State) (c : Copy) (w : HWin) (l : Layout) (p : Nat) (b : List Byte) :
    Except (BitVec 9 × Nat) State :=
  let a := c.dst.toNat + 4096 * p
  let s1 := sendHost s w a b
  let f := pieceF s c l p
  let on := ((ctxOf s c.ctx).map fun x => x.mark).getD false
  match f, w.p.ring with
  | true, some (ring, n) =>
    if !on then .error (causeCode .dperm, a)
    else
    let s2 := sendHost s1 w (ring.toNat + 64 * (s.firm.markSeq % (n / 64))) (markRecord s w (a - w.p.base.toNat) b)
    .ok (charge { s2 with firm := { s2.firm with markSeq := s2.firm.markSeq + 1 } } c.ctx 4 b.length)
  | true, none => .error (causeCode .dperm, a)
  | false, _ => .ok s1

/-- Write packed bytes of one word of a copy's destination, by their places there (R210, R257, R258, R262). COPYP .pmem
writes a page that is no P page as any other mapped page (log entry 25). DESIGN CHOICE: COPYP .pwin whose handle names
this device itself writes the window here (R262 speaks of another device of the pod; log entry 39). -/
def writeWord (s : State) (c : Copy) (t : Option Team) (l : Layout) (q : Nat) (ws : List Nat) :
    Except (BitVec 9 × Nat) State :=
  let me := BufParty.copy c.id
  let b := ws.map fun x => (destAt s c l x, c.val x)
  let reg := Region.abuf ((b.head?.map fun x => x.1).getD 0) b.length
  match c.kind with
  | .toa => match t with
    | some t => .ok (writeRegion s t me reg fun s => b.foldl (fun s x => abufPut s t x.1 [x.2]) s)
    | none => .ok s
  | .tows side => match t with
    | some t => .ok (castSlot s me t.uid c.dst.toNat side b)
    | none => .ok s
  | .multicast side l => .ok (l.foldl (fun s x => castSlot s me x.1 x.2 side b) s)
  | .froma | .mem | .pmem _ | .fromh =>
    let a := if c.kind == .fromh then l.addr c.coord (q / l.esz) else c.dst.toNat + q / l.esz * l.esz
    match engineDest s c.ctx a with
    | .error k => .error (k, a)
    | .ok key =>
      let b := if selfOverlap s c l then b.zipIdx.map fun x => (x.1.1, Config.freeByte s.fresh x.2) else b
      .ok (bump (b.foldl (fun s x => engineStore s (key + x.1 - a) [x.2]) s))
  | .pwin _ =>
    match handleParts c.dst.toNat with
    | none => .error (causeCode .dperm, c.dst.toNat)
    | some (dev, core, k) =>
      if dev != s.firm.devNum then .ok s
      else match windowOf s core k with
        | none => .error (causeCode .dperm, c.dst.toNat)
        | some (wt, _) => .ok (writeRegion s wt me reg fun s => b.foldl (fun s x => abufPut s wt x.1 [x.2]) s)
  | .toh => .ok s

/-- Unstarted commands of a core's engine, oldest first (R256). -/
def unstartedOf (s : State) (core : Nat) : List Copy :=
  s.work.copies.filter fun c => c.core == core && hasUnstarted c

/-- Unstarted pieces of a core's engine. -/
def unstartedPieces (s : State) (core : Nat) : Nat := (unstartedOf s core).foldl (fun n c => n + (c.total - c.started)) 0

/-- Whether an engine takes the next piece of a command: the first of its own queue, or, with none of its own, of the
fullest queue of its cluster, the lowest core on ties (R256). A task node's copy is no core's own. -/
def takesPiece (s : State) (c : Copy) (core : Nat) : Bool :=
  if c.owner.isNone then true
  else
    let head := ((unstartedOf s c.core).head?.map fun x => x.id) == some c.id
    let peers := (List.range 8).map fun i => core / 8 * 8 + i
    head && (core == c.core || (core / 8 == c.core / 8 && unstartedPieces s core == 0 &&
      peers.all fun k => decide (unstartedPieces s k < unstartedPieces s c.core) ||
        (unstartedPieces s k == unstartedPieces s c.core && decide (c.core ≤ k))))

/-- The packed bytes of a piece that starts: nothing is read yet, elements outside the extents are zero, and a host
answers with the whole piece (R210, R264). -/
def firstBytes (c : Copy) (l : Layout) (p : Nat) (host : List Byte) : List PByte :=
  (pieceElems l p).flatMap fun j =>
    if c.kind == .fromh then
      if l.inside c.coord j then (slice host (j * l.esz - 4096 * p) l.esz).map PByte.got else List.replicate l.esz .put
    else List.replicate l.esz (if l.inside c.coord j then .unread else .got 0)

/-- A host copy awaits the acknowledgement of what it has sent from now on (R264). -/
def Copy.sends (c : Copy) (clock : Nat) : Copy := { c with ack := true, issued := if c.ack then c.issued else clock }

/-- An engine starts the next piece of a command: the piece is charged (R382), and a host copy whose link is down fails
(R264). -/
def startPiece (s : State) (c : Copy) (l : Layout) (host : List Byte) : State :=
  let p := c.started
  let n := (pieceElems l p).length * l.esz
  let s1 := charge s c.ctx 0 n
  let s1 := if c.onHost then charge s1 c.ctx 5 n else s1
  if c.onHost && !s.fab.ethUp then updCopy s1 c.id fun x =>
    { x with running := [], failed := some (causeCode .hwlink, c.dst + BitVec.ofNat 64 (4096 * p)) }
  else updCopy s1 c.id fun x =>
    let x := if c.kind == .fromh then x.sends s.clock else x
    ({ x with started := p + 1, running := x.running ++ [⟨p, firstBytes c l p host⟩] } : Copy).setBytes fun _ b => b

/-- What reading some elements of a piece gives: their packed bytes, or a cause (R210, R255). A write of the issuing
team's drain that no release at device scope has published may be missed (R185). -/
def readChunk (s : State) (c : Copy) (t : Option Team) (l : Layout) (js : List Nat) : Except (BitVec 9 × Nat) (List (Nat × Byte)) :=
  match allOk (readElem s c t l) js with
  | .error e => .error e
  | .ok bs => .ok ((js.zip bs).flatMap fun x => x.2.zipIdx.map fun b => (x.1 * l.esz + b.2, b.1))

/-- A copy's command ends its pieces with a cause. -/
def stopPieces (s : State) (id : Nat) (e : BitVec 9 × Nat) : State :=
  updCopy s id fun x => { x with running := [], failed := some (e.1, BitVec.ofNat 64 e.2) }

/-- A piece's whole packed bytes, once all are read (R264). -/
def pieceBytes (c : Copy) (p : Nat) : Option (List Byte) :=
  (c.running.find? fun r => r.piece == p).bind fun r => r.bytes.mapM fun b => match b with
    | .got x => some x
    | _ => none

/-- An element of a running piece is read with the others of its chunk. -/
def readMove (s : State) (c : Copy) (t : Option Team) (l : Layout) (p j : Nat) : Option State :=
  let js := chunkElems c l p j
  if c.started ≤ p || !js.contains j || js.any (fun i => (srcKey s c l i).any (homeWaits s)) then none
  else match readChunk s c t l js with
    | .error e => some (stopPieces s c.id e)
    | .ok bs => some (updCopy (bump s) c.id fun x => x.setBytes fun q b =>
        match bs.find? fun y => y.1 == q with
        | some y => .got y.2
        | none => b)

/-- A word of a running piece is written; a piece for the host is sent whole (R178, R264). -/
def writeMove (s : State) (c : Copy) (t : Option Team) (l : Layout) (q : Nat) : Option State :=
  if c.kind == .toh then
    match pieceBytes c (q / 4096), hostWindow s c l.bytes with
    | some b, some w =>
      if pieceF s c l (q / 4096) && !mayCharge s c.ctx 4 then none
      else if !s.fab.ethUp then some (stopPieces s c.id (causeCode .hwlink, c.dst.toNat + q / 4096 * 4096))
      else match sendPiece s c w l (q / 4096) b with
        | .error e => some (stopPieces s c.id e)
        | .ok s1 => some (updCopy s1 c.id fun x => (x.sends s.clock).setBytes fun y b => if y / 4096 = q / 4096 then .put else b)
    | some _, none => some (stopPieces s c.id (causeCode .dperm, c.dst.toNat + q / 4096 * 4096))
    | none, _ => none
  else
    match wordWrite s c l q with
    | none => none
    | some ws =>
      if ws.any (fun x => (dstKey s c l x).any (homeWaits s)) then none
      else match writeWord s c t l q ws with
        | .error e => some (stopPieces s c.id e)
        | .ok s1 => some (updCopy s1 c.id fun x => x.setBytes fun y b => if ws.contains y then .put else b)

/-- COPY_PIECE_START: an engine starts the next piece of a command, and then its pieces are carried out in any order of
their chunks and words (R178, R210, R256, R257, R371). A cause ends the copy's pieces where they stand. -/
def execCopyPieceStart (id core : Nat) (data : CopyMove) (s : State) : Host.Outcome State Fault Refusal :=
  let no : Host.Outcome State Fault Refusal := .fault (.notEnabled "COPY_PIECE_START")
  match copyOf s id with
  | none => no
  | some c =>
    match c.form with
    | none => no
    | some l =>
      let t := c.owner.bind fun o => teamOf s o.1
      if c.failed.isSome || c.done then no
      else match data with
        | .start host =>
          let n := (pieceElems l c.started).length * l.esz
          if c.total ≤ c.started || !takesPiece s c core || !mayCharge s c.ctx 0 || (c.onHost && !mayCharge s c.ctx 5) ||
              (c.kind == .fromh && host.length != n) then no
          else .next (startPiece s c l host)
        | .read p j => ((readMove s c t l p j).map Host.Outcome.next).getD no
        | .write p b => ((writeMove s c t l (4096 * p + b)).map Host.Outcome.next).getD no

/-! ### Completion and failure (R211, R213, R260 to R264) -/

/-- A task node learns how its copy or collective ended (R378). -/
def tellNode (s : State) (ctx : Nat) (node : Option Nat) (r : Option (BitVec 9)) : State :=
  match node with
  | none => s
  | some n => { s with ctl := { s.ctl with nodes := s.ctl.nodes.map fun k =>
      if k.ctx = ctx ∧ k.n = n then { k with result := some r } else k } }

/-- Whether a copy's counter lies on a peer device, where it is added to by a message (R262). -/
def addsRemote (c : Copy) : Bool :=
  c.ctr.isSome && (match c.kind with | .pmem _ => true | .pwin _ => true | _ => false)

/-- The team whose readers a copy's counter reaches: at team scope the issuer's own (R179, R259). -/
def Copy.ctrTeam (c : Copy) : Option Nat :=
  match c.ctr with
  | some (_, sc) => if sc ≤ 1 then c.owner.map fun o => o.1 else none
  | none => none

/-- A copy's add to its counter, a release of its writes (R184, R260). -/
def copyAdd (s : State) (c : Copy) : State :=
  match c.ctr with
  | none => s
  | some (a, _) =>
    match engineCounter s c.ctx a with
    | .ok k => carryCopy (addCounter s k 1 false) (.copy c.id) c.ctrTeam k
    | .error _ => s

/-- A copy is done: its node is told, and its team ends where it waited for it (R211, R378). -/
def copyDone (s : State) (c : Copy) (r : Option (BitVec 9)) : State := copyEnded (tellNode s c.ctx c.node r) c

/-- COPY_COMPLETION: every piece is performed, a host copy's also acknowledged; the batch is counted, then the counter
released, by COPYP's message where it is remote (R260, R262, R264). -/
def execCopyCompletion (id : Nat) (s : State) : Host.Outcome State Fault Refusal :=
  match copyOf s id with
  | none => .fault (.notEnabled "COPY_COMPLETION")
  | some c =>
    if c.form.isNone || c.failed.isSome || c.done || c.adds || c.started != c.total || !c.running.isEmpty ||
        (c.onHost && !s.fab.ethUp) ||
        !copyEndRoom s c then
      .fault (.notEnabled "COPY_COMPLETION")
    else if addsRemote c then .next (copyEnded (updCopy s id fun x => { x with adds := true, done := true }) c)
    else if c.ctr.any (fun p => counterWaits s c.ctx p.1) then .fault (.notEnabled "COPY_COMPLETION")
    else .next (copyDone (copyAdd (updCopy s id fun x => { x with done := true, ack := false }) c) c none)

/-- COPYP_COUNTER_ADD: the remote add, after every write is acknowledged (R262). -/
def execCopypCounterAdd (id : Nat) (s : State) : Host.Outcome State Fault Refusal :=
  match copyOf s id with
  | none => .fault (.notEnabled "COPYP_COUNTER_ADD")
  | some c =>
    match c.adds, c.ctr with
    | true, some (a, _) =>
      if counterWaits s c.ctx a then .fault (.notEnabled "COPYP_COUNTER_ADD")
      else .next (tellNode (addAt (updCopy s id fun x => { x with adds := false }) c.ctx a) c.ctx c.node none)
    | _, _ => .fault (.notEnabled "COPYP_COUNTER_ADD")

/-- A copy's failure reported: its counter poisoned, its batch failed, COPYFAIL with its cause, PC and address to service
firmware, and its team ended where it waited for it (R211, R260). -/
def failCopy (s : State) (c : Copy) (k : BitVec 9) (a : Dword) : State :=
  let s := match c.ctr with
    | some (p, _) => poisonAt s c.ctx p
    | none => s
  let s := updCopy s c.id fun x => { x with running := [], failed := some (k, a), done := true, ack := false }
  copyDone (reportFail s k c.pc a) c (some k)

/-- Whether the window of a peer copy lies on a peer device, which may revoke it at any time (R214, R262). -/
def peerWindow (s : State) (c : Copy) : Bool :=
  match c.kind with
  | .pwin _ => (match handleParts c.dst.toNat with | some (dev, _, _) => dev != s.firm.devNum | none => false)
  | _ => false

/-- The number of a rank of a collective's communicator other than this device's: a free one. -/
def otherRank (s : State) (c : Coll) : Dword :=
  match s.host.comms.find? fun k => k.ctx == c.ctx && k.num == c.comm with
  | some k =>
    let n := k.ranks.length
    BitVec.ofNat 64 ((k.ranks.idxOf s.firm.devNum + 1 + (Config.freeLane s.fresh 0).toNat % (n - 1)) % n)
  | none => 0

/-- COPY_FAILURE of a collective, with its own cause; or with COLLMIS because ranks differ, or because of the reset of a
rank elsewhere, whose number it then carries; which of the two, and which rank, the peers know (R216, R267, R268; log
entry 26). Of a copy: one with a
cause, once its started pieces have ended; or a peer copy whose window the peer revoked, or found too short, which of the
two the peer knows (R210, R211, R214, R260; log entry 25). -/
def execCopyFailure (id : Nat) (s : State) : Host.Outcome State Fault Refusal :=
  match copyOf s id with
  | some c =>
    if c.done || !copyEndRoom s c then .fault (.notEnabled "COPY_FAILURE")
    else match c.failed with
      | some (k, a) => .next (failCopy s c k a)
      | none =>
        if c.form.isSome && peerWindow s c then
          .next (failCopy (bump s) c (if Config.freeBit s.fresh then causeCode .dperm else causeCode .abound) c.dst)
        else .fault (.notEnabled "COPY_FAILURE")
  | none =>
    match s.work.colls.find? fun c => c.id == id with
    | none => .fault (.notEnabled "COPY_FAILURE")
    | some c =>
      if c.done then .fault (.notEnabled "COPY_FAILURE")
      else
        let k := c.failed.getD (causeCode .collmis)
        let info := if c.failed.isSome then c.info
          else if Config.freeBit s.fresh then otherRank s c else Config.freeDword s.fresh
        let s1 := if c.read then poisonAt (bump s) c.ctx c.ctr else bump s
        let s2 := { s1 with work := { s1.work with colls := s1.work.colls.map fun x =>
            if x.id = id then { x with failed := some k, done := true } else x } }
        .next (tellNode (endCopyOp (reportFail s2 k c.pc info) c.op) c.ctx c.node (some k))

/-- HOST_ACK_TIMEOUT: a host that acknowledges nothing for 1 ms fails the copy (R264). -/
def execHostAckTimeout (id : Nat) (s : State) : Host.Outcome State Fault Refusal :=
  match copyOf s id with
  | none => .fault (.notEnabled "HOST_ACK_TIMEOUT")
  | some c =>
    if c.done || c.failed.isSome || !c.ack || !copyEndRoom s c then .fault (.notEnabled "HOST_ACK_TIMEOUT")
    else .next (failCopy { s with clock := max s.clock (c.issued + 800000) } c (causeCode .hwlink) c.dst)

end Sys2Proof.Machine
end

