-- ==== Sys2Proof/Machine/Kdp.lean ====
section
/-!
DEFINITION. KDP datagrams: what every command passes through, replies, events and command queues (R376, R410 to R416,
R431).
-/

namespace Sys2Proof.Machine

/-- Change the host-facing state. -/
def updHost (s : State) (f : HostSt → HostSt) : State := { s with host := f s.host }

/-! ### Replies and events (R412, R416) -/

/-- KDP statuses (R411). -/
def stNotOwner : BitVec 16 := 0x201
def stStaleTerm : BitVec 16 := 0x202
def stBadCmd : BitVec 16 := 0x203
def stBadCtx : BitVec 16 := 0x204
def stNoSpace : BitVec 16 := 0x205
def stBusy : BitVec 16 := 0x206

/-- Keep the last 4,096 replies of a host. -/
def keepReplies (host : BitVec 32) (l : List Reply) : List Reply :=
  if 4096 < (l.filter fun r => r.host == host).length then l.eraseP fun r => r.host == host else l

/-- The 32 bytes with which a datagram begins, little-endian (R410). -/
def headerBytes (k : KdpHdr) : List Byte :=
  bytesOfNat 4 (k.magic.toNat + k.ver.toNat * 2 ^ 16 + k.type.toNat * 2 ^ 24) ++
    bytesOfNat 4 (k.cmd.toNat + k.len.toNat * 2 ^ 16) ++ bytesOfNat 4 k.host.toNat ++
    bytesOfNat 4 (k.ctx.toNat + k.queue.toNat * 2 ^ 6 + k.zero.toNat * 2 ^ 9 + k.status.toNat * 2 ^ 16) ++
    bytesOfNat 8 k.term.toNat ++ bytesOfNat 8 k.seq.toNat

/-- The header of a datagram, its fields read at their offsets, with the bytes that follow it (R410). -/
def headerOf (d : List Byte) : KdpHdr :=
  let f (off lo n : Nat) : Nat := bitsAt (natOfBytes ((d.drop off).take 8)) lo n
  { magic := BitVec.ofNat 16 (f 0 0 16), ver := BitVec.ofNat 8 (f 0 16 8), type := BitVec.ofNat 8 (f 0 24 8)
    cmd := BitVec.ofNat 16 (f 4 0 16), len := BitVec.ofNat 16 (f 4 16 16), host := BitVec.ofNat 32 (f 8 0 32)
    ctx := BitVec.ofNat 6 (f 12 0 6), queue := BitVec.ofNat 3 (f 12 6 3), zero := BitVec.ofNat 7 (f 12 9 7)
    status := BitVec.ofNat 16 (f 12 16 16), term := BitVec.ofNat 64 (f 16 0 64), seq := BitVec.ofNat 64 (f 24 0 64)
    bytes := d.length - 32 }

/-- A datagram that the device sends, under the lease term that it holds (R410, R414). -/
def deviceDatagram (s : State) (type cmd : Nat) (host : BitVec 32) (ctx queue : Nat) (status : BitVec 16) (seq : Nat)
    (payload : List Byte) : List Byte :=
  headerBytes { magic := 0x4B44, ver := 1, type := BitVec.ofNat 8 type, cmd := BitVec.ofNat 16 cmd
                len := BitVec.ofNat 16 payload.length, host := host, ctx := BitVec.ofNat 6 ctx, queue := BitVec.ofNat 3 queue
                zero := 0, status := status, term := s.host.lease.term, seq := BitVec.ofNat 64 seq, bytes := payload.length } ++
    payload

/-- Send a datagram. -/
def sendDatagram (s : State) (host : BitVec 32) (d : List Byte) : State := updHost s fun h => { h with sent := (host, d) :: h.sent }

/-- Send a reply to the host that it goes to; one that waits for a CLAIM is not sent yet (R412, R416). -/
def sendReply (s : State) (r : Reply) : State :=
  if r.dest = 0 then s
  else sendDatagram s r.dest (deviceDatagram s 1 r.cmd.toNat r.dest r.ctx r.queue r.status r.seq.toNat r.payload)

/-- Send a reply and keep it. -/
def keepReply (s : State) (r : Reply) : State :=
  sendReply (updHost s fun h => { h with replies := keepReplies r.host (h.replies ++ [r]) }) r

/-- The reply to a datagram, with its command, context and queue. -/
def replyTo (k : KdpHdr) (status : BitVec 16) (payload : List Byte) : Reply :=
  { host := k.host, seq := k.seq, cmd := k.cmd, ctx := k.ctx.toNat, queue := k.queue.toNat, status := status, payload := payload
    dest := k.host }

/-- Reply to a datagram, and keep the reply. -/
def reply (s : State) (k : KdpHdr) (status : BitVec 16) (payload : List Byte) : State := keepReply s (replyTo k status payload)

/-- The CMD of a queued command (R413). -/
def kindCode : QKind → BitVec 16
  | .launch _ _ => 0x20
  | .arm _ _ => 0x21
  | .waitc _ _ => 0x22
  | .preempt _ => 0x23
  | .resume => 0x24
  | .kill => 0x25

/-- The status of a queued command, which goes to the current owner (R416). -/
def queueReply (s : State) (host : BitVec 32) (seq : Dword) (status : BitVec 16) : State :=
  let c := s.host.cmds.find? fun c => c.host == host && c.seq == seq
  keepReply s
    { host := host, seq := seq, cmd := (c.map fun c => kindCode c.kind).getD 0, ctx := (c.map fun c => c.ctx).getD 0
      queue := (c.map fun c => c.queue).getD 0, status := status, payload := [], dest := s.host.lease.owner }

/-- A cause code as a command status (R410). -/
def causeStatus (c : BitVec 9) : BitVec 16 := c.setWidth 16

/-- Send an event to its host, if it has one (R412). -/
def sendOut (s : State) (e : Event) : State :=
  match e.host with
  | some h => sendDatagram s h (deviceDatagram s 2 e.code h e.ctx 0 0 e.seq e.payload)
  | none => s

/-- Send an event of a context to a host, or to the next claimant where there is none (R412, R416). -/
def sendEvent (s : State) (to' : Option (BitVec 32)) (code ctx : Nat) (payload : List Byte) : State :=
  let e : Event := ⟨to', s.host.evSeq + 1, code, ctx, payload, s.clock, s.clock⟩
  sendOut (updHost s fun h => { h with evSeq := h.evSeq + 1, events := h.events ++ [e] }) e

/-- The current owner (R414). -/
def ownerOf (s : State) : Option (BitVec 32) := if s.host.lease.owner = 0 then none else some s.host.lease.owner

/-- An event of a context to the owner. -/
def ownerEvent (s : State) (code ctx : Nat) (payload : List Byte) : State := sendEvent s (ownerOf s) code ctx payload

/-! ### Datagrams (R410 to R413, R431) -/

/-- The commands of R413. -/
def cmdCodes : List Nat :=
  [0x01, 0x02, 0x03, 0x04, 0x10, 0x11, 0x12, 0x13, 0x14, 0x15, 0x16, 0x17, 0x18, 0x19, 0x20, 0x21, 0x22, 0x23, 0x24, 0x25,
    0x30, 0x31]

/-- A datagram that is dropped without a reply (R410). -/
def kdpDropped (k : KdpHdr) (type : BitVec 8) : Bool :=
  k.magic != 0x4B44 || k.ver != 1 || k.type != type || k.len.toNat != k.bytes || decide (8192 < k.bytes) || k.zero != 0 ||
    k.host == 0

/-- Whether the port answers at all: trusted firmware has brought the link up, and the device has not tripped (R427,
R430). -/
def portAnswers (s : State) : Bool := s.firm.powered && decide (2 ≤ s.firm.step) && !s.firm.tripped && s.fab.ethUp

/-- Whether KDP is served in full (R430, R431). -/
def kdpFull (s : State) : Bool := decide (7 ≤ s.firm.step) && !s.firm.failed

/-- The kept reply of a command. -/
def keptReply (s : State) (host : BitVec 32) (seq : Dword) : Option Reply :=
  s.host.replies.find? fun r => r.host == host && r.seq == seq

/-- Whether a command has been accepted and its status is still to come. -/
def seqPending (s : State) (host : BitVec 32) (seq : Dword) : Bool :=
  s.host.cmds.any (fun c => c.host == host && c.seq == seq) ||
    s.work.grids.any fun g => g.cmd == some (host, seq)

/-- Whether a SEQ is older than every kept reply of its host. -/
def seqOld (s : State) (host : BitVec 32) (seq : Dword) : Bool :=
  let l := s.host.replies.filter fun r => r.host == host
  !l.isEmpty && l.all fun r => decide (seq.toNat < r.seq.toNat)

/-- Serve a command (R410 to R416, R431): dropped, answered by BUSY, by its kept reply sent again, by BADCMD, STALETERM,
NOTOWNER or BADCTX, or carried out by `body`. `code` is the row's CMD; a datagram with an unassigned CMD is answered
BADCMD. The BADCMD for a SEQ older than every kept reply is sent and not kept, as it would take a reply's place. A former
owner's command under an old TERM is answered STALETERM (R415, R416's last case). `always`: ATTEST and TELEM. -/
def kdpServe (row : String) (code : Nat) (owner needCtx always : Bool) (k : KdpHdr) (s : State)
    (body : State → Host.Outcome State Fault Refusal) : Host.Outcome State Fault Refusal :=
  let no (st : BitVec 16) : Host.Outcome State Fault Refusal := .next (reply s k st [])
  let up := if always then s.firm.powered && decide (2 ≤ s.firm.step) && s.fab.ethUp else portAnswers s
  if !up || kdpDropped k 0 then .next s
  else if !always && !kdpFull s then no stBusy
  else match keptReply s k.host k.seq with
  | some r => .next (sendReply s r)
  | none =>
  if seqPending s k.host k.seq then .next s
  else if seqOld s k.host k.seq then .next (sendReply s (replyTo k stBadCmd []))
  else if k.cmd.toNat ≠ code then
    (if cmdCodes.contains k.cmd.toNat then .fault (.notEnabled row) else no stBadCmd)
  else if owner && k.term != s.host.lease.term then no stStaleTerm
  else if owner && k.host != s.host.lease.owner then no stNotOwner
  else if needCtx && (ctxOf s k.ctx.toNat).isNone then no stBadCtx
  else body s

/-! ### Command queues (R376) -/

/-- The command at the head of a queue that may start or complete: none once the device has tripped (R427). -/
def queueHead (s : State) (ctx queue : Nat) : Option QCmd :=
  if s.firm.tripped then none else s.host.cmds.find? fun c => c.ctx == ctx && c.queue == queue

/-- Accept a command into its queue. -/
def enqueue (s : State) (k : KdpHdr) (kind : QKind) : State :=
  updHost s fun h =>
    { h with cmds := h.cmds ++ [⟨k.ctx.toNat, k.queue.toNat, k.host, k.seq, kind, false⟩] }

/-- Change a queued command. -/
def updCmd (s : State) (c : QCmd) (f : QCmd → QCmd) : State :=
  updHost s fun h =>
    { h with cmds := h.cmds.map fun x => if x.host = c.host ∧ x.seq = c.seq then f x else x }

/-- A command has been started and completed: it leaves its queue with a status. -/
def finishCmd (s : State) (host : BitVec 32) (seq : Dword) (status : BitVec 16) : State :=
  updHost (queueReply s host seq status) fun h => { h with cmds := h.cmds.filter fun x => !(x.host == host && x.seq == seq) }

/-- A row of a queued command: the datagram's arrival, or a step of the command at the head of its queue. `bytes` is the
payload's length, where the spec gives one, and `ok` its limits. -/
def queuedCmd (row : String) (code : Nat) (bytes : Option Nat) (ok : Bool) (w : CmdWhen) (kind : State → Nat → QKind)
    (note : Nat → State → State) (go : QCmd → State → Host.Outcome State Fault Refusal) (s : State) :
    Host.Outcome State Fault Refusal :=
  match w with
  | .arrive k => kdpServe row code true true false k s fun s =>
      if bytes.getD k.bytes != k.bytes || !ok then .next (note k.ctx.toNat (reply s k stBadCmd []))
      else .next (note k.ctx.toNat (enqueue s k (kind s k.ctx.toNat)))
  | .start ctx queue =>
    match queueHead s ctx queue with
    | none => .fault (.notEnabled row)
    | some c => go c s

end Sys2Proof.Machine
end

