-- ==== Sys2Proof/Machine/Deferred.lean ====
section
/-!
DEFINITION. The deferred path: Sorus bins, packets, Thallus units, the commit protocol, and tags with their admission
(R153 to R171, R291).
-/

namespace Sys2Proof.Machine

/-! ### Tags and admission (R153, R167) -/

/-- Change the deferred path. -/
def updDefer (s : State) (f : Deferred → Deferred) : State := { s with defer := f s.defer }

/-- The DEFERQ values admitted on the device, for its own units and for those of other devices (R167). -/
def admitted (s : State) : Nat :=
  s.defer.tags.foldl (fun n t => n + t.defq) (s.defer.foreign.foldl (fun n u => n + u.defq) 0)

/-- The lowest tag that no unit holds (R153). -/
def freeTag (s : State) : Option Nat :=
  (List.range 4096).find? fun k => s.defer.tags.all (fun t => t.tag != k) && s.defer.foreign.all fun u => u.own != k

/-- The tag that a commit unit holds. -/
def unitTag (s : State) (grid : Nat) (team : Option Nat) : Option Nat :=
  (s.defer.tags.find? fun t => t.grid == grid && t.team == team).map fun t => t.tag

/-- Whether a context maps pages of a peer device, whose admission is then also the peer's (R167). -/
def mapsPeer (s : State) (ctx : Nat) : Bool :=
  match ctxOf s ctx with
  | none => false
  | some c => c.maps.any fun m => match walkFrom s m.1 4 c.root with
    | .leaf k e => (pteLeaf k e).p
    | _ => false

/-- Give a unit its tag and its admission, if a tag is free and the sum allows (R153, R167). -/
def takeTag (s : State) (grid : Nat) (team : Option Nat) (defq : Nat) : Option State :=
  match freeTag s with
  | none => none
  | some k =>
    if 557056 < admitted s + defq then none
    else some (updDefer s fun d =>
      { d with tags := d.tags ++ [⟨k, defq, grid, team⟩], waiting := d.waiting.filter fun w => w != (grid, team) })

/-- The team units of a co-resident grid, which all hold their tags before any of its teams is placed, take them in order,
or begin to wait (R147, R153, R167). -/
def teamUnits (s : State) (g : Grid) (ts : List Nat) : State :=
  ts.foldl (fun s t =>
    let wait := updDefer s fun d => { d with waiting := d.waiting ++ [(g.uid, some t)] }
    if mapsPeer s g.ctx then wait else (takeTag s g.uid (some t) g.lr.deferq).getD wait) s

/-- A grid is admitted and handed to dispatch with the next sequence number: its LAUNCH has been started, or its node runs
(R376, R378, R379, R381). -/
def gridStarted (s : State) (uid : Nat) : State :=
  match gridOf s uid with
  | none => s
  | some g =>
    let s := updGrid s uid fun x =>
      { x with phase := .dispatch, seq := s.work.disp.nextSeq, cmd := none, tag := unitTag s uid none, reached := []
               code := s.mem }
    let s := { s with work := { s.work with disp := { s.work.disp with nextSeq := s.work.disp.nextSeq + 1 } } }
    let s := match g.cmd with
      | some (host, seq) => finishCmd s host seq 0
      | none => s
    let s := if g.lr.cores && !g.lr.cunit then teamUnits s g (localTeams s g) else s
    match g.node with
    | some n => { s with ctl := { s.ctl with nodes := s.ctl.nodes.map fun k =>
        if k.ctx = g.ctx ∧ k.n = n then { k with st := .running } else k } }
    | none => s

/-- A grid unit that holds its tag goes to dispatch (R381). -/
def unitAdmitted (s : State) (grid : Nat) (team : Option Nat) : State :=
  match team with
  | some _ => s
  | none => gridStarted s grid

/-- Whether a context's task nodes keep their states: it drains for a PREEMPT, or is saved (R383, R386). -/
def nodesHeld (s : State) (ctx : Nat) : Bool := (ctxOf s ctx).any fun c => c.drain.isSome || c.saved

/-- Give a waiting unit a tag and admit it, where that is possible now; the grid of a task node that keeps its state goes
on waiting (R167, R383, R386). -/
def admitUnit (s : State) (w : Nat × Option Nat) : Option State :=
  match gridOf s w.1 with
  | none => none
  | some g =>
    if w.2.isNone && g.node.isSome && nodesHeld s g.ctx then none
    else (takeTag s w.1 w.2 g.lr.deferq).map fun s1 => unitAdmitted s1 w.1 w.2

/-- Admit one waiting unit if it can be admitted now. -/
def admitOne (s : State) (w : Nat × Option Nat) : State := (admitUnit s w).getD s

/-- Waiting units that can be admitted are, in the order in which they began to wait; one whose context maps pages of
a peer waits for GRID_ADMISSION (R167). -/
def admitWaiting (s : State) : State :=
  s.defer.waiting.foldl (fun s w =>
    if ((gridOf s w.1).map fun g => mapsPeer s g.ctx).getD true then s else admitOne s w) s

/-- A unit's tag and admission end (R153, R167). -/
def freeUnit (s : State) (p : TagUse → Bool) : State :=
  if s.defer.tags.any p then admitWaiting (updDefer s fun d => { d with tags := d.tags.filter fun t => !p t }) else s

/-- GRID_ADMISSION: a waiting unit takes its tag and is admitted (R167). -/
def execGridAdmission (idx : Nat) (s : State) : Host.Outcome State Fault Refusal :=
  match s.defer.waiting[idx]? with
  | none => .fault (.notEnabled "GRID_ADMISSION")
  | some w =>
    match admitUnit s w with
    | some s1 => .next s1
    | none => .fault (.notEnabled "GRID_ADMISSION")

/-! ### What a commit covers (R153, R291) -/

/-- Whether a count n of a scope covers a part of an epoch. -/
def covers8 (n e : Nat) : Bool := decide (1 ≤ (n + 8 - e % 8) % 8 ∧ (n + 8 - e % 8) % 8 ≤ 4)

/-- Whether a commit covers a record of a tag and epoch, or of a census, aimed at a device. -/
def coversRec (own : Nat) (c : Commit) (tag et eg ep : Nat) (census : Option Nat) (dev : Nat) : Bool :=
  match census with
  | some k => c.census.contains k && (match c.scope with
    | .team | .grid => dev == own
    | .pod | .endTeam | .endGrid => true)
  | none => c.tags.contains tag && (match c.scope with
    | .team => dev == own && covers8 c.n et
    | .grid => dev == own && covers8 c.n eg
    | .pod => covers8 c.n ep
    | .endTeam | .endGrid => true)

/-- Whether a commit covers a record. -/
def coversD (s : State) (c : Commit) (r : DRec) : Bool :=
  coversRec s.firm.devNum c r.tag r.et r.eg r.ep r.census r.dev

/-- Whether a commit covers what a Sorus has sent. -/
def coversT (s : State) (c : Commit) (t : Touch) : Bool :=
  coversRec s.firm.devNum c t.tag t.et t.eg t.ep t.census t.dev

/-! ### The Sorus (R155, R156, R158) -/

/-- A cluster's Sorus. -/
def sorusOf (s : State) (cluster : Nat) : Sorus := (aGet s.defer.sorus cluster).getD ⟨[], []⟩

/-- Replace a cluster's Sorus. -/
def setSorus (s : State) (cluster : Nat) (x : Sorus) : State :=
  updDefer s fun d => { d with sorus := aSet d.sorus cluster x }

/-- The bin of a record: its channel's on this device, else its device's remote bin (R155). -/
def binKey (s : State) (r : DRec) : Nat × Nat := (r.dev, if r.dev = s.firm.devNum then recChannel s r else 0)

/-- Operators that commute with themselves (R158). -/
def likeOp (a b : AOp) : Bool := a == b && a != .xchg && a != .cas

/-- Two values under an operator, subnormals kept (R159). -/
def combine (op : AOp) (wide : Bool) (v w : Dword) : Dword :=
  BitVec.ofNat 64 (atomStep op wide false false (v.toNat % 2 ^ (if wide then 64 else 32)) w.toNat 0).1

/-- What two records of one word combine to, if they do (R158). -/
def coalesced (takeNew : Bool) (e l : DRec) : Option DRec :=
  let one := e.maker.isSome && e.maker == l.maker
  let both := if one then e.maker else none
  if one && l.opr == .xchg then some l
  else if one && e.opr == .xchg then some { e with value := combine l.opr e.wide e.value l.value }
  else if likeOp e.opr l.opr then some { e with value := combine e.opr e.wide e.value l.value, maker := both }
  else if e.maker.isSome && e.opr == .xchg && l.opr == .xchg then some { (if takeNew then l else e) with maker := none }
  else none

/-- Whether two records may share a combination: one word, size, tag and epoch, that of neither still open (R158, R317).
-/
def sameWord (a b : DRec) : Bool :=
  a.pa == b.pa && a.dev == b.dev && a.wide == b.wide && a.tag == b.tag && a.et == b.et && a.eg == b.eg &&
    a.ep == b.ep && a.census == b.census && a.wait == b.wait

/-- Put a record in a bin, combined with the newest record of its word where that is chosen and R158 allows. -/
def binAdd (coalesce takeNew : Bool) (l : DRec) (rs : List DRec) : List DRec :=
  match coalesce, rs.reverse.find? (sameWord l) with
  | true, some e =>
    match coalesced takeNew e l with
    | some r =>
      let i := rs.length - 1 - rs.reverse.findIdx (sameWord l)
      rs.set i r
    | none => rs ++ [l]
  | _, _ => rs ++ [l]

/-- Ship what a bin holds as one packet (R156). -/
def shipBin (s : State) (cluster : Nat) (k : Nat × Nat) : State :=
  let x := sorusOf s cluster
  match x.bins.find? fun b => (b.dev, b.ch) == k with
  | none => s
  | some b =>
    if b.recs.isEmpty then s
    else
      let ts := (b.recs.map (touchOf s)).filter fun t => !x.touched.contains t
      let s := setSorus s cluster
        { bins := x.bins.map fun y => if (y.dev, y.ch) == k then { y with recs := [] } else y
          touched := x.touched ++ ts.dedup }
      updDefer s fun d => { d with packets := d.packets ++ [.recs cluster b.dev b.recs] }

/-- The remote bin whose oldest record is oldest; an empty one is oldest of all (R155). -/
def oldestRemote (own : Nat) (l : List Bin) : Option Bin :=
  (l.filter fun b => b.dev != own).foldl (fun a b =>
    match a with
    | none => some b
    | some x => if (if b.recs.isEmpty then 0 else b.since + 1) < (if x.recs.isEmpty then 0 else x.since + 1) then some b
                else some x) none

/-- Make the bin of a key exist, reassigning a remote bin when all 32 are assigned (R155). -/
def haveBin (s : State) (cluster : Nat) (k : Nat × Nat) : State :=
  let own := s.firm.devNum
  let x := sorusOf s cluster
  if x.bins.any fun b => (b.dev, b.ch) == k then s
  else
    let full := k.1 != own && decide (32 ≤ (x.bins.filter fun b => b.dev != own).length)
    let s := match full, oldestRemote own x.bins with
      | true, some b =>
        let s1 := shipBin s cluster (b.dev, b.ch)
        let y := sorusOf s1 cluster
        setSorus s1 cluster { y with bins := y.bins.filter fun z => (z.dev, z.ch) != (b.dev, b.ch) }
      | _, _ => s
    let y := sorusOf s cluster
    setSorus s cluster { y with bins := y.bins ++ [⟨k.1, k.2, [], s.clock⟩] }

/-- A record without its wait, where the phase that it waited for has come (R317). -/
def closedRec (s : State) (r : DRec) : DRec := if phaseWaits s r.wait then r else { r with wait := none }

/-- SORUS_RECORD_ARRIVAL: the first record of a core's Sporangium enters its bin; a bin of 64 ships (R154 to R158).
Whether it is combined, and which of two stores stays, are the device's choice. -/
def execSorusRecordArrival (core : Nat) (coalesce takeNew : Bool) (s : State) : Host.Outcome State Fault Refusal :=
  match (coreOf s core).spor with
  | .entry r :: rest =>
    let cl := core / 8
    let r := closedRec s r
    let k := binKey s r
    let s := haveBin (updCore s core fun c => { c with spor := rest }) cl k
    let x := sorusOf s cl
    let put (b : Bin) : Bin :=
      if (b.dev, b.ch) == k then
        { b with recs := binAdd coalesce takeNew r (b.recs.map (closedRec s)), since := if b.recs.isEmpty then s.clock else b.since }
      else b
    let s := setSorus s cl { x with bins := x.bins.map put }
    let n : Nat := (((sorusOf s cl).bins.find? fun b => (b.dev, b.ch) == k).map fun b => b.recs.length).getD 0
    .next (if 64 ≤ n then shipBin s cl k else s)
  | _ => .fault (.notEnabled "SORUS_RECORD_ARRIVAL")

/-- BIN_AGE_FLUSH: a bin ships 16,000 ck after its first record entered it empty (R156). -/
def execBinAgeFlush (cluster bin : Nat) (s : State) : Host.Outcome State Fault Refusal :=
  match (sorusOf s cluster).bins[bin]? with
  | none => .fault (.notEnabled "BIN_AGE_FLUSH")
  | some b =>
    if b.recs.isEmpty then .fault (.notEnabled "BIN_AGE_FLUSH")
    else .next (shipBin { s with clock := max s.clock (b.since + 16000) } cluster (b.dev, b.ch))

/-! ### The Thallus (R160, R161) -/

/-- A Thallus by device and channel. -/
def thallusOf (s : State) (k : Nat × Nat) : Thallus :=
  ((s.defer.thallus.find? fun t => t.1 == k).map fun t => t.2).getD ⟨[], [], [], []⟩

/-- Replace a Thallus. -/
def setThallus (s : State) (k : Nat × Nat) (x : Thallus) : State :=
  updDefer s fun d =>
    { d with thallus := if d.thallus.any fun t => t.1 == k then d.thallus.map fun t => if t.1 == k then (k, x) else t
                        else d.thallus ++ [(k, x)] }

/-- A record's 128 bits: VALUE, PADDR, OPR, SZ, TAG (R151, R152). -/
def recBits (r : DRec) : Nat :=
  r.value.toNat % 2 ^ (if r.wide then 64 else 32) * 2 ^ 64 + r.pa / 4 % 2 ^ 46 * 2 ^ 18 + aopCode r.opr * 2 ^ 14 +
    bit r.wide * 2 ^ 12 + r.tag % 2 ^ 12

/-- The memory key of a place in a Thallus's spill region. -/
def spillKey (k : Nat × Nat) (slot : Nat) : Nat := devBase k.1 + Config.spillAt k.2 + 16 * slot

/-- 64 free places of a spill region: the lowest row of 1 KiB that holds no record, else the lowest places. -/
def freeSlots (used : List Nat) : List Nat :=
  match (List.range 8192).find? fun r => used.all fun x => x / 64 != r with
  | some r => (List.range 64).map fun i => 64 * r + i
  | none => ((List.range 524288).filter fun x => !used.contains x).take 64

/-- When the SRAM's 32,768 records are full, the oldest 64 in it are written to the spill region (R160). -/
def spillStaged (s : State) (k : Nat × Nat) (t : Thallus) : State :=
  if t.staged.length ≤ t.slots.length + 32768 then setThallus s k t
  else
    let put := ((t.staged.drop t.slots.length).take 64).zip (freeSlots t.slots)
    setThallus { s with mem := put.foldl (fun m x => memPut m (spillKey k x.2) 16 (recBits x.1)) s.mem } k
      { t with slots := t.slots ++ put.map fun x => x.2 }

/-- Stage a record (R160). -/
def stage (s : State) (r : DRec) : State :=
  let k := (r.dev, recChannel s r)
  let t := thallusOf s k
  spillStaged s k { t with staged := t.staged ++ [r] }

/-- The records that stay staged, with the places of those that are spilled. -/
def Thallus.keep (p : DRec → Bool) (t : Thallus) : Thallus :=
  { t with staged := t.staged.filter p, slots := ((t.staged.zip t.slots).filter fun x => p x.1).map fun x => x.2 }

/-- Where a packet comes from and goes to: channel 0 stands for a whole peer device. -/
def packetKey (s : State) : Packet → Nat × Nat × Option Nat
  | .recs cl dev rs => (cl, dev, if dev = s.firm.devNum then (rs.head?).map (recChannel s) else none)
  | .marker cl dev ch _ => (cl, dev, if dev = s.firm.devNum then some ch else none)

/-- The device that a packet goes to. -/
def packetDev : Packet → Nat
  | .recs _ dev _ => dev
  | .marker _ dev _ _ => dev

/-- Whether traffic to a peer is held, because the peer is treated as lost (R418). -/
def peerHeld (s : State) (dev : Nat) : Bool := s.fab.lost.contains dev

/-- A packet's records are staged; a marker is held (R160, R162). -/
def deliver (s : State) : Packet → State
  | .recs _ _ rs => rs.foldl stage s
  | .marker cl dev ch cid =>
    let t := thallusOf s (dev, ch)
    setThallus s (dev, ch) { t with markers := t.markers ++ [(cl, cid)] }

/-- THALLUS_PACKET_ARRIVAL: a packet or a marker arrives, in the order of its Sorus and Thallus, unless its device is
lost (R156, R160, R162, R418). -/
def execThallusPacketArrival (idx : Nat) (s : State) : Host.Outcome State Fault Refusal :=
  match s.defer.packets[idx]? with
  | none => .fault (.notEnabled "THALLUS_PACKET_ARRIVAL")
  | some p =>
    if peerHeld s (packetDev p) || (s.defer.packets.take idx).any fun q => packetKey s q == packetKey s p then
      .fault (.notEnabled "THALLUS_PACKET_ARRIVAL")
    else
      .next (deliver (updDefer s fun d => { d with packets := d.packets.eraseIdx idx }) p)

/-! ### The commit protocol (R162, R163) -/

/-- A commit under way. -/
def commitOf (s : State) (cid : Nat) : Option Commit := s.defer.commits.find? fun c => c.id == cid

/-- Change a commit. -/
def updCommit (s : State) (cid : Nat) (f : Commit → Commit) : State :=
  updDefer s fun d => { d with commits := d.commits.map fun c => if c.id = cid then f c else c }

/-- COMMIT_TOKEN_ARRIVAL: the Sorus records a token and reports the arrival (R162). -/
def execCommitTokenArrival (core : Nat) (s : State) : Host.Outcome State Fault Refusal :=
  match (coreOf s core).spor with
  | .token cid team :: rest =>
    .next (updCommit (updCore s core fun c => { c with spor := rest }) cid fun c => { c with arrived := team :: c.arrived })
  | _ => .fault (.notEnabled "COMMIT_TOKEN_ARRIVAL")

/-- Whether every team of a grid on this device has made an arrival, or has ended with its log drained (R122, R168). -/
def allArrived (s : State) (g : Grid) (c : Commit) : Bool :=
  let ts := s.work.teams.filter fun t => t.grid == g.uid && t.resp.isNone
  (localTeams s g).all fun k =>
    ts.any (fun t => t.teamId == k && (c.arrived.contains t.uid || (t.ended && !sporHas s t.core t.uid))) ||
      (g.ended.contains k && !ts.any fun t => t.teamId == k)

/-- Whether every required arrival of a commit has been made on this device (R162). -/
def commitReady (s : State) (c : Commit) : Bool :=
  match c.scope with
  | .team | .endTeam | .endGrid => c.tokens.all c.arrived.contains
  | .grid | .pod => ((gridOf s c.grid).map fun g => allArrived s g c).getD false

/-- Whether a commit runs across a pod (R163). The implicit commit of a pod grid's end runs on each device, when its last
team there has ended (log entry 23). -/
def podCommit (s : State) (c : Commit) : Bool :=
  match c.scope with
  | .grid | .pod => ((gridOf s c.grid).map fun g => decide (1 < (podOf s g).length)).getD false
  | .team | .endTeam | .endGrid => false

/-- The clusters whose Sorus holds, or has sent, records that a close concerns (R162). -/
def closeTargets (s : State) (c : Commit) : List Nat :=
  (s.defer.sorus.filter fun x =>
    x.2.bins.any (fun b => b.recs.any (coversD s c)) || x.2.touched.any (coversT s c)).map fun x => x.1

/-- Whether one coordinator runs two commits: those of a team, or those of a grid (R162). -/
def sameCoord (c k : Commit) : Bool :=
  let own (x : Commit) : Bool := x.scope == .team || x.scope == .endTeam
  own c == own k && (if own c then c.team == k.team else c.grid == k.grid)

/-- A coordinator sends its closes, and its apply messages, in the order of its commits: an earlier one is yet to send
(R161, R162). -/
def coordBehind (s : State) (c : Commit) (sent : Commit → Bool) : Bool :=
  s.defer.commits.any fun k => decide (k.id < c.id) && sameCoord c k && !sent k

/-- COMMIT_CLOSE (R162, R163). -/
def execCommitClose (cid : Nat) (s : State) : Host.Outcome State Fault Refusal :=
  match commitOf s cid with
  | none => .fault (.notEnabled "COMMIT_CLOSE")
  | some c =>
    if c.closed || !commitReady s c || (podCommit s c && !c.podGo) || coordBehind s c (fun k => k.closed) then
      .fault (.notEnabled "COMMIT_CLOSE")
    else
      let tags := match c.scope with
        | .grid | .pod => (s.defer.tags.filter fun t => t.grid == c.grid).map fun t => t.tag
        | .team | .endTeam | .endGrid => c.tags
      let c := { c with tags := tags, closed := true }
      .next (updCommit s cid fun _ => { c with toShip := closeTargets s c })

/-- SORUS_CLOSE: covered bins ship, and markers follow them to every Thallus that holds, or has yet to apply, what the
Sorus has sent (R156, R162). -/
def execSorusClose (cid cluster : Nat) (s : State) : Host.Outcome State Fault Refusal :=
  match commitOf s cid with
  | none => .fault (.notEnabled "SORUS_CLOSE")
  | some c =>
    if !c.toShip.contains cluster || coordBehind s c (fun k => !k.toShip.contains cluster) then
      .fault (.notEnabled "SORUS_CLOSE")
    else
      let ks := ((sorusOf s cluster).bins.filter fun b => b.recs.any (coversD s c)).map fun b => (b.dev, b.ch)
      let s := ks.foldl (fun s k => shipBin s cluster k) s
      let x := sorusOf s cluster
      let marks := ((x.touched.filter (coversT s c)).map fun t => (t.dev, t.ch)).dedup
      let s := updDefer s fun d => { d with packets := d.packets ++ marks.map fun m => .marker cluster m.1 m.2 cid }
      .next (updCommit s cid fun k =>
        { k with toShip := k.toShip.filter (· != cluster), shipped := cluster :: k.shipped
                 marked := k.marked ++ marks.map fun m => (cluster, m.1, m.2) })

/-- COMMIT_APPLY_SEND: the union of the marked units, each with its marker count (R162). -/
def execCommitApplySend (cid : Nat) (s : State) : Host.Outcome State Fault Refusal :=
  match commitOf s cid with
  | none => .fault (.notEnabled "COMMIT_APPLY_SEND")
  | some c =>
    if !c.closed || !c.toShip.isEmpty || c.marked.isEmpty || !c.applySent.isEmpty ||
        coordBehind s c (fun k => k.closed && k.toShip.isEmpty && (k.marked.isEmpty || !k.applySent.isEmpty)) then
      .fault (.notEnabled "COMMIT_APPLY_SEND")
    else
      let ks := (c.marked.map fun m => (m.2.1, m.2.2)).dedup
      .next (updCommit s cid fun k => { k with
        applySent := ks.map fun x => (x.1, x.2, (c.marked.filter fun m => (m.2.1, m.2.2) == x).length) })

/-- Apply one record at its word (R157, R159). -/
def applyRec (s : State) (r : DRec) : State :=
  let n := if r.wide then 8 else 4
  let k := devBase r.dev + r.pa
  let old := memNat s.mem k n
  { s with mem := memPut s.mem k n (atomStep r.opr r.wide false false old r.value.toNat 0).1 }

/-- The records of a Thallus that a commit covers, in arrival order. -/
def covered (s : State) (c : Commit) (t : Thallus) : List DRec :=
  t.staged.filter fun r => r.src == s.firm.devNum && coversD s c r

/-- The first of a list with each value of a key. -/
def firstBy {α β : Type} [DecidableEq β] (f : α → β) : List α → List α
  | [] => []
  | x :: r => x :: (firstBy f r).filter fun y => f y != f x

/-- The records of a Thallus that `gone` picks are applied in arrival order under a commit's number, and their rows pend
(R161, R164). The words of `bad`, in rows that it opens, have met an uncorrectable error: they are marked, the records
aimed at a marked word are discarded, and so are those hit while they were staged. Each such row is reported with a tag;
the second component answers whether there was one (R171). -/
def applyRecs (s : State) (dev ch : Nat) (gone : DRec → Bool) (cid : Nat) (bad : List Nat) : State × Bool :=
  let t := thallusOf s (dev, ch)
  let row (r : DRec) : Nat := rowId s r.pa
  let words := (bad.map eccWord).filter fun w => (t.staged.filter gone).any fun r => row r == rowId s w
  let s := { s with pow := { s.pow with marked := (words.map fun w => (dev, w)) ++ s.pow.marked } }
  let hit (x : DRec × Nat) : Bool := (t.slots[x.2]?).any fun k => isMarked s (spillKey (dev, ch) k) 16
  let cov := (t.staged.zipIdx.map fun x => if hit x then { x.1 with ue := true } else x.1).filter gone
  let lost (r : DRec) : Bool := r.ue || isMarked s (devBase r.dev + r.pa) (if r.wide then 8 else 4)
  let torn (r : DRec) : Bool := lost r || s.pow.marked.any fun m => m.1 == dev && rowId s m.2 == row r
  let s1 := (cov.filter fun r => !lost r).foldl applyRec s
  let s1 := (firstBy row (cov.filter torn)).foldl (fun s r =>
    report s ⟨causeCode .applyue, none, BitVec.ofNat 64 r.tag, BitVec.ofNat 64 (row r)⟩) s1
  let u := t.keep fun r => !gone r
  let s1 := setThallus s1 (dev, ch)
    { u with markers := t.markers.filter fun m => m.2 != cid, rows := t.rows ++ (cov.map fun r => (cid, row r)).dedup }
  (s1, cov.any torn)

/-- A Thallus applies what a commit of this device covers, acknowledges, and its context is charged (R162, R382). -/
def applyAt (s : State) (c : Commit) (dev ch : Nat) (bad : List Nat) : State :=
  let r := applyRecs s dev ch (fun r => r.src == s.firm.devNum && coversD s c r) c.id bad
  let s1 := updCommit r.1 c.id fun k => { k with acked := (dev, ch) :: k.acked, poison := k.poison || r.2 }
  charge s1 c.ctx 1 (covered s c (thallusOf s (dev, ch))).length

/-- Whether a load of a word that a commit covers, issued by one of the commit's teams before its COMMIT, has still to be
performed: it sees the word as it was (R109, R123, R191, R310). -/
def olderLoads (s : State) (c : Commit) (rs : List DRec) : Bool :=
  s.work.ops.any fun o => (match o.kind with
    | .mem false z _ _ _ as _ _ _ => as.any fun a => match a.x with
      | .at k _ _ _ => rs.any fun r => regMeets (.abuf k (sizeBytes z)) (.abuf (devBase r.dev + r.pa) (if r.wide then 8 else 4))
      | .bad _ _ => false
    | _ => false) && c.ops.any fun k => decide (o.id < k) && (opOf? s k).any fun x => x.tid == o.tid

/-- THALLUS_APPLY (R161, R162): a Thallus that has its apply and every marker applies what the commit covers, its budget
and the rows' locks allowing (R342, R382). -/
def execThallusApply (cid dev ch : Nat) (bad : List Nat) (s : State) : Host.Outcome State Fault Refusal :=
  match commitOf s cid with
  | none => .fault (.notEnabled "THALLUS_APPLY")
  | some c =>
    let t := thallusOf s (dev, ch)
    let mine := t.markers.filter fun m => m.2 == cid
    let ready := c.applySent.any fun a => (a.1, a.2.1) == (dev, ch) && a.2.2 == mine.length
    let sent (k : Commit) : Bool := k.acked.contains (dev, ch) || !k.applySent.any fun a => (a.1, a.2.1) == (dev, ch)
    if !ready || coordBehind s c sent || peerHeld s dev || c.acked.contains (dev, ch) || !mayCharge s c.ctx 1 ||
        (covered s c t).any (fun r => rowLocked s (devBase r.dev + r.pa) || bankHeld s (devBase r.dev + r.pa)) ||
        olderLoads s c (covered s c t) then .fault (.notEnabled "THALLUS_APPLY")
    else .next (applyAt s c dev ch bad)

/-- Whether every acknowledgement that a commit awaits is in (R162). -/
def allAcked (c : Commit) : Bool :=
  c.closed && c.toShip.isEmpty && (c.marked.isEmpty || !c.applySent.isEmpty) &&
    c.applySent.all fun a => c.acked.contains (a.1, a.2.1)

/-- Whether a completed commit covers a count of records that its unit made (R153, R166, R291). -/
def coversMade (c : Commit) (m : Made) : Bool :=
  match m.census with
  | some (k, _) => c.census.contains k && (match c.scope with
    | .team | .grid => !m.peer
    | .pod | .endTeam | .endGrid => true)
  | none => match c.scope with
    | .team => !m.peer && decide (m.et < c.n)
    | .grid => !m.peer && decide (m.eg < c.n)
    | .pod => decide (m.ep < c.n)
    | .endTeam | .endGrid => true

/-- The counts of R166 fall by what a commit covered. -/
def dropMade (s : State) (c : Commit) : State :=
  let keep (l : List Made) : List Made := l.filter fun m => !coversMade c m
  let s := updGrid s c.grid fun g => { g with made := keep g.made }
  { s with work := { s.work with teams := s.work.teams.map fun t =>
      let mine := match c.scope with
        | .team | .endTeam => t.uid == c.team
        | .grid | .pod | .endGrid => t.grid == c.grid
      if mine then { t with d := { t.d with made := keep t.d.made } } else t } }

/-- A release add of 1 by a commit, poisoning where records were lost (R122, R171). -/
def commitAdd (poison : Bool) (s : State) (k : Nat × Nat × Nat) : State :=
  match engineCounter s k.2.1 (BitVec.ofNat 64 k.1) with
  | .ok key => addCounter s key 1 poison
  | .error e => report s ⟨e, none, 0, BitVec.ofNat 64 k.1⟩

/-- Whether records that a touched entry stands for are still in a bin, on their way, or staged. -/
def touchLive (s : State) (cluster : Nat) (t : Touch) : Bool :=
  let is (r : DRec) : Bool := r.src == s.firm.devNum && touchOf s r == t
  ((sorusOf s cluster).bins.any fun b => b.recs.any is) ||
    (s.defer.packets.any fun p => match p with
      | .recs cl _ rs => cl == cluster && rs.any is
      | .marker _ _ _ _ => false) ||
    (thallusOf s (t.dev, t.ch)).staged.any is

/-- A commit's touched entries leave the sets, where no record that they stand for is left (R155, R162). -/
def dropTouched (s : State) (c : Commit) : State :=
  updDefer s fun d => { d with sorus := d.sorus.map fun x =>
    (x.1, { x.2 with touched := x.2.touched.filter fun t => !coversT s c t || touchLive s x.1 t }) }

/-- What the completion of a commit does: rows cease to pend, counts fall, its COMMITs' flags clear, its counters are
added to (R122, R153, R162, R164, R166, R168). -/
def completeCommit (s : State) (c : Commit) : State :=
  let s := updDefer s fun d =>
    { d with commits := d.commits.filter fun k => k.id != c.id
             thallus := d.thallus.map fun t => (t.1, { t.2 with rows := t.2.rows.filter fun r => r.1 != c.id }) }
  let s := dropMade (dropTouched s c) c
  let s := match c.scope with
    | .endGrid => s
    | .team | .grid | .pod | .endTeam => c.tokens.foldl (fun s t =>
        updTeam s t fun t => { t with d := { t.d with open' := t.d.open' - 1 } }) s
  let s := c.ctrs.foldl (commitAdd c.poison) s
  let s := c.ops.foldl (fun s k => endCopyOp s (some k)) s
  match c.scope with
  | .endTeam => freeUnit s fun t => t.grid == c.grid && c.tags.contains t.tag
  | .endGrid => freeUnit s fun t => t.grid == c.grid && c.tags.contains t.tag
  | .team | .grid | .pod => s

/-- The counters of a commit whose home holds an add back, other than for rows that this commit itself frees (R164). -/
def ctrsWait (s : State) (c : Commit) : Bool :=
  let s := updDefer s fun d =>
    { d with thallus := d.thallus.map fun t => (t.1, { t.2 with rows := t.2.rows.filter fun r => r.1 != c.id }) }
  c.ctrs.any fun k => counterWaits s k.2.1 (BitVec.ofNat 64 k.1)

/-- COMMIT_COMPLETION (R162, R163). -/
def execCommitCompletion (cid : Nat) (s : State) : Host.Outcome State Fault Refusal :=
  match commitOf s cid with
  | none => .fault (.notEnabled "COMMIT_COMPLETION")
  | some c =>
    if !allAcked c || (podCommit s c && !c.podDone) || ctrsWait s c then .fault (.notEnabled "COMMIT_COMPLETION")
    else .next (completeCommit s c)

/-- Whether a device of a grid's pod set is lost, which holds the pod's control (R418). -/
def podHeldBy (s : State) (g : Grid) : Bool := (podOf s g).any (peerHeld s)

/-- The same for a commit's grid. -/
def podHeld (s : State) (c : Commit) : Bool := ((gridOf s c.grid).map (podHeldBy s)).getD false

/-- Forget what was said of a pod grid that is gone. -/
def forgetPod (s : State) (g : Grid) : State :=
  updDefer s fun d => { d with podSaid := d.podSaid.filter fun w => !(w.ctx == g.ctx && some w.podNo == g.podNo) }

/-- The lowest number of a list. -/
def lowest (l : List Nat) : Nat := l.foldl min (l.headD 0)

/-- Whether a device has said a word about a grid. -/
def podHas (s : State) (g : Grid) (dev : Nat) (w : PodWord) : Bool :=
  g.podNo.any fun k => s.defer.podSaid.contains ⟨dev, g.ctx, k, w⟩

/-- Whether all devices of a pod grid have said `each`, as its lowest-numbered device knows, or that device has said `all`
(R141, R163). -/
def podAgreed (s : State) (g : Grid) (each all : PodWord) : Bool :=
  let pod := podOf s g
  if lowest pod = s.firm.devNum then pod.all fun d => d == s.firm.devNum || podHas s g d each
  else podHas s g (lowest pod) all

/-- The same for the words of a pod commit. -/
def commitAgreed (s : State) (c : Commit) (each all : Bool → Nat → PodWord) : Bool :=
  ((gridOf s c.grid).map fun g => podAgreed s g (each (c.scope == .pod) c.n) (all (c.scope == .pod) c.n)).getD false

/-- POD_CLOSE_RELEASE: every team of the pod grid has arrived, as its lowest-numbered device tells this coordinator
(R163). -/
def execPodCloseRelease (cid : Nat) (s : State) : Host.Outcome State Fault Refusal :=
  match commitOf s cid with
  | none => .fault (.notEnabled "POD_CLOSE_RELEASE")
  | some c =>
    if !podCommit s c || c.podGo || !commitReady s c || podHeld s c || !commitAgreed s c .arrived .go then
      .fault (.notEnabled "POD_CLOSE_RELEASE")
    else .next (updCommit s cid fun k => { k with podGo := true })

/-- POD_COMMIT_COMPLETION: that device has every report, this one's among them, and sends completion (R163). -/
def execPodCommitCompletion (cid : Nat) (s : State) : Host.Outcome State Fault Refusal :=
  match commitOf s cid with
  | none => .fault (.notEnabled "POD_COMMIT_COMPLETION")
  | some c =>
    if !podCommit s c || c.podDone || !allAcked c || podHeld s c || !commitAgreed s c .applied .complete then
      .fault (.notEnabled "POD_COMMIT_COMPLETION")
    else .next (updCommit s cid fun k => { k with podDone := true })

end Sys2Proof.Machine
end

