-- ==== Sys2Proof/Machine/Launch.lean ====
section
/-!
DEFINITION. Launch records, what a core can hold, teams at their start, dispatch, placement and the end of a grid (R134 to
R141, R147, R148, R379 to R381, R419).
-/

namespace Sys2Proof.Machine

/-! ### Launch records (R137, R139) -/

/-- A launch record from its 128 bytes. -/
def lrecOf (b : List Byte) : LRec :=
  let f (off n : Nat) := natOfBytes (slice b off n)
  let w0 := f 0 4
  { ngrp := bitsAt w0 0 5 + 1, nprod := bitsAt w0 5 6, cores := bitAt w0 11, cunit := bitAt w0 12, msv := bitAt w0 13
    prio := bitsAt w0 14 2, bprod := bitsAt (f 4 4) 0 6, bcons := bitsAt (f 4 4) 8 6, abytes := f 8 4
    ctiles := bitsAt (f 0x0C 4) 0 5, wslots := bitsAt (f 0x0C 4) 8 7, deferq := f 0x10 4, tapeb := f 0x14 4
    gx := f 0x18 4, gy := f 0x1C 4, gz := f 0x20 4, gentry := BitVec.ofNat 64 (f 0x28 8)
    mentry := BitVec.ofNat 64 (f 0x30 8), argp := BitVec.ofNat 64 (f 0x38 8), cplctr := BitVec.ofNat 64 (f 0x40 8)
    wsbase := BitVec.ofNat 64 (f 0x48 8), wsbytes := f 0x50 4 }

/-- Whether a reserved bit of a record is set. -/
def lrecReserved (b : List Byte) : Bool :=
  let f (off n : Nat) := natOfBytes (slice b off n)
  bitsAt (f 0 4) 16 16 != 0 || bitsAt (f 4 4) 6 2 != 0 || bitsAt (f 4 4) 14 18 != 0 || bitsAt (f 0x0C 4) 5 3 != 0 ||
    bitsAt (f 0x0C 4) 15 17 != 0 || f 0x24 4 != 0 || f 0x54 44 != 0

/-- A budget code of a role (R137). -/
def budgetBad (groups code : Nat) : Bool :=
  if code = 0 then groups != 0 else decide (code < 2 ∨ 32 < code)

/-- The values outside their limits (R137, R139). -/
def lrecBad (l : LRec) : Bool :=
  decide (l.ngrp < l.nprod) || budgetBad l.nprod l.bprod || budgetBad (l.ngrp - l.nprod) l.bcons ||
    l.abytes % 4096 != 0 || decide (2 ^ 21 < l.abytes) || decide (16 < l.ctiles) || decide (64 < l.wslots) ||
    l.deferq % 64 != 0 || decide (557056 < l.deferq) || l.tapeb % 1024 != 0 || decide (2 ^ 18 < l.tapeb) ||
    l.gx == 0 || l.gy == 0 || l.gz == 0 || decide (2 ^ 32 < l.gx * l.gy * l.gz) ||
    l.gentry.toNat % 4 != 0 || decide (2 ^ 56 ≤ l.gentry.toNat) || (l.msv == (l.mentry == 0)) ||
    l.cplctr.toNat % 8 != 0 || l.wsbase.toNat % 16 != 0 || l.wsbytes % 16 != 0

/-! ### What a core can hold (R136) -/

/-- What a team needs of a core: B of each group in order, and the rest of R136. -/
structure Need where
  shape : List Nat
  asize : Nat
  tiles : Nat
  slots : Nat
  tapeb : Nat
  stream : Bool
  deriving DecidableEq, Repr

/-- What a grid's teams need. -/
def needOf (l : LRec) : Need :=
  { shape := (List.range l.ngrp).map fun g => 8 * (if g < l.nprod then l.bprod else l.bcons), asize := l.abytes
    tiles := l.ctiles, slots := l.wslots, tapeb := l.tapeb, stream := l.msv }

/-- What a responder needs (R291). -/
def respNeed (bresp : Nat) : Need := ⟨[8 * bresp], 0, 0, 0, 0, false⟩

/-- What stands on a core: per group its partition, the slots that it takes there (none once it has ended, R57) and its
registers, and the teams' other resources. -/
structure Held where
  groups : List (Nat × Nat × Nat)
  asize : Nat
  tiles : Nat
  slots : Nat
  streams : Nat
  tapeb : Nat
  deriving DecidableEq, Repr

/-- The teams that are resident on a core (R136). -/
def residents (s : State) (core : Nat) : List Team :=
  s.work.teams.filter fun t => t.core == core && (!t.ended || t.resp.isSome)

/-- The teams of a core whose A-buffer and tiles are taken: what one that has ended set going may still use them (R57,
R140, R242). -/
def bufHolders (s : State) (core : Nat) : List Team :=
  s.work.teams.filter fun t => t.core == core && (!t.ended || t.resp.isSome || bufPins s t.uid)

/-- The teams of a core whose slots are taken: a copy may still write those of one that has ended (R242, R258); that all
slots of such a team stay taken, and not only the copy's, is the model's choice (log entry 39). -/
def slotHolders (s : State) (core : Nat) : List Team :=
  s.work.teams.filter fun t => t.core == core && (!t.ended || t.resp.isSome || castPins s t.uid)

/-- What stands on a core. -/
def heldOn (s : State) (core : Nat) : Held :=
  let ts := residents s core
  let sum (f : Team → Nat) : Nat := ts.foldl (fun n t => n + f t) 0
  { groups := ts.flatMap fun t => t.groups.map fun g => (g.part, bit (!g.ended), g.bud)
    asize := (bufHolders s core).foldl (fun n t => n + t.al.asize) 0
    tiles := (bufHolders s core).foldl (fun n t => n + t.al.tiles.length) 0
    slots := (slotHolders s core).foldl (fun n t => n + t.al.slots.length) 0
    streams := sum fun t => bit t.stream.isSome, tapeb := sum fun t => t.al.tapeb }

/-- A core with a team added from partition `pb` on. -/
def Held.add (h : Held) (n : Need) (pb : Nat) : Held :=
  { groups := h.groups ++ (n.shape.zipIdx).map (fun p => ((pb + p.2) % 8, 1, p.1)), asize := h.asize + n.asize
    tiles := h.tiles + n.tiles, slots := h.slots + n.slots, streams := h.streams + bit n.stream, tapeb := h.tapeb + n.tapeb }

/-- A core with several teams of one shape added. -/
def Held.addMany (h : Held) (n : Need) (pb count : Nat) : Held := (List.range count).foldl (fun h _ => h.add n pb) h

/-- The limits of R136. -/
def Held.ok (h : Held) : Bool :=
  ((List.range 8).all fun p =>
    let l := h.groups.filter fun g => g.1 == p
    decide (l.foldl (fun n g => n + g.2.1) 0 ≤ 32) && decide (l.foldl (fun n g => n + g.2.2) 0 ≤ 1024)) &&
    decide (h.asize ≤ 2 ^ 21) && decide (h.tiles ≤ 16) && decide (h.slots ≤ 64) && decide (h.streams ≤ 4) &&
    decide (h.tapeb ≤ 2 ^ 18)

/-- An empty core. -/
def Held.empty : Held := ⟨[], 0, 0, 0, 0, 0⟩

/-- The partitions from which a team fits. -/
def fitsAt (h : Held) (n : Need) : List Nat := (List.range 8).filter fun pb => (h.add n pb).ok

/-- Whether a core can take a team (R136). -/
def coreFits (s : State) (core : Nat) (n : Need) : Bool := !(fitsAt (heldOn s core) n).isEmpty

/-- The numbers up to `k`, those near `a` first. -/
def nearFirst (a k : Nat) : List Nat :=
  (((List.range (k + 1)).flatMap fun d => [a + d, a - d]).filter fun c => decide (c ≤ k)).dedup

/-- Whether a core that holds `h` can take `k` more teams of one shape, each from one of the partitions `pbs` on (R136).
-/
def canPack (n : Need) : List Nat → Nat → Held → Bool
  | [], k, _ => k == 0
  | pb :: r, k, h =>
    (nearFirst (k / (r.length + 1)) k).any fun c =>
      let h' := h.addMany n pb c
      h'.ok && canPack n r (k - c) h'

/-- LFIT (R139): one team fits no empty core, or with CORES = 1 the `count` teams do not all fit 768 empty cores. -/
def lfitBad (l : LRec) (count : Nat) : Bool :=
  let n := needOf l
  let per := ceilDiv count Config.cores
  (fitsAt Held.empty n).isEmpty ||
    (l.cores && (decide (256 < per * l.ngrp) || !canPack n (List.range 8) per Held.empty))

/-! ### Teams at their start (R138, R140, R291) -/

/-- Whether a place of a buffer keeps what its team's context last left there (R140). -/
def keepsLeft (c : Core) (ctx kind n : Nat) (keep : Bool) : Bool := keep && c.left.contains (kind, n, ctx)

/-- Note the context that uses a place of a buffer. -/
def noteLeft (ctx kind : Nat) (c : Core) (n : Nat) : Core :=
  { c with left := (kind, n, ctx) :: c.left.filter fun x => !(x.1 == kind && x.2.1 == n) }

/-- The buffers of a team at its start: what the same context left, or zero (R140). -/
def startBuffers (ctx : Nat) (a : Alloc) (keep : Bool) (c : Core) : Core :=
  let pages := (List.range (a.asize / 4096)).map fun i => a.abase / 4096 + i
  let clr (kind : Nat) (ns : List Nat) (size : Nat) (m : Memory) : Memory :=
    (ns.filter fun n => !keepsLeft c ctx kind n keep).foldl (fun m n => memClear m (n * size) size) m
  let c1 := { c with abuf := clr 0 pages 4096 c.abuf, cbuf := clr 1 a.tiles 65536 c.cbuf
                     wbuf := clr 2 a.slots 16896 c.wbuf }
  let note (kind : Nat) (ns : List Nat) (c : Core) : Core := ns.foldl (noteLeft ctx kind) c
  note 2 a.slots (note 1 a.tiles (note 0 pages c1))

/-- A trap record that holds nothing. -/
def TrapRec.empty : TrapRec :=
  { cause := 0, rev := false, pc := 0, mask := 0, smask := 0, em := 0, scause := 0, addr := 0, rpc := 0, rep := 0, skid := 0
    info := 0, tape := [] }

/-- A group at team start (R140). -/
def Group.start (clock gid part : Nat) (producer : Bool) (bud : Nat) (entry wsp wslim : Dword) : Group :=
  { gid := gid, part := part, producer := producer, bud := bud
    r := { v := Vector.replicate 256 (Vector.replicate 64 0), s := Vector.replicate 64 0, p := Vector.replicate 8 0
           sp := Vector.replicate 8 false, em := -1, pc := entry, fmode := 0, status := 0 }
    w := { wb := 0, fdepth := 0, frsz := 0, wsp := wsp, wslim := wslim }
    f := { cf := Vector.replicate 12 0, flagA := none, flagB := none, wait := 0, hdrRun := 0 }
    i := { last := none, hold := 0, ready := clock, yield := none, memReady := 0, pend := [], dsts := [], memHold := [], allHold := [] }
    t := { pending := none, tr := TrapRec.empty, mode := false, scr := Vector.replicate 4 0, inHandler := false, replay := none, skid := 0
           entry := 0 }
    e := { rev := false, batch := 0, pendCopies := [], batches := [], rb := 0, lp := Vector.replicate 16 none
           seen := Vector.replicate 16 0 }
    undo := [], ended := false }

/-- A matrix stream at team start (R140, R201). -/
def MStream.start (ctxNo : Nat) (entry : Dword) : MStream :=
  { ctxNo := ctxNo, pc := entry, x := Vector.replicate 32 0, mkr := Vector.replicate 4 0, nkr := Vector.replicate 4 0
    kkr := Vector.replicate 4 0, knr := Vector.replicate 4 0, unf := .plain 0, loops := [], lp := Vector.replicate 16 none
    mops := [], drains := [], tileFree := [], busy := [], ints := []
    seen := Vector.replicate 16 0, undef := [], hold := 0, ended := false }

/-- A team with the parts that every start shares (R140). -/
def Team.start (uid ctx grid teamId core prio : Nat) (al : Alloc) (groups : List Group) (stream : Option MStream)
    (d : TeamDef) (resp : Option Resp) : Team :=
  { uid := uid, ctx := ctx, grid := grid, teamId := teamId, core := core, prio := prio, al := al, groups := groups
    stream := stream, bars := Vector.replicate 16 ⟨0, 0, 0⟩, queues := Vector.replicate 16 ⟨none, []⟩
    tape := [], wins := [], writes := []
    d := d, halt := .running, srec := none, resp := resp, ended := false }

/-- A team's deferred-path state at its start (R122, R153). -/
def TeamDef.start (tag : Nat) (gridUnit : Bool) (quota : Nat) : TeamDef :=
  { tag := tag, gridUnit := gridUnit, nTeam := 0, nGrid := 0, nPod := 0, open' := 0, made := [], quota := quota, popped := []
    opened := [], asked := [] }

/-- The lowest sequencer context that no stream of a core holds (R239). -/
def freeCtxNo (s : State) (core : Nat) : Nat :=
  ((List.range 4).find? fun k => (residents s core).all fun t =>
    match t.stream with
    | some m => m.ctxNo != k
    | none => true).getD 0

/-- The groups of a grid's team: group g on partition (pb + g) mod 8, its backing store as R138 gives it. -/
def gridGroups (clock : Nat) (l : LRec) (teamId pb : Nat) : List Group :=
  (List.range l.ngrp).map fun g =>
    let wsp := l.wsbase + BitVec.ofNat 64 ((teamId * 32 + g) * l.wsbytes)
    Group.start clock g ((pb + g) % 8) (g < l.nprod) (8 * (if g < l.nprod then l.bprod else l.bcons)) l.gentry wsp
      (wsp + BitVec.ofNat 64 l.wsbytes)

/-- Whether a place can be given to a team: it fits, and its A-buffer range, tiles and slots are free (R136, R148,
R242). -/
def placeOk (s : State) (n : Need) (p : Place) : Bool :=
  let ts := bufHolders s p.core
  decide (p.core < Config.cores) && decide (p.pb < 8) && ((heldOn s p.core).add n p.pb).ok &&
    p.abase % 4096 == 0 && decide (p.abase + n.asize ≤ 2 ^ 21) &&
    ts.all (fun t => decide (p.abase + n.asize ≤ t.al.abase ∨ t.al.abase + t.al.asize ≤ p.abase) || n.asize == 0 ||
      t.al.asize == 0) &&
    p.tiles.length == n.tiles && p.tiles.Nodup && p.tiles.all (fun k => decide (k < 16) &&
      ts.all fun t => !t.al.tiles.contains k) &&
    p.slots.length == n.slots && p.slots.Nodup && p.slots.all (fun k => decide (k < 64) &&
      (slotHolders s p.core).all fun t => !t.al.slots.contains k)

/-- A launch discards its context's instruction lines and L1 lines on a core that it reaches (R9, R187). -/
def reachCore (s : State) (g : Grid) (core : Nat) : State :=
  if g.reached.contains core then s
  else
    let s := updGrid s g.uid fun x => { x with reached := core :: x.reached }
    updCore s core fun c => { l1DropCtx g.ctx c with icache := c.icache.filter fun l => l.ctx != g.ctx }

/-- Start a team of a grid at a place (R138, R140). -/
def startTeam (s : State) (g : Grid) (teamId : Nat) (p : Place) : State :=
  let l := g.lr
  let al : Alloc := { abase := p.abase, asize := l.abytes, tiles := p.tiles, slots := p.slots, tapeb := l.tapeb }
  let tag := (if l.cunit then g.tag else unitTag s g.uid (some teamId)).getD 0
  let t := Team.start s.nextId g.ctx g.uid teamId p.core l.prio al (gridGroups s.clock l teamId p.pb)
    (if l.msv then some (MStream.start (freeCtxNo s p.core) l.mentry) else none)
    (TeamDef.start tag l.cunit (if l.cunit then 0 else l.deferq)) none
  let s := updCore (bumpId (reachCore s g p.core)) p.core (startBuffers g.ctx al p.keep)
  { s with work := { s.work with teams := s.work.teams ++ [t] } }

/-! ### Launching a grid (R139, R381, R419) -/

/-- A launch record read at its home: its bytes, or the cause of its address or pages (R139). -/
def readLrec (s : State) (ctx : Nat) (a : Dword) : Except (BitVec 9) (List Byte) :=
  if a.toNat % 64 != 0 then .error (causeCode .lrecbad)
  else
    match homeKey s ctx a.toNat false, homeKey s ctx (a.toNat + 64) false with
    | .ok k, .ok j => .ok (memGetN s.mem k 64 ++ memGetN s.mem j 64)
    | .error e, .error f => .error (if f < e then f else e)
    | .error e, _ => .error e
    | _, .error f => .error f

/-- Whether the home of a record holds the read back (R164). -/
def lrecWaits (s : State) (ctx : Nat) (a : Dword) : Bool :=
  [a.toNat, a.toNat + 64].any fun v => match homeKey s ctx v false with
    | .ok k => homeWaits s k
    | .error _ => false

/-- A grid as its launch leaves it. -/
def newGrid (uid ctx : Nat) (l : LRec) (a : Dword) (podNo : Option Nat) (cmd : Option (BitVec 32 × Dword))
    (node : Option Nat) (fail : Option (BitVec 9)) : Grid :=
  { uid := uid, ctx := ctx, seq := 0, lr := l, recAddr := a, phase := .waitUnit, tag := none, made := [], cursor := 0
    again := [], ended := [], podNo := podNo, cmd := cmd, node := node, fail := fail, reached := [], code := [] }

/-- The check of a record's bytes (R139). -/
def lrecCheck (b : List Byte) (count : LRec → Nat) : Option (BitVec 9) :=
  let l := lrecOf b
  if lrecReserved b || lrecBad l then some (causeCode .lrecbad)
  else if lfitBad l (count l) then some (causeCode .lfit)
  else none

/-- A launch that fails: its command or node learns the cause, and a nonzero CPLCTR is poisoned (R139). -/
def launchFails (s : State) (g : Grid) (k : BitVec 9) : State :=
  let s := if g.lr.cplctr = 0 then s else poisonAt s g.ctx g.lr.cplctr
  let s := match g.cmd with
    | some (host, seq) => finishCmd s host seq (causeStatus k)
    | none => s
  tellNode { s with work := { s.work with grids := s.work.grids.filter fun x => x.uid != g.uid } } g.ctx g.node (some k)

/-- A grid whose record has passed takes its tag and admission, or waits for them (R153, R167, R381). -/
def enterUnit (s : State) (g : Grid) : State :=
  if !g.lr.cunit || (localTeams s g).isEmpty then gridStarted s g.uid
  else
    let wait := updDefer s fun d => { d with waiting := d.waiting ++ [(g.uid, none)] }
    if mapsPeer s g.ctx then wait
    else match takeTag s g.uid none g.lr.deferq with
      | some s1 => gridStarted s1 g.uid
      | none => wait

/-- Launch a grid from a record address, for a command or for a node (R139, R381). A pod grid waits for the joint check
(R419). -/
def launchGrid (s : State) (ctx : Nat) (a : Dword) (podNo : Option Nat) (cmd : Option (BitVec 32 × Dword))
    (node : Option Nat) : State :=
  let uid := s.nextId
  let pod := if podNo.isSome then ((ctxOf s ctx).map fun c => c.pod).getD [] else []
  let b := readLrec s ctx a
  let l := match b with
    | .ok b => lrecOf b
    | .error _ => lrecOf []
  let here (l : LRec) : Nat :=
    let n := l.gx * l.gy * l.gz
    if pod.isEmpty then n
    else ((List.range pod.length).filter fun i => pod.getD i 0 == s.firm.devNum).foldl
      (fun k i => k + (n + pod.length - 1 - i) / pod.length) 0
  let fail := match b with
    | .ok b => lrecCheck b here
    | .error k => some k
  let g := newGrid uid ctx l a podNo cmd node fail
  let s := bumpId s
  if podNo.isSome then { s with work := { s.work with grids := s.work.grids ++ [{ g with phase := .waitPod }] } }
  else match fail with
    | some k => launchFails s g k
    | none => enterUnit { s with work := { s.work with grids := s.work.grids ++ [g] } } g

/-- A launch record without the fields that need not agree between devices (R419). -/
def LRec.agreed (l : LRec) : LRec := { l with argp := 0, cplctr := 0, wsbase := 0 }

/-- The record of a pod grid on this device, where it could be read. -/
def ownRec (g : Grid) : Option LRec := if g.lr = lrecOf [] then none else some g.lr

/-- What a device has found of a pod grid's record, as this one knows it: its own check, and what peers have said. -/
def checkOf (s : State) (g : Grid) (dev : Nat) : Option (Nat × Option LRec) :=
  if dev = s.firm.devNum then some ((g.fail.map BitVec.toNat).getD 0, ownRec g)
  else s.defer.podSaid.findSome? fun x =>
    if x.dev = dev ∧ x.ctx = g.ctx ∧ some x.podNo = g.podNo then
      (match x.word with
       | .checked k lr => some (k, lr)
       | _ => none)
    else none

/-- Whether the records that were read disagree in a field that must agree (R419). -/
def disagree (l : List (Nat × Option LRec)) : Bool :=
  match l.filterMap fun x => x.2 with
  | [] => false
  | r :: rs => rs.any fun x => x.agreed != r.agreed

/-- The outcome of the joint check of a pod grid, once this device knows it (R419): as the lowest-numbered device every
device's check, LRECBAD where the records disagree (it goes before a device's own failure; log entry 14), else the status
of the lowest-numbered device that failed; as another one what that device has told. 0: every device has passed. -/
def podOutcome (s : State) (g : Grid) : Option Nat :=
  let pod := podOf s g
  if lowest pod = s.firm.devNum then
    let devs := pod.mergeSort fun a b => decide (a ≤ b)
    let l := devs.filterMap (checkOf s g)
    if l.length ≠ devs.length then none
    else if disagree l then some (causeCode .lrecbad).toNat
    else some (((l.find? fun x => x.1 != 0).map fun x => x.1).getD 0)
  else s.defer.podSaid.findSome? fun x =>
    if x.dev = lowest pod ∧ x.ctx = g.ctx ∧ some x.podNo = g.podNo then
      (match x.word with
       | .outcome k => some k
       | _ => none)
    else none

/-- The pod grid that awaits the outcome of its joint check. -/
def awaitsPod (s : State) (ctx k : Nat) : Option Grid :=
  s.work.grids.find? fun g => g.ctx == ctx && g.podNo == some k && g.phase == .waitPod

/-- POD_LAUNCH_OUTCOME: every device runs pod grid k, or completes its LAUNCH with the failing device's status (R419). -/
def execPodLaunchOutcome (ctx k : Nat) (failed : Option Nat) (s : State) : Host.Outcome State Fault Refusal :=
  match awaitsPod s ctx k with
  | none => .fault (.notEnabled "POD_LAUNCH_OUTCOME")
  | some g =>
    if podOutcome s g != some (failed.getD 0) || failed == some 0 then .fault (.notEnabled "POD_LAUNCH_OUTCOME")
    else match failed with
      | some c => .next (forgetPod (launchFails s g (BitVec.ofNat 9 c)) g)
      | none => .next (enterUnit (updGrid s g.uid fun x => { x with phase := .waitUnit }) g)

/-! ### Dispatch (R379, R380) -/

/-- Whether a context is in DRAIN (R383). -/
def draining (s : State) (ctx : Nat) : Bool := ((ctxOf s ctx).map fun c => c.drain.isSome).getD false

/-- The next team that a grid hands out: withdrawn ones first, then from the cursor upward (R379, R386, R419). -/
def nextTeam (s : State) (g : Grid) : Option Nat :=
  match g.again with
  | t :: _ => some t
  | [] => (localTeams s g).find? fun t => decide (g.cursor ≤ t)

/-- A grid after handing out a team. -/
def handedOut (t : Nat) (g : Grid) : Grid :=
  match g.again with
  | _ :: r => { g with again := r }
  | [] => { g with cursor := t + 1 }

/-- Entries of a cluster's queue. -/
def clusterQueue (s : State) (cluster : Nat) : List QTeam := (aGet s.work.disp.queues cluster).getD []

/-- Replace a cluster's queue. -/
def setQueueOf (s : State) (cluster : Nat) (l : List QTeam) : State :=
  { s with work := { s.work with disp := { s.work.disp with queues := aSet s.work.disp.queues cluster l } } }

/-- TEAM_HANDOUT: the next team of a grid goes to cluster (g + t) mod 96 when its queue has room; a team that is its own
unit first takes its tag and admission, or begins to wait for them (R153, R167, R379). -/
def execTeamHandout (grid : Nat) (s : State) : Host.Outcome State Fault Refusal :=
  match gridOf s grid with
  | none => .fault (.notEnabled "TEAM_HANDOUT")
  | some g =>
    match nextTeam s g with
    | none => .fault (.notEnabled "TEAM_HANDOUT")
    | some t =>
      let cl := (g.seq + t) % Config.clusters
      let q := clusterQueue s cl
      if g.phase != .dispatch || g.lr.cores || draining s g.ctx || 16 ≤ q.length then .fault (.notEnabled "TEAM_HANDOUT")
      else
        let go (s : State) : Host.Outcome State Fault Refusal :=
          let s := setQueueOf (updGrid s grid (handedOut t)) cl (q ++ [⟨grid, t, s.work.disp.order, s.clock⟩])
          .next { s with work := { s.work with disp := { s.work.disp with order := s.work.disp.order + 1 } } }
        let wait : State := updDefer s fun d => { d with waiting := d.waiting ++ [(grid, some t)] }
        if g.lr.cunit || (unitTag s grid (some t)).isSome then go s
        else if s.defer.waiting.contains (grid, some t) then .fault (.notEnabled "TEAM_HANDOUT")
        else if mapsPeer s g.ctx then .next wait
        else match takeTag s grid (some t) g.lr.deferq with
          | some s1 => go s1
          | none => .next wait

/-- Since when only hot cores have fitted what waits (R380). -/
def hotSince (s : State) (k : HotKey) : Option Nat := (s.work.disp.hotWait.find? fun x => x.1 == k).map fun x => x.2

/-- Whether what waits may take a core: a cool one, or a hot one where only hot ones fit (R380). -/
def hotOk (s : State) (k : HotKey) (core : Nat) : Bool := !(coreOf s core).hot || (hotSince s k).isSome

/-- The clock at which it takes the core: on a hot one, 1 ms after only hot ones fitted (R380). -/
def hotClock (s : State) (k : HotKey) (core : Nat) : State :=
  if (coreOf s core).hot then { s with clock := max s.clock ((hotSince s k).getD s.clock + 800000) } else s

/-- Whether only hot cores of a list fit a team. -/
def hotOnly (s : State) (cores : List Nat) (n : Need) : Bool :=
  let fit := cores.filter fun c => coreFits s c n
  !fit.isEmpty && fit.all fun c => (coreOf s c).hot

/-- The place of a census in the order in which censuses reached a core. -/
def visitOrder (c : Core) (cid : Nat) : Nat := c.census.findIdx fun p => p.1 == cid

/-- Whether a responder of an entry runs. -/
def respRuns (s : State) (core ent : Nat) : Bool :=
  s.work.teams.any fun t => match t.resp with
    | some r => r.core == core && r.ent == ent
    | none => false

/-- The next responder of a core: census arrival order, then entry order, entries with a responder running left out
(R327). -/
def nextResp (s : State) (core : Nat) : Option (Nat × Nat × Bool) :=
  let c := coreOf s core
  let key (x : Nat × Nat × Bool) : Nat := visitOrder c x.1 * 512 + x.2.1
  (c.respQ.filter fun x => !respRuns s core x.2.1).foldl (fun a x => match a with
    | none => some x
    | some y => if key x < key y then some x else some y) none

/-- What the next responder of a core needs. -/
def nextNeed (s : State) (core : Nat) : Option Need :=
  (nextResp s core).bind fun x => (s.cen.open'.find? fun c => c.id == x.1).map fun c => respNeed c.bresp

/-- Whether a responder of a core goes before its ordinary teams: it fits, and where the core is hot it has waited 1 ms
(R327, R380). -/
def respFirst (s : State) (core : Nat) : Bool :=
  match nextResp s core, nextNeed s core with
  | some x, some n => coreFits s core n &&
      (!(coreOf s core).hot || (hotSince s (.resp core x.1 x.2.1)).any fun t => decide (t + 800000 ≤ s.clock))
  | _, _ => false

/-- The team that a dispatcher would place: the highest PRIO, then the earliest handed out (R379). -/
def queueTop (s : State) (l : List QTeam) : Option QTeam :=
  let prio (e : QTeam) : Nat := ((gridOf s e.grid).map fun g => g.lr.prio).getD 0
  l.foldl (fun a e => match a with
    | none => some e
    | some x => if prio x < prio e || (prio x == prio e && e.order < x.order) then some e else some x) none

/-- Whether one core comes before another: fewer resident groups, then the lower number; on hot cores the cooler first
(R379, R380). -/
def corePrefers (s : State) (a b : Nat) : Bool :=
  let groups (c : Nat) : Nat := ((residents s c).flatMap fun t => t.groups.filter fun g => !g.ended).length
  let ha := (coreOf s a).hot
  let hb := (coreOf s b).hot
  if ha != hb then hb
  else if ha && (coreOf s a).temp != (coreOf s b).temp then decide ((coreOf s a).temp < (coreOf s b).temp)
  else if groups a ≠ groups b then decide (groups a < groups b)
  else decide (a ≤ b)

/-- The core that a dispatcher chooses among some (R379, R380). -/
def chooseCore (s : State) (cores : List Nat) (n : Need) : Option Nat :=
  (cores.filter fun c => coreFits s c n).foldl (fun a c => match a with
    | none => some c
    | some x => if corePrefers s x c then some x else some c) none

/-- The cores of a cluster. -/
def clusterCores (cluster : Nat) : List Nat := (List.range 8).map fun i => 8 * cluster + i

/-- TEAM_PLACEMENT: a dispatcher places the head of its queue on the core it chooses, responders first there; on a hot
core only after only hot ones have fitted for 1 ms (R327, R379, R380). -/
def execTeamPlacement (cluster : Nat) (p : Place) (s : State) : Host.Outcome State Fault Refusal :=
  match queueTop s (clusterQueue s cluster) with
  | none => .fault (.notEnabled "TEAM_PLACEMENT")
  | some e =>
    match gridOf s e.grid with
    | none => .fault (.notEnabled "TEAM_PLACEMENT")
    | some g =>
      if chooseCore s (clusterCores cluster) (needOf g.lr) != some p.core || !placeOk s (needOf g.lr) p ||
          draining s g.ctx || respFirst s p.core || !hotOk s (.team e.grid e.team) p.core then
        .fault (.notEnabled "TEAM_PLACEMENT")
      else
        let s := hotClock s (.team e.grid e.team) p.core
        let s := setQueueOf s cluster ((clusterQueue s cluster).filter fun x => x != e)
        .next (startTeam s g e.team p)

/-- The longest queue of the device, the lowest cluster on ties (R379). -/
def longestQueue (s : State) : Option (Nat × List QTeam) :=
  s.work.disp.queues.foldl (fun a x => match a with
    | none => if x.2.isEmpty then none else some x
    | some y => if y.2.length < x.2.length then some x else some y) none

/-- DISPATCH_STEAL: an idle dispatcher takes the head team of the longest queue when one of its cores can place it; 40 ck
(R379). -/
def execDispatchSteal (cluster : Nat) (s : State) : Host.Outcome State Fault Refusal :=
  match longestQueue s with
  | none => .fault (.notEnabled "DISPATCH_STEAL")
  | some (from', l) =>
    match queueTop s l with
    | none => .fault (.notEnabled "DISPATCH_STEAL")
    | some e =>
      let need := ((gridOf s e.grid).map fun g => needOf g.lr).getD (respNeed 32)
      if !(clusterQueue s cluster).isEmpty || decide (Config.clusters ≤ cluster) || from' == cluster ||
          (chooseCore s (clusterCores cluster) need).isNone then .fault (.notEnabled "DISPATCH_STEAL")
      else
        let s := setQueueOf s from' (l.filter fun x => x != e)
        .next (setQueueOf { s with clock := s.clock + 40 } cluster [e])

/-- How many teams of one shape a core still holds. -/
def coreRoom (s : State) (n : Need) (limit core : Nat) : Nat :=
  ((List.range (limit + 1)).reverse.find? fun k => canPack n (List.range 8) k (heldOn s core)).getD 0

/-- Whether the cool cores do not hold a number of teams. -/
def coolShort (s : State) (n : Need) (count : Nat) : Bool :=
  decide (((List.range Config.cores).filter fun c => !(coreOf s c).hot).foldl (fun k c => k + coreRoom s n (count - k) c) 0
    < count)

/-- Whether a hot core may take the next team of a co-resident grid: no cool one can, and it is the coolest that can. -/
def hotNext (s : State) (n : Need) (core : Nat) : Bool :=
  (List.range Config.cores).all fun c =>
    !coreFits s c n || ((coreOf s c).hot && decide ((coreOf s core).temp ≤ (coreOf s c).temp))

/-- Place the teams of a co-resident grid one by one: each on a core that holds it, responders first there, on a hot one
only where no cool core could. -/
def placeAll (g : Grid) : List (Nat × Place) → State → Option State
  | [], s => some s
  | (t, p) :: r, s =>
    let n := needOf g.lr
    if !placeOk s n p || respFirst s p.core || ((coreOf s p.core).hot && !hotNext s n p.core) then none
    else
      if g.lr.cunit || (unitTag s g.uid (some t)).isSome then placeAll g r (startTeam s g t p) else none

/-- CORESIDENT_PLACEMENT: every team of a co-resident grid in one step; on hot cores only 1 ms after the cool ones did not
hold it (R147, R379, R380). -/
def execCoresidentPlacement (grid : Nat) (ps : List Place) (s : State) : Host.Outcome State Fault Refusal :=
  match gridOf s grid with
  | none => .fault (.notEnabled "CORESIDENT_PLACEMENT")
  | some g =>
    let ts := (localTeams s g).filter fun t => decide (g.cursor ≤ t)
    if g.phase != .dispatch || !g.lr.cores || draining s g.ctx || ts.length != ps.length || ts.isEmpty ||
        !(ps.all fun p => hotOk s (.grid grid) p.core) then
      .fault (.notEnabled "CORESIDENT_PLACEMENT")
    else match placeAll g (ts.zip ps) (ps.foldl (fun s p => hotClock s (.grid grid) p.core) s) with
      | some s1 => .next (updGrid s1 grid fun x => { x with cursor := g.lr.gx * g.lr.gy * g.lr.gz })
      | none => .fault (.notEnabled "CORESIDENT_PLACEMENT")

/-! ### The end of a grid (R141) -/

/-- Whether a copy of a team is unfinished. -/
def hasCopies (s : State) (tid : Nat) : Bool :=
  s.work.copies.any fun c => !c.done && (c.owner.map fun o => o.1) == some tid

/-- Drop ended teams of grids that are gone, once nothing uses their buffers and their copies and operations have ended.
-/
def sweepTeams (s : State) : State :=
  { s with work := { s.work with teams := s.work.teams.filter fun t =>
      !(t.ended && t.resp.isNone && (gridOf s t.grid).isNone && !castPins s t.uid && !hasCopies s t.uid &&
        !s.work.ops.any fun o => o.tid == t.uid) } }

/-- Whether every implicit commit of a grid has completed (R141, R168). -/
def commitsDone (s : State) (grid : Nat) : Bool :=
  !(s.defer.tags.any fun t => t.grid == grid) && !(s.defer.commits.any fun c => c.grid == grid)

/-- GRID_COMPLETION: every team has ended, on every device of a pod grid, as its lowest-numbered device knows and tells,
and the implicit commits have completed; CPLCTR receives 1, which is no release (R141, R168). DESIGN CHOICE: the drains of
its streams stand at their homes by then, so that a host which waits for CPLCTR alone reads no older contents, which
R221's last row allows (log entry 39). -/
def execGridCompletion (grid : Nat) (s : State) : Host.Outcome State Fault Refusal :=
  match gridOf s grid with
  | none => .fault (.notEnabled "GRID_COMPLETION")
  | some g =>
    if g.phase != .dispatch || g.ended.length != (localTeams s g).length || !commitsDone s grid ||
        (decide (1 < (podOf s g).length) && (podHeldBy s g || !podAgreed s g .ended .allEnded)) ||
        (g.lr.cplctr != 0 && counterWaits s g.ctx g.lr.cplctr) then .fault (.notEnabled "GRID_COMPLETION")
    else
      let s := if g.lr.cplctr = 0 then s else addAt s g.ctx g.lr.cplctr
      let s := forgetPod { s with work := { s.work with grids := s.work.grids.filter fun x => x.uid != grid } } g
      .next (sweepTeams (tellNode s g.ctx g.node none))

end Sys2Proof.Machine
end

