-- ==== Sys2Proof/Machine/Directory.lean ====
section
/-!
DEFINITION. The tile directory and DIRMOVE (R286 to R288, R322, R323, R329).
-/

namespace Sys2Proof.Machine

/-! ### Directory slots -/

/-- Change the directory and census state. -/
def updCen (s : State) (f : CensusSt → CensusSt) : State := { s with cen := f s.cen }

/-- A slot that nothing has used. -/
def DirEnt.empty (core ent : Nat) : DirEnt :=
  { core := core, ent := ent, v := false, ctx := 0, gen := 0, key := 0, loc := 0, dens := 0, mov := false, run := false
    ans := [], more := [] }

/-- A directory slot. -/
def dirOf (s : State) (core ent : Nat) : DirEnt :=
  (s.cen.dir.find? fun e => e.core == core && e.ent == ent).getD (DirEnt.empty core ent)

/-- Replace a directory slot. -/
def setDir (s : State) (e : DirEnt) : State :=
  updCen s fun c =>
    { c with dir := if c.dir.any fun x => x.core == e.core && x.ent == e.ent then
        c.dir.map fun x => if x.core = e.core ∧ x.ent = e.ent then e else x else c.dir ++ [e] }

/-- A freed slot: its generation advances modulo 256, its ANS is cleared (R322). -/
def DirEnt.freed (e : DirEnt) : DirEnt := { DirEnt.empty e.core e.ent with gen := e.gen + 1 }

/-- The lowest free slot of a core. -/
def freeEnt (s : State) (core : Nat) : Option Nat := (List.range 512).find? fun i => !(dirOf s core i).v

/-- A directory handle (R286). -/
def handleOf (e : DirEnt) : Dword := BitVec.ofNat 64 (e.gen.toNat * 2 ^ 19 + e.core * 2 ^ 9 + e.ent)

/-- The entry that a handle names in a context, unless it is stale (R286). -/
def handleEnt (s : State) (ctx : Nat) (h : Dword) : Option DirEnt :=
  let e := dirOf s (bitsAt h.toNat 9 10) (bitsAt h.toNat 0 9)
  if bitsAt h.toNat 27 37 = 0 ∧ bitsAt h.toNat 9 10 < Config.cores ∧ e.v ∧ e.ctx = ctx ∧
      e.gen.toNat = bitsAt h.toNat 19 8 ∧ !e.mov then some e
  else none

/-- No entry, and a stale DIRMOVE (R287, R288). -/
def noHandle : Dword := -1
def staleHandle : Dword := -2

/-! ### DIRINS, DIRDEL, DIRLOOK (R287) -/

/-- The issue facts of a directory instruction: it waits for no memory order. -/
def dirIss (row : String) (h : Hdr) (wr : Bool) : Iss := { row := row, h := h, ll := true, wr := wr, mem := true }

def execDirins (h : Hdr) (d key : Nat) (loc : Src) (dens : BitVec 8) (s : State) : Host.Outcome State Fault Refusal :=
  issue (dirIss "DIRINS" h true) (fun c s1 => .done (startOp c (.dirins d (c.s key) (c.srcS loc) dens) s1)) s

def execDirdel (h : Hdr) (d : Nat) (a : Src) (s : State) : Host.Outcome State Fault Refusal :=
  issue (dirIss "DIRDEL" h true) (fun c s1 => .done (startOp c (.dirdel d (c.srcS a)) s1)) s

/-- DIRLOOK: 0 .loc, 1 .dens, 2 .key; decoding refuses mode 3 (R287). -/
def execDirlook (h : Hdr) (mode d : Nat) (a b : Src) (s : State) : Host.Outcome State Fault Refusal :=
  issue (dirIss "DIRLOOK" h true) (fun c s1 => .done (startOp c (.dirlook d mode (c.srcS a) (c.srcS b)) s1)) s

/-! ### DIRMOVE (R288, R323) -/

/-- DIRMOVE: a slot of the target is reserved at issue, where it has one free. -/
def execDirmove (h : Hdr) (d a core : Nat) (loc : Src) (s : State) : Host.Outcome State Fault Refusal :=
  issue (dirIss "DIRMOVE" h true) (fun c s1 =>
    let tc := (c.s core).toNat
    if Config.cores ≤ tc then emTrap c .dirbad
    else
      let ent := freeEnt s1 tc
      let m : DirMove :=
        { id := s1.nextId, handle := c.s a, toCore := tc, toEnt := ent, loc := c.srcS loc, ctx := c.t.ctx, left := false
          fromCore := 0, key := 0, dens := 0, ans := [], more := [], waits := [] }
      let s2 := match ent with
        | some i => setDir s1 { dirOf s1 tc i with v := true, mov := true, ctx := c.t.ctx }
        | none => s1
      let s3 := bumpId (updCen s2 fun k => { k with moves := k.moves ++ [m] })
      .done (startOp c (.dirmove d m.id) s3)) s

/-- A DIRMOVE under way. -/
def moveOf (s : State) (id : Nat) : Option DirMove := s.cen.moves.find? fun m => m.id == id

/-- The operation of a DIRMOVE. -/
def moveOp (s : State) (id : Nat) : Option Op :=
  s.work.ops.find? fun o => match o.kind with
    | .dirmove _ k => k == id
    | _ => false

/-- The register of a DIRMOVE. -/
def moveDst (o : Op) : Nat :=
  match o.kind with
  | .dirmove d _ => d
  | _ => 0

/-- The handle that a directory operation names. -/
def namesHandle (s : State) : OpKind → Option Dword
  | .dirdel _ h => some h
  | .dirmove _ id => (moveOf s id).map fun m => m.handle
  | .dirlook _ mode a _ => if mode = 2 then none else some a
  | _ => none

/-- Whether an operation's turn at the directory has not come: its group named the same handle before, or inserted
entries before it looks up a key (R323). -/
def behindDir (s : State) (o : Op) : Bool :=
  (earlier s o).any fun x =>
    (match namesHandle s x.kind, namesHandle s o.kind with
     | some a, some b => a == b && (match x.kind with
        | .dirmove _ id => !((moveOf s id).map fun m => m.left).getD false
        | _ => true)
     | _, _ => false) ||
    (match x.kind, o.kind with
     | .dirins _ _ _ _, .dirlook _ mode _ _ => mode == 2
     | .dirins _ _ _ _, .dirins _ _ _ _ => true
     | _, _ => false)

/-- Censuses that are open on the device (R288, R330). -/
def isOpen (s : State) (id : Nat) : Bool := s.cen.open'.any fun c => c.id == id

/-- Censuses that are open at a core: those whose close it has not acknowledged (R330). -/
def isOpenAt (s : State) (core id : Nat) : Bool := s.cen.open'.any fun c => c.id == id && !c.closed.contains core

/-- Whether an entry's DIRMOVE is held: a responder for it is queued or runs, or it has answered more than four censuses
that are still open (R288). -/
def moveHeld (s : State) (e : DirEnt) : Bool := e.run || decide (4 < ((e.ans ++ e.more).filter (isOpen s)).length)

/-- The context of an operation's team. -/
def opCtx (s : State) (o : Op) : Nat := ((teamOf s o.tid).map fun t => t.ctx).getD 0

/-- The core of an operation's team. -/
def opCore (s : State) (o : Op) : Nat := ((teamOf s o.tid).map fun t => t.core).getD 0

/-- The entry that DIRLOOK.key finds (R287). -/
def lookKey (s : State) (core ctx : Nat) (a b : Dword) : Option DirEnt :=
  ((List.range 512).map (dirOf s core)).find? fun e => e.v && !e.mov && e.ctx == ctx && e.key &&& b == a &&& b

/-- A directory operation completes; a DIRMOVE does so here only where nothing moves: a stale handle, then a full target,
and a reserved slot is freed (R287, R288). -/
def dirFinish (s : State) (o : Op) : Option State :=
  if behindDir s o then none
  else
    let fin (s : State) (d : Nat) (x : Dword) : Option State := some (endOp (writeNow s o [.s d x]) o)
    match o.kind with
    | .dirins d key loc dens =>
      let core := opCore s o
      match freeEnt s core with
      | none => fin s d noHandle
      | some i =>
        let e : DirEnt := { dirOf s core i with v := true, ctx := opCtx s o, key := key, loc := loc, dens := dens }
        fin (setDir s e) d (handleOf e)
    | .dirlook d mode a b =>
      if mode = 2 then fin s d (((lookKey s (opCore s o) (opCtx s o) a b).map handleOf).getD noHandle)
      else
        match handleEnt s (opCtx s o) a with
        | none => fin s d noHandle
        | some e => fin s d (if mode = 0 then e.loc else e.dens.setWidth 64)
    | .dirdel d h =>
      match handleEnt s (opCtx s o) h with
      | none => fin s d 1
      | some e => if e.run then none else fin (setDir s e.freed) d 0
    | .dirmove d id =>
      match moveOf s id with
      | none => none
      | some m =>
        if m.left then none
        else
          let drop := updCen s fun c => { c with moves := c.moves.filter fun x => x.id != id }
          let free := match m.toEnt with
            | some i => setDir drop (dirOf drop m.toCore i).freed
            | none => drop
          match handleEnt s m.ctx m.handle, m.toEnt with
          | none, _ => fin free d staleHandle
          | some _, none => fin free d noHandle
          | some _, some _ => none
    | _ => none

/-- DIRMOVE_DEPARTURE: its holds past, the entry leaves its source core, whose slot is freed (R288, R323). -/
def execDirmoveDeparture (id : Nat) (s : State) : Host.Outcome State Fault Refusal :=
  match moveOf s id, moveOp s id with
  | some m, some o =>
    match handleEnt s m.ctx m.handle with
    | none => .fault (.notEnabled "DIRMOVE_DEPARTURE")
    | some e =>
      if m.left || m.toEnt.isNone || behindDir s o || moveHeld s e then .fault (.notEnabled "DIRMOVE_DEPARTURE")
      else
        let m := { m with left := true, fromCore := e.core, key := e.key, dens := e.dens, ans := e.ans, more := e.more }
        .next (updCen (setDir s e.freed) fun c => { c with moves := c.moves.map fun x => if x.id = id then m else x })
  | _, _ => .fault (.notEnabled "DIRMOVE_DEPARTURE")

/-! ### Matching and marks (R326, R327, R329) -/

/-- Whether an entry matches a census, apart from MOV (R289, R326). -/
def dirMatches (c : Census) (e : DirEnt) : Bool :=
  e.v && e.ctx == c.ctx && e.key &&& c.mask == c.key &&& c.mask && !(e.ans ++ e.more).contains c.id

/-- Mark an entry for a census on its core: it is taken, and a responder is queued for it (R326, R327). -/
def markEnt (late : Bool) (cid : Nat) (s : State) (e : DirEnt) : State :=
  let s := setDir s { dirOf s e.core e.ent with run := true }
  updCore s e.core fun c =>
    { c with census := c.census.map (fun p => if p.1 = cid then (p.1, p.2 ++ [e.ent]) else p)
             respQ := c.respQ ++ [(cid, e.ent, late)] }

/-- Change a census. -/
def updCensus (s : State) (cid : Nat) (f : Census → Census) : State :=
  updCen s fun c => { c with open' := c.open'.map fun k => if k.id = cid then f k else k }

/-- An entry that arrives joins a census that has been at its new core and has not completed (R329, R330). -/
def joinLate (s : State) (core ent cid : Nat) : State :=
  match s.cen.open'.find? fun c => c.id == cid with
  | none => s
  | some c =>
    if !c.done && dirMatches c (dirOf s core ent) then
      updCensus (markEnt true cid s (dirOf s core ent)) cid fun k => { k with late := k.late + 1 }
    else s

/-- The entry of a DIRMOVE that arrives: it drops the identifiers of closed censuses from its ANS (R330). -/
def arrived (s : State) (m : DirMove) (i : Nat) : DirEnt :=
  { dirOf s m.toCore i with
    v := true, mov := false, ctx := m.ctx, key := m.key, loc := m.loc, dens := m.dens, run := false
    ans := m.ans.filter (isOpenAt s m.toCore), more := m.more.filter (isOpenAt s m.toCore) }

/-- An entry arrives at its target's reserved slot and joins the censuses that have been there; its source's holds go with
the move (R323, R329). -/
def arriveAt (s : State) (m : DirMove) (i : Nat) : State :=
  let s := updCen (setDir s (arrived s m i)) fun c => { c with moves := c.moves.filter fun x => x.id != m.id }
  ((coreOf s m.toCore).census.map fun p => p.1).foldl (fun s cid => joinLate s m.toCore i cid) s

/-- DIRMOVE_ARRIVAL: the entry arrives, and the handle is written (R323, R329, R330). -/
def execDirmoveArrival (id : Nat) (s : State) : Host.Outcome State Fault Refusal :=
  match moveOf s id, moveOp s id with
  | some m, some o =>
    match m.left, m.toEnt with
    | true, some i => .next (endOp (writeNow (arriveAt s m i) o [.s (moveDst o) (handleOf (arrived s m i))]) o)
    | _, _ => .fault (.notEnabled "DIRMOVE_ARRIVAL")
  | _, _ => .fault (.notEnabled "DIRMOVE_ARRIVAL")

end Sys2Proof.Machine
end

