-- ==== Sys2Proof/Machine/CensusNet.lean ====
section
/-!
DEFINITION. Censuses: SOLICIT, RESPOND, visits, responders, reports, completion and close (R289 to R292, R324 to R332).
-/

namespace Sys2Proof.Machine

/-! ### SOLICIT and RESPOND (R289 to R291) -/

/-- The identity of a combining operator (R289). -/
def censusUnit (oper : Nat) : Dword := if oper = 1 then -1 else 0

/-- Two values under a combining operator; for .cnt they are counts already (R289, R325). -/
def censusComb (oper : Nat) (a b : Dword) : Dword :=
  match oper with
  | 0 => a + b
  | 1 => if b.toNat < a.toNat then b else a
  | 2 => if a.toNat < b.toNat then b else a
  | 3 => a + b
  | _ => a ||| b

/-- An answer as it enters the network: for .cnt, 1 where it is not zero (R325). -/
def censusIn (oper : Nat) (v : Dword) : Dword := if oper = 3 then (if v = 0 then 0 else 1) else v

/-- A report that holds nothing. -/
def Part.none (oper : Nat) : Part := ⟨censusUnit oper, 0, 0, 0⟩

/-- Two reports combined, the first one's cause first; faults saturate (R325, R330). -/
def Part.join (oper : Nat) (a b : Part) : Part :=
  { value := censusComb oper a.value b.value, answers := a.answers + b.answers, faults := min (a.faults + b.faults) 65535
    cause := if a.cause = 0 then b.cause else a.cause }

/-- The lowest free census slot of this device, which peers' censuses do not take (R324). -/
def freeSlot (s : State) : Option Nat :=
  (List.range 256).find? fun k => s.cen.open'.all fun c => c.slot != k || c.peer.isSome

/-- A census identifier; a device outside a pod has number 0 (R324). -/
def censusIdent (s : State) (slot : Nat) : Dword :=
  BitVec.ofNat 64 ((aGet s.cen.slotGen slot).getD 0 % 2 ^ 14 * 2 ^ 18 + s.firm.devNum % 2 ^ 10 * 2 ^ 8 + slot)

/-- SOLICIT (R289, R290). -/
def execSolicit (h : Hdr) (op : Nat) (pod : Bool) (q : Nat) (a : Src) (s : State) : Host.Outcome State Fault Refusal :=
  uniBind "SOLICIT" h 64 a 0 (fun c => bindBad .census (vget c.t.queues q)) (fun c s1 =>
    let qu := vget c.t.queues q
    match freeSlot s1 with
    | none => .held
    | some slot =>
      if 4 ≤ c.t.d.opened.length || decide (14 < qu.ents.length) then .held
      else
        let cid := s1.nextId
        let k : Census :=
          { id := cid, ident := censusIdent s1 slot, slot := slot, asker := c.tid, ctx := c.t.ctx, q := q
            oper := op, pod := pod, op := some (cid + 1), key := 0, mask := 0, entry := c.srcS a, arg := 0, bresp := 0
            ready := false, visited := [], cores := [], lates := [], late := 0, total := Part.none op, reported := []
            peers := [], heard := none, done := false, closed := [], peer := none }
        let s2 := updTeam s1 c.tid fun t =>
          { t with queues := vset t.queues q (reserve2 .census cid qu)
                   d := { t.d with opened := cid :: t.d.opened, asked := t.d.asked ++ [(cid, pod)] } }
        .done (startOp c (.solicit cid) (bumpId (updCen s2 fun x => { x with open' := x.open' ++ [k] })))) s

/-- RESPOND: once, by a responder (R291). -/
def execRespond (h : Hdr) (a : Nat) (s : State) : Host.Outcome State Fault Refusal :=
  issue (uniMem "RESPOND" h false) (fun c s1 =>
    match c.t.resp with
    | none => emTrap c .respbad
    | some r =>
      if r.answer.isSome then emTrap c .respbad
      else
        .done (startOp c (.regs []) (updTeam s1 c.tid fun t =>
          { t with resp := t.resp.map fun r => { r with answer := some (c.s a) } }))) s

/-! ### The descriptor (R289, R290, R331) -/

/-- What a census's descriptor gives: its fields, or the cause that ends the census with no responder. Until it is read,
the census holds its address in the place of the entry. -/
def censusDesc (s : State) (c : Census) : Except (BitVec 9) (Option Census) :=
  let pods := ((teamOf s c.asker).bind fun t => (gridOf s t.grid).map fun g => podOf s g).getD []
  if c.pod && pods.length < 2 then .error (causeCode .censbad)
  else match homeKey s c.ctx c.entry.toNat false with
    | .error k => .error k
    | .ok key =>
      if homeWaits s key then .ok none
      else
        let b := memGetN s.mem key 64
        let w (off : Nat) : Nat := natOfBytes (slice b off 8)
        let br := w 0x20
        if w 0x10 % 4 != 0 || decide (2 ^ 56 ≤ w 0x10) || decide (br < 2 ∨ 32 < br) || natOfBytes (slice b 0x28 24) != 0 then
          .error (causeCode .censbad)
        else
          .ok (some { c with
            key := BitVec.ofNat 64 (w 0), mask := BitVec.ofNat 64 (w 8), entry := BitVec.ofNat 64 (w 0x10)
            arg := BitVec.ofNat 64 (w 0x18), bresp := br, ready := true
            peers := if c.pod then pods.filter (· != s.firm.devNum) else [] })

/-! ### Visits (R324, R326, R327, R329) -/

/-- A census with a number. -/
def censusOf (s : State) (cid : Nat) : Option Census := s.cen.open'.find? fun c => c.id == cid

/-- A census visits a core: entries that match are marked in ascending number, and entries of the context on their way
from the core hold its report (R326, R329). -/
def visit (s : State) (c : Census) (core : Nat) : State :=
  let es := ((List.range 512).map (dirOf s core)).filter fun e => dirMatches c e && !e.mov
  let s := updCore s core fun k => { k with census := k.census ++ [(c.id, [])] }
  let s := es.foldl (markEnt false c.id) s
  updCen s fun k =>
    { k with moves := k.moves.map fun m =>
        if m.left && m.fromCore == core && m.ctx == c.ctx then { m with waits := c.id :: m.waits } else m
             open' := k.open'.map fun x => if x.id = c.id then
               { c with visited := core :: c.visited, cores := aSet c.cores core (es.length, Part.none c.oper) } else x }

/-- CENSUS_VISIT: a census reaches a core; the first visit finds its descriptor read. A core follows at most 512 (R324 to
R326). -/
def execCensusVisit (cid core : Nat) (s : State) : Host.Outcome State Fault Refusal :=
  match censusOf s cid with
  | none => .fault (.notEnabled "CENSUS_VISIT")
  | some c =>
    let c1 := if c.ready then some c else match censusDesc s c with
      | .ok r => r
      | .error _ => none
    match c1 with
    | none => .fault (.notEnabled "CENSUS_VISIT")
    | some c1 =>
      if c.done || c.visited.contains core || decide (Config.cores ≤ core) || decide (512 ≤ (coreOf s core).census.length) then
        .fault (.notEnabled "CENSUS_VISIT")
      else .next (visit s c1 core)

/-! ### Responders (R291, R327, R328) -/

/-- What a responder takes from its asker: grid, priority class, tag, whether the grid is the commit unit, and quota; for
a peer's census, from what the peer has sent and this device's part of the pod grid (R291, R331). -/
def askerOf (s : State) (c : Census) : Option PeerAsk × Nat :=
  match c.peer with
  | none => match teamOf s c.asker with
    | some t => (some ⟨s.firm.devNum, t.grid, t.d.tag, t.d.gridUnit, t.d.quota, false⟩, t.prio)
    | none => (none, 0)
  | some p => match gridOf s p.grid with
    | some g => (some p, g.lr.prio)
    | none => (none, 0)

/-- A responder's register file at its start (R291). -/
def respRegs (e : DirEnt) (c : Census) : List (Nat × Dword) :=
  [(0, e.key), (1, e.loc), (2, c.arg), (3, e.dens.setWidth 64), (4, handleOf e), (5, c.ident)]

/-- ANS with a census at its head; what drops out of its four places is kept beside it (R322, R328). -/
def pushAns (cid : Nat) (e : DirEnt) : DirEnt :=
  let l := cid :: e.ans
  { e with ans := l.take 4, more := l.drop 4 ++ e.more }

/-- What the ending of a responder of a core's entry counts as enters the directory and the census (R328, R330). -/
def countResp (s : State) (core ent cid : Nat) (late : Bool) (p : Census → Part) : State :=
  let more := (coreOf s core).respQ.any fun x => x.2.1 == ent
  match censusOf s cid with
  | none => setDir s { dirOf s core ent with run := more }
  | some c =>
    let s := setDir s { pushAns cid (dirOf s core ent) with run := more }
    updCensus s cid fun k =>
      if late then { k with lates := k.lates ++ [(core, p c)] }
      else match aGet k.cores core with
        | some (n, q) => { k with cores := aSet k.cores core (n - 1, Part.join k.oper q (p c)) }
        | none => k

/-- A queued responder ends with a fault before it has started (R332). -/
def failQueued (s : State) (core : Nat) (x : Nat × Nat × Bool) : State :=
  countResp (updCore s core fun k => { k with respQ := k.respQ.erase x }) core x.2.1 x.1 x.2.2 fun c =>
    ⟨censusUnit c.oper, 0, 1, causeCode .respbad⟩

/-- RESPONDER_PLACEMENT: the next responder of a core starts on it, from partition `pb`, once it fits, on a hot core after
1 ms (R291, R327, R380). One of a peer's census whose context a forced reset has ended on this device counts as a fault
(R332). DESIGN CHOICE: WSP and WSLIM of a responder, which has no launch record of its own, are 0 (R50, R140, R291; log
entry 39). -/
def execResponderPlacement (core pb : Nat) (s : State) : Host.Outcome State Fault Refusal :=
  match nextResp s core with
  | none => .fault (.notEnabled "RESPONDER_PLACEMENT")
  | some (cid, ent, late) =>
    match censusOf s cid, (censusOf s cid).bind fun c => (askerOf s c).1 with
    | some c, some asker =>
      let n := respNeed c.bresp
      if !((heldOn s core).add n pb).ok || decide (8 ≤ pb) || !hotOk s (.resp core cid ent) core then
        .fault (.notEnabled "RESPONDER_PLACEMENT")
      else
        let s := hotClock s (.resp core cid ent) core
        let e := dirOf s core ent
        let g0 := Group.start s.clock 0 (pb % 8) false (8 * c.bresp) c.entry 0 0
        let g := { g0 with r := { g0.r with s := (respRegs e c).foldl (fun v p => vset v p.1 p.2) g0.r.s } }
        let al : Alloc := ⟨0, 0, [], [], 0⟩
        let t := Team.start s.nextId c.ctx asker.grid 0 core (askerOf s c).2 al [g] none
          (TeamDef.start asker.tag asker.gridUnit asker.quota) (some ⟨cid, core, ent, c.asker, c.arg, none, late, none⟩)
        let s := updCore (bumpId s) core fun k => { k with respQ := k.respQ.erase (cid, ent, late) }
        .next { s with work := { s.work with teams := s.work.teams ++ [t] } }
    | some c, none =>
      if c.peer.isSome then .next (failQueued s core (cid, ent, late)) else .fault (.notEnabled "RESPONDER_PLACEMENT")
    | none, _ => .fault (.notEnabled "RESPONDER_PLACEMENT")

/-- What the ending of a responder counts as (R328). -/
def respPart (oper : Nat) (t : Team) (r : Resp) : Part :=
  match r.answer with
  | some v => ⟨censusIn oper v, 1, 0, 0⟩
  | none =>
    let k : BitVec 9 := match r.faultCause, t.halt with
      | some k, _ => k
      | none, .service k => k
      | none, _ => causeCode .respbad
    ⟨censusUnit oper, 0, 1, k⟩

/-- The ending of a responder: its team leaves, and counts. -/
def endResp (s : State) (t : Team) (r : Resp) : State :=
  countResp { s with work := { s.work with teams := s.work.teams.filter fun x => x.uid != t.uid } }
    r.core r.ent r.cid r.late fun c => respPart c.oper t r

/-- RESPONDER_END: a responder has ended, or has been killed by service firmware, its operations are done and its records
have passed to the Sorus (R291, R328). -/
def execResponderEnd (tid : Nat) (s : State) : Host.Outcome State Fault Refusal :=
  match teamOf s tid with
  | none => .fault (.notEnabled "RESPONDER_END")
  | some t =>
    match t.resp with
    | none => .fault (.notEnabled "RESPONDER_END")
    | some r =>
      let over' := t.ended || (match t.halt with | .service _ => true | .running | .settling _ => false)
      if !over' || s.work.ops.any (fun o => o.tid == tid) || sporHas s t.core tid then .fault (.notEnabled "RESPONDER_END")
      else .next (endResp s t r)

/-! ### Reports (R330, R331) -/

/-- Merge a report at the root. -/
def atRoot (s : State) (cid : Nat) (p : Part) (f : Census → Census) : State :=
  updCensus s cid fun c => f { c with total := Part.join c.oper c.total p }

/-- Whether every core of this device has reported a census and every increment is matched: the device's own combined
report stands (R330, R331). -/
def ownDone (c : Census) : Bool := c.reported.length == Config.cores && c.late == 0

/-- A report of a core of this device enters the root; the one that makes the device's report whole is noted (R331). -/
def coreReport (s : State) (cid : Nat) (p : Part) (f : Census → Census) : State :=
  atRoot s cid p fun c => let c := f c; if ownDone c then { c with heard := some s.clock } else c

/-- A device of a pod census that is lost counts as one fault, HWLINK, and its report is not combined any more (R331). -/
def deviceLost (s : State) (cid dev : Nat) : State :=
  updCensus s cid fun c =>
    if c.done || !c.peers.contains dev then c
    else { c with total := Part.join c.oper c.total ⟨censusUnit c.oper, 0, 1, causeCode .hwlink⟩
                  peers := c.peers.filter (· != dev) }

/-- Whether a peer's report comes too late: over 1 ms after the last report of another device, or from a device whose link
is lost (R331). -/
def tooLate (s : State) (c : Census) (dev : Nat) : Bool :=
  s.fab.lost.contains dev || c.heard.any fun t => decide (t + 800000 < s.clock)

/-- CENSUS_CORE_REPORT: a core's report reaches the root, once its visit's responders have ended and no entry holds it; or
the report of a late responder; or, for a pod census, the report of a peer device, which counts as HWLINK where it comes
too late (R329 to R331). -/
def execCensusCoreReport (cid core : Nat) (peer : Option PeerReport) (s : State) : Host.Outcome State Fault Refusal :=
  match censusOf s cid with
  | none => .fault (.notEnabled "CENSUS_CORE_REPORT")
  | some c =>
    match peer with
    | some r =>
      if c.done || !c.peers.contains r.dev then .fault (.notEnabled "CENSUS_CORE_REPORT")
      else if tooLate s c r.dev then .next (deviceLost s cid r.dev)
      else .next (atRoot s cid ⟨r.value, r.answers, r.faults, BitVec.ofNat 9 r.cause⟩
        fun c => { c with peers := c.peers.filter (· != r.dev), heard := some s.clock })
    | none =>
      let held := s.cen.moves.any fun m => m.fromCore == core && m.waits.contains cid
      let visit : Option Part := if c.reported.contains core || held then none
        else (aGet c.cores core).bind fun x => if x.1 = 0 then some x.2 else none
      if c.done then .fault (.notEnabled "CENSUS_CORE_REPORT")
      else match visit, c.lates.find? fun x => x.1 == core with
        | some p, _ => .next (coreReport s cid p fun c => { c with reported := core :: c.reported })
        | none, some x => .next (coreReport s cid x.2 fun c => { c with lates := c.lates.erase x, late := c.late - 1 })
        | none, none => .fault (.notEnabled "CENSUS_CORE_REPORT")

/-- CENSUS_DEVICE_LOST: a device of a pod census has not reported within 1 ms of the last report from any other, or its
link is lost (R331). -/
def execCensusDeviceLost (cid dev : Nat) (s : State) : Host.Outcome State Fault Refusal :=
  match censusOf s cid with
  | none => .fault (.notEnabled "CENSUS_DEVICE_LOST")
  | some c =>
    if c.done || !c.peers.contains dev then .fault (.notEnabled "CENSUS_DEVICE_LOST")
    else if s.fab.lost.contains dev then .next (deviceLost s cid dev)
    else match c.heard with
      | none => .fault (.notEnabled "CENSUS_DEVICE_LOST")
      | some t => .next (deviceLost { s with clock := max s.clock (t + 800000) } cid dev)

/-! ### Completion and close (R290, R330) -/

/-- The second entry of a census (R290). -/
def censusEntry (p : Part) : Dword :=
  BitVec.ofNat 64 (p.answers % 2 ^ 32 + min p.faults 65535 * 2 ^ 32 + p.cause.toNat * 2 ^ 48)

/-- Fill the asker's two entries; SOLICIT's flag clears (R290). -/
def fillCensus (s : State) (c : Census) (p : Part) : State :=
  let s := updTeam s c.asker fun t =>
    { t with queues := vset t.queues c.q (fill2 c.id p.value (censusEntry p) (vget t.queues c.q))
             d := { t.d with opened := t.d.opened.filter (· != c.id) } }
  endCopyOp s c.op

/-- A census leaves: its slot is free, with the next generation where the slot is this device's (R324, R330). -/
def freeCensus (s : State) (c : Census) : State :=
  updCen s fun x =>
    { x with open' := x.open'.filter fun k => k.id != c.id
             slotGen := if c.peer.isSome then x.slotGen else aSet x.slotGen c.slot (((aGet x.slotGen c.slot).getD 0 + 1) % 2 ^ 14) }

/-- Whether the close of a census has been sent: a peer's comes from the asker's root (R330, R331). -/
def closeSent (c : Census) : Bool := c.done && (c.peer.map fun p => p.shut).getD true

/-- CENSUS_ROOT_COMPLETION: every core in the scope has reported and every increment is matched, and the asker's entries
are filled, or for a peer's census the device's one combined report goes to it; or the descriptor does not admit a census,
which ends with its identity and a cause, and with no core visited (R290, R330, R331). -/
def execCensusRootCompletion (cid : Nat) (s : State) : Host.Outcome State Fault Refusal :=
  match censusOf s cid with
  | none => .fault (.notEnabled "CENSUS_ROOT_COMPLETION")
  | some c =>
    if c.done then .fault (.notEnabled "CENSUS_ROOT_COMPLETION")
    else if c.ready then
      if ownDone c && c.peers.isEmpty then
        .next (updCensus (fillCensus s c c.total) cid fun c => { c with done := true })
      else .fault (.notEnabled "CENSUS_ROOT_COMPLETION")
    else match censusDesc s c with
      | .ok _ => .fault (.notEnabled "CENSUS_ROOT_COMPLETION")
      | .error k => .next (freeCensus (fillCensus s c ⟨censusUnit c.oper, 0, 0, k⟩) c)

/-- A closed census leaves every ANS of a core. -/
def closeAns (core cid : Nat) (e : DirEnt) : DirEnt :=
  if e.core = core then { e with ans := e.ans.filter (· != cid), more := e.more.filter (· != cid) } else e

/-- CENSUS_CLOSE_ACK: a core with no entry of the context on its way to it drops the identifier; with the last
acknowledgement the slot is free (R330). -/
def execCensusCloseAck (cid core : Nat) (s : State) : Host.Outcome State Fault Refusal :=
  match censusOf s cid with
  | none => .fault (.notEnabled "CENSUS_CLOSE_ACK")
  | some c =>
    let coming := s.cen.moves.any fun m => m.left && m.toCore == core && m.ctx == c.ctx
    if !closeSent c || c.closed.contains core || coming || decide (Config.cores ≤ core) then
      .fault (.notEnabled "CENSUS_CLOSE_ACK")
    else
      let s := updCore s core fun k => { k with census := k.census.filter fun p => p.1 != cid }
      let s := updCen s fun x => { x with dir := x.dir.map (closeAns core cid) }
      let s := updCensus s cid fun c => { c with closed := core :: c.closed }
      .next (if c.closed.length + 1 = Config.cores && c.late == 0 then freeCensus s c else s)

end Sys2Proof.Machine
end

