-- ==== Sys2Proof/Machine/Collectives.lean ====
section
/-!
DEFINITION. Collectives and format selection (R216, R217, R236 to R238, R265 to R267).
-/

namespace Sys2Proof.Machine

/-! ### COLL (R216) -/

/-- Collectives of a context in flight on a communicator (R267). -/
def collsOn (s : State) (ctx comm : Nat) : Nat :=
  (s.work.colls.filter fun c => c.ctx == ctx && c.comm == comm && !c.done).length

/-- The descriptor's words at its home, or the cause of its page (R216). -/
def collDesc (s : State) (ctx : Nat) (a : Dword) : Except (BitVec 9) (List Byte) :=
  match homeKey s ctx a.toNat false with
  | .error k => .error k
  | .ok key => .ok (memGetN s.mem key 64)

/-- A dword of a descriptor. -/
def descW (b : List Byte) (off : Nat) : Nat := natOfBytes (slice b off 8)

/-- The stores that a group has issued and that are not home yet, oldest first: those of its core's queue, then those that
are still to enter it. -/
def storesSoon (s : State) (tid gid : Nat) : List (Nat × List Byte) :=
  let core := ((teamOf s tid).map fun t => t.core).getD 0
  let ops := s.work.ops.filter fun o => o.tid == tid && o.gid == gid
  ((coreOf s core).wtq.map fun e => (e.key, e.bytes)) ++ ops.flatMap fun o => match o.kind with
    | .mem true z _ false _ ls _ _ _ => ls.filterMap fun a => match a.x with
      | .at k _ false _ => some (k, bytesOfNat (sizeBytes z) a.b.toNat)
      | _ => none
    | _ => []

/-- Device memory with what the issuing group has stored (R185, R267). -/
def memSoon (s : State) (owner : Option (Nat × Nat)) : Memory :=
  match owner with
  | some (tid, gid) => (storesSoon s tid gid).foldl (fun m x => memSetN m x.1 x.2) s.mem
  | none => s.mem

/-- A collective as its command leaves it, its descriptor still unread. -/
def newColl (s : State) (ctx oper ty scope : Nat) (owner : Option (Nat × Nat)) (node : Option Nat) (desc : Dword)
    (op : Option Nat) (comm : Nat) (pc : Dword) : Coll :=
  { id := s.nextId, ctx := ctx, comm := comm, oper := oper, ty := ty, scope := scope, owner := owner, node := node
    desc := desc, op := op, read := false, src := 0, dsta := 0, cnt := 0, ctr := 0, root := 0, staged := [], stepsDone := []
    sent := [], credit := [], acked := [], before := memSoon s owner, undef := false, failed := none, info := 0, done := false, pc := pc }

/-- COLL: uniform; the descriptor's address is checked, and the seventeenth on a communicator is held (R216, R267,
R432). `oper`: 0 .ar, 1 .rs, 2 .ag, 3 .bc. -/
def collIssue (row : String) (h : Hdr) (oper ty scope a : Nat) (s : State) : Host.Outcome State Fault Refusal :=
  uniOp row h false 64 (.reg a) 0 (fun c s1 =>
    let comm := match collDesc s1 c.t.ctx (c.s a) with
      | .ok b => descW b 0x20 % 2 ^ 16
      | .error _ => 0
    if 16 ≤ collsOn s1 c.t.ctx comm then .held
    else
      let id := s1.nextId
      let k := newColl s1 c.t.ctx oper ty scope (some (c.tid, c.gid)) none (c.s a) (some (id + 1)) comm c.pc
      .done (startOp c (.coll id) (bumpId { s1 with work := { s1.work with colls := s1.work.colls ++ [k] } }))) s

def execCollAr (h : Hdr) (ty scope a : Nat) (s : State) : Host.Outcome State Fault Refusal :=
  collIssue "COLL_AR" h 0 ty scope a s
def execCollRs (h : Hdr) (ty scope a : Nat) (s : State) : Host.Outcome State Fault Refusal :=
  collIssue "COLL_RS" h 1 ty scope a s
def execCollAg (h : Hdr) (ty scope a : Nat) (s : State) : Host.Outcome State Fault Refusal :=
  collIssue "COLL_AG" h 2 ty scope a s
def execCollBc (h : Hdr) (ty scope a : Nat) (s : State) : Host.Outcome State Fault Refusal :=
  collIssue "COLL_BC" h 3 ty scope a s

/-- Change a collective. -/
def updColl (s : State) (id : Nat) (f : Coll → Coll) : State :=
  { s with work := { s.work with colls := s.work.colls.map fun c => if c.id = id then f c else c } }

/-- A context's communicator with a number (R413). -/
def commOf (s : State) (ctx n : Nat) : Option Comm := s.host.comms.find? fun c => c.ctx == ctx && c.num == n

/-- Element bytes in memory (R216). -/
def collEsz (c : Coll) : Nat := if c.ty = 0 then 4 else 2

/-- Bytes of one element on the ring (R265): sums travel as BF16, other data unchanged. -/
def wireEsz (c : Coll) : Nat := if c.oper < 2 then 2 else collEsz c

/-- This device's position and the ring's size. -/
def ringPos (s : State) (c : Coll) : Option (Nat × Nat) :=
  (commOf s c.ctx c.comm).bind fun k =>
    if k.ranks.contains s.firm.devNum then some (k.ranks.idxOf s.firm.devNum, k.ranks.length) else none

/-- Elements of chunk `i`: first in the source, count, first in the destination (R265). -/
def chunk (c : Coll) (n i : Nat) : Nat × Nat × Nat :=
  match c.oper with
  | 0 => let q := ceilDiv c.cnt n; (i * q, min ((i + 1) * q) c.cnt - min (i * q) c.cnt, i * q)
  | 1 => (i * c.cnt, c.cnt, 0)
  | 2 => (0, c.cnt, i * c.cnt)
  | _ => (0, c.cnt, 0)

/-- Elements of the destination (R216). -/
def destCount (c : Coll) (n : Nat) : Nat := if c.oper = 2 then n * c.cnt else c.cnt

/-- Addresses at which the pages of a run begin, as far as page attributes can differ. -/
def pageStarts (a n : Nat) : List Nat :=
  if n = 0 then [] else a :: ((List.range (ceilDiv (a % 65536 + n) 65536)).map fun i => (a / 65536 + i) * 65536).filter (a < ·)

/-- The first cause of a run read or written by a collective, with its address (R150, R216). -/
def runCause (s : State) (ctx : Nat) (w : Bool) (a n : Nat) : Option (BitVec 9 × Nat) :=
  (pageStarts a n).findSome? fun p =>
    match (if w then engineDest s ctx p else homeKey s ctx p false) with
    | .error k => some (k, p)
    | .ok _ => none

/-- Bytes of a rank's source, for ring position `i` of `n` (R216). -/
def srcBytes (c : Coll) (i n : Nat) : Nat :=
  (if c.oper = 1 then n * c.cnt else if c.oper = 3 && i != c.root then 0 else c.cnt) * collEsz c

/-- Bytes of its destination. -/
def dstBytes (c : Coll) (n : Nat) : Nat := destCount c n * collEsz c

/-- The cause with which a rank's own part fails when its descriptor is read, and the address that it reports: its
counter, its communicator, its source and destination (R216, R261, R268). -/
def collCause (s : State) (c : Coll) (b : List Byte) : Option (BitVec 9 × Nat) :=
  match engineCounter s c.ctx c.ctr with
  | .error k => some (k, c.ctr.toNat)
  | .ok _ =>
    let rsv := bitsAt (descW b 0x10) 40 24 != 0 || bitsAt (descW b 0x20) 32 32 != 0 || natOfBytes (slice b 0x28 24) != 0
    match ringPos s c with
    | none => some (causeCode .collmis, c.desc.toNat)
    | some (i, n) =>
      if rsv || (c.oper == 3 && decide (n ≤ c.root)) then some (causeCode .collmis, c.desc.toNat)
      else (runCause s c.ctx false c.src.toNat (srcBytes c i n)).or (runCause s c.ctx true c.dsta.toNat (dstBytes c n))

/-- Whether a rank's source and destination overlap, other than an .ar in place (R267). -/
def overlaps (s : State) (c : Coll) : Bool :=
  match ringPos s c with
  | none => false
  | some (i, n) => !(c.oper == 0 && c.src == c.dsta) && srcBytes c i n != 0 && dstBytes c n != 0 &&
      decide (c.src.toNat < c.dsta.toNat + dstBytes c n ∧ c.dsta.toNat < c.src.toNat + srcBytes c i n)

/-- A collective that fails with a cause and what its report carries. -/
def Coll.fails (c : Coll) (r : Option (BitVec 9 × Nat)) : Coll :=
  match r with
  | some (k, a) => { c with failed := some k, info := BitVec.ofNat 64 a }
  | none => c

/-- A rank reads its descriptor and enters the collective, or fails (R212, R216). -/
def enterColl (s : State) (c : Coll) : State :=
  match collDesc s c.ctx c.desc with
  | .error k => updColl s c.id fun x => x.fails (some (k, c.desc.toNat))
  | .ok b =>
    let c1 := { c with src := BitVec.ofNat 64 (descW b 0), dsta := BitVec.ofNat 64 (descW b 8), cnt := descW b 0x10 % 2 ^ 40
                       ctr := BitVec.ofNat 64 (descW b 0x18), comm := descW b 0x20 % 2 ^ 16
                       root := bitsAt (descW b 0x20) 16 16, read := true }
    updColl s c.id fun _ => ({ c1 with undef := overlaps s c1 } : Coll).fails (collCause s c1 b)

/-- Whether the home holds a descriptor's read back (R164, R342). -/
def descWaits (s : State) (ctx : Nat) (a : Dword) : Bool :=
  match homeKey s ctx a.toNat false with
  | .ok key => homeWaits s key
  | .error _ => false

/-- A COLL operation completes with that, after its group's releases (R185, R212). -/
def collEnter (s : State) (o : Op) (id : Nat) : Option State :=
  match s.work.colls.find? fun c => c.id == id with
  | none => none
  | some c => if relPending s c.owner c.id || descWaits s c.ctx c.desc then none else some (endOp (enterColl s c) o)

/-! ### Chunk steps (R265, R266)

Steps are numbered: `c` for the sum of chunk c arriving, N + c for chunk c going round, 2 N for the rank's own start. -/

/-- Whether a step exists for this rank: it is expected to arrive, and its chunk is not empty. -/
def stepExpected (c : Coll) (i n st : Nat) : Bool :=
  let k := st % n
  let some' := decide (0 < (chunk c n k).2.1)
  if st = 2 * n then true
  else if st < n then c.oper < 2 && 1 < n && k != (i + n - 1) % n && some'
  else if 2 * n ≤ st then false
  else match c.oper with
    | 0 => 1 < n && k != i && some'
    | 1 => false
    | 2 => k != i && some'
    | _ => k == 0 && i != c.root && some'

/-- Every step that this rank expects. -/
def stepsOf (c : Coll) (i n : Nat) : List Nat := (List.range (2 * n + 1)).filter (stepExpected c i n)

/-- Bytes that arrive in a step. -/
def stepBytes (c : Coll) (n st : Nat) : Nat := (chunk c n (st % n)).2.1 * wireEsz c

/-- Whether a device of a collective's ring is lost, which holds its traffic (R418). -/
def ringHeld (s : State) (c : Coll) : Bool :=
  ((commOf s c.ctx c.comm).map fun k => k.ranks.any s.fab.lost.contains).getD false

/-- COLL_PIECE_LAND: one piece, of 4 KiB or what is left, lands in the rank's staging area (R266). -/
def execCollPieceLand (id st : Nat) (data : List Byte) (s : State) : Host.Outcome State Fault Refusal :=
  match s.work.colls.find? fun c => c.id == id with
  | none => .fault (.notEnabled "COLL_PIECE_LAND")
  | some c =>
    match ringPos s c with
    | none => .fault (.notEnabled "COLL_PIECE_LAND")
    | some (i, n) =>
      let have' := (aGet c.staged st).getD []
      let left := stepBytes c n st - have'.length
      if !c.read || c.done || c.failed.isSome || st = 2 * n || !stepExpected c i n st || left = 0 || ringHeld s c ||
          data.length != min 4096 left then .fault (.notEnabled "COLL_PIECE_LAND")
      else .next (updColl s id fun x => { x with staged := aSet x.staged st (have' ++ data) })

/-- Whether a run of a source was changed by a program since the COLL's issue: it differs from what the group had left
there, and no store of the group from before the issue is still on its way to it (R185, R267). -/
def changedSince (s : State) (c : Coll) (k n : Nat) : Bool :=
  memGetN s.mem k n != memGetN c.before k n &&
    !(c.owner.any fun o => (storesSoon s o.1 o.2).any fun x => decide (x.1 < k + n ∧ k < x.1 + x.2.length))

/-- A source element's bytes, moved unchanged; free ones where a program has changed them since the COLL's issue (R267).
-/
def srcRaw (s : State) (c : Coll) (e : Nat) : List Byte :=
  match homeKey s c.ctx (c.src.toNat + e * collEsz c) false with
  | .ok k =>
    if !changedSince s c k (collEsz c) then memGetN s.mem k (collEsz c)
    else freeRun s.fresh (e * collEsz c) (collEsz c)
  | .error _ => List.replicate (collEsz c) 0

/-- An element of the source as FP32 bits: BF16 widens exactly (R265). -/
def srcF32 (s : State) (c : Coll) (e : Nat) : Nat :=
  if collEsz c = 4 then natOfBytes (srcRaw s c e) else natOfBytes (srcRaw s c e) * 2 ^ 16

/-- FP32 rounded to BF16 (R265). -/
def toBf16 (x : Nat) : Nat := (convert .bf16 .f32 .rne false false false false x).x

/-- A BF16 code of a list of bytes, as FP32 bits. -/
def wireF32 (b : List Byte) (e : Nat) : Nat := natOfBytes (slice b (2 * e) 2) * 2 ^ 16

/-- An FP32 result as the destination's type (R265). -/
def destBytes (c : Coll) (x : Nat) : List Byte :=
  if collEsz c = 4 then bytesOfNat 4 x else bytesOfNat 2 (toBf16 x)

/-- Write elements of the destination at their homes; free ones where it overlaps the source. What the collective writes
is no change of its source by a program (R267). -/
def putDest (s : State) (c : Coll) (first : Nat) (es : List (List Byte)) : State :=
  let n := collEsz c
  bump ((es.zipIdx).foldl (fun s p =>
    match engineDest s c.ctx (c.dsta.toNat + (first + p.2) * n) with
    | .ok k =>
      let b := if c.undef then freeRun s.fresh ((first + p.2) * n) n else p.1
      updColl (engineStore s k b) c.id fun x => { x with before := memSetN x.before k b }
    | .error _ => s) s)

/-- Send a chunk to the next position, charged as collective traffic (R265, R382). -/
def sendChunk (s : State) (c : Coll) (st : Nat) (b : List Byte) : State :=
  charge (updColl s c.id fun x => { x with sent := aSet x.sent st b }) c.ctx 3 b.length

/-- The bytes of a chunk that goes round, as destination elements (R265). -/
def roundElems (c : Coll) (b : List Byte) (count : Nat) : List (List Byte) :=
  (List.range count).map fun e =>
    if c.oper = 0 && collEsz c = 4 then bytesOfNat 4 (wireF32 b e) else slice b (e * wireEsz c) (wireEsz c)

/-- The start of a rank: the first send of the chunk before its own, or its own chunk; a ring of one copies (R265). -/
def collStart (s : State) (c : Coll) (i n : Nat) : State :=
  if n = 1 then putDest s c 0 ((List.range c.cnt).map (srcRaw s c))
  else match c.oper with
    | 0 | 1 =>
      let k := (i + n - 1) % n
      let ch := chunk c n k
      if ch.2.1 = 0 then s
      else sendChunk s c k ((List.range ch.2.1).flatMap fun e => bytesOfNat 2 (toBf16 (srcF32 s c (ch.1 + e))))
    | 2 =>
      let es := (List.range c.cnt).map (srcRaw s c)
      if c.cnt = 0 then s else sendChunk (putDest s c (i * c.cnt) es) c (n + i) es.flatten
    | _ =>
      if i = c.root && c.cnt != 0 then
        let es := (List.range c.cnt).map (srcRaw s c)
        sendChunk (putDest s c 0 es) c n es.flatten
      else s

/-- A sum step: the arriving partial plus this rank's element, sent on, or finished at the chunk's own position (R265). -/
def sumStep (s : State) (c : Coll) (i n k : Nat) (b : List Byte) : State :=
  let ch := chunk c n k
  let p (e : Nat) : Nat := (fAdd fmtF32 .rne false false (wireF32 b e) (srcF32 s c (ch.1 + e))).x
  let es := List.range ch.2.1
  let wire := es.flatMap fun e => bytesOfNat 2 (toBf16 (p e))
  if i != k then sendChunk s c k wire
  else if c.oper = 1 then putDest s c 0 (es.map fun e => destBytes c (p e))
  else sendChunk (putDest s c ch.2.2 (roundElems c wire ch.2.1)) c (n + k) wire

/-- A chunk going round: written here, and sent on until it has reached every position (R265). -/
def roundStep (s : State) (c : Coll) (i n k : Nat) (b : List Byte) : State :=
  let ch := chunk c n k
  let from' := if c.oper = 3 then c.root else k
  let s := putDest s c ch.2.2 (roundElems c b ch.2.1)
  if (i + 1) % n = from' then s else sendChunk s c (n + k) b

/-- Whether a core can hold a reduce team: one group with B = 32 (R136, R266). -/
def reduceFits (s : State) (core : Nat) : Bool := decide (core < Config.cores) && coreFits s core (respNeed 4)

/-- The homes that a step reads and writes: its chunk of the source and of the destination. -/
def stepHomes (s : State) (c : Coll) (i n st : Nat) : List Nat :=
  let k := if st = 2 * n then (if c.oper < 2 then (i + n - 1) % n else i) else st % n
  let ch := if n = 1 then (0, c.cnt, 0) else chunk c n k
  (List.range ch.2.1).flatMap fun e =>
    [(c.src.toNat + (ch.1 + e) * collEsz c, false), (c.dsta.toNat + (ch.2.2 + e) * collEsz c, true)].filterMap fun a =>
      (homeKey s c.ctx a.1 a.2).toOption

/-- Whether this rank has read its source chunk of a step of an .ar that goes round: the chunk may be written in place
only then (R267). -/
def chunkRead (c : Coll) (i n st : Nat) : Bool :=
  if c.oper != 0 || st < n || st == 2 * n then true
  else c.stepsDone.contains (if st % n = (i + n - 1) % n then 2 * n else st % n)

/-- The chunks that a state's collective has sent and an earlier one's has not. -/
def newSends (s : State) (c : Coll) : List Nat :=
  (((s.work.colls.find? fun x => x.id == c.id).map fun x => x.sent.map fun y => y.1).getD []).filter fun k =>
    c.sent.all fun y => y.1 != k

/-- Whether what waits may take a core: a cool one, or a hot one once only hot cores have fitted for 1 ms (R380). -/
def reduceCool (s : State) (id st core : Nat) : Bool :=
  if (coreOf s core).hot then
    ((List.range Config.cores).all fun k => (coreOf s k).hot || !reduceFits s k) && hotOk s (.reduce id st) core &&
      ((List.range Config.cores).all fun k => !reduceFits s k || decide ((coreOf s core).temp ≤ (coreOf s k).temp))
  else true

/-- REDUCE_TEAM_DISPATCH: all pieces of a step have landed, and a reduce team on a core that can hold it runs the step,
its homes serving it; what it sends, the next position has room for, and its context is charged (R265, R266, R380, R382).
-/
def execReduceTeamDispatch (id st core : Nat) (s : State) : Host.Outcome State Fault Refusal :=
  match s.work.colls.find? fun c => c.id == id with
  | none => .fault (.notEnabled "REDUCE_TEAM_DISPATCH")
  | some c =>
    match ringPos s c with
    | none => .fault (.notEnabled "REDUCE_TEAM_DISPATCH")
    | some (i, n) =>
      let b := (aGet c.staged st).getD []
      let landed := st = 2 * n || b.length = stepBytes c n st
      if !c.read || c.done || c.failed.isSome || !stepExpected c i n st || c.stepsDone.contains st || !landed ||
          !reduceFits s core || !reduceCool s id st core || !chunkRead c i n st ||
          (stepHomes s c i n st).any (homeWaits s) then .fault (.notEnabled "REDUCE_TEAM_DISPATCH")
      else
        let s := hotClock s (.reduce id st) core
        let s1 := if st = 2 * n then collStart s c i n
          else if st < n then sumStep s c i n st b else roundStep s c i n (st % n) b
        let out := newSends s1 c
        if !out.all c.credit.contains || (!out.isEmpty && !mayCharge s c.ctx 3) then
          .fault (.notEnabled "REDUCE_TEAM_DISPATCH")
        else .next (updColl s1 id fun x => { x with stepsDone := st :: x.stepsDone })

/-- The destination element of this rank that a source element enters (R216). -/
def destOf (c : Coll) (i e : Nat) : Option Nat :=
  match c.oper with
  | 1 => if e / c.cnt = i then some (e - i * c.cnt) else none
  | 2 => some (i * c.cnt + e)
  | _ => some e

/-- The destination elements whose source a program has changed since the COLL's issue (R267). -/
def spoiled (s : State) (c : Coll) (i n : Nat) : List Nat :=
  let changed (e : Nat) : Bool := match homeKey s c.ctx (c.src.toNat + e * collEsz c) false with
    | .ok k => changedSince s c k (collEsz c)
    | .error _ => false
  ((List.range (srcBytes c i n / collEsz c)).filter changed).filterMap (destOf c i)

/-- At a rank's completion they are free, an .ar in place among them. -/
def spoilSources (s : State) (c : Coll) (i n : Nat) : State :=
  (spoiled s c i n).foldl (fun s d => putDest s c d [freeRun s.fresh (d * collEsz c) (collEsz c)]) s

/-- Whether their homes hold that back (R164, R342). -/
def spoilWaits (s : State) (c : Coll) (i n : Nat) : Bool :=
  (spoiled s c i n).any fun d => ((homeKey s c.ctx (c.dsta.toNat + d * collEsz c) true).toOption).any (homeWaits s)

/-- COLL_RANK_COMPLETION: the rank's steps are done and its sends acknowledged; its counter receives the release add
(R216, R266). -/
def execCollRankCompletion (id : Nat) (s : State) : Host.Outcome State Fault Refusal :=
  match s.work.colls.find? fun c => c.id == id with
  | none => .fault (.notEnabled "COLL_RANK_COMPLETION")
  | some c =>
    match ringPos s c with
    | none => .fault (.notEnabled "COLL_RANK_COMPLETION")
    | some (i, n) =>
      if !c.read || c.done || c.failed.isSome || !((stepsOf c i n).all c.stepsDone.contains) ||
          !(c.sent.all fun x => c.acked.contains x.1) || counterWaits s c.ctx c.ctr || spoilWaits s c i n then
        .fault (.notEnabled "COLL_RANK_COMPLETION")
      else
        let s := spoilSources s c i n
        .next (tellNode (addAt (updColl s id fun x => { x with done := true }) c.ctx c.ctr) c.ctx c.node none)

/-! ### FMTSEL (R217) -/

/-- FMTSEL: one uniform access of 64 bytes (R217, R432). -/
def execFmtsel (h : Hdr) (opB : Bool) (d a b : Nat) (s : State) : Host.Outcome State Fault Refusal :=
  uniOp "FMTSEL" h true 64 (.reg a) 0 (fun c s1 =>
    .done (startOp c (.fmtsel d (uniAcc c s1 (.reg a) 0 0 0 true false) (c.s b) opB) s1)) s

/-- Whether two FP32 magnitudes lie within a factor of 2^15: max / min ≤ 2^15, exactly (R217). -/
def within15 (mx mn : Nat) : Bool :=
  match unpack fmtF32 false mx, unpack fmtF32 false mn with
  | .fin _ m e, .fin _ k f => decide (cmpV (.fin false m e) (.fin false k (f + 15)) ≤ 0)
  | _, _ => false

/-- The format code that a history chooses, or none for the template's (R217). -/
def chosenFmt (ws : List Nat) : Option Nat :=
  match ws.filter (· != 0) with
  | [] => none
  | w :: r =>
    let mx := r.foldl max w
    let mn := r.foldl min w
    if 0x7F800000 ≤ mx then some 4 else if within15 mx mn then some 3 else some 4

/-- A template with the format field of operand A or B replaced (R202, R217). -/
def withFmt (t : Dword) (opB : Bool) (f : Option Nat) : Dword :=
  match f with
  | none => t
  | some k =>
    let lo := if opB then 8 else 0
    (t &&& ~~~(BitVec.ofNat 64 (15 * 2 ^ lo))) ||| BitVec.ofNat 64 (k * 2 ^ lo)

/-- FMTSEL completes (R217). -/
def fmtselFinish (s : State) (o : Op) : Option State :=
  match whoOf s o with
  | none => none
  | some w =>
    match o.kind with
    | .fmtsel d a t opB =>
      if waitsBytes s o || homeWaits s a.x.key then none
      else
        let b := homeBytes s w.core w.ctx a.va a.x.key 64
        let s := updCore s w.core fun k => l1Drop k w.ctx a.va
        let ws := (List.range 16).map fun i => natOfBytes (slice b (4 * i) 4)
        let cur := bitsAt t.toNat (if opB then 8 else 0) 4
        if cur = 3 || cur = 4 then some (endOp (writeNow s o [.s d (withFmt t opB (chosenFmt ws))]) o)
        else some (endOp (bump (writeNow s o [.s d (Config.freeDword s.fresh), .statusSet stINV])) o)
    | _ => none

end Sys2Proof.Machine
end

