-- ==== Sys2Proof/Machine/Tape.lean ====
section
/-!
DEFINITION. Forward and reverse mode, and the tape instructions (R270, R276 to R278, R300 to R302).
-/

namespace Sys2Proof.Machine

/-! ### Mode switches (R270, R303) -/

/-- REVM and FWDM: complete as FENCE.sc.team, holding the group's later memory instructions (R270). -/
def modeIssue (row : String) (h : Hdr) (rev : Bool) (s : State) : Host.Outcome State Fault Refusal :=
  issue { row := row, h := h, ll := true, wr := false } (fun c s1 => .done (startOp c (.mode rev) (holdMem c s1))) s

def execRevm (h : Hdr) (s : State) : Host.Outcome State Fault Refusal := modeIssue "REVM" h true s
def execFwdm (h : Hdr) (s : State) : Host.Outcome State Fault Refusal := modeIssue "FWDM" h false s

/-! ### The tape (R276, R301) -/

/-- Bytes in use: 16 for each position up to the highest that is not free (R301). -/
def tapeUsed (l : List TapePos) : Nat := 16 * (tapeTrim l).length

/-- A position whose store has not performed: it becomes a record or a hole, or a free position or a held record. -/
def TapePos.inFlight : TapePos → Bool
  | .taken => true
  | .popping _ => true
  | _ => false

/-- A hole or a held record (R301). -/
def TapePos.isOpen : TapePos → Bool
  | .hole => true
  | .held _ => true
  | _ => false

/-- Whether the highest position in use is not known yet. -/
def topInFlight (l : List TapePos) : Bool := (((tapeTrim l).getLast?).map TapePos.inFlight).getD false

/-- TAPEMARK (R276). It waits for a store in flight at the top (R301). -/
def execTapemark (h : Hdr) (d : Nat) (s : State) : Host.Outcome State Fault Refusal :=
  issue (uniMem "TAPEMARK" h true) (fun c s1 =>
    if topInFlight c.t.tape then .held
    else .done (startOp c (.regs [.s d (BitVec.ofNat 64 (tapeUsed c.t.tape))]) s1)) s

/-- TAPEMARK.cut (R276, R301). -/
def execTapemarkCut (h : Hdr) (a : Nat) (s : State) : Host.Outcome State Fault Refusal :=
  issue (uniMem "TAPEMARK_CUT" h false) (fun c s1 =>
    let n := (c.s a).toNat
    let gone := c.t.tape.drop (n / 16)
    if topInFlight c.t.tape then .held
    else if n % 16 != 0 || tapeUsed c.t.tape < n then emTrap c .tapeseq
    else if gone.any TapePos.isOpen then emTrap c .tapeseq
    else if gone.any TapePos.inFlight then .held
    else .done (startOp c (.regs []) (updTeam s1 c.tid fun t => { t with tape := tapeTrim (t.tape.take (n / 16)) }))) s

/-! ### TAPESPILL and TAPEFILL (R277) -/

/-- The cause of one page of a tape block's range: unmapped, without permission, or a D or G page (R277). -/
def tapePage (s : State) (c : Ctl) (w : Bool) (va : Nat) : Option (BitVec 9) :=
  match xlate s (some c.t.core) c.t.ctx va (!w) w false with
  | .bad k _ => some k
  | .at _ _ dfr sh => if dfr || sh.isSome then some (causeCode .dperm) else none

/-- The lowest cause of a block of n bytes at an address (R277, R393, R432). -/
def tapeRange (s : State) (c : Ctl) (w : Bool) (va n : Nat) : Option (BitVec 9) :=
  if va % 64 != 0 then some (causeCode .misaln)
  else if 2 ^ 56 ≤ va || 2 ^ 56 < va + n then some (causeCode .addrbad)
  else
    match (pageStarts va n).filterMap (tapePage s c w) with
    | [] => none
    | k :: r => some (r.foldl (fun a b => if b < a then b else a) k)

/-- A precise cause of a tape block with `em` as its mask (R277, R292). -/
def tapeTrap (c : Ctl) (s : State) (k : BitVec 9) (va : Nat) : Body :=
  .stop (raiseRec s c.tid c.gid (k != causeCode .memue)
    (wonRec c.g c.pc { code := k, mask := c.em, smask := 0, scode := 0, addr := va }) none)

/-- Records on a tape, bottom first. -/
def tapeRecs (l : List TapePos) : List (BitVec 128) :=
  l.filterMap fun p => match p with
    | .filled r => some r
    | _ => none

/-- TAPESPILL: the tape empties at issue; it waits for stores in flight (R277, R301). -/
def execTapespill (h : Hdr) (d a : Nat) (s : State) : Host.Outcome State Fault Refusal :=
  issue (uniMem "TAPESPILL" h true) (fun c s1 =>
    let va := (c.s a).toNat
    let rs := tapeRecs c.t.tape
    if c.t.tape.any TapePos.inFlight then .held
    else match tapeRange s1 c true va (16 * rs.length) with
      | some k => tapeTrap c s1 k va
      | none =>
        if c.t.tape.any TapePos.isOpen then emTrap c .tapeseq
        else
          let keys := (List.range rs.length).map fun i =>
            ((xlate s1 (some c.t.core) c.t.ctx (va + 16 * i) false true false).key, rs.getD i 0)
          .done (startOp c (.tapespill d va keys) (updTeam s1 c.tid fun t => { t with tape := [] }))) s

/-- What a TAPEFILL reads: the memory key of each record, and whether L1 serves it. -/
def fillKey (x : Xl) : Nat × Bool :=
  match x with
  | .at k l1 _ _ => (k, l1)
  | .bad _ _ => (0, false)

/-- TAPEFILL: positions are taken at issue above the highest in use, and count as its holes (R277, R301). -/
def execTapefill (h : Hdr) (a b : Nat) (s : State) : Host.Outcome State Fault Refusal :=
  issue (uniMem "TAPEFILL" h false) (fun c s1 =>
    let va := (c.s a).toNat
    let n := (c.s b).toNat
    let tape := tapeTrim c.t.tape
    match tapeRange s1 c false va n with
    | some k => tapeTrap c s1 k va
    | none =>
      if n % 16 != 0 || c.t.al.tapeb / 16 < tape.length + n / 16 then emTrap c .tapefull
      else
        let keys := (List.range (n / 16)).map fun i =>
          fillKey (xlate s1 (some c.t.core) c.t.ctx (va + 16 * i) true false false)
        let pos := (List.range (n / 16)).map fun i => tape.length + i
        .done (startOp c (.tapefill va keys pos)
          (updTeam s1 c.tid fun t => { t with tape := tape ++ List.replicate (n / 16) .hole }))) s

/-- The 16-byte stores of a spill, each at its home, updating the core's line (R277, R299). -/
def spillRecs (w : Who) (va : Nat) (rs : List (Nat × BitVec 128)) (s : State) : State :=
  (rs.zipIdx).foldl (fun s p => homeStore s w.core w.ctx (va + 16 * p.2) p.1.1 (bytesOfNat 16 p.1.2.toNat)) s

/-- The records of a fill, read as the group's own loads into their positions (R277). -/
def fillRecs (w : Who) (tid va : Nat) (fromL1 : Bool) (ks : List (Nat × Bool)) (pos : List Nat) (s : State) : State :=
  (ks.zipIdx).foldl (fun s p =>
    let r := readLoad s w.core w.ctx (va + 16 * p.2) p.1.1 16 p.1.2 fromL1 false
    setTape r.2 tid (pos.getD p.2 0) (.filled (BitVec.ofNat 128 (natOfBytes r.1)))) s

/-- A TAPESPILL or a TAPEFILL completes (R111, R164, R277). -/
def tapeFinish (s : State) (o : Op) (fromL1 : Bool) : Option State :=
  match whoOf s o with
  | none => none
  | some w =>
    match o.kind with
    | .tapespill d va rs =>
      if waitsBytes s o || waitsQueue s w.core w.ctx (opSpans o.kind) || ackWaits s w.core || rs.any (fun r => homeWaits s r.1) then none
      else some (endOp (writeNow (spillRecs w va rs s) o [.s d (BitVec.ofNat 64 (16 * rs.length))]) o)
    | .tapefill va ks pos =>
      if waitsBytes s o || ks.any (fun k => homeWaits s k.1) then none
      else some (endOp (fillRecs w o.tid va fromL1 ks pos s) o)
    | _ => none

end Sys2Proof.Machine
end

