-- ==== Sys2Proof/Machine/Complete.lean ====
section
/-!
DEFINITION. The completion of long-latency operations (R22, R24), the write-through queue and the L1 lines (R177).
-/

namespace Sys2Proof.Machine

/-- What completing an operation gives, by kind; none where it must still wait. A commit, a copy, a census, a remote
atomic, a command of a unit and a gather complete by events of their own (R122, R128, R212, R289, R354, R355). -/
def finishOp (s : State) (o : Op) (fromL1 : Bool) : Option State :=
  match o.kind with
  | .regs ws => some (endOp (writeNow s o ws) o)
  | .qpush _ _ | .qpop _ _ _ => queueFinish s o
  | .mem _ _ _ _ _ _ _ _ _ | .abuf _ _ _ _ _ | .cbuf _ _ _ _ | .atom _ _ _ _ _ _ => accessFinish s o fromL1
  | .waita _ _ _ _ _ _ | .cwaitge _ _ _ | .cadd _ _ _ => counterFinish s o
  | .fence _ _ | .aliasf _ | .mode _ => fenceFinish s o fromL1
  | .arrive _ _ | .barwt _ _ | .barsync _ _ _ => barFinish s o
  | .cwaitb _ _ | .aexportRev _ | .opfence => copySideFinish s o
  | .coll id => collEnter s o id
  | .fmtsel _ _ _ _ => fmtselFinish s o
  | .tapespill _ _ _ | .tapefill _ _ _ => tapeFinish s o fromL1
  | .dirins _ _ _ _ | .dirlook _ _ _ _ | .dirdel _ _ | .dirmove _ _ => dirFinish s o
  | .commit _ | .ratom _ _ _ _ _ | .copy _ | .solicit _ | .nmpost _ | .nmgather _ _ _ _ _ _ _ _ => none

/-- Whether an operation of a team has a lane or an access that faults, and so ends by AFTER_ISSUE_FAULT (R22, R391). -/
def opFaulty (s : State) (o : Op) : Bool :=
  match teamOf s o.tid with
  | some t => !(uniCauses s t.d.gridUnit o).isEmpty
  | none => false

/-- LONG_LATENCY_COMPLETION (R22). -/
def execLongLatencyCompletion (id : Nat) (fromL1 : Bool) (s : State) : Host.Outcome State Fault Refusal :=
  match opOf? s id with
  | none => .fault (.notEnabled "LONG_LATENCY_COMPLETION")
  | some o =>
    if opFaulty s o then .fault (.notEnabled "LONG_LATENCY_COMPLETION")
    else match finishOp s o fromL1 with
      | some s' => .next s'
      | none => .fault (.notEnabled "LONG_LATENCY_COMPLETION")

/-- WRITE_THROUGH_DRAIN: the oldest store of a core's queue is performed at its home, which may hold it back (R164, R177,
R342). -/
def execWriteThroughDrain (core : Nat) (s : State) : Host.Outcome State Fault Refusal :=
  match (coreOf s core).wtq with
  | [] => .fault (.notEnabled "WRITE_THROUGH_DRAIN")
  | e :: r =>
    if homeWaits s e.key || homeWaits s (e.key + (e.bytes.length - 1)) then .fault (.notEnabled "WRITE_THROUGH_DRAIN")
    else
      let s := publish s e.tid e.rel.isSome 2
      .next (updCore { s with mem := memSetN s.mem e.key e.bytes } core fun c => { c with wtq := r })

/-- L1_LINE_REPLACEMENT: a line of a core's data or instruction cache is discarded, at any moment (R9, R177). -/
def execL1LineReplacement (core idx : Nat) (inst : Bool) (s : State) : Host.Outcome State Fault Refusal :=
  let c := coreOf s core
  if (if inst then c.icache else c.l1).length ≤ idx then .fault (.notEnabled "L1_LINE_REPLACEMENT")
  else .next (setCore s core (if inst then { c with icache := c.icache.eraseIdx idx } else { c with l1 := c.l1.eraseIdx idx }))

end Sys2Proof.Machine
end

