-- ==== Sys2Proof/Machine/Rhizoid.lean ====
section
/-!
DEFINITION. Rhizoid units and the instructions of their threads (R333 to R351, R364 to R369).
-/

namespace Sys2Proof.Machine

/-! ### Units -/

/-- The unit of a channel. -/
def unitOf (s : State) (ch : Nat) : Unit' :=
  (s.units.find? fun u => u.ch == ch).getD { ch := ch, queue := [], run := none, openRows := [], slices := [], served := [], offline := false }

/-- Replace a unit. -/
def setUnit (s : State) (u : Unit') : State :=
  { s with units := if s.units.any fun x => x.ch == u.ch then s.units.map fun x => if x.ch = u.ch then u else x
                    else s.units ++ [u] }

/-- Replace the running command of a unit. -/
def setRun (s : State) (ch : Nat) (z : ZRun) : State := setUnit s { unitOf s ch with run := some z }

/-- A unit with nothing left to run: it holds no bank. -/
def idleUnit (s : State) (ch : Nat) : State :=
  setUnit s { unitOf s ch with run := none, openRows := [], slices := [], served := [] }

/-- The memory keys of accesses under way of other parties than the units, of those with a number below `n`: groups, their
queues of stores, copies, drains, Thallus applies, hosts (R366). -/
def accessKeys (s : State) (n : Nat) : List Nat :=
  let ops := (s.work.ops.filter fun o => decide (o.id < n)).flatMap fun o => (opWords o.kind).map fun w => w.1
  let stores := s.work.cores.flatMap fun c => (c.2.wtq.head?).toList.filterMap fun e => if e.seq < n then some e.key else none
  let copies := s.work.copies.flatMap fun c =>
    if c.done || decide (n ≤ c.id) then [] else (c.form.map (copyKeys s c)).getD []
  let drains := s.work.cores.flatMap fun c => match oldestDrain s c.1 with
    | some (t, m, d) => ((drainCtl d.ctl (m.ints.contains d.acc)).map fun k => drainKeys s k t d).getD []
    | none => []
  let applies := s.defer.commits.flatMap fun c => c.applySent.flatMap fun a =>
    (covered s c (thallusOf s (a.1, a.2.1))).map fun r => devBase r.dev + r.pa
  ops ++ stores ++ copies ++ drains ++ applies ++ s.host.rdma.flatMap fun r => r.waits

/-- Those of them that wait for a bank of a channel, beyond what they may wait for in their rows. -/
def bankQueue (s : State) (ch bank n : Nat) : List Nat :=
  (accessKeys s n).filter fun k => keyDev k == s.firm.devNum && channelOf s (keyPa k) == ch &&
    bankOf s (keyPa k) == bank && !rowLocked s k

/-- A unit holds a row of a bank open, if the bank is not given up to other parties' accesses first (R366). -/
def openBank (s : State) (ch bank row : Nat) : State :=
  let u := unitOf s ch
  if (aGet u.served bank).isSome then s else setUnit s { u with openRows := aSet u.openRows bank row }

/-- A unit's hold of a bank ends, with its slice. The accesses of other parties that a slice has let wait go before the
unit's next access to the bank (R366). -/
def closeBank (s : State) (ch bank : Nat) : State :=
  let u := unitOf s ch
  let keys := if (aGet u.slices bank).isSome then bankQueue s ch bank s.nextId else []
  setUnit s { u with openRows := aDel u.openRows bank, slices := aDel u.slices bank
                     served := if keys.isEmpty then u.served else aSet u.served bank (s.nextId, keys) }

/-! ### The status record and the end of a command (R348, R350, R351) -/

/-- The lowest byte of a row of an N frame: its stripe with offset bits 13:12 zero (R351, R364). -/
def rowBase (pa : Nat) : Nat := (nRowStripes pa).headD 0

/-- The status record (R351). -/
def statusNat (z : ZRun) (x : ZStop) (clk : BitVec 32) : Nat :=
  x.cause.toNat + bit z.sati * 2 ^ 9 + bit z.inv * 2 ^ 10 + bit x.thr * 2 ^ 11 + x.nlk % 16 * 2 ^ 12 + x.pc.toNat * 2 ^ 16 +
    clk.toNat * 2 ^ 32 + x.row % 2 ^ 48 * 2 ^ 64

/-- Write a status record, add to or poison a counter (R127, R348, R350). -/
def putStatus (s : State) (c : NmCmd) (v : Nat) (poison : Bool) : State :=
  let s := match c.statKey with
    | some k => engineStore s k (bytesOfNat 16 v)
    | none => s
  match c.ctrKey with
  | some k => addCounter s k (if poison then 0 else 1) poison
  | none => s

/-- Fill the queue entry that an operation reserved (R354). -/
def fill1 (owner : Nat) (v : Dword) (q : Queue) : Queue :=
  { q with ents := q.ents.map fun e => if e.owner = owner then { e with val := some v } else e }

/-- Fill a command's reply entry with bits 63:0 of its status record (R354). -/
def putReply (s : State) (c : NmCmd) (v : Nat) : State :=
  match c.reply with
  | some (tid, q) => updTeam s tid fun t =>
      { t with queues := vset t.queues q (fill1 c.id (BitVec.ofNat 64 v) (vget t.queues q)) }
  | none => s

/-- The record of a command that has run to its end (R351). -/
def ZStop.success : ZStop := { cause := 0, pc := 0, thr := false, row := 0, nlk := 0 }

/-- A command ends: its status record, its counter, its reply, its charge, its node; a parity abort is reported (R348,
R350, R351, R369, R372, R382). -/
def endRun (s : State) (ch : Nat) (z : ZRun) (x : ZStop) : State :=
  let v := statusNat z x (BitVec.ofNat 32 (min (s.clock - z.start) (2 ^ 32 - 1)))
  let s := idleUnit s ch
  let s := putReply (putStatus s z.cmd v (x.cause != 0)) z.cmd v
  let s := charge s z.cmd.ctx 2 (s.clock - z.start)
  let s := if x.cause = causeCode .zparity then report s ⟨causeCode .zparity, none, BitVec.ofNat 64 ch, BitVec.ofNat 64 x.row⟩ else s
  tellNode s z.cmd.ctx z.cmd.node (if x.cause = 0 then none else some x.cause)

/-- Whether the home of a command's status record or counter holds a write back (R164, R342). -/
def endWaits (s : State) (c : NmCmd) : Bool := (c.statKey.toList ++ c.ctrKey.toList).any (homeWaits s)

/-- Mark an ECC word uncorrectable: what it held is lost (R171, R369, R404). -/
def markWord (s : State) (dev pa : Nat) : State :=
  let w := eccWord pa
  let marked := if s.pow.marked.contains (dev, w) then s.pow.marked else (dev, w) :: s.pow.marked
  { bump s with mem := memSetN s.mem (devBase dev + w) (freeBytes s.fresh 32), pow := { s.pow with marked := marked } }

/-- The memory key of a byte of a row, by its number in the row's snapshot (R364). -/
def rowKey (s : State) (base i : Nat) : Nat := ownKey s ((nRowStripes base).getD (i / 256) 0 + i % 256)

/-- Restore a held row from its snapshot; words of the snapshot that fail their check are left marked (R350, R369). -/
def restoreRow (s : State) (k : ZLockSt) : State :=
  let put (s : State) (p : Nat × Nat) : State := engineStore s (ownKey s p.1) (slice k.snap (256 * p.2) 256)
  let s := (nRowStripes k.base).zipIdx.foldl put s
  k.bad.foldl (fun s w => markWord s s.firm.devNum (keyPa (rowKey s k.base (32 * w)))) s

/-- A cause stops both threads: held rows are restored and released, and the command ends, at once or, where the home
holds its record or counter back, by NM_COMMAND_COMPLETION (R350). -/
def abortRun (s : State) (ch : Nat) (cause : BitVec 9) (pc : BitVec 12) (thr : Bool) (row : Nat) : State :=
  match (unitOf s ch).run with
  | none => s
  | some z =>
    let x : ZStop := { cause := cause, pc := pc, thr := thr, row := row, nlk := z.locks.length }
    let s := z.locks.foldl restoreRow s
    let z := { z with locks := [], lockWait := none, stop := some x }
    let s := setUnit s { unitOf s ch with run := some z, openRows := [], slices := [], served := [] }
    if endWaits s z.cmd then s else endRun s ch z x

/-- An image offset as the record gives it (R351). -/
def pc12 (pc : Int) : BitVec 12 := BitVec.ofInt 12 pc

/-! ### Issue (R334, R336) -/

/-- What a thread's instruction answers: the unit's new state with the next image offset, a wait at issue with what the
unit notes of it, or a cause with its row. -/
inductive ZRes where
  | done (s : State) (z : ZRun)
  | jump (s : State) (z : ZRun) (pc : Int)
  | wait (s : State)
  | stop (c : Cause) (row : Nat)

/-- The running command of a unit, none where a cause has stopped it or where it is a gather. -/
def liveRun (s : State) (ch : Nat) : Option ZRun :=
  match (unitOf s ch).run with
  | some z => if z.stop.isNone && z.cmd.gather.isNone then some z else none
  | none => none

/-- The unit, command and thread of the state's party, while its thread has not ended; the thread is `true` for the
arithmetic one. -/
def curZ (s : State) : Option (Nat × Bool × ZRun) :=
  match s.cur with
  | some (.zaddr ch) => (liveRun s ch).bind fun z => if z.endA then none else some (ch, false, z)
  | some (.zarith ch) => (liveRun s ch).bind fun z => if z.endE then none else some (ch, true, z)
  | _ => none

/-- A thread's offset in the image. -/
def ZRun.pc (z : ZRun) (arith : Bool) : Int := if arith then z.pcE else z.pcA

/-- Set it. -/
def ZRun.goto (z : ZRun) (arith : Bool) (pc : Int) : ZRun := if arith then { z with pcE := pc } else { z with pcA := pc }

/-- Issue an instruction of a thread: its cause stops the command, and otherwise the thread goes on. -/
def zStep (arith : Bool) (f : Nat → ZRun → State → ZRes) (ch : Nat) (z : ZRun) (s : State) : State :=
  match f ch z s with
  | .done s1 z1 => setRun s1 ch (z1.goto arith (z.pc arith + 4))
  | .jump s1 z1 pc => setRun s1 ch (z1.goto arith pc)
  | .wait s1 => s1
  | .stop c row => abortRun s ch (causeCode c) (pc12 (z.pc arith)) arith row

/-- Issue an instruction of one thread. -/
def zIssue (row : String) (arith : Bool) (f : Nat → ZRun → State → ZRes) (s : State) :
    Host.Outcome State Fault Refusal :=
  match curZ s with
  | some (ch, th, z) => if th = arith then .next (zStep arith f ch z s) else .fault (.noParty row)
  | none => .fault (.noParty row)

/-- An instruction that changes only the threads' registers. -/
def zReg (row : String) (arith : Bool) (f : ZRun → ZRun) (s : State) : Host.Outcome State Fault Refusal :=
  zIssue row arith (fun _ z s => .done s (f z)) s

def ZRun.setA (z : ZRun) (d : Nat) (x : Word) : ZRun := { z with a := vset z.a d x }
def ZRun.setE (z : ZRun) (d : Nat) (x : Word) : ZRun := { z with e := vset z.e d x }
def ZRun.ra (z : ZRun) (n : Nat) : Word := vget z.a n
def ZRun.re (z : ZRun) (n : Nat) : Word := vget z.e n

/-! ### Integers and branches of both threads (R340) -/

def execZalui (d : Nat) (c : BitVec 16) (s : State) : Host.Outcome State Fault Refusal :=
  zReg "ZALUI" false (fun z => z.setA d (c.setWidth 32 <<< 16)) s
def execZelui (d : Nat) (c : BitVec 16) (s : State) : Host.Outcome State Fault Refusal :=
  zReg "ZELUI" true (fun z => z.setE d (c.setWidth 32 <<< 16)) s
def execZaaddi (d a : Nat) (c : BitVec 16) (s : State) : Host.Outcome State Fault Refusal :=
  zReg "ZAADDI" false (fun z => z.setA d (z.ra a + c.signExtend 32)) s
def execZeori (d a : Nat) (c : BitVec 16) (s : State) : Host.Outcome State Fault Refusal :=
  zReg "ZEORI" true (fun z => z.setE d (z.re a ||| c.setWidth 32)) s
def execZaadd (d a b : Nat) (s : State) : Host.Outcome State Fault Refusal :=
  zReg "ZAADD" false (fun z => z.setA d (z.ra a + z.ra b)) s

/-- The target of a branch (R340). -/
def zTarget (z : ZRun) (arith : Bool) (off : BitVec 16) : Int := z.pc arith + 4 * off.toInt

def execZabra (off : BitVec 16) (s : State) : Host.Outcome State Fault Refusal :=
  zIssue "ZABRA" false (fun _ z s => .jump s z (zTarget z false off)) s
def execZebra (off : BitVec 16) (s : State) : Host.Outcome State Fault Refusal :=
  zIssue "ZEBRA" true (fun _ z s => .jump s z (zTarget z true off)) s
def execZadbnz (a : Nat) (off : BitVec 16) (s : State) : Host.Outcome State Fault Refusal :=
  zIssue "ZADBNZ" false (fun _ z s =>
    let x := z.ra a - 1
    if x = 0 then .done s (z.setA a x) else .jump s (z.setA a x) (zTarget z false off)) s
def execZedbnz (a : Nat) (off : BitVec 16) (s : State) : Host.Outcome State Fault Refusal :=
  zIssue "ZEDBNZ" true (fun _ z s =>
    let x := z.re a - 1
    if x = 0 then .done s (z.setE a x) else .jump s (z.setE a x) (zTarget z true off)) s

/-! ### Windows, queues and rows (R339, R341, R342) -/

/-- WLEN of a window. -/
def ZRun.wlen (z : ZRun) (w : Nat) : Nat := ((z.cmd.desc.map fun d => d.wlen).getD []).getD w 0

/-- The memory key of a window's base. -/
def ZRun.wkey (z : ZRun) (w : Nat) : Nat := z.cmd.winKey.getD w 0

/-- The offset of a ZM instruction (R339). -/
def ZRun.off (z : ZRun) (a : Nat) (c : BitVec 16) : Int := (z.ra a).toInt + 64 * c.toInt

/-- Whether bytes at an offset lie in a window (R339). -/
def ZRun.inWin (z : ZRun) (w : Nat) (o : Int) (n : Nat) : Bool :=
  z.wlen w != 0 && decide (0 ≤ o ∧ o + n ≤ (z.wlen w : Int))

/-- The memory key of an offset of a window. -/
def ZRun.key (z : ZRun) (w : Nat) (o : Int) : Nat := z.wkey w + o.toNat

/-- Whether the row of a memory key is held (R342). -/
def ZRun.holds (s : State) (z : ZRun) (key : Nat) : Bool := z.locks.any fun k => k.row == rowId s (keyPa key)

/-- The banks of a run of bytes. -/
def keyBanks (s : State) (key n : Nat) : List Nat := [bankOf s (keyPa key), bankOf s (keyPa (key + (n - 1)))].dedup

/-- The ZLDs of a bank that have not been filled, oldest first. -/
def ZRun.loads (s : State) (z : ZRun) (bank : Nat) : List DqEnt :=
  z.dq.filter fun d => d.data.isNone && (keyBanks s d.key 64).contains bank

/-- Whether no access of the banks of some bytes is still to be served: a bank serves its accesses in the order of their
issue, banks overlap (R341, R365). -/
def ZRun.bankFree (s : State) (z : ZRun) (key n : Nat) : Bool := (keyBanks s key n).all fun b => (z.loads s b).isEmpty

/-- Hold the banks of some bytes, from the activation of the row for the access that comes first (R366). -/
def holdRows (s : State) (ch key n : Nat) : State :=
  (keyBanks s key n).foldl (fun s b =>
    if (aGet (unitOf s ch).openRows b).isSome then s else openBank s ch b (rowId s (keyPa key))) s

/-- Whether the banks of some bytes serve the unit: none is given up to other parties' accesses, and no line is reserved
(R251, R366). -/
def unitServed (s : State) (key n : Nat) : Bool :=
  (keyBanks s key n).all (fun b => (aGet (unitOf s (channelOf s (keyPa key))).served b).isNone) &&
    !lineReserved s none key && !lineReserved s none (key + (n - 1))

/-- The checks of a ZM access of 64 bytes: ZWIN, then ZMISALN (R339). -/
def ZRun.burst (z : ZRun) (w a : Nat) (c : BitVec 16) : Option Cause :=
  let o := z.off a c
  if !z.inWin w o 64 then some .zwin else if o % 64 != 0 then some .zmisaln else none

/-- ZLD reserves an entry; it waits while 16 are held (R341). -/
def zldF (w a : Nat) (c : BitVec 16) (ch : Nat) (z : ZRun) (s : State) : ZRes :=
  match z.burst w a c with
  | some k => .stop k 0
  | none =>
    if 16 ≤ z.dq.length then .wait s
    else
      let key := z.key w (z.off a c)
      .done (holdRows s ch key 64) { z with dq := z.dq ++ [⟨key, z.pcA, none⟩] }

def execZld (w a : Nat) (off : BitVec 16) (s : State) : Host.Outcome State Fault Refusal :=
  zIssue "ZLD" false (zldF w a off) s

/-- Whether the controller serves a write now: its rows do not pend, and its banks have served what came earlier (R164,
R341, R365). -/
def ZRun.writable (s : State) (z : ZRun) (key n : Nat) : Bool :=
  !rowPending s key && !rowPending s (key + (n - 1)) && z.bankFree s key n && unitServed s key n

/-- ZST pops the oldest entry and writes it (R341). -/
def zstF (w a : Nat) (c : BitVec 16) (_ : Nat) (z : ZRun) (s : State) : ZRes :=
  match z.burst w a c with
  | some k => .stop k 0
  | none =>
    let key := z.key w (z.off a c)
    match z.wq with
    | [] => .wait s
    | e :: r =>
      if z.writable s key 64 then .done (engineStore s key e) { z with wq := r }
      else .wait s

def execZst (w a : Nat) (off : BitVec 16) (s : State) : Host.Outcome State Fault Refusal :=
  zIssue "ZST" false (zstF w a off) s

/-- The bytes of a row, stripe by stripe (R364). -/
def rowBytes (s : State) (pa : Nat) : List Byte := (nRowStripes pa).flatMap fun p => memGetN s.mem (ownKey s p) 256

/-- Whether a row holds a word marked uncorrectable (R369, R404). -/
def rowMarked (s : State) (pa : Nat) : Bool := (nRowStripes pa).any fun p => isMarked s (ownKey s p) 256

/-- Whether a drain's add-on-store has reserved a line of a row (R367). -/
def rowReserved (s : State) (pa : Nat) : Bool :=
  (nRowStripes pa).any fun p => (List.range (256 / Config.lineBytes)).any fun i =>
    lineReserved s none (ownKey s p + i * Config.lineBytes)

/-- ZLOCK holds the row and takes its snapshot; a ninth row aborts, and so does one that completes no sooner than 3,200 ck
after its issue (R342, R367, R369). While the row pends, a drain has reserved a line of it, or its bank has earlier
accesses, it waits (R164, R365 to R367). -/
def zlockF (w a : Nat) (c : BitVec 16) (ch : Nat) (z : ZRun) (s : State) : ZRes :=
  let o := z.off a c
  if !z.inWin w o 1 then .stop .zwin 0
  else
    let key := z.key w o
    let pa := keyPa key
    if z.holds s key then .done s { z with lockWait := none }
    else if 8 ≤ z.locks.length then .stop .zlkmax (rowBase pa)
    else if z.lockWait.any fun x => decide (x.2 + 3200 ≤ s.clock) then .stop .zlktime (rowBase pa)
    else if rowPending s key || rowReserved s pa || !z.bankFree s key 1 || !unitServed s key 1 then
      .wait (setRun s ch { z with lockWait := some (z.lockWait.getD (rowBase pa, s.clock)) })
    else if rowMarked s pa then .stop .zparity (rowBase pa)
    else
      let k : ZLockSt := { row := rowId s pa, base := rowBase pa, snap := rowBytes s pa, since := s.clock, bad := [] }
      .done s { z with locks := z.locks ++ [k], lockWait := none }

def execZlock (w a : Nat) (off : BitVec 16) (s : State) : Host.Outcome State Fault Refusal :=
  zIssue "ZLOCK" false (zlockF w a off) s

/-- ZUNLK releases the row, if it is held (R342). -/
def zunlkF (w a : Nat) (c : BitVec 16) (_ : Nat) (z : ZRun) (s : State) : ZRes :=
  let o := z.off a c
  if !z.inWin w o 1 then .stop .zwin 0
  else .done s { z with locks := z.locks.filter fun k => k.row != rowId s (keyPa (z.key w o)) }

def execZunlk (w a : Nat) (off : BitVec 16) (s : State) : Host.Outcome State Fault Refusal :=
  zIssue "ZUNLK" false (zunlkF w a off) s

def execZunlkAll (s : State) : Host.Outcome State Fault Refusal :=
  zReg "ZUNLK_ALL" false (fun z => { z with locks := [] }) s

/-! ### ZWPAIR (R343) -/

/-- The element writes of a ZWPAIR, in its order: window, offset, first byte of the entry. -/
def pairWrites (z : ZRun) (ap at' as n wp wt sz : Nat) : List (Nat × Int × Nat) :=
  (List.range n).flatMap fun j =>
    [(wp, (z.ra ap).toInt + ((j * sz : Nat) : Int), j * sz),
     (wt, (z.ra at').toInt + ((j * (z.ra as).toNat : Nat) : Int), j * sz)]

/-- ZWPAIR: its checks, then one entry written twice (R343). -/
def zwpairF (ap at' as n wp wt : Nat) (word : Bool) (_ : Nat) (z : ZRun) (s : State) : ZRes :=
  let sz := if word then 4 else 2
  let ws := pairWrites z ap at' as n wp wt sz
  let keys := ws.map fun x => z.key x.1 x.2.1
  if (z.ra ap).toNat % sz != 0 || (z.ra at').toNat % sz != 0 || (z.ra as).toNat % sz != 0 then .stop .zmisaln 0
  else if ws.any fun x => !z.inWin x.1 x.2.1 sz then .stop .zwin 0
  else
    match (keys.flatMap fun k => [k, k + (sz - 1)]).find? fun k => !z.holds s k with
    | some k => .stop .znolock (rowBase (keyPa k))
    | none =>
      match z.wq with
      | [] => .wait s
      | e :: r =>
        if keys.all fun k => z.writable s k sz then
          .done (ws.foldl (fun s x => engineStore s (z.key x.1 x.2.1) (slice e x.2.2 sz)) s) { z with wq := r }
        else .wait s

def execZwpair (ap at' as n wp wt : Nat) (word : Bool) (s : State) : Host.Outcome State Fault Refusal :=
  zIssue "ZWPAIR" false (zwpairF ap at' as n wp wt word) s

/-! ### Ends (R348) -/

/-- ZAEND with a row held aborts. -/
def execZaend (s : State) : Host.Outcome State Fault Refusal :=
  zIssue "ZAEND" false (fun _ z s => if z.locks.isEmpty then .done s { z with endA := true } else .stop .zlkend 0) s

def execZeend (s : State) : Host.Outcome State Fault Refusal :=
  zIssue "ZEEND" true (fun _ z s => .done s { z with endE := true }) s

/-! ### Queues and integers of the arithmetic thread (R344 to R346) -/

/-- ZPOP waits for the oldest entry to be filled (R344). -/
def zpopF (d : Nat) (_ : Nat) (z : ZRun) (s : State) : ZRes :=
  match z.dq with
  | ⟨_, _, some b⟩ :: r =>
    .done s ((List.range 16).foldl (fun z j => z.setE (d + j) (BitVec.ofNat 32 (natOfBytes (slice b (4 * j) 4))))
      { z with dq := r })
  | _ => .wait s

def execZpop (d : Nat) (s : State) : Host.Outcome State Fault Refusal := zIssue "ZPOP" true (zpopF d) s

/-- ZPUSH waits while 16 entries are held (R344). -/
def zpushF (a : Nat) (_ : Nat) (z : ZRun) (s : State) : ZRes :=
  if 16 ≤ z.wq.length then .wait s
  else .done s { z with wq := z.wq ++ [(List.range 16).flatMap fun j => bytesOfNat 4 (z.re (a + j)).toNat] }

def execZpush (a : Nat) (s : State) : Host.Outcome State Fault Refusal := zIssue "ZPUSH" true (zpushF a) s

/-- A signed result, clamped with SATI or wrapped (R344, R345). -/
def ZRun.setSat (z : ZRun) (sat : Bool) (d : Nat) (t : Int) : ZRun :=
  let c := clampI (-2 ^ 31, 2 ^ 31 - 1) t
  if sat then { z.setE d (BitVec.ofInt 32 c.1) with sati := z.sati || c.2 } else z.setE d (BitVec.ofInt 32 t)

def execZiadd (sat : Bool) (d a b : Nat) (s : State) : Host.Outcome State Fault Refusal :=
  zReg "ZIADD" true (fun z => z.setSat sat d ((z.re a).toInt + (z.re b).toInt)) s

def execZimulw (d a b : Nat) (s : State) : Host.Outcome State Fault Refusal :=
  zReg "ZIMULW" true (fun z =>
    let p : BitVec 64 := BitVec.ofInt 64 ((z.re a).toInt * (z.re b).toInt)
    (z.setE d (p.setWidth 32)).setE (d + 1) ((p >>> 32).setWidth 32)) s

/-- The dot product of 32 / w elements of w bits, b unsigned with .n (R345). -/
def zdot (w : Nat) (uns : Bool) (a b : Word) : Int :=
  (List.range (32 / w)).foldl (fun acc j =>
    let x := bitsAt b.toNat (w * j) w
    acc + sextNat w (bitsAt a.toNat (w * j) w) * (if uns then (x : Int) else sextNat w x)) 0

def execZdot8 (sat uns : Bool) (d a b : Nat) (s : State) : Host.Outcome State Fault Refusal :=
  zReg "ZDOT8" true (fun z => z.setSat sat d ((z.re d).toInt + zdot 8 uns (z.re a) (z.re b))) s
def execZdot4 (sat uns : Bool) (d a b : Nat) (s : State) : Host.Outcome State Fault Refusal :=
  zReg "ZDOT4" true (fun z => z.setSat sat d ((z.re d).toInt + zdot 4 uns (z.re a) (z.re b))) s

/-! ### Floating point (R344, R346, R347) -/

/-- A floating-point result with sticky INV. -/
def ZRun.setF (z : ZRun) (d : Nat) (r : FRes) : ZRun := { z.setE d (BitVec.ofNat 32 r.x) with inv := z.inv || r.inv }

/-- The element of ZDQ, signed (R346). -/
def zdqElem (kind k : Nat) (a : Word) : Int :=
  match kind with
  | 0 => a.toInt
  | 1 => sextNat 8 (bitsAt a.toNat (8 * k) 8)
  | _ => sextNat 4 (bitsAt a.toNat (4 * k) 4)

/-- rne_f32((q − c) × b), computed exactly and rounded once (R346). -/
def zdqF (q : Int) (b c : Nat) : FRes :=
  let diff : FV := match unpack fmtF32 false c with
    | .nan n s => .nan n s
    | .inf n => .inf (!n)
    | .fin n m e => let r := addFin .rne (decide (q < 0)) q.natAbs 0 (!n) m e; .fin r.1 r.2.1 r.2.2
  let p := mulV diff (unpack fmtF32 false b)
  let r := packV fmtF32 .rne false p.1
  ⟨r.x, r.inv || p.2⟩

def execZdq (kind k d a b c : Nat) (s : State) : Host.Outcome State Fault Refusal :=
  zReg "ZDQ" true (fun z => z.setF d (zdqF (zdqElem kind k (z.re a)) (z.re b).toNat (z.re c).toNat)) s

/-- A binary floating-point instruction: RNE, no flush (R347). -/
def zf2 (row : String) (f : Nat → Nat → FRes) (d a b : Nat) (s : State) : Host.Outcome State Fault Refusal :=
  zReg row true (fun z => z.setF d (f (z.re a).toNat (z.re b).toNat)) s

def execZfadd (d a b : Nat) (s : State) : Host.Outcome State Fault Refusal :=
  zf2 "ZFADD" (fAdd fmtF32 .rne false false) d a b s
def execZfsub (d a b : Nat) (s : State) : Host.Outcome State Fault Refusal :=
  zf2 "ZFSUB" (fSub fmtF32 .rne false false) d a b s
def execZfmul (d a b : Nat) (s : State) : Host.Outcome State Fault Refusal :=
  zf2 "ZFMUL" (fMul fmtF32 .rne false false) d a b s
def execZfma (d a b c : Nat) (s : State) : Host.Outcome State Fault Refusal :=
  zReg "ZFMA" true (fun z => z.setF d
    (fFma fmtF32 .rne false false false false (z.re a).toNat (z.re b).toNat (z.re c).toNat)) s
def execZfmin (d a b : Nat) (s : State) : Host.Outcome State Fault Refusal :=
  zf2 "ZFMIN" (fExtreme fmtF32 false false) d a b s
def execZfmax (d a b : Nat) (s : State) : Host.Outcome State Fault Refusal :=
  zf2 "ZFMAX" (fExtreme fmtF32 true false) d a b s
def execZfsqrt (d a : Nat) (s : State) : Host.Outcome State Fault Refusal :=
  zReg "ZFSQRT" true (fun z => z.setF d (sfuSqrt false false (z.re a).toNat)) s
def execZfrsq (d a : Nat) (s : State) : Host.Outcome State Fault Refusal :=
  zReg "ZFRSQ" true (fun z => z.setF d (sfuRsq false false (z.re a).toNat)) s

def execZunpk (hi : Bool) (d a : Nat) (s : State) : Host.Outcome State Fault Refusal :=
  zReg "ZUNPK" true (fun z =>
    let x := z.re a
    z.setE d (if hi then x &&& 0xFFFF0000 else x <<< 16)) s

/-- BF16 by RNE; only a signalling NaN is invalid (R344). -/
def zpackHalf (x : Nat) : FRes := packV fmtBf16 .rne false (unpack fmtF32 false x)

def execZpack (d a b : Nat) (s : State) : Host.Outcome State Fault Refusal :=
  zReg "ZPACK" true (fun z =>
    let l := zpackHalf (z.re a).toNat
    let h := zpackHalf (z.re b).toNat
    z.setF d ⟨h.x * 2 ^ 16 + l.x, l.inv || h.inv⟩) s

/-! ### Moments of a running command -/

/-- After a fill of a bank: the hold goes on while an access to the open row is left; else it ends, and the oldest access
to another row begins one (R366). -/
def nextRow (s : State) (ch : Nat) (z : ZRun) (bank : Nat) : State :=
  match z.loads s bank with
  | [] => closeBank s ch bank
  | e :: _ =>
    let row := rowId s (keyPa e.key)
    if aGet (unitOf s ch).openRows bank = some row then s else openBank (closeBank s ch bank) ch bank row

/-- DQ_ENTRY_FILLED: the controller returns the bytes of a bank's oldest ZLD not yet filled; an uncorrectable word of the
row aborts the command. The unit holds the bank while one is left (R341, R365, R366, R369). `n` numbers the device's
banks, 32 to a channel (R364). -/
def execDqEntryFilled (n : Nat) (s : State) : Host.Outcome State Fault Refusal :=
  let ch := n / 32
  let bank := n % 32
  match liveRun s ch with
  | none => .fault (.notEnabled "DQ_ENTRY_FILLED")
  | some z =>
    match z.dq.findIdx? fun d => d.data.isNone && (keyBanks s d.key 64).contains bank with
    | none => .fault (.notEnabled "DQ_ENTRY_FILLED")
    | some i =>
      let d := z.dq.getD i ⟨0, 0, none⟩
      if rowPending s d.key || rowPending s (d.key + 63) || !unitServed s d.key 64 then .fault (.notEnabled "DQ_ENTRY_FILLED")
      else if rowMarked s (keyPa d.key) || rowMarked s (keyPa (d.key + 63)) then
        .next (abortRun s ch (causeCode .zparity) (pc12 d.pc) false (rowBase (keyPa d.key)))
      else
        let z := { z with dq := z.dq.set i { d with data := some (memGetN s.mem d.key 64) } }
        .next ((keyBanks s d.key 64).foldl (fun s b => nextRow s ch z b) (setRun s ch z))

/-- LOCK_HOLD_TIMEOUT: a row has been held for more than 4 µs (R342). Which instruction raised it is not said: PC and THR
are free values (log entry 1). -/
def execLockHoldTimeout (ch : Nat) (s : State) : Host.Outcome State Fault Refusal :=
  match liveRun s ch with
  | none => .fault (.notEnabled "LOCK_HOLD_TIMEOUT")
  | some z =>
    match z.locks with
    | [] => .fault (.notEnabled "LOCK_HOLD_TIMEOUT")
    | k :: _ =>
      let s := { s with clock := max s.clock (k.since + 3201) }
      .next (abortRun (bump s) ch (causeCode .zlktime) ((Config.freeDword s.fresh).setWidth 12) (Config.freeBit s.fresh)
        k.base)

/-- LOCK_WAIT_TIMEOUT: a ZLOCK has not completed 4 µs after its issue (R367). -/
def execLockWaitTimeout (ch : Nat) (s : State) : Host.Outcome State Fault Refusal :=
  match liveRun s ch with
  | none => .fault (.notEnabled "LOCK_WAIT_TIMEOUT")
  | some z =>
    match z.lockWait with
    | none => .fault (.notEnabled "LOCK_WAIT_TIMEOUT")
    | some (base, since) =>
      let s := { s with clock := max s.clock (since + 3200) }
      .next (abortRun s ch (causeCode .zlktime) (pc12 z.pcA) false base)

/-- The clocks of a hold slice: the whole clocks of 800 MHz in 256 ns (R366). -/
def sliceClocks : Nat := 204

/-- HOLD_SLICE_EXPIRY: a slice that an access of another party to a different row of a held bank has started ends. The
controller closes the row and serves the accesses that wait for the bank, before the unit's next access reopens it. A
locked row is not subject to the slice (R366, R367). -/
def execHoldSliceExpiry (ch bank : Nat) (s : State) : Host.Outcome State Fault Refusal :=
  let u := unitOf s ch
  match u.run, aGet u.openRows bank, aGet u.slices bank with
  | some z, some row, some since =>
    if z.locks.any fun k => k.row == row then .fault (.notEnabled "HOLD_SLICE_EXPIRY")
    else .next (closeBank { s with clock := max s.clock (since + sliceClocks) } ch bank)
  | _, _, _ => .fault (.notEnabled "HOLD_SLICE_EXPIRY")

end Sys2Proof.Machine
end

