-- ==== Sys2Proof/Machine/RhizoidCmds.lean ====
section
/-!
DEFINITION. Posting commands and gathers to Rhizoid units, their acceptance, start and completion, and threads that
wait for ever (R334, R348 to R356, R369, R372, R382).
-/

namespace Sys2Proof.Machine

/-! ### NMPOST and NMGATHER (R353, R355) -/

/-- A command as posted, before its descriptor is read. -/
def newNm (id ctx scope : Nat) (owner : Option (Nat × Nat)) (reply : Option (Nat × Nat)) (node op : Option Nat) (descAt : Dword) : NmCmd :=
  { id := id, ctx := ctx, owner := owner, scope := scope, reply := reply, node := node, op := op, descAt := descAt, desc := none
    image := [], winKey := [], ctrKey := none, statKey := none, ch := 0, gather := none }

/-- Post a command or a gather. -/
def postNm (s : State) (c : NmCmd) : State := { s with work := { s.work with nmPosted := s.work.nmPosted ++ [c] } }

/-- Reserve one entry of a queue for a reply, binding it (R354). -/
def reserve1 (owner : Nat) (q : Queue) : Queue := ⟨some .nm, q.ents ++ [⟨none, owner⟩]⟩

/-- What NMPOST does once its address has passed: with .q it is held while the queue is full (R73, R354). -/
def nmpostBody (scope : Nat) (q : Option Nat) (a : Nat) (c : Ctl) (s1 : State) : Body :=
  let cmd := newNm s1.nextId c.t.ctx scope (some (c.tid, c.gid)) (q.map fun q => (c.tid, q)) none (some s1.nextId) (c.s a)
  match q with
  | none => .done (startOp c (.nmpost s1.nextId) (postNm s1 cmd))
  | some q =>
    if 16 ≤ (vget c.t.queues q).ents.length then .held
    else
      let s2 := setQueue s1 c.tid q (reserve1 s1.nextId (vget c.t.queues q))
      .done (startOp c (.nmpost s1.nextId) (postNm s2 cmd))

def execNmpost (h : Hdr) (scope : Nat) (q : Option Nat) (a : Nat) (s : State) : Host.Outcome State Fault Refusal :=
  match q with
  | none => uniOp "NMPOST" h false 64 (.reg a) 0 (nmpostBody scope q a) s
  | some k => uniBind "NMPOST" h 64 (.reg a) 0 (fun c => bindBad .nm (vget c.t.queues k)) (nmpostBody scope q a) s

/-- NMGATHER (R355). MISALN, the lower code, comes before ABOUND (R393). -/
def execNmgather (h : Hdr) (esz d a b c' n : Nat) (s : State) : Host.Outcome State Fault Refusal :=
  issue (uniMem "NMGATHER" h true) (fun c s1 =>
    let sz := 2 ^ esz
    let src := (c.s a).toNat
    let idx := (c.s b).toNat
    let dst := (c.s c').toNat
    let mis (k x : Nat) : List LaneCause := if x % k != 0 then [⟨0, causeCode .misaln, x⟩] else []
    let out (x k : Nat) : List LaneCause := if c.t.al.asize < x + k then [⟨0, causeCode .abound, x⟩] else []
    let bad := mis 4 idx ++ mis sz src ++ mis sz dst ++ out idx (4 * n) ++ out dst (n * sz)
    if !bad.isEmpty then trapLanes c s1 true bad
    else
      let id := s1.nextId
      let cmd := { newNm id c.t.ctx 1 (some (c.tid, c.gid)) none none (some id) (c.s a) with
                   gather := some ⟨c.tid, c.gid, c.s a, idx, dst, n, sz⟩ }
      .done (startOp c (.nmgather id d idx dst n sz false false) (postNm (bringTo s1 c.tid c.gid id (.copy id)) cmd))) s

/-! ### Descriptors (R353) -/

/-- A descriptor from its 128 bytes, with whether every field is within its limits (R353, R354). -/
def nmDescOf (b : List Byte) : NmDesc :=
  let f (off n : Nat) := natOfBytes (slice b off n)
  let img := f 0 8
  let ilen := f 8 4
  let aent := f 0x0C 2
  let eent := f 0x0E 2
  let ctr := f 0x10 8
  let stat := f 0x18 8
  let wb := (List.range 4).map fun i => f (0x20 + 8 * i) 8
  let wl := (List.range 4).map fun i => f (0x40 + 4 * i) 4
  let ok := img % 64 == 0 && decide (img < 2 ^ 56) && decide (64 ≤ ilen ∧ ilen ≤ 4096) && ilen % 64 == 0 &&
    aent % 4 == 0 && decide (aent < ilen) && eent % 4 == 0 && decide (eent < ilen) &&
    ctr % 8 == 0 && decide (ctr < 2 ^ 56) && stat % 16 == 0 && decide (stat < 2 ^ 56) &&
    wb.all (fun x => decide (x < 2 ^ 56)) && wl.all (fun x => x % 64 == 0 && decide (x ≤ 2 ^ 21)) && wl.getD 0 0 != 0 &&
    f 0x70 16 == 0
  { img := BitVec.ofNat 64 img, ilen := ilen, aent := aent, eent := eent, ctr := BitVec.ofNat 64 ctr
    stat := BitVec.ofNat 64 stat, wbase := wb.map (BitVec.ofNat 64), wlen := wl
    arg := (List.range 8).map fun i => BitVec.ofNat 32 (f (0x50 + 4 * i) 4), ok := ok }

/-- Reading an address as a device does: a cause, or its memory key and whether its page is deferred (R185). -/
def nmKey (s : State) (ctx : Nat) (a : Nat) (w : Bool) : Except (BitVec 9) (Nat × Bool) :=
  match xlate s none ctx a true w false with
  | .bad c _ => .error c
  | .at k _ d _ => .ok (k, d)

/-- The memory keys of a run of bytes that lies on at most two pages: one of each 256 bytes, so of every DRAM row that it
reaches, and of the last. -/
def runKeys (s : State) (ctx a n : Nat) : Except (BitVec 9) (List Nat) :=
  match nmKey s ctx a false, nmKey s ctx (a + n - 1) false with
  | .error e, _ => .error e
  | .ok _, .error e => .error e
  | .ok _, .ok _ =>
    .ok ((((List.range (n / 256 + 1)).map (256 * ·) ++ [n - 1]).filter (· < n)).filterMap fun i =>
      match nmKey s ctx (a + i) false with
      | .ok k => some k.1
      | .error _ => none)

/-- Read a run of bytes that lies on at most two pages of at least 64 KiB. -/
def runBytes (s : State) (ctx a n : Nat) : List Byte :=
  let m := min n (2 ^ 16 - a % 2 ^ 16)
  let part (b k : Nat) : List Byte := match nmKey s ctx b false with
    | .ok x => memGetN s.mem x.1 k
    | .error _ => []
  part a m ++ part (a + m) (n - m)

/-- The N page leaf of an address, if it has one (R362). -/
def nPage (s : State) (ctx : Nat) (a : Nat) : Option Leaf :=
  match leafAt s ctx a with
  | some l => if l.n && decide (a < 2 ^ 56) then some l else none
  | none => none

/-- The used windows of a descriptor: base and length. -/
def usedWins (d : NmDesc) : List (Nat × Nat) := (d.wbase.map BitVec.toNat).zip d.wlen |>.filter fun w => w.2 != 0

/-! ### NM_COMMAND_CHECK (R354) -/

/-- The causes of check 3: image, windows, counter, status record. -/
def nmXlateCause (s : State) (ctx : Nat) (d : NmDesc) : Option (BitVec 9) :=
  let one (a : Nat) : Option (BitVec 9) := match nmKey s ctx a true with | .error e => some e | .ok _ => none
  let img : Option (BitVec 9) := match runKeys s ctx d.img.toNat d.ilen with | .error e => some e | .ok _ => none
  let opt (a : Dword) : Option (BitVec 9) := if a = 0 then none else one a.toNat
  img.or (((usedWins d).findSome? fun w => one w.1).or ((opt d.ctr).or (opt d.stat)))

/-- Check 4: placement. -/
def nmPlaceBad (s : State) (ctx : Nat) (d : NmDesc) : Bool :=
  let chans := (usedWins d).map fun w => (nPage s ctx w.1).map fun l => channelOf s l.frame
  (usedWins d).any (fun w => (nPage s ctx w.1).isNone || decide (2 ^ 21 < w.1 % 2 ^ 21 + w.2)) ||
    chans.any (fun c => c != chans.headD none) ||
    (d.ctr != 0 && (match nmKey s ctx d.ctr.toNat true with | .ok k => k.2 | .error _ => false))

/-- Whether a place that the command writes, a window or its status record, lies on a D page (R150; log entry 30). -/
def nmDeferred (s : State) (ctx : Nat) (d : NmDesc) : Bool :=
  ((usedWins d).map (fun w => w.1) ++ if d.stat = 0 then [] else [d.stat.toNat]).any fun a =>
    match nmKey s ctx a true with
    | .ok k => k.2
    | .error _ => false

/-- The first failing check of a command whose descriptor has been read. -/
def nmCause (s : State) (ctx : Nat) (d : NmDesc) : Option (BitVec 9) :=
  if !d.ok then some (causeCode .nmbad)
  else match nmXlateCause s ctx d with
    | some k => some k
    | none =>
      if nmDeferred s ctx d then some (causeCode .defeng)
      else if nmPlaceBad s ctx d then some (causeCode .nmbad) else none

/-- A command with its translations kept (R354). -/
def resolveNm (s : State) (c : NmCmd) (d : NmDesc) (ch : Nat) : NmCmd :=
  let key (a : Nat) : Option Nat := (nmKey s c.ctx a true).toOption.map fun k => k.1
  let wins := (d.wbase.zip d.wlen).map fun w => if w.2 = 0 then 0 else (key w.1.toNat).getD 0
  { c with desc := some d, image := runBytes s c.ctx d.img.toNat d.ilen, winKey := wins, ch := ch
           ctrKey := if d.ctr = 0 then none else key d.ctr.toNat
           statKey := if d.stat = 0 then none else key d.stat.toNat }

/-- The places of a rejected command that can be used: a status record and a counter that are in their limits, map with
both permissions and lie on no D page (R150, R354). -/
def usableNm (s : State) (c : NmCmd) (d : NmDesc) : NmCmd :=
  let key (a : Dword) (k : Nat) : Option Nat :=
    if a = 0 || a.toNat % k != 0 then none
    else match nmKey s c.ctx a.toNat true with
      | .ok x => if x.2 then none else some x.1
      | .error _ => none
  { c with ctrKey := key d.ctr 8, statKey := key d.stat 16 }

/-- Take a command out of those posted. -/
def unpost (s : State) (id : Nat) : State :=
  { s with work := { s.work with nmPosted := s.work.nmPosted.filter fun c => c.id != id } }

/-- Reject, discard or fail a command that does not run: status record, poisoned counter, reply entry, node, flag. -/
def rejectNm (s : State) (c : NmCmd) (k : BitVec 9) : State :=
  let s := putReply (putStatus (unpost s c.id) c k.toNat true) c k.toNat
  endCopyOp (tellNode s c.ctx c.node (some k)) c.op

/-- Write the A-buffer bytes of a gather's destination. Its completion is an acquire of them for the issuing group, as
CWAITB is of a copy's (R213, R355). -/
def putGather (s : State) (id : Nat) (g : Gather) (b : List Byte) : State :=
  match teamOf s g.tid with
  | some t =>
    let s := writeRegion s t (.copy id) (.abuf g.dst b.length) fun s => abufPut s t g.dst b
    acquireL1 (bringCopies s g.tid g.gid [id]) t.core t.ctx 1
  | none => s

/-- A gather completes: destination, `sp`, flag (R355). -/
def endGather (s : State) (c : NmCmd) (g : Gather) (b : List Byte) (failed : Bool) : State :=
  let s := putGather (unpost s c.id) c.id g b
  match c.op.bind (opOf? s) with
  | some o => match o.kind with
    | .nmgather _ d _ _ _ _ _ _ => endOp (writeNow s o [.sp d failed]) o
    | _ => endOp s o
  | none => s

/-- A failed gather leaves its destination undefined (R355). -/
def failGather (s : State) (c : NmCmd) (g : Gather) : State :=
  endGather (bump s) c g (freeBytes s.fresh (g.n * g.esz)) true

/-- A gather that its unit was running fails; the unit's time is charged (R355, R382). -/
def stopGather (s : State) (ch : Nat) (z : ZRun) (g : Gather) : State :=
  failGather (charge (idleUnit s ch) z.cmd.ctx 2 (s.clock - z.start)) z.cmd g

/-- Accept a command into a unit's queue. -/
def acceptNm (s : State) (c : NmCmd) : State :=
  let u := unitOf s c.ch
  setUnit (unpost s c.id) { u with queue := u.queue ++ [c] }

/-- The check of a gather: its page, its unit, a place in the queue (R355, R369). -/
def checkGather (c : NmCmd) (g : Gather) (s : State) : Host.Outcome State Fault Refusal :=
  match nPage s c.ctx g.src.toNat, nmKey s c.ctx g.src.toNat false with
  | some l, .ok _ =>
    let ch := channelOf s l.frame
    let u := unitOf s ch
    if u.offline then .next (failGather s c g)
    else if 16 ≤ u.queue.length then .fault (.notEnabled "NM_COMMAND_CHECK")
    else .next (acceptNm s { c with ch := ch, winKey := [ownKey s l.frame] })
  | _, _ => .next (failGather s c g)

/-- Reject a command with a cause, once the homes of its record and counter serve. -/
def rejectStep (s : State) (c : NmCmd) (k : BitVec 9) : Host.Outcome State Fault Refusal :=
  if endWaits s c then .fault (.notEnabled "NM_COMMAND_CHECK") else .next (rejectNm s c k)

/-- The check of a command whose descriptor can be read: with WBASE0 on an N page it waits for a place (R354). An offline
unit rejects it (R369). -/
def checkNm (c : NmCmd) (d : NmDesc) (s : State) : Host.Outcome State Fault Refusal :=
  let w0 : Option Leaf := (d.wbase.head?).bind fun a => nPage s c.ctx a.toNat
  let ch : Option Nat := w0.map fun l => channelOf s l.frame
  let u := unitOf s (ch.getD 0)
  if ch.isSome && u.offline then rejectStep s (usableNm s c d) (causeCode .nmbad)
  else if ch.isSome && decide (16 ≤ u.queue.length) then .fault (.notEnabled "NM_COMMAND_CHECK")
  else match nmCause s c.ctx d, ch with
    | some k, _ => rejectStep s (usableNm s c d) k
    | none, none => rejectStep s (usableNm s c d) (causeCode .nmbad)
    | none, some ch => .next (endCopyOp (acceptNm s (resolveNm s c d ch)) c.op)

/-- NM_COMMAND_CHECK (R354), after the releases at device scope that its group issued before it (R185). -/
def execNmCommandCheck (id : Nat) (s : State) : Host.Outcome State Fault Refusal :=
  match s.work.nmPosted.find? fun c => c.id == id with
  | none => .fault (.notEnabled "NM_COMMAND_CHECK")
  | some c =>
    if relPending s c.owner c.id then .fault (.notEnabled "NM_COMMAND_CHECK")
    else match c.gather with
    | some g => checkGather c g s
    | none =>
      match runKeys s c.ctx c.descAt.toNat 128 with
      | .error k => .next (rejectNm s c k)
      | .ok ks =>
        let d := nmDescOf (runBytes s c.ctx c.descAt.toNat 128)
        let img := if d.ok then (runKeys s c.ctx d.img.toNat d.ilen).toOption.getD [] else []
        if (ks ++ img).any (homeWaits s) then .fault (.notEnabled "NM_COMMAND_CHECK") else checkNm c d s

/-! ### NM_COMMAND_START (R334, R365, R372, R382) -/

/-- A command at its start. -/
def startZ (c : NmCmd) (clock : Nat) : ZRun :=
  let arg (n : Nat) : Word := ((c.desc.map fun d => d.arg).getD []).getD n 0
  { cmd := c, a := vgen fun i => if i < 4 then arg i else 0, e := vgen fun i => if i < 4 then arg (4 + i) else 0
    pcA := ((c.desc.map fun d => d.aent).getD 0 : Nat), pcE := ((c.desc.map fun d => d.eent).getD 0 : Nat)
    endA := false, endE := false, dq := [], wq := [], locks := [], lockWait := none, sati := false, inv := false
    start := clock, stop := none }

/-- A command that stood in the queue of a unit taken offline does not run: it is rejected, and a gather fails (R369; log
entry 29). -/
def offlineNm (s : State) (c : NmCmd) : State :=
  match c.gather with
  | some g => failGather s c g
  | none => rejectNm s { c with op := none } (causeCode .nmbad)

/-- NM_COMMAND_START: the oldest accepted command of a free unit starts, budget allowing. -/
def execNmCommandStart (ch : Nat) (s : State) : Host.Outcome State Fault Refusal :=
  let u := unitOf s ch
  match u.run, u.queue with
  | none, c :: r =>
    if u.offline then
      (if endWaits s c then .fault (.notEnabled "NM_COMMAND_START") else .next (offlineNm (setUnit s { u with queue := r }) c))
    else if mayCharge s c.ctx 2 then .next (setUnit s { u with queue := r, run := some (startZ c s.clock) })
    else .fault (.notEnabled "NM_COMMAND_START")
  | _, _ => .fault (.notEnabled "NM_COMMAND_START")

/-! ### NM_COMMAND_COMPLETION (R348, R350, R355) -/

/-- Whether a gather's index list, and its destination, have been met by a group (R215, R355). -/
def gatherBad (s : State) (c : NmCmd) (g : Gather) : Bool × Bool :=
  let t := match teamOf s g.tid with
    | some t => races t (.copy c.id) (.abuf g.idx (4 * g.n))
    | none => false
  match c.op.bind (opOf? s) with
  | some o => match o.kind with
    | .nmgather _ _ _ _ _ _ bi bd => (bi || t, bd)
    | _ => (t, false)
  | none => (t, false)

/-- The addresses that a gather reads (R355). -/
def gatherAddrs (s : State) (g : Gather) : List Int :=
  match teamOf s g.tid with
  | none => []
  | some t => (List.range g.n).map fun j =>
      (g.src.toNat : Int) + sextNat 32 (natOfBytes (abufGet s t (g.idx + 4 * j) 4)) * (g.esz : Int)

/-- A gather runs and completes. Where its index list is undefined, so are its destination and `sp`. -/
def runGather (s : State) (ch : Nat) (z : ZRun) (g : Gather) : Host.Outcome State Fault Refusal :=
  let base : Int := (g.src.toNat / 2 ^ 21 * 2 ^ 21 : Nat)
  let key (a : Int) : Nat := z.wkey 0 + (a - base).toNat
  let as := gatherAddrs s g
  let bad := gatherBad s z.cmd g
  let out := as.any fun a => decide (a < base ∨ base + 2 ^ 21 ≤ a)
  let s1 := charge (idleUnit s ch) z.cmd.ctx 2 (s.clock - z.start)
  let free := freeBytes s.fresh (g.n * g.esz)
  if bad.1 then .next (endGather (bump s1) z.cmd g free (Config.freeBit s.fresh))
  else if out then .next (failGather s1 z.cmd g)
  else if (as.map key).any (homeWaits s) then .fault (.notEnabled "NM_COMMAND_COMPLETION")
  else if bad.2 then .next (endGather (bump s1) z.cmd g free false)
  else .next (endGather s1 z.cmd g (as.flatMap fun a => memGetN s.mem (key a) g.esz) false)

/-- NM_COMMAND_COMPLETION: both threads have ended; a `wq` left with entries aborts, with PC and THR free, as no
instruction raises it (log entry 1). A command that a cause stopped ends here where its home held it back. -/
def execNmCommandCompletion (ch : Nat) (s : State) : Host.Outcome State Fault Refusal :=
  match (unitOf s ch).run with
  | none => .fault (.notEnabled "NM_COMMAND_COMPLETION")
  | some z =>
    match z.cmd.gather, z.stop with
    | some g, _ => runGather s ch z g
    | none, some x => if endWaits s z.cmd then .fault (.notEnabled "NM_COMMAND_COMPLETION") else .next (endRun s ch z x)
    | none, none =>
      if !z.endA || !z.endE then .fault (.notEnabled "NM_COMMAND_COMPLETION")
      else if !z.wq.isEmpty then
        .next (abortRun (bump s) ch (causeCode .zqleft) ((Config.freeDword s.fresh).setWidth 12) (Config.freeBit s.fresh) 0)
      else if endWaits s z.cmd then .fault (.notEnabled "NM_COMMAND_COMPLETION")
      else .next (endRun s ch z .success)

/-! ### Threads that wait for ever (R349) -/

/-- The word at a thread's offset, while it lies in the image (R340). -/
def zWord (z : ZRun) (arith : Bool) : Option Nat :=
  let pc := z.pc arith
  if 0 ≤ pc ∧ pc < (z.cmd.image.length : Int) then some (natOfBytes (slice z.cmd.image pc.toNat 4)) else none

/-- Whether an instruction's answer is a wait. -/
def ZRes.waits : ZRes → Bool
  | .wait _ => true
  | .done _ _ => false
  | .jump _ _ _ => false
  | .stop _ _ => false

/-- Whether the address thread waits on a queue: at ZLD with `dq` full, at ZST or ZWPAIR with `wq` empty. -/
def zaWaits (s : State) (ch : Nat) (z : ZRun) : Bool :=
  !z.endA && (match (zWord z false).map decodeZaddr with
    | some (.ok (.zld w a c)) => (zldF w a c ch z s).waits
    | some (.ok (.zst w a c)) => z.wq.isEmpty && (zstF w a c ch z s).waits
    | some (.ok (.zwpair ap at' as n wp wt word)) => z.wq.isEmpty && (zwpairF ap at' as n wp wt word ch z s).waits
    | _ => false)

/-- Whether the arithmetic thread waits on a queue that no ZLD in flight will fill: at ZPOP with `dq` empty, at ZPUSH
with `wq` full. -/
def zeWaits (z : ZRun) : Bool :=
  !z.endE && (match (zWord z true).map decodeZarith with
    | some (.ok (.zpop _)) => z.dq.isEmpty
    | some (.ok (.zpush _)) => decide (16 ≤ z.wq.length)
    | _ => false)

/-- ZQDEAD_DETECT. The one thread that waits raised the cause; with two, PC and THR are free (log entry 1). -/
def execZqdeadDetect (ch : Nat) (s : State) : Host.Outcome State Fault Refusal :=
  match liveRun s ch with
  | none => .fault (.notEnabled "ZQDEAD_DETECT")
  | some z =>
    let a := zaWaits s ch z
    let e := zeWaits z
    let stop (pc : BitVec 12) (thr : Bool) : Host.Outcome State Fault Refusal :=
      .next (abortRun (bump s) ch (causeCode .zqdead) pc thr 0)
    match a, e with
    | true, true => stop ((Config.freeDword s.fresh).setWidth 12) (Config.freeBit s.fresh)
    | true, false => if z.endE then stop (pc12 z.pcA) false else .fault (.notEnabled "ZQDEAD_DETECT")
    | false, true => if z.endA then stop (pc12 z.pcE) true else .fault (.notEnabled "ZQDEAD_DETECT")
    | false, false => .fault (.notEnabled "ZQDEAD_DETECT")

end Sys2Proof.Machine
end

