-- ==== Sys2Proof/Machine/Reset.lean ====
section
/-!
DEFINITION. Task nodes' records, and the forced reset of a context (R170, R211, R267, R308, R332, R350, R354, R377, R378,
R387).
-/

namespace Sys2Proof.Machine

/-! ### Task nodes (R377) -/

/-- An armed node. -/
def nodeOf (s : State) (ctx n : Nat) : Option Node := s.ctl.nodes.find? fun k => k.ctx == ctx && k.n == n

/-- Change a node. -/
def updNode (s : State) (ctx n : Nat) (f : Node → Node) : State :=
  { s with ctl := { s.ctl with nodes := s.ctl.nodes.map fun k => if k.ctx = ctx ∧ k.n = n then f k else k } }

/-- A dword at an address as a device reads it, where it can be read. -/
def readDword (s : State) (ctx a : Nat) : Option Nat :=
  match homeKey s ctx a false with
  | .ok k => some (memNat s.mem k 8)
  | .error _ => none

/-- The completion counter of a node, where its record and the record that names it can be read: CPL, or CPLCTR, or the
descriptor's CTR (R377). -/
def nodeCounter (s : State) (k : Node) : Option Dword :=
  let at' (off : Nat) : Option Dword := (readDword s k.ctx (k.payload.toNat + off)).map (BitVec.ofNat 64)
  let c := match k.kind with
    | 0 => at' 0x40
    | 1 => at' 0x10
    | 3 => at' 0x18
    | _ => some k.cpl
  match c with
  | some a => if a = 0 && k.kind < 2 then none else some a
  | none => none

/-- Whether the home of the record that names a node's completion counter holds the read back (R164, R342). -/
def recordWaits (s : State) (k : Node) : Bool :=
  let at' (off : Nat) : Bool := match homeKey s k.ctx (k.payload.toNat + off) false with
    | .ok key => homeWaits s key
    | .error _ => false
  match k.kind with
  | 0 => at' 0x40
  | 1 => at' 0x10
  | 3 => at' 0x18
  | _ => false

/-- Set bit 63 of a node's completion counter (R378). -/
def poisonNode (s : State) (k : Node) : State :=
  match nodeCounter s k with
  | some a => poisonAt s k.ctx a
  | none => s

/-- Poison the counter of a node that a forced reset ends while its work goes on. The counter of a grid, a command or a
collective that has been entered is poisoned with it (R170, R354, R387). -/
def poisonRunning (s : State) (k : Node) : State :=
  let entered := s.work.colls.any fun c => c.ctx == k.ctx && c.node == some k.n && c.read
  match k.kind with
  | 0 | 1 => s
  | 3 => if entered || k.result.isSome then s else poisonNode s k
  | 2 => if k.result.isSome then s else poisonAt s k.ctx k.cpl
  | _ => poisonAt s k.ctx k.cpl

/-! ### Parts of a forced reset (R387) -/

/-- Complete what an operation of a stopped team can complete now (R102, R387): faulting lanes stay unperformed. -/
def settleOp (s : State) (o : Op) : State :=
  if opFaulty s o then
    match accessPerform s o false with
    | some p => setOps p.s fun l => l.filter fun x => x.id != o.id
    | none => setOps s fun l => l.filter fun x => x.id != o.id
  else match finishOp s o false with
    | some s' => s'
    | none => s

/-- Whether an operation of a stopped team still has a write of device memory to make. A reverse store that still waits is
discarded with the tape and the implicit commit that it needs (R308). -/
def writesHome : OpKind → Bool
  | .mem st _ _ rev _ _ _ _ _ => st != rev
  | .atom _ _ _ _ _ _ => true
  | .cadd _ _ _ => true
  | .tapespill _ _ _ => true
  | .ratom _ _ _ _ _ => true
  | _ => false

/-- The state of a next outcome, and the same state otherwise. -/
def orSame (s : State) (r : Host.Outcome State Fault Refusal) : State :=
  match r with
  | .next s' => s'
  | .fault _ => s
  | .refused _ => s

/-- Land a stopped stream's results and drain what it has issued, as far as the home serves it. -/
def settleStream (s : State) (t : Team) : State :=
  match t.stream with
  | none => s
  | some m =>
    let s := m.mops.foldl (fun s o => orSame s (execMmaLanding t.core o.id s)) s
    m.drains.foldl (fun s _ => orSame s (execDrainExecute t.core s)) s

/-- A responder whose census is a peer's and survives: it ends with a fault, which RESPONDER_END counts (R332). One that
had ended already, or that service firmware had killed, counts as it would have (R328). -/
def survives (s : State) (t : Team) (r : Resp) : Option Resp :=
  if (censusOf s r.cid).any fun c => c.peer.isSome && !c.done then
    if t.ended then some r
    else match t.halt with
      | .service k => some { r with faultCause := some (r.faultCause.getD k) }
      | .running | .settling _ => some { r with answer := none, faultCause := some (causeCode .respbad) }
  else none

/-- Stop a team: its issued instructions complete as far as they can now, and those left with a write of device memory
complete later (R102, R387); its cause is recorded. -/
def stopAll (cause : BitVec 9) (s : State) (t : Team) : State :=
  let s := settleStream s t
  let s := (s.work.ops.filter fun o => o.tid == t.uid).foldl settleOp s
  let s := setOps s fun l => l.filter fun o => o.tid != t.uid || writesHome o.kind
  updTeam s t.uid fun t =>
    { t with halt := .service cause, ended := true, wins := [], stream := none, resp := t.resp.bind (survives s t), tape := []
             groups := t.groups.map fun g => { g with ended := true } }

/-- Complete at once a commit that a Thallus has begun to apply (R170): its packets arrive, every Thallus applies. -/
def finishCommit (s : State) (c : Commit) : State :=
  let s := s.defer.packets.foldl deliver (updDefer s fun d => { d with packets := [] })
  let s := c.applySent.foldl (fun s a => if c.acked.contains (a.1, a.2.1) then s else applyAt s c a.1 a.2.1 []) s
  match commitOf s c.id with
  | some k => completeCommit s k
  | none => s

/-- Whether a deferred record belongs to one of some tags of this device. -/
def ofTags (s : State) (tags : List Nat) (r : DRec) : Bool := r.src == s.firm.devNum && tags.contains r.tag

/-- Discard the records and tokens of some tags and some commits (R170). -/
def discardRecs (s : State) (tags cids : List Nat) : State :=
  let keepR (r : DRec) : Bool := !ofTags s tags r
  let keepE : Spor → Bool
    | .entry r => keepR r
    | .token c _ => !cids.contains c
  let s := { s with work := { s.work with cores := s.work.cores.map fun c =>
    (c.1, { c.2 with spor := c.2.spor.filter keepE }) } }
  updDefer s fun d =>
    { d with
      sorus := d.sorus.map fun x =>
        (x.1, { x.2 with bins := x.2.bins.map fun b => { b with recs := b.recs.filter keepR }
                         touched := x.2.touched.filter fun t => !tags.contains t.tag })
      packets := (d.packets.map fun p => match p with
        | .recs cl dev rs => .recs cl dev (rs.filter keepR)
        | .marker cl dev ch c => .marker cl dev ch c).filter fun p => match p with
          | .recs _ _ rs => !rs.isEmpty
          | .marker _ _ _ c => !cids.contains c
      thallus := d.thallus.map fun t =>
        (t.1, { t.2.keep keepR with markers := t.2.markers.filter fun m => !cids.contains m.2 })
      commits := d.commits.filter fun c => !cids.contains c.id }

/-- The deferred path of a context (R170): commits under way at a Thallus complete first; the rest is discarded, pending
COMMITs' counters are poisoned, and tags, counts and admissions end. -/
def resetDefer (s : State) (ctx : Nat) : State :=
  let mine (s : State) : List Commit := s.defer.commits.filter fun c => c.ctx == ctx
  let s := ((mine s).filter fun c => !c.acked.isEmpty).foldl finishCommit s
  let left := mine s
  let inCtx (g : Nat) : Bool := ((gridOf s g).map fun g => g.ctx == ctx).getD false
  let tags := (s.defer.tags.filter fun t => inCtx t.grid).map fun t => t.tag
  let s := left.foldl (fun s c => c.ctrs.foldl (fun s k => poisonAt s k.2.1 (BitVec.ofNat 64 k.1)) s) s
  discardRecs s tags (left.map fun c => c.id)

/-- Fail a context's copies and collectives, which report this rank as the one that was reset (R211, R267, R268). -/
def resetEngines (cause : BitVec 9) (s : State) (ctx : Nat) : State :=
  let s := (s.work.copies.filter fun c => c.ctx == ctx && !c.done).foldl (fun s c => failCopy s c cause c.dst) s
  (s.work.colls.filter fun c => c.ctx == ctx && !c.done).foldl (fun s c =>
    let s1 := if c.read then poisonAt s c.ctx c.ctr else s
    let rank : Dword := BitVec.ofNat 64 (((ringPos s c).map fun p => p.1).getD 0)
    let s2 := { s1 with work := { s1.work with colls := s1.work.colls.map fun x =>
      if x.id = c.id then { x with failed := some (causeCode .collmis), info := rank, done := true } else x } }
    tellNode (reportFail s2 (causeCode .collmis) c.pc rank) c.ctx c.node (some (causeCode .collmis))) s

/-- A posted command with the places it could use, where its descriptor can be read. -/
def postedPlaces (s : State) (c : NmCmd) : NmCmd :=
  match runKeys s c.ctx c.descAt.toNat 128 with
  | .ok _ => usableNm s c (nmDescOf (runBytes s c.ctx c.descAt.toNat 128))
  | .error _ => c

/-- Abort a context's running commands and discard its queued and posted ones (R350, R354). No instruction raises the
cause: PC and THR of the record are free values (log entry 1). -/
def resetUnits (cause : BitVec 9) (s : State) (ctx : Nat) : State :=
  let s := s.units.foldl (fun s u =>
    match u.run with
    | some z =>
      if z.cmd.ctx ≠ ctx then s
      else if z.cmd.gather.isSome then charge (idleUnit s u.ch) z.cmd.ctx 2 (s.clock - z.start)
      else if z.stop.isSome then s
      else abortRun (bump s) u.ch cause ((Config.freeDword s.fresh).setWidth 12) (Config.freeBit s.fresh) 0
    | none => s) s
  let cut (s : State) (c : NmCmd) : State := if c.gather.isSome then unpost s c.id else rejectNm s c cause
  let s := s.units.foldl (fun s u =>
    let s := (u.queue.filter fun c => c.ctx == ctx).foldl cut s
    setUnit s { unitOf s u.ch with queue := (unitOf s u.ch).queue.filter fun c => c.ctx != ctx }) s
  (s.work.nmPosted.filter fun c => c.ctx == ctx).foldl (fun s c => cut s (postedPlaces s c)) s

/-- A DIRMOVE of a context that a forced reset ends: one that has left its source arrives; a reserved slot that nothing
comes to is free (R329, R332). -/
def resetMove (s : State) (m : DirMove) : State :=
  match m.left, m.toEnt with
  | true, some i => arriveAt s m i
  | false, some i =>
    setDir (updCen s fun c => { c with moves := c.moves.filter fun x => x.id != m.id }) (dirOf s m.toCore i).freed
  | _, none => updCen s fun c => { c with moves := c.moves.filter fun x => x.id != m.id }

/-- Whether a responder of an entry is still to be counted. -/
def runsFor (s : State) (e : DirEnt) : Bool :=
  s.work.teams.any fun t => t.resp.any fun r => r.core == e.core && r.ent == e.ent

/-- Discard a context's censuses and responders; entries stay, and a DIRMOVE that had left its source arrives. A
responder of a peer's census, whose asker survives, that is queued counts as a fault (R332). -/
def resetCensus (s : State) (ctx : Nat) : State :=
  let own (c : Census) : Bool := c.ctx == ctx && c.peer.isNone
  let ids := (s.cen.open'.filter own).map fun c => c.id
  let theirs := (s.cen.open'.filter fun c => c.ctx == ctx && c.peer.isSome).map fun c => c.id
  let shut (c : Census) : Census := if own c then { c with done := true, peers := [], late := 0, lates := [] } else c
  let s : State := updCen s fun x => { x with open' := x.open'.map shut }
  let unqueue (c : Core) : Core := { c with respQ := c.respQ.filter fun x => !ids.contains x.1 }
  let s : State := { s with work := { s.work with cores := s.work.cores.map fun c => (c.1, unqueue c.2) } }
  let s := (s.cen.moves.filter fun m => m.ctx == ctx).foldl resetMove s
  let queued := s.work.cores.flatMap fun c => (c.2.respQ.filter fun x => theirs.contains x.1).map fun x => (c.1, x)
  let s := queued.foldl (fun s x => failQueued s x.1 x.2) s
  let s := updCen s fun x =>
    { x with dir := x.dir.map fun e => if e.ctx = ctx then { e with run := runsFor s e } else e }
  (s.cen.open'.filter fun c => own c && !c.ready).foldl freeCensus s

/-- Task nodes: those that run end with their counters poisoned, the others are IDLE (R387). -/
def resetNodes (s : State) (ctx : Nat) : State :=
  let s := (s.ctl.nodes.filter fun k => k.ctx == ctx && k.st == .running).foldl poisonRunning s
  { s with ctl := { s.ctl with nodes := s.ctl.nodes.map fun k =>
    if k.ctx = ctx then { k with st := if k.st = .running then .done else .idle, result := none } else k } }

/-- Whether a grid of a context ends with a forced reset: a LAUNCH that awaits its check or its admission is still a
command of its queue, which stays (R381, R387). -/
def resetsGrid (ctx : Nat) (g : Grid) : Bool := g.ctx == ctx && g.cmd.isNone

/-- A forced reset of a context, with the cause that it records (R387). -/
def forcedReset (s : State) (ctx : Nat) (cause : BitVec 9) : State :=
  let s := resetUnits cause (resetEngines cause (resetNodes s ctx) ctx) ctx
  let s := (s.work.teams.filter fun t => t.ctx == ctx && (!t.ended || t.resp.isSome)).foldl (stopAll cause) s
  let s := resetCensus (resetDefer s ctx) ctx
  let gone := s.work.grids.filter (resetsGrid ctx)
  let ids := gone.map fun g => g.uid
  let s := (gone.filter fun g => g.lr.cplctr != 0 && g.phase != .waitUnit).foldl (fun s g =>
    poisonAt s ctx g.lr.cplctr) s
  let s := { s with work := { s.work with
    grids := s.work.grids.filter fun g => !resetsGrid ctx g
    disp := { s.work.disp with queues := s.work.disp.queues.map fun q =>
      (q.1, q.2.filter fun e => !ids.contains e.grid) } } }
  let s := gone.foldl forgetPod s
  let s := updDefer s fun d => { d with waiting := d.waiting.filter fun w => !ids.contains w.1 }
  let s := updCtx s ctx fun c => { c with drain := none, saved := false }
  sweepTeams (freeUnit s fun t => ids.contains t.grid)

end Sys2Proof.Machine
end

