-- ==== Sys2Proof/Machine/Commands.lean ====
section
/-!
DEFINITION. The queued commands of a context, the task graph, pre-emption (R376 to R378, R383 to R387).
-/

namespace Sys2Proof.Machine

/-- A step of a queued command that its state does not give. -/
def cmdNot (row : String) : Host.Outcome State Fault Refusal := .fault (.notEnabled row)

/-! ### LAUNCH (R376, R381, R419) -/

/-- Whether a context is a pod context (R419). -/
def isPodCtx (s : State) (ctx : Nat) : Bool := ((ctxOf s ctx).map fun c => !c.pod.isEmpty).getD false

/-- A LAUNCH takes its number at its arrival (R419). -/
def countLaunch (ctx : Nat) (s : State) : State := updCtx s ctx fun c => { c with launches := c.launches + 1 }

/-- The LAUNCH at the head of its queue: its record is checked and its grid admitted, or waits for it (R381). -/
def launchGo (c : QCmd) (s : State) : Host.Outcome State Fault Refusal :=
  match c.kind with
  | .launch rec' k =>
    if c.started || lrecWaits s c.ctx rec' then cmdNot "LAUNCH"
    else
      let s1 := updCmd s c fun x => { x with started := true }
      .next (launchGrid s1 c.ctx rec' (if isPodCtx s c.ctx then some k else none) (some (c.host, c.seq)) none)
  | _ => cmdNot "LAUNCH"

def execLaunch (w : CmdWhen) (rec' : BitVec 64) (s : State) : Host.Outcome State Fault Refusal :=
  queuedCmd "LAUNCH" 0x20 (some 8) true w
    (fun s ctx => .launch rec' (((ctxOf s ctx).map fun c => c.launches).getD 0)) countLaunch launchGo s

/-! ### ARM (R377, R378) -/

/-- A node record from its 128 bytes, or none where it breaks R377. -/
def nodeRec (ctx n : Nat) (b : List Byte) : Option Node :=
  let f (off : Nat) : Nat := natOfBytes (slice b off 8)
  let w := f 0
  let kind := bitsAt w 0 3
  let nw := bitsAt w 3 3
  let wsc (j : Nat) : Nat := bitsAt w (6 + 2 * j) 2
  let csc := bitsAt w 14 2
  let used := List.range (min nw 4)
  let idle := (List.range 4).filter fun j => decide (nw ≤ j)
  let own := kind == 2 || kind == 4
  let ok := decide (kind ≤ 4) && decide (nw ≤ 4) && bitsAt w 16 48 == 0 &&
    used.all (fun j => decide (2 ≤ wsc j) && f (0x20 + 16 * j) % 8 == 0 && decide (f (0x28 + 16 * j) < 2 ^ 63)) &&
    idle.all (fun j => wsc j == 0 && f (0x20 + 16 * j) == 0 && f (0x28 + 16 * j) == 0) &&
    (if own || kind == 1 then decide (2 ≤ csc) else csc == 0) &&
    (if own then f 0x10 % 8 == 0 else f 0x10 == 0) && f 0x18 == 0 && natOfBytes (slice b 0x60 32) == 0
  if ok then
    some { ctx := ctx, n := n, kind := kind, csc := csc, payload := BitVec.ofNat 64 (f 8), cpl := BitVec.ofNat 64 (f 0x10)
           waits := used.map fun j => (BitVec.ofNat 64 (f (0x20 + 16 * j)), BitVec.ofNat 64 (f (0x28 + 16 * j)), wsc j)
           met := [], bad := false, st := if nw = 0 then .ready else .waiting, result := none }
  else none

/-- Whether an address can be read, and written, by a device on behalf of a context. -/
def canRead (s : State) (ctx : Nat) (a : Dword) : Bool := (homeKey s ctx a.toNat false).toOption.isSome
def canWrite (s : State) (ctx : Nat) (a : Dword) : Bool := (homeKey s ctx a.toNat true).toOption.isSome

/-- The address of a node's record (R377). -/
def nodeAddr (s : State) (ctx n : Nat) : Nat := ((ctxOf s ctx).map fun c => c.nb.toNat).getD 0 + 128 * n

/-- A node of an ARM, checked (R378): none is GRAPHBAD. -/
def armNode (s : State) (ctx n : Nat) : Option Node :=
  let busy := match nodeOf s ctx n with
    | some k => k.st == .waiting || k.st == .ready || k.st == .running
    | none => false
  let a := nodeAddr s ctx n
  match busy, runKeys s ctx a 128 with
  | false, .ok _ =>
    (nodeRec ctx n (runBytes s ctx a 128)).bind fun k =>
      if k.waits.all (fun w => canRead s ctx w.1) && ((k.kind != 2 && k.kind != 4) || canWrite s ctx k.cpl) then some k
      else none
  | _, _ => none

/-- All nodes of a list, or none. -/
def allNodes : List (Option Node) → Option (List Node)
  | [] => some []
  | none :: _ => none
  | some k :: r => (allNodes r).map fun l => k :: l

/-- Put nodes in place of the ones they arm. -/
def putNodes (s : State) (l : List Node) : State :=
  { s with ctl := { s.ctl with
    nodes := (s.ctl.nodes.filter fun k => !l.any fun x => x.ctx == k.ctx && x.n == k.n) ++ l } }

/-- The homes of the records of an ARM's range hold a read back. -/
def armWaits (s : State) (ctx first count : Nat) : Bool :=
  (List.range count).any fun i => match runKeys s ctx (nodeAddr s ctx (first + i)) 128 with
    | .ok ks => ks.any (homeWaits s)
    | .error _ => false

/-- The ARM at the head of its queue (R378). A node beyond the context's slots has no record, and is GRAPHBAD. -/
def armGo (c : QCmd) (s : State) : Host.Outcome State Fault Refusal :=
  match c.kind with
  | .arm first count =>
    let slots := ((ctxOf s c.ctx).map fun x => x.nodes).getD 0
    if slots < first + count then .next (finishCmd s c.host c.seq (causeStatus (causeCode .graphbad)))
    else if armWaits s c.ctx first count then cmdNot "ARM"
    else match allNodes ((List.range count).map fun i => armNode s c.ctx (first + i)) with
      | some l => .next (finishCmd (putNodes s l) c.host c.seq 0)
      | none => .next (finishCmd s c.host c.seq (causeStatus (causeCode .graphbad)))
  | _ => cmdNot "ARM"

def execArm (w : CmdWhen) (first count : Nat) (s : State) : Host.Outcome State Fault Refusal :=
  queuedCmd "ARM" 0x21 none true w (fun _ _ => .arm first count) (fun _ s => s) armGo s

/-! ### Nodes (R377, R378) -/

/-- What a wait sees at its home: none while it goes on, else whether it completes on bit 63 or on a counter that cannot
be read (R378). -/
def waitSees (s : State) (ctx : Nat) (a target : Dword) : Option Bool :=
  match homeKey s ctx a.toNat false with
  | .error _ => some true
  | .ok k =>
    if homeWaits s k then none
    else
      let v := memNat s.mem k 8
      if 2 ^ 63 ≤ v then some true else if target.toNat ≤ v then some false else none

/-- A waiting node's waits look at their counters: what one has seen it keeps, whatever the counter holds later (R378). -/
def lookNode (s : State) (k : Node) : Node :=
  let seen := (k.waits.zipIdx.filter fun w => !k.met.contains w.2).map fun w => (w.2, waitSees s k.ctx w.1.1 w.1.2.1)
  { k with met := k.met ++ (seen.filter fun x => x.2.isSome).map (fun x => x.1)
           bad := k.bad || seen.any fun x => x.2 == some true }

/-- Every waiting node looks at its counters (R378). -/
def lookNodes (s : State) : State :=
  let look (k : Node) : Node := if k.st = .waiting then lookNode s k else k
  { s with ctl := { s.ctl with nodes := s.ctl.nodes.map look } }

/-- NODE_WAITS_DONE: a node whose waits have completed is READY; one with a wait that completed on bit 63 is DONE, with
its own counter poisoned (R378). -/
def execNodeWaitsDone (ctx n : Nat) (s : State) : Host.Outcome State Fault Refusal :=
  match nodeOf s ctx n with
  | none => cmdNot "NODE_WAITS_DONE"
  | some k =>
    let k := lookNode s k
    if k.st != .waiting || nodesHeld s ctx || (k.bad && recordWaits s k) then cmdNot "NODE_WAITS_DONE"
    else if k.bad then .next (poisonNode (updNode s ctx n fun x => { x with st := .done }) k)
    else if k.met.length = k.waits.length then .next (updNode s ctx n fun x => { x with met := k.met, st := .ready })
    else cmdNot "NODE_WAITS_DONE"

/-- The 32 bytes of a copy block, or none where it is misaligned or cannot be read (R377). -/
def copyBlock (s : State) (k : Node) : Except (BitVec 9) Nat :=
  if k.payload.toNat % 32 != 0 then .error (causeCode .misaln) else homeKey s k.ctx k.payload.toNat false

/-- The copy of a copy node (R377). -/
def nodeCopy (s : State) (k : Node) (b : List Byte) : Copy :=
  let f (off n : Nat) : Nat := natOfBytes (slice b off n)
  let kind : CKind := match f 28 4 % 4 with
    | 0 => .mem
    | 1 => .pmem false
    | 2 => .toh
    | _ => .fromh
  { id := s.nextId, ctx := k.ctx, owner := none, node := some k.n, core := Config.cores, kind := kind, dst := BitVec.ofNat 64 (f 8 8)
    lay := BitVec.ofNat 64 (f 0 8)
    coord := [sextNat 32 (f 16 4), sextNat 32 (f 20 4), sextNat 16 (f 24 2), sextNat 16 (f 26 2)]
    ctr := some (k.cpl, k.csc), op := none, pc := 0, form := none, started := 0, running := [], total := 0, failed := none, ack := false
    adds := false, done := false, issued := s.clock }

/-- A node runs. -/
def nodeRuns (s : State) (k : Node) : State := updNode s k.ctx k.n fun x => { x with st := .running, result := none }

/-- Start a READY node's work (R372, R377, R378, R381). The spec gives a collective node no operator and no type: they are
free values (log entry 1). -/
def startNode (k : Node) (s : State) : Host.Outcome State Fault Refusal :=
  match k.kind with
  | 0 =>
    if s.work.grids.any (fun g => g.ctx == k.ctx && g.node == some k.n) || lrecWaits s k.ctx k.payload then
      cmdNot "NODE_START"
    else .next (launchGrid s k.ctx k.payload none none (some k.n))
  | 1 => .next (bumpId (postNm (nodeRuns s k) (newNm s.nextId k.ctx k.csc none none (some k.n) none k.payload)))
  | 2 =>
    match copyBlock s k with
    | .error e => .next (poisonAt (tellNode (nodeRuns s k) k.ctx (some k.n) (some e)) k.ctx k.cpl)
    | .ok key =>
      if homeWaits s key then cmdNot "NODE_START"
      else
        let c := nodeCopy s k (memGetN s.mem key 32)
        .next (bumpId { nodeRuns s k with work := { s.work with copies := s.work.copies ++ [c] } })
  | 3 =>
    let comm := match collDesc s k.ctx k.payload with
      | .ok b => descW b 0x20 % 2 ^ 16
      | .error _ => 0
    let waits := match homeKey s k.ctx k.payload.toNat false with
      | .ok key => homeWaits s key
      | .error _ => false
    if waits || decide (16 ≤ collsOn s k.ctx comm) then cmdNot "NODE_START"
    else
      let c := newColl s k.ctx ((Config.freeDword s.fresh).toNat % 4) (bit (Config.freeBit s.fresh)) 2 none
        (some k.n) k.payload none comm 0
      let s1 := bump (bumpId { nodeRuns s k with work := { s.work with colls := s.work.colls ++ [c] } })
      .next (if k.payload.toNat % 64 != 0 then updColl s1 c.id fun x => { x with failed := some (causeCode .misaln) }
             else enterColl s1 c)
  | _ =>
    .next (tellNode (ownerEvent (nodeRuns s k) 0x40 k.ctx (bytesOfNat 4 k.payload.toNat)) k.ctx (some k.n) none)

/-- NODE_START: not while the context drains or is saved (R378, R383, R386). -/
def execNodeStart (ctx n : Nat) (s : State) : Host.Outcome State Fault Refusal :=
  match nodeOf s ctx n with
  | none => cmdNot "NODE_START"
  | some k =>
    if k.st != .ready || k.result.isSome || nodesHeld s ctx then
      cmdNot "NODE_START"
    else startNode k s

/-- NODE_COMPLETION: a node whose work has completed or failed is DONE; a host signal adds to CPL (R377, R378). -/
def execNodeCompletion (ctx n : Nat) (s : State) : Host.Outcome State Fault Refusal :=
  match nodeOf s ctx n with
  | none => cmdNot "NODE_COMPLETION"
  | some k =>
    match k.result with
    | none => cmdNot "NODE_COMPLETION"
    | some r =>
      let add := k.kind == 4 && r.isNone
      if (k.st != .running && k.st != .ready) || (add && counterWaits s ctx k.cpl) then cmdNot "NODE_COMPLETION"
      else
        let s := updNode s ctx n fun x => { x with st := .done, result := none }
        .next (if add then addAt s ctx k.cpl else s)

/-! ### WAITC (R376) -/

/-- The WAITC at the head of its queue; a counter that cannot be read completes it as on bit 63. -/
def waitcGo (c : QCmd) (s : State) : Host.Outcome State Fault Refusal :=
  match c.kind with
  | .waitc a t =>
    match waitSees s c.ctx a (BitVec.ofNat 64 (t.toNat % 2 ^ 63)) with
    | none => cmdNot "WAITC"
    | some bad => .next (finishCmd s c.host c.seq (if bad then causeStatus (causeCode .graphbad) else 0))
  | _ => cmdNot "WAITC"

def execWaitc (w : CmdWhen) (addr target : BitVec 64) (s : State) : Host.Outcome State Fault Refusal :=
  queuedCmd "WAITC" 0x22 none true w (fun _ _ => .waitc addr target) (fun _ s => s) waitcGo s

/-! ### Pre-emption (R383 to R386) -/

/-- The teams of a grid that stand in cluster queues, in the order in which they were handed out. -/
def queuedTeams (s : State) (grid : Nat) : List Nat :=
  let l := (s.work.disp.queues.flatMap fun q => q.2).filter fun e => e.grid == grid
  (l.mergeSort fun a b => decide (a.order ≤ b.order)).map fun e => e.team

/-- Withdraw a context's queued, unplaced teams (R383, R385). -/
def withdraw (s : State) (ctx : Nat) : State :=
  let s := (s.work.grids.filter fun g => g.ctx == ctx).foldl (fun s g =>
    updGrid s g.uid fun x => { x with again := queuedTeams s g.uid ++ x.again }) s
  let keep (e : QTeam) : Bool := ((gridOf s e.grid).map fun g => g.ctx != ctx).getD true
  { s with work := { s.work with disp := { s.work.disp with
    queues := s.work.disp.queues.map fun q => (q.1, q.2.filter keep) } } }

/-- The PREEMPT at the head of its queue begins the drain. -/
def preemptGo (c : QCmd) (s : State) : Host.Outcome State Fault Refusal :=
  match c.kind with
  | .preempt us =>
    if c.started || draining s c.ctx then cmdNot "PREEMPT"
    else
      let s := updCmd s c fun x => { x with started := true }
      let s := updCtx s c.ctx fun x =>
        { x with deadline := if us = 0 then x.deadline else us, drain := some ⟨s.clock, some c.queue⟩ }
      .next (withdraw s c.ctx)
  | _ => cmdNot "PREEMPT"

def execPreempt (w : CmdWhen) (deadline : Nat) (s : State) : Host.Outcome State Fault Refusal :=
  queuedCmd "PREEMPT" 0x23 none (deadline == 0 || decide (100 ≤ deadline ∧ deadline ≤ 100000)) w
    (fun _ _ => .preempt deadline) (fun _ s => s) preemptGo s

/-- The PREEMPT that drains a context completes, where it is a command of this device. -/
def preemptEnds (s : State) (ctx : Nat) (d : DrainSt) (status : BitVec 16) : State :=
  match s.host.cmds.find? fun c => c.ctx == ctx && some c.queue == d.queue && c.started && (match c.kind with
    | .preempt _ => true
    | _ => false) with
  | some c => finishCmd s c.host c.seq status
  | none => s

/-- Whether everything that a drain waits for has ended (R383): teams and responders with their operations, copies,
collectives, commands of units; and no Sporangium holds a record of the context (R169). -/
def drained (s : State) (ctx : Nat) : Bool :=
  let mine (g : Nat) : Bool := ((gridOf s g).map fun g => g.ctx == ctx).getD false
  let tags := (s.defer.tags.filter fun t => mine t.grid).map fun t => t.tag
  s.work.teams.all (fun t => t.ctx != ctx || (t.ended && t.resp.isNone && !s.work.ops.any fun o => o.tid == t.uid)) &&
    s.work.cores.all (fun c => c.2.respQ.all fun x => !(s.cen.open'.any fun k => k.id == x.1 && k.ctx == ctx)) &&
    s.work.copies.all (fun c => c.ctx != ctx || (c.done && !c.adds)) && s.work.colls.all (fun c => c.ctx != ctx || c.done) &&
    s.units.all (fun u => u.queue.all (fun c => c.ctx != ctx) && (match u.run with
      | some z => z.cmd.ctx != ctx
      | none => true)) &&
    s.work.cores.all fun c => c.2.spor.all fun e => match e with
      | .entry r => !ofTags s tags r
      | .token _ _ => true

/-- Flush every bin that holds records of a context's tags (R169). -/
def flushBins (s : State) (ctx : Nat) : State :=
  let mine (g : Nat) : Bool := ((gridOf s g).map fun g => g.ctx == ctx).getD false
  let tags := (s.defer.tags.filter fun t => mine t.grid).map fun t => t.tag
  s.defer.sorus.foldl (fun s x =>
    (x.2.bins.filter fun b => b.recs.any (ofTags s tags)).foldl (fun s b => shipBin s x.1 (b.dev, b.ch)) s) s

/-- A grid that had begun dispatch, now or before an earlier PREEMPT, and has teams still to end (R385). -/
def unended (s : State) (g : Grid) : Bool := (g.phase == .dispatch || g.phase == .saved) && g.ended.length != (localTeams s g).length

/-- The saved state of a grid (R385). -/
def savedRec (g : Grid) : List Byte :=
  let cnt := g.made.foldl (fun n m => n + m.n) 0
  bytesOfNat 8 g.recAddr.toNat ++ bytesOfNat 8 (g.cursor % 2 ^ 32 + g.again.length * 2 ^ 32) ++
    bytesOfNat 8 (g.ended.length % 2 ^ 32 + g.tag.getD 0 * 2 ^ 32) ++ bytesOfNat 8 (cnt % 2 ^ 32) ++
    bytesOfNat 32 0 ++ g.again.flatMap (bytesOfNat 4)

/-- Write bytes at an address of a context as far as it can be written. -/
def putBytes (s : State) (ctx a : Nat) (b : List Byte) : State :=
  { s with mem := b.zipIdx.foldl (fun m x => match homeKey s ctx (a + x.2) true with
      | .ok k => memSet m k x.1
      | .error _ => m) s.mem }

/-- Whether the home of a byte of the saved states holds a write back (R164, R342). -/
def savedWaits (s : State) (ctx : Nat) : List Grid → Nat → Bool
  | [], _ => false
  | g :: r, a =>
    let n := (savedRec g).length
    (List.range n).any (fun i => match homeKey s ctx (a + i) true with
      | .ok k => homeWaits s k
      | .error _ => false) || savedWaits s ctx r (a + ceilDiv n 64 * 64)

/-- Write the saved states of a context's grids, one after another, each on a 64-byte boundary (R385; log entry 13). -/
def putSaved (ctx : Nat) : List Grid → Nat → State → State
  | [], _, s => s
  | g :: r, a, s => let b := savedRec g; putSaved ctx r (a + ceilDiv b.length 64 * 64) (putBytes s ctx a b)

/-- The clock at which the deadline of a context's drain expires (R384). -/
def drainEnd (c : Ctx) (d : DrainSt) : Nat := d.since + 800 * c.deadline

/-- PREEMPT_SAVED, before the deadline (R383, R385). -/
def execPreemptSaved (ctx : Nat) (s : State) : Host.Outcome State Fault Refusal :=
  match ctxOf s ctx with
  | none => cmdNot "PREEMPT_SAVED"
  | some c =>
    match c.drain with
    | none => cmdNot "PREEMPT_SAVED"
    | some d =>
      let l := s.work.grids.filter fun g => g.ctx == ctx && unended s g
      if !drained s ctx || decide (drainEnd c d ≤ s.clock) || savedWaits s ctx l c.save.toNat then cmdNot "PREEMPT_SAVED"
      else
        let s := flushBins s ctx
        let s := putSaved ctx l c.save.toNat s
        let s := l.foldl (fun s g => updGrid s g.uid fun x => { x with phase := .saved }) s
        .next (preemptEnds (updCtx s ctx fun x => { x with drain := none, saved := true }) ctx d 0)

/-- PREEMPT_DEADLINE: the deadline passes in DRAIN (R383, R384). -/
def execPreemptDeadline (ctx : Nat) (s : State) : Host.Outcome State Fault Refusal :=
  match ctxOf s ctx with
  | none => cmdNot "PREEMPT_DEADLINE"
  | some c =>
    match c.drain with
    | none => cmdNot "PREEMPT_DEADLINE"
    | some d =>
      let s := { s with clock := max s.clock (drainEnd c d) }
      .next (preemptEnds (forcedReset s ctx (causeCode .preemptrst)) ctx d (causeStatus (causeCode .preemptrst)))

/-- A saved grid's record, read and checked again at its address (R139, R381, R386). -/
def savedLrec (s : State) (g : Grid) : Option LRec :=
  match readLrec s g.ctx g.recAddr with
  | .ok b => if (lrecCheck b fun _ => (localTeams s g).length).isNone then some (lrecOf b) else none
  | .error _ => none

/-- The saved grids of a context. -/
def savedGrids (s : State) (ctx : Nat) : List Grid := s.work.grids.filter fun g => g.ctx == ctx && g.phase == .saved

/-- Every saved grid of a context whose record passes goes on with dispatch; and whether all did (R386). -/
def resumeGrids (s : State) (ctx : Nat) : State × Bool :=
  let l := savedGrids s ctx
  let back (s1 : State) (g : Grid) : State := match savedLrec s g with
    | some lr => updGrid s1 g.uid fun x => { x with phase := .dispatch, lr := lr }
    | none => s1
  (admitWaiting (updCtx (l.foldl back s) ctx fun x => { x with saved := false }), l.all fun g => (savedLrec s g).isSome)

/-- The RESUME at the head of its queue (R386). -/
def resumeGo (c : QCmd) (s : State) : Host.Outcome State Fault Refusal :=
  match c.kind with
  | .resume =>
    let r := resumeGrids s c.ctx
    if (savedGrids s c.ctx).any fun g => lrecWaits s c.ctx g.recAddr then cmdNot "RESUME"
    else .next (finishCmd r.1 c.host c.seq (if r.2 then 0 else causeStatus (causeCode .lfit)))
  | _ => cmdNot "RESUME"

def execResume (w : CmdWhen) (s : State) : Host.Outcome State Fault Refusal :=
  queuedCmd "RESUME" 0x24 (some 0) true w (fun _ _ => .resume) (fun _ s => s) resumeGo s

/-- The KILL at the head of its queue: a forced reset (R387). A PREEMPT that drains completes with PREEMPTRST. -/
def killGo (c : QCmd) (s : State) : Host.Outcome State Fault Refusal :=
  match c.kind with
  | .kill =>
    let d := (ctxOf s c.ctx).bind fun x => x.drain
    let s := forcedReset s c.ctx (causeCode .ctxkill)
    let s := match d with
      | some d => preemptEnds s c.ctx d (causeStatus (causeCode .preemptrst))
      | none => s
    .next (finishCmd s c.host c.seq 0)
  | _ => cmdNot "KILL"

def execKill (w : CmdWhen) (s : State) : Host.Outcome State Fault Refusal :=
  queuedCmd "KILL" 0x25 (some 0) true w (fun _ _ => .kill) (fun _ s => s) killGo s

end Sys2Proof.Machine
end

