-- ==== Sys2Proof/Machine/Power.lean ====
section
/-!
DEFINITION. Activity budgets, temperature, voltage droop, power, soft errors, and stepping backwards (R171, R369, R380,
R382, R404 to R406, R426 to R429).
-/

namespace Sys2Proof.Machine

/-! ### Budgets (R382) -/

/-- A bucket after some period boundaries: one period's rate more for each, up to two periods' worth. -/
def bucketRefill (rate n : Nat) (b : Int) : Int := min (b + n * rate) (2 * rate)

/-- Every bucket gains its rate at each period boundary that the clock has passed (R382). -/
def refillBudgets (s : State) : State :=
  let n := s.clock / 8000 - s.pow.period
  let fill (c : Ctx) : Ctx := { c with buckets := vgen fun k => bucketRefill (vget c.rates k) n (vget c.buckets k) }
  if n = 0 then s
  else { s with ctl := { s.ctl with ctxs := s.ctl.ctxs.map fill }, pow := { s.pow with period := s.clock / 8000 } }

/-- BUDGET_REFILL: the next boundary of a 10 µs period. -/
def execBudgetRefill (s : State) : Host.Outcome State Fault Refusal :=
  .next (refillBudgets { s with clock := (s.clock / 8000 + 1) * 8000 })

/-! ### Heat and droop (R380, R426, R427) -/

/-- Change clocks, temperature and power. -/
def updPow (s : State) (f : Power → Power) : State := { s with pow := f s.pow }

/-- Droop events of the last 1 ms. -/
def recentDroops (clock : Nat) (l : List Nat) : List Nat := l.filter fun t => decide (clock < t + 800000)

/-- A core's hot or cool state from its temperature and its count of droop events: hot at 95 °C or 4 events; cool again
after a whole 1 ms at 89 °C or below and under 4 (R380). -/
def judgeHeat (clock : Nat) (c : Core) : Core :=
  let n := (recentDroops clock c.droops).length
  let c := { c with droops := recentDroops clock c.droops }
  if 95 ≤ c.temp ∨ 4 ≤ n then { c with hot := true, coolSince := none }
  else if !c.hot then c
  else if 89 < c.temp then { c with coolSince := none }
  else match c.coolSince with
    | none => { c with coolSince := some clock }
    | some t => if t + 800000 ≤ clock then { c with hot := false, coolSince := none } else c

/-- A trip: every context takes a forced reset with PREEMPTRST, and the compute dies are powered down (R427). -/
def trip (s : State) : State :=
  let s := (s.ctl.ctxs.map fun c => c.num).foldl (fun s n => forcedReset s n (causeCode .preemptrst)) s
  { s with firm := { s.firm with tripped := true } }

/-- An island whose die is at 105 °C steps down until the die falls below 100 °C (R427). -/
def noteTemp (s : State) (island temp : Nat) : State :=
  updPow s fun p =>
    if 105 ≤ temp then { p with stepping := (island :: p.stepping).dedup }
    else if temp < 100 then { p with stepping := p.stepping.filter fun c => c != island } else p

/-- A die's temperature: it steps its island, and trips at 115 °C (R427). -/
def dieTemp (s : State) (island temp : Nat) : State :=
  let s := noteTemp s island temp
  if 115 ≤ temp then trip s else s

/-- TEMP_SAMPLE: a core's sample of every 10 µs (R380, R427). -/
def execTempSample (core temp : Nat) (s : State) : Host.Outcome State Fault Refusal :=
  if Config.cores ≤ core || s.firm.tripped then .fault (.notEnabled "TEMP_SAMPLE")
  else .next (dieTemp (updCore s core fun c => judgeHeat s.clock { c with temp := temp }) core temp)

/-- The temperature of the die of an island that is no core's (R426, R427). -/
def heatIsland (island temp : Nat) (s : State) : Host.Outcome State Fault Refusal :=
  if island < Config.cores || 1024 ≤ island || s.firm.tripped then .fault (.notEnabled "TEMPERATURE")
  else .next (dieTemp s island temp)

/-- DROOP_EVENT: one clock of an island is stretched; a core island's events are counted (R380, R427). -/
def execDroopEvent (island : Nat) (s : State) : Host.Outcome State Fault Refusal :=
  if 1024 ≤ island then .fault (.notEnabled "DROOP_EVENT")
  else
    let s := updPow { s with clock := s.clock + 1 } fun p => { p with stretched := p.stretched + 1 }
    .next (if island < Config.cores then
        updCore s island fun c => judgeHeat s.clock { c with droops := c.droops ++ [s.clock] }
      else s)

/-- The clock in MHz of the operating point of an island: 800 from bring-up on, until service firmware sets another (R426,
R430). -/
def pointMhz (p : Power) (island : Nat) : Nat := ((aGet p.points island).map fun x => x.1).getD 800

/-- The steps of 25 MHz by which heat has lowered an island (R427). -/
def heatSteps (p : Power) (island : Nat) : Nat := (aGet p.steps island).getD 0

/-- The steps by which the cap has lowered an island (R429). -/
def capSteps (p : Power) (island : Nat) : Nat := if island < Config.cores then p.lowered else p.loweredMem

/-- An island's clock in MHz: its operating point less what heat and the cap take from it, at least 400 (R426, R427,
R429). -/
def islandMhz (p : Power) (island : Nat) : Nat := max 400 (pointMhz p island - 25 * (heatSteps p island + capSteps p island))

/-- Service firmware sets an island's operating point: 400 to 1,000 MHz in steps of 25, at 550 to 800 mV (R426). -/
def operate (island mhz mv : Nat) (s : State) : Host.Outcome State Fault Refusal :=
  if s.firm.step < 5 || s.firm.tripped || 1024 ≤ island || mhz < 400 || 1000 < mhz || mhz % 25 != 0 || mv < 550 || 800 < mv then
    .fault (.notEnabled "OPERATING_POINT")
  else .next (updPow s fun p => { p with points := aSet p.points island (mhz, mv) })

/-- An island takes a heat step, some clocks after its last one (R427). -/
def heatStep (s : State) (island gap steps : Nat) : State :=
  let u := match aGet s.pow.heatAt island with
    | some t => max s.clock (t + gap)
    | none => s.clock
  updPow { s with clock := u } fun p =>
    { p with heatAt := aSet p.heatAt island u, steps := if steps = 0 then aDel p.steps island else aSet p.steps island steps }

/-- THERMAL_STEP_DOWN: an island whose die has reached 105 °C, and not fallen below 100 °C since, steps down 25 MHz every
10 µs (R426, R427). -/
def execThermalStepDown (island : Nat) (s : State) : Host.Outcome State Fault Refusal :=
  if !s.pow.stepping.contains island || islandMhz s.pow island ≤ 400 then .fault (.notEnabled "THERMAL_STEP_DOWN")
  else .next (heatStep s island 8000 (heatSteps s.pow island + 1))

/-- THERMAL_RECOVER: an island whose die has fallen below 100 °C recovers one step every 1 ms (R427). -/
def execThermalRecover (island : Nat) (s : State) : Host.Outcome State Fault Refusal :=
  if heatSteps s.pow island = 0 || s.pow.stepping.contains island then .fault (.notEnabled "THERMAL_RECOVER")
  else .next (heatStep s island 800000 (heatSteps s.pow island - 1))

/-! ### Power (R428, R429) -/

/-- The operating points go down one step: every core island's, and once none of them can go lower, those of the L2 and
base-die islands, as far as any of them can (R426, R429). -/
def capDown (p : Power) : Power :=
  let above (a n : Nat) : Bool := (List.range n).any fun i => decide (400 < islandMhz p (a + i))
  if above 0 Config.cores then { p with lowered := p.lowered + 1 }
  else if above Config.cores 256 then { p with loweredMem := p.loweredMem + 1 } else p

/-- They go up one step, in the reverse order (R429). -/
def capUp (p : Power) : Power :=
  if 0 < p.loweredMem then { p with loweredMem := p.loweredMem - 1 } else { p with lowered := p.lowered - 1 }

/-- The average of a sum of `n` samples against the cap: from when it exceeds the cap until it falls below it the
operating points go down; while it is below they go up (R429). -/
def capStep (sum n : Nat) (p : Power) : Power :=
  if p.cap * n < sum then capDown { p with capping := true }
  else if sum < p.cap * n then capUp { p with capping := false }
  else if p.capping then capDown p else p

/-- POWER_SAMPLE: the module's power of every 100 µs enters the 1 ms average, which is held against the cap. -/
def execPowerSample (watts : Nat) (s : State) : Host.Outcome State Fault Refusal :=
  .next (updPow s fun p =>
    let l := (watts :: p.samples).take 10
    capStep (l.foldl (· + ·) 0) l.length { p with samples := l })

/-! ### Soft errors (R171, R369, R404) -/

/-- PATROL_SCRUB: an uncorrectable word that scrubbing finds stays marked, and is reported at its next read. -/
def execPatrolScrub (dev pa : Nat) (bad : Bool) (s : State) : Host.Outcome State Fault Refusal :=
  .next (if bad then markWord s dev pa else s)

/-- An uncorrectable error in a Rhizoid unit aborts its command with ZPARITY; a gather fails. ROW is the row that holds a
given address, 0 for data of no row. PC and THR are free values (R369; log entry 1). -/
def unitParity (s : State) (ch row : Nat) : State :=
  match (unitOf s ch).run with
  | none => s
  | some z =>
    match z.cmd.gather with
    | some g => stopGather s ch z g
    | none =>
      if z.stop.isSome then s
      else abortRun (bump s) ch (causeCode .zparity) ((Config.freeDword s.fresh).setWidth 12) (Config.freeBit s.fresh)
        (if row = 0 then 0 else rowBase row)

/-- A word of a held row's snapshot fails its check from now on: the restore will leave it marked (R369). -/
def snapshotParity (s : State) (ch lock word : Nat) : State :=
  let hit (x : ZLockSt × Nat) : ZLockSt :=
    if x.2 = lock ∧ word < 32 then { x.1 with bad := (word :: x.1.bad).dedup } else x.1
  let u := unitOf s ch
  setUnit s { u with run := u.run.map fun z => { z with locks := z.locks.zipIdx.map hit } }

/-- What an uncorrectable error does where it falls (R404). TRPC of SRAMUE is a free value: no instruction raises it. -/
def uncorrectable (s : State) : SoftSite → State
  | .sram tid => stopTeam (bump s) tid (causeCode .sramue) (Config.freeDword s.fresh) 0 0
  | .l1Data core idx => updCore s core fun c => { c with l1 := c.l1.eraseIdx idx }
  | .l1Inst core idx => updCore s core fun c => { c with icache := c.icache.eraseIdx idx }
  | .tlb core idx => updCore s core fun c => { c with tlb := c.tlb.eraseIdx idx }
  | .ctlb cluster idx => { s with ctlb := s.ctlb.map fun c => if c.1 = cluster then (c.1, c.2.eraseIdx idx) else c }
  | .memory dev pa => markWord s dev pa
  | .rhizoid ch row off =>
    let s := unitParity s ch row
    if off then setUnit s { unitOf s ch with offline := true } else s
  | .snapshot ch lock word => snapshotParity s ch lock word
  | .thallus dev ch idx =>
    let t := thallusOf s (dev, ch)
    setThallus s (dev, ch) { t with staged := t.staged.zipIdx.map fun x => if x.2 = idx then { x.1 with ue := true } else x.1 }

/-- SOFT_ERROR: a correctable one is corrected and counted. -/
def execSoftError (site : SoftSite) (correctable : Bool) (s : State) : Host.Outcome State Fault Refusal :=
  .next (if correctable then updPow s fun p => { p with corrected := p.corrected + 1 } else uncorrectable s site)

/-! ### Stepping backwards (R405, R406) -/

/-- The newest entries of a log that one instruction made, newest first. -/
def lastEntries (l : List Undo) : List Undo :=
  match l.reverse with
  | [] => []
  | e :: r => e :: r.takeWhile fun x => x.n == e.n && x.pc == e.pc

/-- Restore one register entry (R405; log entry 10). -/
def restoreReg (e : Undo) (g : Group) : Group :=
  let n := e.target.toNat
  let d : Dword := BitVec.ofNat 64 (natOfBytes e.old)
  match e.kind with
  | 0 => applyWr g (.v n e.mask (vgen fun i => BitVec.ofNat 32 (natOfBytes (slice e.old (4 * i) 4))))
  | 1 => applyWr g (.s n d)
  | 2 =>
    if n < 8 then applyWr g (.p n (-1) d)
    else if n < 16 then applyWr g (.sp (n - 8) (d != 0))
    else applyWr g (.em d)
  | _ => g

/-- Restore one entry: a register of the group, or bytes of memory at their home. -/
def restoreOne (core ctx tid gid : Nat) (s : State) (e : Undo) : State :=
  if e.kind = 3 then
    match xlate s (some core) ctx e.target.toNat false false false with
    | .at key _ _ _ => homeStore s core ctx e.target.toNat key (e.old.take e.mask.toNat)
    | .bad _ _ => s
  else updGroup s tid gid (restoreReg e)

/-- DEBUG_STEP_BACK: service firmware steps a halted group back by one instruction, once what it has issued has been
performed (R406). -/
def execDebugStepBack (tid gid : Nat) (s : State) : Host.Outcome State Fault Refusal :=
  match teamOf s tid, groupOf s tid gid with
  | some t, some g =>
    let busy := s.work.ops.any (fun o => o.tid == tid && o.gid == gid) ||
      (coreOf s t.core).wtq.any fun e => e.tid == tid && e.gid == gid
    match lastEntries g.undo with
    | [] => .fault (.notEnabled "DEBUG_STEP_BACK")
    | e :: r =>
      let homes := (e :: r).any fun x => x.kind == 3 &&
        (match xlate s (some t.core) t.ctx x.target.toNat false false false with
         | .at key _ _ _ => homeWaits s key || homeWaits s (key + (x.mask.toNat - 1))
         | .bad _ _ => false)
      if t.halt == .running || busy || homes || g.ended then .fault (.notEnabled "DEBUG_STEP_BACK")
      else
        let s := (e :: r).foldl (restoreOne t.core t.ctx tid gid) (settle s tid gid (s.clock + 8))
        .next (updGroup s tid gid fun g =>
          { g with r := { g.r with pc := e.pc }, f := { g.f with wait := 0, hdrRun := 0 }
                   undo := g.undo.take (g.undo.length - (r.length + 1)) })
  | _, _ => .fault (.notEnabled "DEBUG_STEP_BACK")

end Sys2Proof.Machine
end

