-- ==== Sys2Proof/Machine/Uniform.lean ====
section
/-!
DEFINITION. Uniform integer and address arithmetic, comparisons, selection and special registers (R63 to R69, R394).
-/

namespace Sys2Proof.Machine

/-- The issue facts of a uniform fixed-latency instruction. -/
def uniIss (row : String) (h : Hdr) : Iss := { row := row, h := h }

/-- A uniform instruction that writes s_d after `lat` clocks (R63, R144). -/
def uniS (row : String) (h : Hdr) (lat d : Nat) (f : Ctl → Dword) (s : State) : Host.Outcome State Fault Refusal :=
  fixed (uniIss row h) lat (fun c => [.s d (f c)]) s

/-- A binary operation on s_a and the last source (R63). -/
def uni2 (row : String) (h : Hdr) (lat d a : Nat) (b : Src) (f : Dword → Dword → Dword) (s : State) :
    Host.Outcome State Fault Refusal :=
  uniS row h lat d (fun c => f (c.s a) (c.srcS b)) s

/-- Bits 127:64 of a product (R63). -/
def mulHigh (signed : Bool) (a b : Dword) : Dword :=
  if signed then BitVec.ofInt 64 (a.toInt * b.toInt / 2 ^ 64) else BitVec.ofNat 64 (a.toNat * b.toNat / 2 ^ 64)

/-- The smaller or the larger value (R63). -/
def minMax (isMax signed : Bool) (a b : Dword) : Dword := if relBv .lt signed a b != isMax then a else b

/-- Bits pos + len − 1 : pos, zero- or sign-extended (R65). -/
def bfx {w : Nat} (signed : Bool) (pos len : Nat) (a : BitVec w) : BitVec w :=
  let v := bitsAt a.toNat pos len
  if signed then BitVec.ofInt w (sextNat len v) else BitVec.ofNat w v

/-- d with bits pos + len − 1 : pos replaced by bits len − 1 : 0 of a (R65). -/
def bfi {w : Nat} (pos len : Nat) (d a : BitVec w) : BitVec w :=
  let m := BitVec.ofNat w ((2 ^ len - 1) * 2 ^ pos)
  (d &&& ~~~m) ||| ((a <<< pos) &&& m)

def execSadd (h : Hdr) (d a b : Nat) (s : State) : Host.Outcome State Fault Refusal :=
  uni2 "SADD" h 2 d a (.reg b) (· + ·) s
def execSaddLong (h : Hdr) (d a : Nat) (b : Src) (s : State) : Host.Outcome State Fault Refusal :=
  uni2 "SADD_LONG" h 2 d a b (· + ·) s
def execSsub (h : Hdr) (d a : Nat) (b : Src) (s : State) : Host.Outcome State Fault Refusal :=
  uni2 "SSUB" h 2 d a b (· - ·) s
def execSmul (h : Hdr) (d a : Nat) (b : Src) (s : State) : Host.Outcome State Fault Refusal :=
  uni2 "SMUL" h 4 d a b (· * ·) s
def execSmulh (h : Hdr) (signed : Bool) (d a : Nat) (b : Src) (s : State) : Host.Outcome State Fault Refusal :=
  uni2 "SMULH" h 4 d a b (mulHigh signed) s
def execSand (h : Hdr) (d a : Nat) (b : Src) (s : State) : Host.Outcome State Fault Refusal :=
  uni2 "SAND" h 2 d a b (· &&& ·) s
def execSor (h : Hdr) (d a : Nat) (b : Src) (s : State) : Host.Outcome State Fault Refusal :=
  uni2 "SOR" h 2 d a b (· ||| ·) s
def execSxor (h : Hdr) (d a : Nat) (b : Src) (s : State) : Host.Outcome State Fault Refusal :=
  uni2 "SXOR" h 2 d a b (· ^^^ ·) s
def execSandn (h : Hdr) (d a : Nat) (b : Src) (s : State) : Host.Outcome State Fault Refusal :=
  uni2 "SANDN" h 2 d a b (fun x y => x &&& ~~~y) s
def execSshl (h : Hdr) (d a : Nat) (b : Src) (s : State) : Host.Outcome State Fault Refusal :=
  uni2 "SSHL" h 2 d a b (fun x y => x <<< (y.toNat % 64)) s
def execSshr (h : Hdr) (d a : Nat) (b : Src) (s : State) : Host.Outcome State Fault Refusal :=
  uni2 "SSHR" h 2 d a b (fun x y => x >>> (y.toNat % 64)) s
def execSsar (h : Hdr) (d a : Nat) (b : Src) (s : State) : Host.Outcome State Fault Refusal :=
  uni2 "SSAR" h 2 d a b (fun x y => x.sshiftRight (y.toNat % 64)) s
def execSmin (h : Hdr) (signed : Bool) (d a : Nat) (b : Src) (s : State) : Host.Outcome State Fault Refusal :=
  uni2 "SMIN" h 2 d a b (minMax false signed) s
def execSmax (h : Hdr) (signed : Bool) (d a : Nat) (b : Src) (s : State) : Host.Outcome State Fault Refusal :=
  uni2 "SMAX" h 2 d a b (minMax true signed) s
def execSmovi (h : Hdr) (d : Nat) (k : Int) (s : State) : Host.Outcome State Fault Refusal :=
  uniS "SMOVI" h 2 d (fun _ => BitVec.ofInt 64 k) s
def execSmoviLong (h : Hdr) (d : Nat) (k : Src) (s : State) : Host.Outcome State Fault Refusal :=
  uniS "SMOVI_LONG" h 2 d (fun c => c.srcS k) s
def execSaddi (h : Hdr) (d a : Nat) (k : Int) (s : State) : Host.Outcome State Fault Refusal :=
  uniS "SADDI" h 2 d (fun c => c.s a + BitVec.ofInt 64 k) s
def execSaddiLong (h : Hdr) (d a : Nat) (k : Src) (s : State) : Host.Outcome State Fault Refusal :=
  uniS "SADDI_LONG" h 2 d (fun c => c.s a + c.srcS k) s
def execSlea (h : Hdr) (d a : Nat) (b : Src) (sh : Nat) (k : BitVec 32) (s : State) :
    Host.Outcome State Fault Refusal :=
  uniS "SLEA" h 2 d (fun c => c.s a + (c.srcS b <<< sh) + sext64 k) s
def execSbfx (h : Hdr) (signed : Bool) (d a pos len : Nat) (s : State) : Host.Outcome State Fault Refusal :=
  uniS "SBFX" h 2 d (fun c => bfx signed pos len (c.s a)) s
def execSbfi (h : Hdr) (d a pos len : Nat) (s : State) : Host.Outcome State Fault Refusal :=
  uniS "SBFI" h 2 d (fun c => bfi pos len (c.s d) (c.s a)) s
def execSclz (h : Hdr) (d a : Nat) (s : State) : Host.Outcome State Fault Refusal :=
  uniS "SCLZ" h 2 d (fun c => BitVec.ofNat 64 (clz 64 (c.s a).toNat)) s
def execSpopc (h : Hdr) (d a : Nat) (s : State) : Host.Outcome State Fault Refusal :=
  uniS "SPOPC" h 2 d (fun c => BitVec.ofNat 64 (popcount 64 (c.s a).toNat)) s
def execSbrev (h : Hdr) (d a : Nat) (s : State) : Host.Outcome State Fault Refusal :=
  uniS "SBREV" h 2 d (fun c => BitVec.ofNat 64 (bitrev 64 (c.s a).toNat)) s
def execScmp (h : Hdr) (rel : Rel) (signed : Bool) (d a : Nat) (b : Src) (s : State) :
    Host.Outcome State Fault Refusal :=
  fixed (uniIss "SCMP" h) 2 (fun c => [.sp d (relBv rel signed (c.s a) (c.srcS b))]) s
def execSsel (h : Hdr) (d sp t : Nat) (f : Src) (s : State) : Host.Outcome State Fault Refusal :=
  uniS "SSEL" h 2 d (fun c => if c.sp sp then c.s t else c.srcS f) s

/-! ### Special registers -/

/-- The Philox pair of a core and context (R98). -/
def rngOf (k : Core) (ctx : Nat) : Dword × Dword := (aGet k.rng ctx).getD (0, 0)

/-- Set the pair of a core and context (R98). -/
def setRng (k : Core) (ctx : Nat) (v : Dword × Dword) : Core := { k with rng := aSet k.rng ctx v }

/-- What SREADSR reads at clock `u`: a SWRITESR is seen from its latency on, though RNGFILL draws from the written value
at once (R98, R143, R144). -/
def rngSeen (k : Core) (ctx u : Nat) (ctr : Bool) : Dword :=
  match k.rngOld.find? fun o => o.ctx == ctx && o.ctr == ctr && decide (u < o.land) with
  | some o => o.old
  | none => if ctr then (rngOf k ctx).2 else (rngOf k ctx).1

/-- SWRITESR of RNGKEY or RNGCTR at clock `u` (R98, R144). -/
def writeRng (ctx u : Nat) (ctr : Bool) (x : Dword) (k : Core) : Core :=
  let p := rngOf k ctx
  let old : RngOld := ⟨u + 3, ctx, ctr, if ctr then p.2 else p.1⟩
  { setRng k ctx (if ctr then (p.1, x) else (x, p.2)) with rngOld := (k.rngOld.filter fun o => u < o.land) ++ [old] }

/-- Device time in ns: 5/4 ns a clock (R1, R68; log entry 7). -/
def gtime (clock : Nat) : Nat := clock * 5 / 4

/-- TRCAUSE: the cause, whether secondary causes are present, and the mode at the trap (R394). -/
def trcause (r : TrapRec) : Dword :=
  BitVec.ofNat 64 (r.cause.toNat + bit (r.smask != 0) * 512 + bit r.rev * 1024)

/-- What a special register reads (R68, R394). ARGPTR of a responder is its census's ARG (R289); that it reads team number
0, coordinates of that and the asker's grid extents is the model's choice (log entry 39). -/
def srRead (c : Ctl) (s : State) (n : Nat) : Dword :=
  let t := c.t
  let g := c.g
  let lr := (gridOf s t.grid).map fun x => x.lr
  let dim (f : LRec → Nat) : Nat := max 1 ((lr.map f).getD 1)
  let nat (k : Nat) : Dword := BitVec.ofNat 64 k
  if n = 0x000 then nat t.teamId
  else if n = 0x001 then nat (t.teamId % dim (·.gx))
  else if n = 0x002 then nat (t.teamId / dim (·.gx) % dim (·.gy))
  else if n = 0x003 then nat (t.teamId / (dim (·.gx) * dim (·.gy)))
  else if n = 0x004 then nat (dim (·.gx))
  else if n = 0x005 then nat (dim (·.gy))
  else if n = 0x006 then nat (dim (·.gz))
  else if n = 0x008 then nat g.gid
  else if n = 0x009 then nat t.groups.length
  else if n = 0x00A then nat (bit (!g.producer))
  else if n = 0x00B then nat g.bud
  else if n = 0x00C then nat t.core
  else if n = 0x00D then nat (t.core / 8)
  else if n = 0x00E then nat g.part
  else if n = 0x00F then nat t.ctx
  else if n = 0x011 then nat c.u
  else if n = 0x012 then nat (gtime c.u)
  else if n = 0x018 then g.r.fmode.setWidth 64
  else if n = 0x019 then g.r.status.setWidth 64
  else if n = 0x01C then rngSeen (coreOf s t.core) t.ctx c.u false
  else if n = 0x01D then rngSeen (coreOf s t.core) t.ctx c.u true
  else if n = 0x020 then nat g.w.wb
  else if n = 0x021 then g.w.frsz.setWidth 64
  else if n = 0x022 then g.w.wsp
  else if n = 0x023 then g.w.wslim
  else if n = 0x024 then g.w.fdepth.setWidth 64
  else if n = 0x028 then nat t.al.abase
  else if n = 0x029 then nat t.al.asize
  else if n = 0x02A then (match t.resp with | some r => r.arg | none => (lr.map (·.argp)).getD 0)
  else if n = 0x030 then trcause g.t.tr
  else if n = 0x031 then g.t.tr.pc
  else if n = 0x032 then g.t.tr.mask
  else if n = 0x033 then g.t.tr.smask
  else if n = 0x034 then g.t.tr.em
  else if n = 0x035 then g.t.tr.scause.setWidth 64
  else if n = 0x036 then g.t.tr.addr
  else if n = 0x037 then g.t.tr.rpc
  else if n = 0x038 then g.t.tr.rep
  else if n = 0x039 then nat g.t.tr.skid
  else if n = 0x03A then g.t.tr.info.setWidth 64
  else if n = 0x03F then thentryOf s t.ctx
  else vget g.t.scr (n - 0x03B)

/-- Trap record registers, which only the handler reaches (R68, R394). -/
def handlerOnly (n : Nat) : Bool := decide (0x030 ≤ n ∧ n ≤ 0x03F)

/-- SREADSR to `s` (R67, R144). -/
def readSr (row : String) (h : Hdr) (d n : Nat) (s : State) : Host.Outcome State Fault Refusal :=
  issue (uniIss row h) (fun c s1 =>
    if handlerOnly n && !c.g.t.inHandler then .trap { cause := .privop, mask := c.em }
    else .done (pendWrs c 3 [.s d (srRead c s1 n)] s1)) s

/-- SREADSR to `v`: LANEID gives each lane its number, the others bits 31:0 in each active lane (R67, R144). -/
def readSrV (row : String) (h : Hdr) (d n : Nat) (s : State) : Host.Outcome State Fault Refusal :=
  issue { row := row, h := h, lane := true, vs := [d] } (fun c s1 =>
    if handlerOnly n && !c.g.t.inHandler then .trap { cause := .privop, mask := c.em }
    else
      let x := (srRead c s1 n).setWidth 32
      .done (pendWrs c 4 [wrV c d fun l => if n = 0x010 then BitVec.ofNat 32 l else x] s1)) s

/-- The width that a written value must fit (R68). -/
def srWidth (n : Nat) : Nat :=
  if n = 0x018 then 8 else if n = 0x019 then 3 else if n = 0x021 then 8 else 64

/-- The writes that SWRITESR makes at the end of its latency; the Philox pair is the core's (`writeRng`; R69, R98). -/
def srWrites (n : Nat) (x : Dword) : List RegWr :=
  if n = 0x018 then [.fmode (x.setWidth 8)]
  else if n = 0x019 then [.statusClear (x.setWidth 3)]
  else if n = 0x021 then [.frsz (x.setWidth 8)]
  else if n = 0x022 then [.wsp x]
  else if n = 0x01C ∨ n = 0x01D then []
  else [.tr n x]

/-- SWRITESR (R67 to R69, R394). -/
def writeSr (row : String) (h : Hdr) (a n : Nat) (s : State) : Host.Outcome State Fault Refusal :=
  issue (uniIss row h) (fun c s1 =>
    let x := c.s a
    if handlerOnly n && !c.g.t.inHandler then .trap { cause := .privop, mask := c.em }
    else if 2 ^ srWidth n ≤ x.toNat then .trap { cause := .illrsv, mask := c.em }
    else if n = 0x021 ∧ x.toNat % 8 ≠ 0 then .trap { cause := .illfld, mask := c.em }
    else
      let s2 :=
        if n = 0x01C ∨ n = 0x01D then updCore s1 c.t.core (writeRng c.t.ctx c.u (n == 0x01D) x)
        else s1
      .done (pendWrs c 3 (srWrites n x) s2)) s

def execSreadsr (h : Hdr) (d : Nat) (sr : Int) (s : State) : Host.Outcome State Fault Refusal :=
  readSr "SREADSR" h d sr.toNat s
def execSreadsrExt (h : Hdr) (vec : Bool) (d : Nat) (sr : BitVec 32) (s : State) : Host.Outcome State Fault Refusal :=
  if vec then readSrV "SREADSR_EXT" h d sr.toNat s else readSr "SREADSR_EXT" h d sr.toNat s
def execSwritesr (h : Hdr) (a : Nat) (sr : Int) (s : State) : Host.Outcome State Fault Refusal :=
  writeSr "SWRITESR" h a sr.toNat s
def execSwritesrExt (h : Hdr) (a : Nat) (sr : BitVec 32) (s : State) : Host.Outcome State Fault Refusal :=
  writeSr "SWRITESR_EXT" h a sr.toNat s

end Sys2Proof.Machine
end

