-- ==== Sys2Proof/Machine/HostPort.lean ====
section
/-!
DEFINITION. What hosts do to the device: RDMA, the lease, the owner's commands, attestation, telemetry, events; and the
gateway calls of service firmware (R403, R409 to R416, R420 to R422).
-/

namespace Sys2Proof.Machine

/-- A row that the state gives no occurrence. -/
def hostNot (row : String) : Host.Outcome State Fault Refusal := .fault (.notEnabled row)

/-- A host's request is refused with a RoCE remote-access NAK (R409). -/
def nak (s : State) (host : BitVec 32) : State := updHost s fun h => { h with naks := host :: h.naks }

/-! ### RDMA (R186, R382, R409) -/

/-- The context that a key names, and whether it is its owner key, which only the owner may use (R409). -/
def keyCtx (s : State) (host key : BitVec 32) : Option (Ctx × Bool) :=
  match s.ctl.ctxs.find? fun c => c.ownerKey == key with
  | some c => if host = s.host.lease.owner && host != 0 then some (c, true) else none
  | none => (s.ctl.ctxs.find? fun c => c.sharedKey == key).map fun c => (c, false)

/-- The memory key of a byte that RDMA may reach: `own` by the owner key, `rd` for a read (R409). -/
def rdmaByte (s : State) (ctx va : Nat) (own rd : Bool) : Option Nat :=
  match xlate s none ctx va false false false, leafAt s ctx va with
  | .at k _ _ _, some l => if (!own && !l.shr) || (rd && l.f) then none else some k
  | _, _ => none

/-- All of a list, or none. -/
def allSome {α : Type} : List (Option α) → Option (List α)
  | [] => some []
  | none :: _ => none
  | some x :: r => (allSome r).map fun l => x :: l

/-- The memory keys of a request's bytes. -/
def rdmaKeys (s : State) (ctx va n : Nat) (own rd : Bool) : Option (List Nat) :=
  allSome ((List.range n).map fun i => rdmaByte s ctx (va + i) own rd)

/-- A request under way of which a packet has been tried. -/
def rdmaOf (s : State) (r : Rdma) : Option Rdma :=
  s.host.rdma.find? fun x => x.host == r.host && x.key == r.key && x.va == r.va && x.n == r.n && x.data == r.data

/-- A request is no longer under way. -/
def endRdma (s : State) (r : Rdma) : State := updHost s fun h =>
  { h with rdma := h.rdma.filter fun x => !(x.host == r.host && x.key == r.key && x.va == r.va && x.n == r.n && x.data == r.data) }

/-- A request is under way. -/
def putRdma (s : State) (r : Rdma) : State := updHost (endRdma s r) fun h => { h with rdma := h.rdma ++ [r] }

/-- The bytes of an RDMA packet at most: the greatest path MTU of RoCE (log entry 14). -/
def packetBytes : Nat := 4096

/-- The next packet of an RDMA request, at the homes of its bytes (R186, R382, R409). The request is refused whole at its
first packet; a packet whose homes hold it back waits there, and starts hold slices (R366). -/
def rdmaPacket (row : String) (s : State) (c : Ctx) (own : Bool) (r : Rdma) : Host.Outcome State Fault Refusal :=
  let rd := r.data.isNone
  let r := (rdmaOf s r).getD r
  let m := min packetBytes (r.n - r.got)
  let whole := if (rdmaOf s r).isSome then some [] else rdmaKeys s c.num r.va.toNat r.n own rd
  match whole, rdmaKeys s c.num (r.va.toNat + r.got) m own rd with
  | some _, some ks =>
    if ks.any (homeWaits s) then .next (putRdma s { r with waits := ks.filter (homeWaits s) })
    else if !mayCharge s c.num 5 then hostNot row
    else
      let s := match r.data with
        | some d => { s with mem := memSetCells s.mem (ks.zip (d.drop r.got)) }
        | none => updHost s fun h => { h with out := (r.host, ks.map (memGet s.mem)) :: h.out }
      let s := charge s c.num 5 m
      .next (if r.got + m = r.n then endRdma s r else putRdma s { r with got := r.got + m, waits := [] })
  | _, _ => .next (nak (endRdma s r) r.host)

/-- RDMA_WRITE: the next packet's bytes land at their homes, or the request is refused (R186, R382, R409). -/
def execRdmaWrite (host key : BitVec 32) (va : BitVec 64) (data : List (BitVec 8)) (s : State) :
    Host.Outcome State Fault Refusal :=
  if !portAnswers s then hostNot "RDMA_WRITE"
  else match keyCtx s host key with
    | some (c, true) => rdmaPacket "RDMA_WRITE" s c true ⟨host, key, va, data.length, some data, 0, []⟩
    | _ => .next (nak s host)

/-- RDMA_READ: the next packet's bytes of the homes go to the host, or the request is refused (R186, R382, R409). -/
def execRdmaRead (host key : BitVec 32) (va : BitVec 64) (n : Nat) (s : State) : Host.Outcome State Fault Refusal :=
  if !portAnswers s then hostNot "RDMA_READ"
  else match keyCtx s host key with
    | none => .next (nak s host)
    | some (c, own) => rdmaPacket "RDMA_READ" s c own ⟨host, key, va, n, none, 0, []⟩

/-! ### The lease (R412, R414 to R416) -/

/-- Device time in ns (R426). -/
def nowNs (s : State) : Nat := gtime s.clock

/-- The payload of a LEASE event: the new owner and TERM (R413). -/
def leaseBytes (l : Lease) : List Byte := bytesOfNat 4 l.owner.toNat ++ bytesOfNat 8 l.term.toNat

/-- A LEASE event to a host, if it is one. -/
def leaseEvent (s : State) (host : BitVec 32) : State :=
  if host = 0 then s else sendEvent s (some host) 0x42 0 (leaseBytes s.host.lease)

/-- Change the lease; a change of its owner or TERM sends LEASE to the old owner and to the new one (R415). -/
def setLease (s : State) (l : Lease) : State :=
  let old := s.host.lease.owner
  let s := updHost s fun h => { h with lease := l }
  let s := leaseEvent s old
  if l.owner = old then s else leaseEvent s l.owner

/-- Two seconds from now (R415). -/
def leaseEnd (s : State) : Nat := nowNs s + 2000000000

/-- Whether RENEW, HANDOVER and RELEASE of a datagram are accepted (R415). -/
def leaseHeld (s : State) (k : KdpHdr) : Bool :=
  k.host == s.host.lease.owner && k.term == s.host.lease.term && decide (nowNs s < s.host.lease.expiry)

/-- Replies and events that waited for an owner go to the claimant (R416). -/
def deliverKept (s : State) (host : BitVec 32) : State :=
  let toHost (r : Reply) : Reply := { r with dest := host }
  let toHostE (e : Event) : Event := { e with host := some host, born := s.clock, last := s.clock }
  let rs := (s.host.replies.filter fun r => r.dest == 0).map toHost
  let es := (s.host.events.filter fun e => e.host.isNone).map toHostE
  let s := updHost s fun h =>
    { h with replies := h.replies.map fun r => if r.dest = 0 then toHost r else r
             events := h.events.map fun e => if e.host = none then toHostE e else e }
  es.foldl sendOut (rs.foldl sendReply s)

/-- CLAIM (R414, R415). -/
def execClaim (k : KdpHdr) (s : State) : Host.Outcome State Fault Refusal :=
  kdpServe "CLAIM" 0x01 false false false k s fun s =>
    if k.bytes ≠ 0 then .next (reply s k stBadCmd [])
    else if s.host.lease.owner = 0 || decide (s.host.lease.expiry ≤ nowNs s) then
      let s := setLease s { owner := k.host, term := s.host.lease.term + 1, expiry := leaseEnd s }
      .next (deliverKept (reply s k 0 []) k.host)
    else .next (reply s k stNotOwner (leaseBytes s.host.lease))

/-- RENEW (R415). -/
def execRenew (k : KdpHdr) (s : State) : Host.Outcome State Fault Refusal :=
  kdpServe "RENEW" 0x02 false false false k s fun s =>
    if k.bytes ≠ 0 then .next (reply s k stBadCmd [])
    else if !leaseHeld s k then .next (reply s k stStaleTerm [])
    else .next (reply (updHost s fun h => { h with lease := { h.lease with expiry := leaseEnd s } }) k 0 [])

/-- HANDOVER (R415). -/
def execHandover (k : KdpHdr) (target : BitVec 32) (connected : Bool) (s : State) : Host.Outcome State Fault Refusal :=
  kdpServe "HANDOVER" 0x03 false false false k s fun s =>
    if k.bytes ≠ 4 then .next (reply s k stBadCmd [])
    else if !leaseHeld s k || target = 0 || !connected then .next (reply s k stStaleTerm [])
    else
      let s := setLease s { owner := target, term := s.host.lease.term + 1, expiry := leaseEnd s }
      .next (reply s k 0 [])

/-- RELEASE (R415). -/
def execRelease (k : KdpHdr) (s : State) : Host.Outcome State Fault Refusal :=
  kdpServe "RELEASE" 0x04 false false false k s fun s =>
    if k.bytes ≠ 0 then .next (reply s k stBadCmd [])
    else if !leaseHeld s k then .next (reply s k stStaleTerm [])
    else .next (reply (setLease s { s.host.lease with owner := 0 }) k 0 [])

/-- LEASE_EXPIRY: device time reaches the expiry, from when on a CLAIM is accepted (R414, R415). -/
def execLeaseExpiry (s : State) : Host.Outcome State Fault Refusal :=
  if s.host.lease.owner = 0 || decide (s.host.lease.expiry ≤ nowNs s) then hostNot "LEASE_EXPIRY"
  else .next { s with clock := ceilDiv (s.host.lease.expiry * 4) 5 }

/-! ### Contexts (R376, R387, R413, R419) -/

/-- An owner's command: carried out at once, with the status and payload of its reply. -/
def ownerCmd (row : String) (code : Nat) (needCtx : Bool) (k : KdpHdr) (s : State)
    (body : State → Option (State × BitVec 16 × List Byte)) : Host.Outcome State Fault Refusal :=
  kdpServe row code true needCtx false k s fun s =>
    match body s with
    | some (s', st, b) => .next (reply s' k st b)
    | none => hostNot row

/-- The limits of a CTXCREATE payload (R390, R413, R419). -/
def ctxPayloadOk (p : CtxPayload) : Bool :=
  (p.deadline == 0 || decide (100 ≤ p.deadline ∧ p.deadline ≤ 100000)) &&
    p.thentry.toNat % 4 == 0 && decide (p.thentry.toNat < 2 ^ 56) &&
    (p.pod.isEmpty || (decide (2 ≤ p.pod.length ∧ p.pod.length ≤ 1024) && p.pod.all (fun d => decide (d < 1024)) &&
      decide p.pod.Nodup))

/-- The N pages that contexts map: context and frame (R362). -/
def nPages (s : State) : List (Nat × Nat) :=
  s.ctl.ctxs.flatMap fun c => c.maps.filterMap fun m =>
    match walkFrom s m.1 4 c.root with
    | .leaf k e => let l := pteLeaf k e; if l.n && !leafBad l then some (c.num, l.frame) else none
    | _ => none

/-- Whether a run of physical addresses can be mapped and keeps clear of the N frames that `avoid` picks by their context
(R1, R160, R363). -/
def runOk (s : State) (pa n : Nat) (avoid : Nat → Bool) : Bool :=
  decide (pa + n ≤ Config.mappable) &&
    (nPages s).all fun x => !avoid x.1 || decide (pa + n ≤ x.2 ∨ x.2 + 2 ^ 21 ≤ pa)

/-- Whether a run of physical addresses keeps clear of every page table in use (R401: only service firmware writes them).
-/
def clearOfTabs (s : State) (pa n : Nat) : Bool :=
  s.ctl.ctxs.all fun c => c.tabs.all fun t => decide (pa + n ≤ t.1 ∨ t.1 + t.2 ≤ pa)

/-- Whether a run of physical addresses meets a frame or shadow frame of this device that a context maps. -/
def mapped (s : State) (pa n : Nat) : Bool :=
  s.ctl.ctxs.any fun c => c.maps.any fun m =>
    match walkFrom s m.1 4 c.root with
    | .leaf k e =>
      let l := pteLeaf k e
      let meets (b : Nat) : Bool := decide (pa < b + 2 ^ leafBits k ∧ b < pa + n)
      (!l.p && meets l.frame) || (l.g && meets l.sframe)
    | _ => false

/-- Whether the firmware may place a page table at an address: aligned, in mappable memory, clear of every frame and of
every table in use (R160, R363, R400, R401). -/
def tableOk (s : State) (t : Nat) : Bool :=
  t % 65536 == 0 && decide (t + 131072 ≤ Config.mappable) && clearOfTabs s t 131072 && !mapped s t 131072

/-- Whether some root is left for a new context (R413). -/
def rootLeft (s : State) : Bool := (List.range (Config.mappable / 65536)).any fun i => tableOk s (i * 65536)

/-- What the firmware may choose for a new context: a free place for its table root, keys that no key repeats. -/
def ctxChoiceOk (s : State) (c : CtxChoice) : Bool :=
  tableOk s c.root && c.ownerKey != c.sharedKey && s.ctl.ctxs.all fun x =>
    x.ownerKey != c.ownerKey && x.ownerKey != c.sharedKey && x.sharedKey != c.ownerKey && x.sharedKey != c.sharedKey

/-- Node slots allotted (R377). -/
def slotsUsed (s : State) : Nat := s.ctl.ctxs.foldl (fun n c => n + c.nodes) 0

/-- A context as it is created. -/
def newCtx (num : Nat) (p : CtxPayload) (c : CtxChoice) : Ctx :=
  { num := num, root := c.root, thentry := p.thentry, save := p.save, dbgArea := p.debug, dbg := false, stp := false
    deadline := if p.deadline = 0 then 2000 else p.deadline, nodes := p.nodes, nb := c.nodeBase, pod := p.pod
    ownerKey := c.ownerKey, sharedKey := c.sharedKey, mark := true, rates := Vector.replicate 6 0
    buckets := Vector.replicate 6 0, drain := none, saved := false, launches := 0, tabs := [(c.root, 131072)]
    maps := [] }

/-- CTXCREATE. A number in use is answered BADCTX (log entry 14); NOSPACE where no root or too few node slots are free. -/
def execCtxcreate (k : KdpHdr) (p : CtxPayload) (c : CtxChoice) (s : State) : Host.Outcome State Fault Refusal :=
  ownerCmd "CTXCREATE" 0x10 false k s fun s =>
    if !ctxPayloadOk p then some (s, stBadCmd, [])
    else if (ctxOf s k.ctx.toNat).isSome then some (s, stBadCtx, [])
    else if 65536 < slotsUsed s + p.nodes then some (s, stNoSpace, [])
    else if !c.room then (if rootLeft s then none else some (s, stNoSpace, []))
    else if !ctxChoiceOk s c then none
    else
      let x := newCtx k.ctx.toNat p c
      some ({ s with ctl := { s.ctl with ctxs := s.ctl.ctxs ++ [x] }, mem := memClear s.mem (ownKey s c.root) 131072 }, 0,
        bytesOfNat 4 c.ownerKey.toNat ++ bytesOfNat 4 c.sharedKey.toNat ++ bytesOfNat 8 c.nodeBase.toNat)

/-- A core without anything of a context. DESIGN CHOICE: its generator pair goes with it, so that a context created again
with the same number finds both registers zero (R98; log entry 39). -/
def dropCtxCore (ctx : Nat) (c : Core) : Core :=
  { c with l1 := c.l1.filter fun l => l.ctx != ctx
           icache := c.icache.filter fun l => l.ctx != ctx
           tlb := c.tlb.filter fun e => e.ctx != ctx
           rng := c.rng.filter fun r => r.1 != ctx
           left := c.left.filter fun l => l.2.2 != ctx }

/-- The commands of a context that have not completed are answered BADCTX (log entry 14). -/
def dropCommands (s : State) (ctx : Nat) : State :=
  let l := s.host.cmds.filter fun c => c.ctx == ctx
  l.foldl (fun s c => finishCmd s c.host c.seq stBadCtx) s

/-- What a context holds, freed (R413). -/
def freeCtx (s : State) (ctx : Nat) : State :=
  let s := dropCommands s ctx
  let s := updCen s fun c => { c with dir := c.dir.map fun e => if e.ctx = ctx && (e.v || e.mov) then e.freed else e }
  let s := { s with
    work := { s.work with
      cores := s.work.cores.map fun c => (c.1, dropCtxCore ctx c.2)
      grids := s.work.grids.filter fun g => g.ctx != ctx }
    ctlb := s.ctlb.map fun c => (c.1, c.2.filter fun e => e.ctx != ctx)
    ctl := { ctxs := s.ctl.ctxs.filter fun c => c.num != ctx, nodes := s.ctl.nodes.filter fun k => k.ctx != ctx } }
  updHost s fun h => { h with wins := h.wins.filter fun w => w.ctx != ctx
                              comms := h.comms.filter fun c => c.ctx != ctx }

/-- CTXDESTROY (R387, R413). -/
def execCtxdestroy (k : KdpHdr) (s : State) : Host.Outcome State Fault Refusal :=
  ownerCmd "CTXDESTROY" 0x11 true k s fun s =>
    let n := k.ctx.toNat
    if k.bytes ≠ 0 then some (s, stBadCmd, [])
    else some (freeCtx (forcedReset s n (causeCode .ctxkill)) n, 0, [])

/-! ### Mappings (R362, R363, R400 to R403, R413) -/

/-- The bytes of a table of a level (R400). -/
def tableBytes : Nat → Nat
  | 0 => 512
  | 1 => 8192
  | _ => 131072

/-- Walk down to the entry of an address at a level, through fresh tables from a list where there are none; an address
that a leaf above covers gets a table in its place. Answers the state, the entry's physical address and the tables taken.
-/
def buildPath (va target : Nat) : Nat → Nat → List Nat → State → Option (State × Nat × List (Nat × Nat))
  | 0, _, _, _ => none
  | k + 1, table, ts, s =>
    let a := table + 16 * pteIndex k va
    if k = target then some (s, a, [])
    else
      let e := memNat s.mem (ownKey s a) 16
      if bitAt e 0 && !bitAt e 1 then buildPath va target k (bitsAt e 16 32 * 2 ^ 16) ts s
      else match ts with
        | [] => none
        | t :: r =>
          let m := memClear s.mem (ownKey s t) (tableBytes (k - 1))
          (buildPath va target k t r { s with mem := memPut m (ownKey s a) 16 (t / 2 ^ 16 * 2 ^ 16 + 1) }).map fun x =>
            (x.1, x.2.1, (t, tableBytes (k - 1)) :: x.2.2)

/-- The physical address of the entry that a walk ends in. -/
def entryAt (s : State) (va : Nat) : Nat → Nat → Option (Nat × Nat)
  | 0, _ => none
  | k + 1, table =>
    let a := table + 16 * pteIndex k va
    let e := memNat s.mem (ownKey s a) 16
    if bitAt e 0 && !bitAt e 1 then entryAt s va k (bitsAt e 16 32 * 2 ^ 16)
    else if bitAt e 0 then some (k, a) else none

/-- The two words of a leaf (R401). -/
def leafWords (p : MapPayload) (frame : Nat) : Nat :=
  3 + p.attr.toNat * 4 + frame / 2 ^ 16 % 2 ^ 32 * 2 ^ 16 + p.sframe.toNat * 2 ^ 64 + p.pdev.toNat * 2 ^ 96

/-- Whether two runs of addresses meet. -/
def runsMeet (a n b m : Nat) : Bool := decide (a < b + m ∧ b < a + n)

/-- The leaves of a context that meet a run of virtual addresses. -/
def mapsIn (c : Ctx) (va n : Nat) : List (Nat × Nat) := c.maps.filter fun m => runsMeet va n m.1 (2 ^ leafBits m.2)

/-- Invalidate a run of pages in every TLB of a context, and the L1 lines that they served (R403). -/
def dropPages (s : State) (ctx va n : Nat) : State :=
  let keepT (e : TlbEnt) : Bool := !(e.ctx == ctx && runsMeet va n e.vpage (2 ^ leafBits e.level))
  let keepL (l : Line) : Bool := !(l.ctx == ctx && runsMeet va n l.va Config.lineBytes)
  { s with
    work := { s.work with cores := s.work.cores.map fun c =>
      (c.1, { c.2 with tlb := c.2.tlb.filter keepT, l1 := c.2.l1.filter keepL, icache := c.2.icache.filter keepL }) }
    ctlb := s.ctlb.map fun c => (c.1, c.2.filter keepT) }

/-- Whether accesses translated with a context's entries of a run of pages are still to be performed (R403). -/
def pagesBusy (s : State) (ctx va n : Nat) : Bool :=
  s.work.ops.any (fun o => ((teamOf s o.tid).map fun t => t.ctx) == some ctx &&
    (opSpans o.kind).any fun p => p.space == 0 && runsMeet va n p.lo p.n) ||
  s.work.cores.any fun c => c.2.wtq.any fun e => e.ctx == ctx && runsMeet va n e.va e.bytes.length

/-- Whether an accepted command's windows lie on a context's N page (R363). -/
def nPageBusy (s : State) (ctx : Nat) (l : Leaf) : Bool :=
  let on (c : NmCmd) : Bool := c.ctx == ctx && c.winKey.any fun k => runsMeet k 1 (ownKey s l.frame) (2 ^ leafBits l.level)
  l.n && s.units.any fun u => u.queue.any on || (u.run.map fun z => on z.cmd).getD false

/-- Whether an accepted command of a context has still to make an access at a kept address of a frame: its counter's or
its status record's (R348, R351, R403). -/
def cmdBusy (s : State) (ctx : Nat) (l : Leaf) : Bool :=
  let base := devBase (if l.p then l.pdev else s.firm.devNum) + l.frame
  let on (c : NmCmd) : Bool := c.ctx == ctx && (c.ctrKey.toList ++ c.statKey.toList).any fun k =>
    decide (base ≤ k ∧ k < base + 2 ^ leafBits l.level)
  s.units.any fun u => u.queue.any on || (u.run.map fun z => on z.cmd).getD false

/-- Whether any page of a run must wait to be unmapped or mapped anew (R363, R403). -/
def unmapWaits (s : State) (c : Ctx) (va n : Nat) : Bool :=
  pagesBusy s c.num va n || (mapsIn c va n).any fun m =>
    match walkFrom s m.1 4 c.root with
    | .leaf k e => nPageBusy s c.num (pteLeaf k e) || cmdBusy s c.num (pteLeaf k e)
    | _ => false

/-- Whether a MAP asks for an N page of this device. -/
def asksN (p : MapPayload) : Bool := bitAt p.attr.toNat 7 && p.level == 1 && !bitAt p.attr.toNat 9

/-- The channel of an N frame (R362). -/
def frameCh (frame : Nat) : Nat := Config.frameChannel (frame / 2 ^ 21) % Config.channels

/-- Whether a frame lies in the channel that a MAP asks for, which holds at most 1,020 N frames (R362). -/
def channelOk (s : State) (p : MapPayload) (frame : Nat) : Bool :=
  let l := ((nPages s).map fun x => x.2).dedup.filter fun f => f != frame && frameCh f == frameCh frame
  (p.channel == 0xFFFF || p.channel == frameCh frame) && decide (l.length < 1020)

/-- Whether the firmware may choose a frame: aligned, mappable, on this device in no N frame of another context and clear
of every page table, and for an N page in the channel named and shared with nothing (R160, R362, R363, R401). -/
def frameOk (s : State) (p : MapPayload) (ctx frame : Nat) : Bool :=
  frame % 2 ^ leafBits p.level == 0 && decide (frame + 2 ^ leafBits p.level ≤ Config.mappable) &&
    (bitAt p.attr.toNat 9 || (runOk s frame (2 ^ leafBits p.level) (fun c => c != ctx) &&
      clearOfTabs s frame (2 ^ leafBits p.level))) &&
    (!asksN p || (channelOk s p frame && s.ctl.ctxs.all fun c => (mappingsOf s c frame p.level).isEmpty))

/-- Whether some frame of the size that a MAP asks for, in the channel that it asks for, is mapped by nobody (R362, R413).
-/
def frameLeft (s : State) (p : MapPayload) (ctx : Nat) : Bool :=
  (List.range (Config.mappable / 2 ^ leafBits p.level)).any fun i =>
    let f := i * 2 ^ leafBits p.level
    frameOk s p ctx f && s.ctl.ctxs.all fun c => (mappingsOf s c f p.level).isEmpty

/-- Whether a MAP's shadow frame is memory that a context may use: of this device, and clear of every page table (R1,
R298, R401). A misaligned one is written as asked, and its page translates to DXLATE (R401). -/
def shadowOk (s : State) (p : MapPayload) : Bool :=
  let f := p.sframe.toNat * 2 ^ 16
  !bitAt p.attr.toNat 6 ||
    (decide (f + 2 ^ leafBits p.level ≤ Config.mappable) && clearOfTabs s f (2 ^ leafBits p.level))

/-- The limits of a MAP payload (R1, R400, R401, R413). -/
def mapPayloadOk (s : State) (p : MapPayload) : Bool :=
  shadowOk s p && decide (p.level ≤ 2) && decide (p.va.toNat < 2 ^ 56) && p.va.toNat % 2 ^ leafBits p.level == 0 &&
    (!bitAt p.attr.toNat 7 || decide (p.channel < 512) || p.channel == 0xFFFF)

/-- Whether the firmware may choose fresh tables, apart from each other. -/
def tablesOk (s : State) (l : List Nat) : Bool :=
  l.all (tableOk s) && decide (l.Pairwise fun a b => a + 131072 ≤ b ∨ b + 131072 ≤ a)

/-- Write a leaf of a context and the reply of its MAP. -/
def mapLeaf (s : State) (c : Ctx) (p : MapPayload) (h : MapChoice) : Option (State × BitVec 16 × List Byte) :=
  let n := 2 ^ leafBits p.level
  let va := p.va.toNat
  (buildPath va p.level 4 c.root h.tables s).map fun x =>
    let s := { x.1 with mem := memPut x.1.mem (ownKey x.1 x.2.1) 16 (leafWords p h.frame) }
    let s := updCtx s c.num fun c =>
      { c with tabs := c.tabs ++ x.2.2
               maps := (va, p.level) :: c.maps.filter fun m => !runsMeet va n m.1 (2 ^ leafBits m.2) }
    (dropPages s c.num va n, 0,
      if bitAt p.attr.toNat 7 then bytesOfNat 2 (frameCh h.frame) else [])

/-- MAP: the entry is written as asked and the page invalidated in every TLB, once accesses translated with an old entry
have been performed (R362, R363, R403, R413). -/
def execMap (k : KdpHdr) (p : MapPayload) (h : MapChoice) (s : State) : Host.Outcome State Fault Refusal :=
  ownerCmd "MAP" 0x12 true k s fun s =>
    match ctxOf s k.ctx.toNat with
    | none => some (s, stBadCtx, [])
    | some c =>
      if !mapPayloadOk s p then some (s, stBadCmd, [])
      else if !h.found then (if frameLeft s p c.num then none else some (s, stNoSpace, []))
      else if unmapWaits s c p.va.toNat (2 ^ leafBits p.level) || !frameOk s p c.num h.frame || !tablesOk s h.tables then
        none
      else mapLeaf s c p h

/-- UNMAP: the page that holds an address is removed, once what R363 and R403 await has ended. An address without a
mapping is answered BADCMD (log entry 14). -/
def execUnmap (k : KdpHdr) (va : BitVec 64) (s : State) : Host.Outcome State Fault Refusal :=
  ownerCmd "UNMAP" 0x13 true k s fun s =>
    match ctxOf s k.ctx.toNat with
    | none => some (s, stBadCtx, [])
    | some c =>
      match (if va.toNat < 2 ^ 56 then entryAt s va.toNat 4 c.root else none) with
      | none => some (s, stBadCmd, [])
      | some (level, a) =>
        let n := 2 ^ leafBits level
        let base := va.toNat / n * n
        if unmapWaits s c base n then none
        else
          let s := { s with mem := memPut s.mem (ownKey s a) 16 0 }
          let s := updCtx s c.num fun c => { c with maps := c.maps.filter fun m => m.1 != base || m.2 != level }
          some (dropPages s c.num base n, 0, [])

/-! ### The other owner commands (R413) -/

/-- HWIN registers a window in place of one of the same number. A mark ring without a slot is answered BADCMD (log
entry 14). -/
def execHwin (k : KdpHdr) (p : HwinPayload) (s : State) : Host.Outcome State Fault Refusal :=
  ownerCmd "HWIN" 0x14 true k s fun s =>
    let ringOk := match p.ring with
      | some r => decide (64 ≤ r.2)
      | none => true
    if decide (65535 < p.num) || !ringOk then some (s, stBadCmd, [])
    else some (updHost s fun h =>
      { h with wins := h.wins.filter (fun w => !(w.ctx == k.ctx.toNat && w.p.num == p.num)) ++ [⟨k.ctx.toNat, p⟩] }, 0, [])

/-- HWINDEL. -/
def execHwindel (k : KdpHdr) (num : Nat) (s : State) : Host.Outcome State Fault Refusal :=
  ownerCmd "HWINDEL" 0x15 true k s fun s =>
    if 65535 < num then some (s, stBadCmd, [])
    else some (updHost s fun h => { h with wins := h.wins.filter fun w => !(w.ctx == k.ctx.toNat && w.p.num == num) }, 0, [])

/-- COMM: ranks of a pod context name devices of its pod set (R413, R419). -/
def execComm (k : KdpHdr) (num : Nat) (ranks : List Nat) (s : State) : Host.Outcome State Fault Refusal :=
  ownerCmd "COMM" 0x16 true k s fun s =>
    let pod := ((ctxOf s k.ctx.toNat).map fun c => c.pod).getD []
    let ok := decide (1 ≤ ranks.length ∧ ranks.length ≤ 1024) && ranks.all fun d =>
      decide (d < 1024) && (pod.isEmpty || pod.contains d)
    if !ok then some (s, stBadCmd, [])
    else some (updHost s fun h =>
      { h with comms := h.comms.filter (fun c => !(c.ctx == k.ctx.toNat && c.num == num)) ++ [⟨k.ctx.toNat, num, ranks⟩] },
      0, [])

/-- DEBUG (R405, R406). -/
def execDebug (k : KdpHdr) (dbg stp : Bool) (s : State) : Host.Outcome State Fault Refusal :=
  ownerCmd "DEBUG" 0x17 true k s fun s => some (updCtx s k.ctx.toNat fun c => { c with dbg := dbg, stp := stp }, 0, [])

/-- BUDGET: the six rates of R382. -/
def execBudget (k : KdpHdr) (rates : List Nat) (s : State) : Host.Outcome State Fault Refusal :=
  ownerCmd "BUDGET" 0x18 true k s fun s =>
    if rates.length ≠ 6 then some (s, stBadCmd, [])
    else some (updCtx s k.ctx.toNat fun c => { c with rates := vgen fun i => rates.getD i 0 }, 0, [])

/-- PCAP (R429). -/
def execPcap (k : KdpHdr) (watts : Nat) (s : State) : Host.Outcome State Fault Refusal :=
  ownerCmd "PCAP" 0x19 false k s fun s =>
    if 2000 ≤ watts ∧ watts ≤ 4200 then some (updPow s fun p => { p with cap := watts }, 0, []) else some (s, stBadCmd, [])

/-! ### Attestation and telemetry (R421, R422) -/

/-- The part of a report that is signed (R422). -/
def reportHead (s : State) (nonce : List Byte) : List Byte :=
  nonce ++ fitBytes 16 Config.serial ++ fitBytes 32 (Config.shake256 s.firm.log) ++ bytesOfNat 8 s.host.lease.term.toNat ++
    bytesOfNat 4 s.host.lease.owner.toNat ++ bytesOfNat 4 s.firm.leaf

/-- An XMSS signature of 2,820 bytes over a message at a leaf: the index in 4 bytes, then what the scheme gives (R421). -/
def xmssSig (key : List Byte) (leaf : Nat) (msg : List Byte) : List Byte :=
  bytesOfNat 4 leaf ++ fitBytes 2816 (Config.xmssSign key leaf msg)

/-- ATTEST: a report signed with the next leaf, or BUSY when every leaf has been used (R422). -/
def execAttest (k : KdpHdr) (nonce : List (BitVec 8)) (s : State) : Host.Outcome State Fault Refusal :=
  kdpServe "ATTEST" 0x30 false false true k s fun s =>
    if k.bytes ≠ 32 ∨ nonce.length ≠ 32 then .next (reply s k stBadCmd [])
    else if 2 ^ 20 ≤ s.firm.leaf then .next (reply s k stBusy [])
    else
      let r := reportHead s nonce
      let s1 := { s with firm := { s.firm with leaf := s.firm.leaf + 1 } }
      .next (reply s1 k 0 (r ++ xmssSig Config.attestKey s.firm.leaf r))

/-- The bring-up status page: the steps that have ended, whether the next one has failed, and each failed part with its
step (R430, R431). DESIGN CHOICE: the layout, one byte, one byte, and a byte and two for each part (log entry 14). -/
def statusPage (f : Firm) : List Byte :=
  bytesOfNat 1 f.step ++ bytesOfNat 1 (bit f.failed) ++ f.failedParts.flatMap fun p => bytesOfNat 1 p.1 ++ bytesOfNat 2 p.2

/-- What telemetry counts (R404, R418, R427). DESIGN CHOICE: the layout, eight bytes each (log entry 14). -/
def telemCounts (s : State) : List Byte :=
  bytesOfNat 8 s.pow.corrected ++ bytesOfNat 8 s.fab.vdmDrops ++ bytesOfNat 8 s.pow.stretched

/-- Telemetry pages: until step 4 ends the status page alone; then the status page, the counts, and pages whose content
and length the spec leaves open, free values (R404, R418, R427, R430, R431; log entry 1). -/
def telemPages (s : State) : List Byte :=
  if s.firm.step < 4 then (statusPage s.firm).take 8192
  else
    (statusPage s.firm ++ telemCounts s ++
      (List.range ((Config.freeDword s.fresh).toNat % 8193)).map fun i => Config.freeByte s.fresh i).take 8192

/-- TELEM (R413, R431). -/
def execTelem (k : KdpHdr) (s : State) : Host.Outcome State Fault Refusal :=
  kdpServe "TELEM" 0x31 false false true k s fun s => .next (reply (bump s) k 0 (telemPages s))

/-! ### Events (R412) -/

/-- EVENT_ACK: the host's acknowledgement of an event ends its resends. -/
def execEventAck (k : KdpHdr) (s : State) : Host.Outcome State Fault Refusal :=
  if !portAnswers s || kdpDropped k 3 then .next s
  else if !kdpFull s then .next (reply s k stBusy [])
  else .next (updHost s fun h =>
    { h with events := h.events.filter fun e => !(e.host == some k.host && e.seq == k.seq.toNat) })

/-- EVENT_RESEND: 1 ms after it was last sent an event is sent again, and 1 s after it was first sent it is lost; a
tripped device sends nothing (R412, R427). -/
def execEventResend (seq : Nat) (s : State) : Host.Outcome State Fault Refusal :=
  match s.host.events.find? fun e => e.seq == seq && e.host.isSome with
  | none => hostNot "EVENT_RESEND"
  | some e =>
    let now := max s.clock (e.last + 800000)
    if s.firm.tripped then hostNot "EVENT_RESEND"
    else if e.born + 800000000 ≤ now then
      .next (updHost { s with clock := now } fun h => { h with events := h.events.filter fun x => x.seq != seq })
    else
      .next (sendOut (updHost { s with clock := now } fun h =>
        { h with events := h.events.map fun x => if x.seq = seq then { x with last := now } else x }) e)

/-! ### Gateway calls (R420) -/

/-- Whether service firmware runs (R430). -/
def serviceRuns (s : State) : Bool := s.firm.powered && decide (4 ≤ s.firm.step) && !s.firm.tripped

/-- Whether the lease is held now (R414). -/
def leaseLive (s : State) : Bool := s.host.lease.owner != 0 && decide (nowNs s < s.host.lease.expiry)

/-- A gateway call, which trusted firmware checks against the context and the lease: with no lease held the spec does not
say what the check answers, which is a free value; a call that it refuses changes nothing (R420; log entry 1). -/
def gateway (row : String) (ctx : Nat) (f : State → Host.Outcome State Fault Refusal) (s : State) :
    Host.Outcome State Fault Refusal :=
  if !serviceRuns s || (ctxOf s ctx).isNone then hostNot row
  else if leaseLive s then f s
  else if Config.freeBit s.fresh then f (bump s) else .next (bump s)

/-- A trap record as a CAUSE event carries it: the registers TRCAUSE to TRINFO of R394, eight bytes each in the order of
their numbers (R394, R413; the layout is a DESIGN CHOICE: log entry 14). -/
def trapBytes (r : TrapRec) : List Byte :=
  [(trcause r).toNat, r.pc.toNat, r.mask.toNat, r.smask.toNat, r.em.toNat, r.scause.toNat, r.addr.toNat, r.rpc.toNat,
    r.rep.toNat, r.skid, r.info.toNat].flatMap (bytesOfNat 8)

/-- The trap record of the cause that halted a team for service firmware: the stream's, drain's or FRGRAD's, or that of
the group that raised it (R390, R394, R398). -/
def haltRecs (t : Team) : List TrapRec :=
  match t.halt with
  | .service k => t.srec.toList ++ (t.groups.filter fun g => g.t.tr.cause == k || (k == causeCode .dblflt && g.t.inHandler)).map
      fun g => g.t.tr
  | .running | .settling _ => []

/-- The teams of a context that stand halted for service firmware. -/
def haltedTeams (s : State) (ctx : Nat) : List Team := s.work.teams.filter fun t => t.ctx == ctx && t.halt.isService

/-- Whether a write of context memory is a debug restore, an entry of a halted group's undo log, or a halted team's trap
record (R405, R406, R420). -/
def gwWriteOk (s : State) (ctx va : Nat) (d : List Byte) : Bool :=
  (haltedTeams s ctx).any fun t => (haltRecs t).any (fun r => trapBytes r == d) || t.groups.any fun g => g.undo.any fun e =>
    e.kind == 3 && e.target.toNat == va && e.old.take e.mask.toNat == d

/-- GW_CTXMEM: context memory is read or written at its home for a debug restore or a trap record, so while a team of the
context stands halted; a call that names no mapped byte, or that is for anything else, changes nothing (R406, R420). -/
def execGwCtxmem (ctx : Nat) (va : BitVec 64) (data : Option (List (BitVec 8))) (n : Nat) (s : State) :
    Host.Outcome State Fault Refusal :=
  gateway "GW_CTXMEM" ctx (fun s =>
    let key (a : Nat) : Option Nat := match xlate s none ctx a false false false with
      | .at k _ _ _ => some k
      | .bad _ _ => none
    let ok := match data with
      | some d => gwWriteOk s ctx va.toNat d
      | none => !(haltedTeams s ctx).isEmpty
    match ok, allSome ((List.range ((data.map fun d => d.length).getD n)).map fun i => key (va.toNat + i)) with
    | true, some ks =>
      if ks.any (homeWaits s) then hostNot "GW_CTXMEM"
      else match data with
        | some d => .next { s with mem := memSetCells s.mem (ks.zip d) }
        | none => .next s
    | _, _ => .next s) s

/-- A forced reset that no command of this device asked for; a PREEMPT that drains completes with PREEMPTRST (R387). -/
def resetNow (s : State) (ctx : Nat) (cause : BitVec 9) : State :=
  let d := (ctxOf s ctx).bind fun x => x.drain
  let s := forcedReset s ctx cause
  match d with
  | some d => preemptEnds s ctx d (causeStatus (causeCode .preemptrst))
  | none => s

/-- GW_KILL: a forced reset with the cause that led service firmware to it (R387). -/
def execGwKill (ctx cause : Nat) (s : State) : Host.Outcome State Fault Refusal :=
  gateway "GW_KILL" ctx (fun s => .next (resetNow s ctx (BitVec.ofNat 9 cause))) s

/-- MARKCFG (R425). -/
def execMarkcfg (ctx : Nat) (on : Bool) (s : State) : Host.Outcome State Fault Refusal :=
  gateway "MARKCFG" ctx (fun s => .next (updCtx s ctx fun c => { c with mark := on })) s

/-- The context of a halted team whose trap record a payload is. -/
def causeCtx (s : State) (payload : List Byte) : Option Nat :=
  (s.work.teams.find? fun t => (haltRecs t).any fun r => trapBytes r == payload).map fun t => t.ctx

/-- GW_EVENT: the KDP event of service firmware, CAUSE with the trap record of a halted team, goes to the owner, or is
kept for the next one (R390, R412, R413, R416, R420); a call with anything else is refused, and changes nothing. -/
def execGwEvent (code : Nat) (payload : List (BitVec 8)) (s : State) : Host.Outcome State Fault Refusal :=
  if !serviceRuns s then hostNot "GW_EVENT"
  else match code, causeCtx s payload with
    | 0x41, some ctx => .next (ownerEvent s 0x41 ctx payload)
    | _, _ => .next s

end Sys2Proof.Machine
end

