-- ==== Sys2Proof/Machine/Firmware.lean ====
section
/-!
DEFINITION. The fabric and the module: peers, ports, UALink requests, the Ethernet link, power-on, module reset and
bring-up (R176, R211, R264, R408, R417, R418, R421, R423, R427, R430, R431).
-/

namespace Sys2Proof.Machine

/-! ### Peers and ports (R264, R408, R417, R418) -/

/-- Change the fabric's state. -/
def updFab (s : State) (f : Fabric → Fabric) : State := { s with fab := f s.fab }

/-- Change the firmware's state. -/
def updFirm (s : State) (f : Firm → Firm) : State := { s with firm := f s.firm }

/-- Whether a number names another device than this one. -/
def isPeer (s : State) (dev : Nat) : Bool := decide (dev < 1024) && dev != s.firm.devNum

/-- Fail the copies that a test picks, with HWLINK (R211, R264). -/
def failLink (s : State) (p : Copy → Bool) : State :=
  (s.work.copies.filter fun c => !c.done && p c).foldl (fun s c => failCopy s c (causeCode .hwlink) c.dst) s

/-- The devices that owe answers to what this one has sent: accesses, stores and remote atomics to their memory, copies,
censuses, commits and joint launch checks of pod grids, collectives; one entry for each answer (R418). -/
def owed (s : State) : List Nat :=
  let ops := s.work.ops.flatMap fun o => (opWords o.kind).map (fun w => keyDev w.1) ++ (match o.kind with
    | .ratom _ _ _ a _ => (match a.x with
      | .at key _ _ _ => [keyDev key]
      | .bad _ _ => [])
    | _ => [])
  let stores := s.work.cores.flatMap fun c => c.2.wtq.map fun e => keyDev e.key
  let copies := (s.work.copies.filter fun c => !c.done).filterMap (peerDev s)
  let cens := (s.cen.open'.filter fun c => !c.done).flatMap fun c => c.peers
  let pods := s.defer.commits.flatMap fun c => ((gridOf s c.grid).map fun g => podOf s g).getD []
  let grids := (s.work.grids.filter fun g => g.phase == .waitPod).flatMap (podOf s)
  let colls := (s.work.colls.filter fun c => !c.done).flatMap fun c => ((commOf s c.ctx c.comm).map fun k => k.ranks).getD []
  (ops ++ stores ++ copies ++ cens ++ pods ++ grids ++ colls).filter fun d => d != s.firm.devNum

/-- Since when each of them has sent nothing while it owes an answer; an answer begins the time anew (R418). -/
def watchPeers (s : State) : State :=
  let l := owed s
  let silent := l.dedup.map fun d =>
    (d, l.count d, match s.fab.silent.find? fun x => x.1 == d with
      | some x => if l.count d < x.2.1 then s.clock else x.2.2
      | none => s.clock)
  if l.isEmpty && s.fab.silent.isEmpty then s else updFab s fun f => { f with silent := silent }

/-- Something has come from a peer (R418). -/
def hears (s : State) (dev : Nat) : State := updFab s fun f =>
  { f with silent := f.silent.map fun x => if x.1 = dev then (x.1, x.2.1, s.clock) else x }

/-- PEER_LOST_TIMEOUT: a peer from which nothing has come for 1 ms while it owes an answer is lost: copies to it fail, and
a census that awaits its report counts a fault for it (R264, R331, R418). -/
def execPeerLostTimeout (dev : Nat) (s : State) : Host.Outcome State Fault Refusal :=
  match s.fab.silent.find? fun x => x.1 == dev with
  | none => hostNot "PEER_LOST_TIMEOUT"
  | some x =>
    if !isPeer s dev || s.fab.lost.contains dev then hostNot "PEER_LOST_TIMEOUT"
    else
      let s := { s with clock := max s.clock (x.2.2 + 800000) }
      let s := failLink (updFab s fun f => { f with lost := f.lost ++ [dev] }) fun c => peerDev s c == some dev
      .next ((s.cen.open'.map fun c => c.id).foldl (fun s id => deviceLost s id dev) s)

/-- PEER_RETURN: traffic held for a peer resumes (R418). -/
def execPeerReturn (dev : Nat) (s : State) : Host.Outcome State Fault Refusal :=
  if !s.fab.lost.contains dev then hostNot "PEER_RETURN"
  else .next (updFab s fun f => { f with lost := f.lost.filter fun d => d != dev })

/-- PORT_FAILURE: the flows of a port move to others, in order (R418). -/
def execPortFailure (port : Nat) (s : State) : Host.Outcome State Fault Refusal :=
  if 24 ≤ port || s.fab.portsDown.contains port then hostNot "PORT_FAILURE"
  else .next (updFab s fun f => { f with portsDown := f.portsDown ++ [port] })

/-- VDM_RESERVED_DROP: a message of a reserved kind is dropped and counted (R418). -/
def execVdmReservedDrop (kind : Nat) (s : State) : Host.Outcome State Fault Refusal :=
  if kind = 0 ∨ (8 ≤ kind ∧ kind ≤ 15) then .next (updFab s fun f => { f with vdmDrops := f.vdmDrops + 1 })
  else hostNot "VDM_RESERVED_DROP"

/-- The bytes that a request of a peer touches. -/
def uaBytes : UaReq → Nat
  | .read n => n
  | .write b => b.length
  | .atomic _ wide _ _ _ => if wide then 8 else 4

/-- Whether a request is one of those that UALink carries: 1 to 256 bytes of mappable memory, an atomic aligned (R1, R116,
R160, R417). -/
def uaOk (pa : Nat) (r : UaReq) : Bool :=
  decide (1 ≤ uaBytes r ∧ uaBytes r ≤ 256 ∧ pa + uaBytes r ≤ Config.mappable) &&
    (match r with
     | .atomic _ _ _ _ _ => pa % uaBytes r == 0
     | _ => true)

/-- UALINK_REQUEST: a request of a peer is performed at the home slice (R176, R417). What it returns goes to the peer. -/
def execUalinkRequest (src pa : Nat) (req : UaReq) (s : State) : Host.Outcome State Fault Refusal :=
  let key := ownKey s pa
  let waits := (List.range (uaBytes req)).any fun i => homeWaits s (key + i)
  if !s.firm.powered || decide (s.firm.step < 6) || s.firm.tripped || !isPeer s src || !uaOk pa req || waits then
    hostNot "UALINK_REQUEST"
  else
    let s := hears s src
    match req with
    | .read _ => .next s
    | .write b => .next (engineStore s key b)
    | .atomic op wide b c fmode =>
      let n := if wide then 8 else 4
      let r := atomStep op wide (flushIn fmode 32) (flushOut fmode 32) (memNat s.mem key n) b.toNat c.toNat
      .next (engineStore s key (bytesOfNat n r.1))

/-- ETHERNET_LINK_DOWN: host copies in flight fail with HWLINK (R264). -/
def execEthernetLinkDown (s : State) : Host.Outcome State Fault Refusal :=
  if !s.fab.ethUp then hostNot "ETHERNET_LINK_DOWN"
  else .next (failLink (updFab s fun f => { f with ethUp := false }) fun c => c.kind == .toh || c.kind == .fromh)

/-! ### Bring-up (R421, R423, R430, R431) -/

/-- The state before step 1, with what outlives it: other devices' memory, the monotonic leaf counter, what hosts have
been sent, and the model's counters (R422, R431; log entry 15). -/
def cleared (s : State) : State :=
  { State.reset with
    mem := if 6 ≤ s.firm.step then memClear s.mem (ownKey s 0) (2 ^ 48) else s.mem
    firm := { State.reset.firm with leaf := s.firm.leaf, devNum := s.firm.devNum, tripped := s.firm.tripped }
    host := { State.reset.host with out := s.host.out, naks := s.host.naks, sent := s.host.sent }
    nextId := s.nextId
    fresh := s.fresh
    agenda := s.agenda }

/-- Step 1: supplies are sequenced and the boot ROM runs. The spec does not say when it fails: a free bit; then no port
answers (R430; log entry 1). -/
def stepOne (s : State) : State :=
  let ok := !Config.freeBit s.fresh
  updFirm (bump s) fun f => if ok then { f with powered := true, step := 1, tripped := false }
    else { f with powered := true, step := 0, tripped := false, failed := true, failedParts := [(1, 0)] }

/-- POWER_ON: step 1 of bring-up; a power cycle is what a trip and a failed step end with (R427, R430). -/
def execPowerOn (s : State) : Host.Outcome State Fault Refusal :=
  if s.firm.powered && !s.firm.tripped && !s.firm.failed then hostNot "POWER_ON" else .next (stepOne (cleared s))

/-- MODULE_RESET: a forced reset of every context, memory, page tables, directories and the measurement log cleared, and
step 1 runs again (R431). A tripped module's answer is a power cycle (R427). -/
def execModuleReset (s : State) : Host.Outcome State Fault Refusal :=
  if !s.firm.powered || s.firm.tripped then hostNot "MODULE_RESET"
  else .next (stepOne (cleared ((s.ctl.ctxs.map fun c => c.num).foldl (fun s n => forcedReset s n (causeCode .ctxkill)) s)))

/-- Whether a step of bring-up may begin: the previous one has ended and none has failed (R430). -/
def bringUp (s : State) (after : Nat) : Bool := s.firm.powered && s.firm.step == after && !s.firm.failed && !s.firm.tripped

/-- Whether an image is verified: its public key is the one whose SHAKE256 digest the boot ROM holds, and its 2,820 bytes
of signature are an index and what that key signs with at it (R421). -/
def verified (i : FwImage) : Bool :=
  Config.shake256 i.key == Config.shake256 Config.rootKey && i.sig == xmssSig i.key (natOfBytes (i.sig.take 4)) i.image

/-- The digest of an image, appended to the measurement log before the image runs (R421). -/
def measure (s : State) (i : FwImage) : State :=
  updFirm s fun f => { f with log := f.log ++ fitBytes 32 (Config.shake256 i.image) }

/-- A step of bring-up ends, or fails and names its parts (R430). -/
def endStep (s : State) (n : Nat) (ok : Bool) (parts : List Nat) : State :=
  updFirm s fun f => if ok then { f with step := n }
    else { f with failed := true, failedParts := f.failedParts ++ parts.map fun k => (n, k) }

/-- A 256-bit key from the entropy source (R423): a free value. -/
def drawKey (s : State) : State :=
  let k := (List.range 4).foldl (fun n i => n * 2 ^ 64 + (Config.freeDword (s.fresh + i)).toNat) 0
  { updFirm s fun f => { f with markKey := k } with fresh := s.fresh + 4 }

/-- TRUSTED_FW_START, step 2: verified, measured and started, with the Ethernet link up; a failure is tried once more by
the standby controller (R420, R421, R423, R430). -/
def execTrustedFwStart (ok : FwImage) (s : State) : Host.Outcome State Fault Refusal :=
  if !bringUp s 1 then hostNot "TRUSTED_FW_START"
  else if verified ok then .next (updFab (endStep (drawKey (measure s ok)) 2 true []) fun f => { f with ethUp := true })
  else if s.firm.standby then .next (endStep s 2 false [0])
  else .next (updFirm s fun f => { f with standby := true })

/-- The stacks of step 3 that fail: in training, or with a base-die image that is not verified (R421, R430). -/
def badStacks (t : HbmTest) : List Nat :=
  (t.failed ++ (t.images.zipIdx.filter fun i => !verified i.1).map fun i => i.2).dedup

/-- HBM_TRAINING, step 3: stacks trained, base-die images verified and measured, spill regions reserved (R421, R430). -/
def execHbmTraining (failed : HbmTest) (s : State) : Host.Outcome State Fault Refusal :=
  if !bringUp s 2 then hostNot "HBM_TRAINING"
  else .next (endStep ((failed.images.filter verified).foldl measure s) 3 (badStacks failed).isEmpty (badStacks failed))

/-- SERVICE_FW_START, step 4 (R421, R430). -/
def execServiceFwStart (ok : FwImage) (s : State) : Host.Outcome State Fault Refusal :=
  if !bringUp s 3 then hostNot "SERVICE_FW_START"
  else .next (if verified ok then endStep (measure s ok) 4 true [] else endStep s 4 false [0])

/-- CORE_TEST, step 5: cores, slices and islands tested, islands set to 800 MHz; `failed` are the parts that fail (R430).
-/
def execCoreTest (failed : List Nat) (s : State) : Host.Outcome State Fault Refusal :=
  if !bringUp s 4 then hostNot "CORE_TEST"
  else .next (endStep (updPow s fun p =>
    { p with points := [], steps := [], capping := false, lowered := 0, loweredMem := 0 }) 5 failed.isEmpty failed)

/-- FABRIC_TRAINING, step 6: the device number is assigned; ports that fail stay down and are reported (R417, R430). This
device's memory, which is clear, is the pod's memory of that number. -/
def execFabricTraining (dev : Nat) (failed : List Nat) (s : State) : Host.Outcome State Fault Refusal :=
  if !bringUp s 5 || decide (1024 ≤ dev) || failed.any (fun p => decide (24 ≤ p)) then hostNot "FABRIC_TRAINING"
  else
    let s := { s with mem := memClear s.mem (devBase dev) (2 ^ 48) }
    let s := updFab s fun f => { f with portsDown := failed }
    .next (endStep (updFirm s fun f => { f with devNum := dev, failedParts := f.failedParts ++ failed.map fun k => (6, k) }) 6 true [])

/-- KDP_SERVICE_START, step 7: KDP is served in full, the lease is free with TERM 0 (R430). -/
def execKdpServiceStart (s : State) : Host.Outcome State Fault Refusal :=
  if !bringUp s 6 then hostNot "KDP_SERVICE_START"
  else .next (updHost (endStep s 7 true []) fun h => { h with lease := { owner := 0, term := 0, expiry := 0 } })

end Sys2Proof.Machine
end

