-- ==== Sys2Proof/Machine/Messages.lean ====
section
/-!
DEFINITION. What peer devices send to this one: record packets, commit control, admissions, censuses, counter adds, writes
into exported windows, and pod-grid control (R156, R162, R163, R167, R170, R214, R262, R291, R331, R383, R386, R387, R418).
-/

namespace Sys2Proof.Machine

/-- What a peer sends that the state gives no occurrence. -/
def messageNot : Host.Outcome State Fault Refusal := .fault (.notEnabled "PEER_MESSAGE")

/-! ### Admission of peers' commit units (R167, R170) -/

/-- A peer's admitted unit. -/
def peerUnit (s : State) (src tag : Nat) : Option PeerUnit := s.defer.foreign.find? fun u => u.dev == src && u.tag == tag

/-- A unit of a peer is admitted while the sum allows, and holds a tag here (R167, R331). -/
def admitPeer (src tag defq : Nat) (pod : Option (Nat × Nat)) (s : State) : Host.Outcome State Fault Refusal :=
  match peerUnit s src tag, freeTag s with
  | none, some k =>
    if decide (557056 < admitted s + defq) || decide (4096 ≤ tag) then messageNot
    else .next (updDefer s fun d => { d with foreign := d.foreign ++ [⟨src, tag, defq, k, pod⟩] })
  | _, _ => messageNot

/-- Discard what is staged here of a peer's unit, and what its responders here have made (R170). -/
def discardPeer (s : State) (u : PeerUnit) : State :=
  let keep (r : DRec) : Bool := !(r.src == u.dev && r.tag == u.tag)
  updDefer (discardRecs s [u.own] []) fun d =>
    { d with thallus := d.thallus.map fun t => (t.1, t.2.keep keep) }

/-- The admission of a peer's unit ends, by a forced reset where `discard` holds (R167, R170). -/
def releasePeer (src tag : Nat) (discard : Bool) (s : State) : Host.Outcome State Fault Refusal :=
  match peerUnit s src tag with
  | none => messageNot
  | some u =>
    let s := if discard then discardPeer s u else s
    .next (admitWaiting (updDefer s fun d => { d with foreign := d.foreign.filter (· != u) }))

/-! ### Records and commits of peers (R156, R162, R163) -/

/-- Whether a record packet is one that a peer may send here: 1 to 64 of its units' records, aimed at mappable memory of
this device, each to the Thallus of its channel (R1, R155, R156, R167). -/
def packetOk (s : State) (src : Nat) (rs : List DRec) : Bool :=
  !rs.isEmpty && decide (rs.length ≤ 64) && rs.all fun r =>
    r.src == src && r.dev == s.firm.devNum && !r.ue && (peerUnit s src r.tag).isSome &&
      decide (r.pa + (if r.wide then 8 else 4) ≤ Config.mappable) &&
      r.pa % (if r.wide then 8 else 4) == 0 && r.opr != .cas &&
      !(r.wide && (r.opr == .fadd || r.opr == .fmin || r.opr == .fmax))

/-- The number here of a peer's commit, with the state in which it has one. -/
def peerCommit (s : State) (src : Nat) (a : PeerApply) : State × Nat :=
  match s.defer.peerCommits.find? fun c => c.dev == src && c.cid == a.cid with
  | some c => (s, c.own)
  | none =>
    let pod := if a.last then none else a.podNo.map fun k => (a.ctx, k, a.n)
    (bumpId (updDefer s fun d => { d with peerCommits := d.peerCommits ++ [⟨src, a.cid, s.nextId, pod⟩] }), s.nextId)

/-- The pod grid of a context with a number. -/
def podGrid (s : State) (ctx k : Nat) : Option Grid := s.work.grids.find? fun g => g.ctx == ctx && g.podNo == some k

/-- This device's own part of a pod grid's COMMIT.POD number n, while it is under way. -/
def ownCommit (s : State) (g : Grid) (n : Nat) : Option Commit :=
  s.defer.commits.find? fun c => c.scope == .pod && c.grid == g.uid && c.n == n

/-- Whether this device's own part of a pod grid's COMMIT.POD number n passes a test. A device whose local teams have all
ended takes no part of its own, and one that has completed its part, as every team that has not ended has made the
arrival, passes (R163, R168). -/
def ownPart (s : State) (ctx k n : Nat) (test : Commit → Bool) : Bool :=
  match podGrid s ctx k with
  | none => true
  | some g =>
    match ownCommit s g n with
    | some c => test c
    | none => (localTeams s g).all fun k => g.ended.contains k || s.work.teams.any fun t =>
        t.grid == g.uid && t.teamId == k && decide (n ≤ t.d.nPod)

/-- Whether a peer's commit covers a staged record: the peer's own, by count, tag and census (R153, R163). -/
def peerCovers (s : State) (src : Nat) (a : PeerApply) (r : DRec) : Bool :=
  let c := newCommit 0 (if a.last then .endTeam else .pod) a.n a.ctx 0 0 a.tags
  r.src == src && coversD s { c with census := a.census } r

/-- A Thallus that holds a peer's apply and every marker applies what the commit covers; for an arrival of a pod grid,
once this device's teams have made it too, and once what they have loaded before it has been performed (R109, R161 to
R164, R171, R374, R382). -/
def applyPeer (src : Nat) (a : PeerApply) (bad : List Nat) (s : State) : Host.Outcome State Fault Refusal :=
  let k := (s.firm.devNum, a.ch)
  let cov := (thallusOf s k).staged.filter (peerCovers s src a)
  let early := !a.last && a.podNo.any fun n => !ownPart s a.ctx n a.n (commitReady s)
  let loads := !a.last && (a.podNo.bind (podGrid s a.ctx)).any fun g => (ownCommit s g a.n).any fun c => olderLoads s c cov
  if early || loads || !mayCharge s a.ctx 1 || cov.any (fun r => rowLocked s (devBase r.dev + r.pa) || bankHeld s (devBase r.dev + r.pa))
  then messageNot
  else
    let p := peerCommit s src a
    .next (charge (applyRecs p.1 k.1 k.2 (peerCovers s src a) p.2 bad).1 a.ctx 1 cov.length)

/-- The completion of a peer's commit reaches the slices: its rows cease to pend; for a pod grid's, once this device has
reported its own part (R163, R164). -/
def completePeer (src cid : Nat) (s : State) : Host.Outcome State Fault Refusal :=
  match s.defer.peerCommits.find? fun c => c.dev == src && c.cid == cid with
  | none => messageNot
  | some c =>
    if c.pod.any fun p => !ownPart s p.1 p.2.1 p.2.2 allAcked then messageNot
    else .next (updDefer s fun d =>
      { d with peerCommits := d.peerCommits.filter (· != c)
               thallus := d.thallus.map fun t => (t.1, { t.2 with rows := t.2.rows.filter fun r => r.1 != c.own }) })

/-- Whether records of a device's part of a pod grid, which its COMMIT.POD number n covers, are staged here (R163). -/
def peerStaged (s : State) (dev ctx k n : Nat) : Bool :=
  s.defer.thallus.any fun t => t.2.staged.any fun r =>
    r.src == dev && r.dev == s.firm.devNum && covers8 n r.ep && r.census.isNone &&
      (peerUnit s dev r.tag).any fun u => u.pod == some (ctx, k)

/-- What a device's check of a launch record may find, 0 for nothing (R139). -/
def checkCode (k : Nat) : Bool :=
  k == 0 || [causeCode .lrecbad, causeCode .lfit, causeCode .dxlate, causeCode .dperm, causeCode .memue].any fun c => c.toNat == k

/-- A word of pod control (R141, R163, R419): reports go to the pod grid's lowest-numbered device, which tells the others
what all have reported; a part of a COMMIT.POD is reported once its records here are applied, and completed once this
device's is. -/
def podWord (src ctx k : Nat) (w : PodWord) (s : State) : Host.Outcome State Fault Refusal :=
  match podGrid s ctx k with
  | none => messageNot
  | some g =>
    let low := lowest (podOf s g)
    let here (pod : Bool) (n : Nat) (test : Commit → Bool) : Bool :=
      if pod then ownPart s ctx k n test
      else match s.defer.commits.find? fun c => c.scope == .grid && c.grid == g.uid && c.n == n with
        | some c => test c
        | none => decide (g.ended.length = (localTeams s g).length)
    let ok : Bool := match w with
      | .checked k _ => low == s.firm.devNum && g.phase == .waitPod && (checkOf s g src).isNone && checkCode k
      | .outcome k => low == src && g.phase == .waitPod && (podOutcome s g).isNone && checkCode k && (k != 0 || g.fail.isNone)
      | .arrived _ _ => low == s.firm.devNum
      | .applied pod n => low == s.firm.devNum && !(pod && peerStaged s src ctx k n)
      | .ended => low == s.firm.devNum
      | .go pod n => low == src && here pod n (commitReady s)
      | .complete pod n => low == src && here pod n allAcked && !(pod && (podOf s g).any fun d => peerStaged s d ctx k n)
      | .allEnded => low == src && decide (g.ended.length = (localTeams s g).length)
    if !ok || !(podOf s g).contains src || podHas s g src w then messageNot
    else .next (updDefer s fun d => { d with podSaid := d.podSaid ++ [⟨src, ctx, k, w⟩] })

/-- The close of a peer's commit whose token carries censuses: it covers what their responders on this device have made,
through this device's Sorus and Thallus units, as a commit that waits for no arrival and completes nothing (R162, R163,
R291, R331). -/
def closePeer (src : Nat) (idents : List Dword) (s : State) : Host.Outcome State Fault Refusal :=
  let l : List (Nat × Dword × Nat × Nat) := s.cen.named.filter fun n => n.1 == src && idents.contains n.2.1
  match l with
  | [] => messageNot
  | x :: _ =>
    let c := { newCommit s.nextId .pod 0 (((gridOf s x.2.2.2).map fun g => g.ctx).getD 0) x.2.2.2 s.nextId [] with
      census := l.map (fun n : Nat × Dword × Nat × Nat => n.2.2.1), podGo := true, closed := true, podDone := true }
    let s := updCen s fun k => { k with named := k.named.filter fun n => !l.contains n }
    .next (bumpId (putCommit s { c with toShip := closeTargets s c }))

/-! ### Censuses of peers (R331) -/

/-- Whether what a census asks for is within the limits that its root has checked (R289). -/
def peerCensusOk (c : PeerCensus) : Bool :=
  c.entry.toNat % 4 == 0 && decide (c.entry.toNat < 2 ^ 56) && decide (2 ≤ c.bresp ∧ c.bresp ≤ 32) && decide (c.oper < 5)

/-- A peer's census reaches this device's root: its cores are to be visited, with the pod grid's context here (R331). -/
def censusPeer (src : Nat) (p : PeerCensus) (s : State) : Host.Outcome State Fault Refusal :=
  match s.work.grids.find? fun g => g.ctx == p.ctx && g.podNo == some p.podNo && (podOf s g).contains src with
  | none => messageNot
  | some g =>
    let ask : Option PeerAsk := match p.unit with
      | none => g.tag.map fun t => ⟨src, g.uid, t, true, g.lr.deferq, false⟩
      | some t => (peerUnit s src t).map fun u => ⟨src, g.uid, u.own, false, u.defq, false⟩
    match ask with
    | none => messageNot
    | some a =>
      if !peerCensusOk p || s.cen.open'.any (fun c => c.ident == p.ident && (c.peer.map fun q => q.dev) == some src) then
        messageNot
      else
        let c : Census :=
          { id := s.nextId, ident := p.ident, slot := p.ident.toNat % 256, asker := s.nextId, ctx := p.ctx, q := 0
            oper := p.oper, pod := true, op := none, key := p.key, mask := p.mask, entry := p.entry, arg := p.arg
            bresp := p.bresp, ready := true, visited := [], cores := [], lates := [], late := 0, total := Part.none p.oper
            reported := [], peers := [], heard := none, done := false, closed := [], peer := some a }
        .next (bumpId (updCen s fun x =>
          { x with open' := x.open' ++ [c]
                   named := (x.named.filter fun n => !(n.1 == src && n.2.1 == p.ident)) ++ [(src, p.ident, c.id, g.uid)] }))

/-- The close of a peer's census, from the asker's root, which may discard a census that has not completed (R330 to R332).
-/
def censusShut (src : Nat) (ident : Dword) (s : State) : Host.Outcome State Fault Refusal :=
  let mine (c : Census) : Bool := c.ident == ident && (c.peer.map fun q => q.dev) == some src
  let shut (c : Census) : Census :=
    if mine c then { c with done := true, peer := c.peer.map fun q => { q with shut := true } } else c
  if !s.cen.open'.any mine then messageNot
  else .next (updCen s fun x => { x with open' := x.open'.map shut })

/-! ### Counters and windows (R214, R262) -/

/-- A remote counter add, or a poison mark, which adds nothing, is performed at the counter's home; one at pod scope
releases the peer's writes into windows here (R1, R127, R211, R262, R263). -/
def counterPeer (src pa scope : Nat) (poison : Bool) (s : State) : Host.Outcome State Fault Refusal :=
  let key := ownKey s pa
  if decide (Config.mappable < pa + 8) || pa % 8 != 0 || homeWaits s key then messageNot
  else
    let s := addCounter s key (if poison then 0 else 1) poison
    .next (if poison || scope != 3 then s else carryCopy s (.peer src) none key)

/-- A peer's write of up to 256 bytes enters a window; where the window is revoked or its team has ended, or the bytes
pass its length, nothing is written, and the peer's copy fails (R214, R262, R417). -/
def windowPeer (src core win off : Nat) (b : List Byte) (s : State) : Host.Outcome State Fault Refusal :=
  if b.isEmpty || decide (256 < b.length) then messageNot
  else
    match windowOf s core win with
    | none => .next s
    | some (t, w) =>
      if w.len < off + b.length then .next s
      else .next (writeRegion s t (.peer src) (.abuf (w.lo + off) b.length) fun s => abufPut s t (w.lo + off) b)

/-! ### Chunks of collectives (R266) -/

/-- A collective with what the next position of its ring says of a chunk: it has staging room, or has received it. -/
def chunkWord (src id : Nat) (f : Coll → Coll) (s : State) : Host.Outcome State Fault Refusal :=
  match s.work.colls.find? fun c => c.id == id with
  | none => messageNot
  | some c =>
    let next := (commOf s c.ctx c.comm).bind fun k => (ringPos s c).map fun p => k.ranks.getD ((p.1 + 1) % p.2) 0
    if c.done || next != some src then messageNot else .next (updColl s id f)

/-! ### Pod-grid control (R383, R386, R387) -/

/-- Whether a context is one of a pod that holds a device. -/
def podWith (s : State) (ctx src : Nat) : Bool := ((ctxOf s ctx).map fun c => c.pod.contains src).getD false

/-- A PREEMPT of a pod context that reaches this device from a peer (R383, R384). -/
def preemptPeer (src ctx us : Nat) (s : State) : Host.Outcome State Fault Refusal :=
  if !podWith s ctx src || draining s ctx || !(us == 0 || decide (100 ≤ us ∧ us ≤ 100000)) then messageNot
  else .next (withdraw (updCtx s ctx fun x =>
    { x with deadline := if us = 0 then x.deadline else us, drain := some ⟨s.clock, none⟩ }) ctx)

/-- A RESUME that reaches this device from a peer (R386). -/
def resumePeer (src ctx : Nat) (s : State) : Host.Outcome State Fault Refusal :=
  if !podWith s ctx src || draining s ctx then messageNot else .next (resumeGrids s ctx).1

/-- A forced reset that reaches this device from a peer (R387). -/
def resetPeer (src ctx cause : Nat) (s : State) : Host.Outcome State Fault Refusal :=
  if !podWith s ctx src then messageNot else .next (resetNow s ctx (BitVec.ofNat 9 cause))

/-! ### Reception -/

/-- What a peer sends takes effect, once the fabric is trained, while the peer is not lost and the device has not tripped
(R418, R427, R430). -/
def receive (src : Nat) (m : PeerMsg) (s : State) : Host.Outcome State Fault Refusal :=
  if !s.firm.powered || decide (s.firm.step < 6) || s.firm.tripped || !isPeer s src || peerHeld s src then messageNot
  else
    let s := hears s src
    match m with
    | .records rs => if packetOk s src rs then .next (rs.foldl stage s) else messageNot
    | .apply a bad => applyPeer src a bad s
    | .completed cid => completePeer src cid s
    | .admission tag defq pod => admitPeer src tag defq pod s
    | .release tag discard => releasePeer src tag discard s
    | .close idents => closePeer src idents s
    | .census c => censusPeer src c s
    | .censusClose ident => censusShut src ident s
    | .pod ctx k w => podWord src ctx k w s
    | .counter pa scope poison => counterPeer src pa scope poison s
    | .window core win off b => windowPeer src core win off b s
    | .credit id st => chunkWord src id (fun c => { c with credit := st :: c.credit }) s
    | .acked id st => chunkWord src id (fun c => { c with acked := st :: c.acked }) s
    | .preempt ctx us => preemptPeer src ctx us s
    | .resume ctx => resumePeer src ctx s
    | .reset ctx cause => resetPeer src ctx cause s

end Sys2Proof.Machine
end

