-- ==== Sys2Proof/Machine/Calls.lean ====
section
/-!
DEFINITION. Calls, returns and the register window (R50 to R55).
-/

namespace Sys2Proof.Machine

/-- Split a run of bytes at L1 line boundaries, so that each part lies in one page. -/
def lineParts : Nat → Nat → Nat → List (Nat × Nat)
  | 0, _, _ => []
  | k + 1, va, n =>
    if n = 0 then []
    else
      let m := min n (Config.lineBytes - va % Config.lineBytes)
      (va, m) :: lineParts k (va + m) (n - m)

/-- The parts of a run of n bytes. -/
def parts (va n : Nat) : List (Nat × Nat) := lineParts (n / Config.lineBytes + 2) va n

/-- The first part that does not translate, with its cause (R54). -/
def firstBad (s : State) (c : Ctl) (w : Bool) (l : List (Nat × Nat)) : Option (BitVec 9 × Nat) :=
  l.findSome? fun p => match xlate s (some c.t.core) c.t.ctx p.1 (!w) w false with
    | .bad k _ => some (k, p.1)
    | .at _ _ _ _ => none

/-- Whether an access of the group to some of the bytes is still in flight: spills and refills are its own accesses, in
program order with them (R54, R111). -/
def groupTouches (s : State) (c : Ctl) (va n : Nat) : Bool :=
  s.work.ops.any fun o => o.tid == c.tid && o.gid == c.gid && (opSpans o.kind).any (spanMeets ⟨0, va, n⟩)

/-- Store bytes as the group's own stores, part by part; parts that do not translate are left out. -/
def spill (s : State) (c : Ctl) (l : List (Nat × Nat)) (va : Nat) (b : List Byte) : State :=
  l.foldl (fun s p => match xlate s (some c.t.core) c.t.ctx p.1 false true false with
    | .bad _ _ => s
    | .at k _ _ _ => queueStore s c.t.core c.t.ctx c.tid c.gid p.1 k none (slice b (p.1 - va) p.2)) s

/-- Read bytes as the group's own loads. -/
def refill (s : State) (c : Ctl) (l : List (Nat × Nat)) : List Byte × State :=
  l.foldl (fun (a : List Byte × State) p => match xlate a.2 (some c.t.core) c.t.ctx p.1 true false false with
    | .bad _ _ => a
    | .at k l1 _ _ => let r := readLoad a.2 c.t.core c.t.ctx p.1 k p.2 l1 true false; (a.1 ++ r.1, r.2)) ([], s)

/-- Whether a part's home access waits (R164). -/
def partWaits (s : State) (c : Ctl) (l : List (Nat × Nat)) : Bool :=
  l.any fun p => match xlate s (some c.t.core) c.t.ctx p.1 true false false with
    | .bad _ _ => false
    | .at k l1 _ _ => atHome s c.t.core c.t.ctx p.1 l1 true false && homeWaits s k

/-- Whether a part meets an uncorrectable word (R404). -/
def partMarked (s : State) (c : Ctl) (l : List (Nat × Nat)) : Option Nat :=
  l.findSome? fun p => match xlate s (some c.t.core) c.t.ctx p.1 true false false with
    | .bad _ _ => none
    | .at k l1 _ _ => if atHome s c.t.core c.t.ctx p.1 l1 true false && isMarked s k p.2 then some p.1 else none

/-- A precise cause of a spill or a refill, with `em` as its mask (R54). -/
def spillTrap (c : Ctl) (s : State) (k : BitVec 9) (va : Nat) : Body :=
  .stop (raiseRec s c.tid c.gid (k != causeCode .memue)
    (wonRec c.g c.pc { code := k, mask := c.em, smask := 0, scode := 0, addr := va }) none)

/-- The bytes that a call stores: the registers that leave the window, and the frame record (R52). -/
def frameBytes (g : Group) (slide : Nat) (ra : Dword) : List Byte :=
  ((List.range slide).flatMap fun n => vBytes (vget g.r.v (physOf g n))) ++
    bytesOfNat 8 ra.toNat ++ [BitVec.ofNat 8 (slide / 8)] ++ List.replicate 7 0

/-- The window after a call (R52). -/
def pushWindow (slide : Nat) (g : Group) : Group :=
  { g with w := { g.w with wb := (g.w.wb + slide) % g.bud, fdepth := g.w.fdepth + 1
                           wsp := g.w.wsp + BitVec.ofNat 64 (256 * slide + 16) } }

/-- CALL and CALLX: checks, the hold on every flag, the spill, the slide (R52, R54, R55). -/
def callBody (slide : Ctl → Nat) (target : Ctl → Dword) (checked : Bool) (c : Ctl) (s : State) : Body :=
  let n := slide c
  let tgt := target c
  let wsp := c.g.w.wsp.toNat
  let size := 256 * n + 16
  if c.g.bud ≤ n then emTrap c .sliderng
  else if checked && pcBad tgt then emTrap c .pcbad
  else if wsp % 16 ≠ 0 ∨ c.g.w.wslim.toNat < wsp + size then emTrap c .wsovf
  else if !flagsClear c.g || groupTouches s c wsp size then .held
  else
    let l := parts wsp size
    match firstBad s c true l with
    | some (k, va) => spillTrap c (spill (bump s) c l wsp (freeBytes s.fresh size)) k va
    | none =>
      .jump (updGroup (spill s c l wsp (frameBytes c.g n c.next)) c.tid c.gid (pushWindow n)) tgt (c.u + 4 + n)

/-- The slide: FRSZ, or the encoded one (R51). -/
def slideOf (x : Option Nat) (c : Ctl) : Nat := x.getD c.g.w.frsz.toNat

def execCall (h : Hdr) (off : Int) (s : State) : Host.Outcome State Fault Refusal :=
  issue (ctlIss "CALL" h) (callBody (slideOf none) (fun c => relTgt c.pc off) false) s
def execCallExt (h : Hdr) (off : Int) (slide : Option Nat) (s : State) : Host.Outcome State Fault Refusal :=
  issue (ctlIss "CALL_EXT" h) (callBody (slideOf slide) (fun c => relTgt c.pc off) false) s
def execCallx (h : Hdr) (a : Nat) (off : Int) (slide : Option Nat) (s : State) : Host.Outcome State Fault Refusal :=
  issue (ctlIss "CALLX" h) (callBody (slideOf slide) (fun c => c.s a + BitVec.ofInt 64 off) true) s

/-- A register from 256 stored bytes, lane 0 first (R52). -/
def regOfBytes (b : List Byte) (n : Nat) : VReg := vgen fun l => BitVec.ofNat 32 (natOfBytes (slice b (256 * n + 4 * l) 4))

/-- The window base after a return (R53). -/
def backBase (slide : Nat) (g : Group) : Nat := (g.w.wb + g.bud - slide) % g.bud

/-- The registers that a return refills (R53). -/
def refillWrs (slide : Nat) (b : List Byte) (g : Group) : List RegWr :=
  (List.range slide).map fun n => .v ((backBase slide g + n) % g.bud) (-1) (regOfBytes b n)

/-- The group after a return (R53): the registers are refilled at its issue, and a fixed-latency write of the callee that
is still pending to one of them lands over that (the model's choice, log entry 39). -/
def popWindow (slide : Nat) (base : Dword) (b : List Byte) (g : Group) : Group :=
  let h := applyWrs g (refillWrs slide b g)
  { h with w := { g.w with wb := backBase slide g, fdepth := g.w.fdepth - 1, wsp := base } }

/-- RET (R53 to R55). -/
def retBody (c : Ctl) (s : State) : Body :=
  if c.g.w.fdepth = 0 then emTrap c .retuf
  else if !flagsClear c.g || groupTouches s c (c.g.w.wsp - 16).toNat 16 then .held
  else
    let at' := (c.g.w.wsp - 16).toNat
    let l := parts at' 16
    match firstBad s c false l, partMarked s c l with
    | some (k, va), _ => spillTrap c s k va
    | none, some va => spillTrap c s (causeCode .memue) va
    | none, none =>
      if partWaits s c l then .held
      else
        let r := refill s c l
        let slide := 8 * (r.1.getD 8 0).toNat
        let ra := BitVec.ofNat 64 (natOfBytes (slice r.1 0 8))
        let base := c.g.w.wsp - 16 - BitVec.ofNat 64 (256 * slide)
        if c.g.bud ≤ slide then emTrap c .sliderng
        else if pcBad ra then emTrap c .pcbad
        else
          let k := parts base.toNat (256 * slide)
          match firstBad s c false k, partMarked s c k with
          | some (code, va), _ => spillTrap c s code va
          | none, some va => spillTrap c s (causeCode .memue) va
          | none, none =>
            if partWaits s c k || groupTouches s c base.toNat (256 * slide) then .held
            else
              let q := refill r.2 c k
              .jump (updGroup q.2 c.tid c.gid fun g =>
                popWindow slide base q.1 (logWrs c.dbg c.u c.pc c.u (refillWrs slide q.1 g) g)) ra (c.u + 6)

def execRet (h : Hdr) (s : State) : Host.Outcome State Fault Refusal := issue (ctlIss "RET" h) retBody s

end Sys2Proof.Machine
end

