-- ==== Sys2Proof/Machine/VectorInt.lean ====
section
/-!
DEFINITION. Vector integer, move, bit-field, prefix and comparison instructions (R77 to R87, R93).
-/

namespace Sys2Proof.Machine

/-- The issue facts of a vector instruction: a lane instruction that holds the FMA unit for 2 ck (R77, R93). -/
def vecIss (row : String) (h : Hdr) (vs : List Nat) : Iss :=
  { row := row, h := h, lane := true, vs := vs, unit := .fma 2 }

/-- A vector result from a function of the lane (R81). -/
def vecL (row : String) (h : Hdr) (lat d : Nat) (vs : List Nat) (f : Ctl → Nat → BitVec 32) (s : State) :
    Host.Outcome State Fault Refusal :=
  fixed (vecIss row h (d :: vs)) lat (fun c => [wrV c d (f c)]) s

/-- A binary operation on v_a and the last source (R80, R81). -/
def vec2 (row : String) (h : Hdr) (lat d a : Nat) (b : Src) (f : BitVec 32 → BitVec 32 → BitVec 32) (s : State) :
    Host.Outcome State Fault Refusal :=
  vecL row h lat d (a :: srcRegs b) (fun c l => f (c.lane a l) (c.srcV b l)) s

/-- A vector result whose lanes can clamp, with SATI (R81). -/
def vecSat (row : String) (h : Hdr) (d : Nat) (vs : List Nat) (f : Ctl → Nat → BitVec 32 × Bool) (s : State) :
    Host.Outcome State Fault Refusal :=
  fixed (vecIss row h (d :: vs)) 4
    (fun c => wrV c d (fun l => (f c l).1) :: wrSt (laneSt c.act fun l => stBits false (f c l).2 false)) s

/-- A sum or a difference, wrapped or clamped (R81). -/
def addSub (sub sat n32 : Bool) (a b : BitVec 32) : BitVec 32 × Bool :=
  if sat then satAdd n32 sub a b else (if sub then a - b else a + b, false)

/-- Bits 63:32 of a product (R81). -/
def vmulHigh (signed : Bool) (a b : BitVec 32) : BitVec 32 :=
  if signed then BitVec.ofInt 32 (a.toInt * b.toInt / 2 ^ 32) else BitVec.ofNat 32 (a.toNat * b.toNat / 2 ^ 32)

/-- The smaller or the larger value (R81). -/
def vMinMax (isMax signed : Bool) (a b : BitVec 32) : BitVec 32 := if relBv .lt signed a b != isMax then a else b

def execVadd (h : Hdr) (d a b : Nat) (s : State) : Host.Outcome State Fault Refusal :=
  vec2 "VADD" h 4 d a (.reg b) (· + ·) s
def execVaddLong (h : Hdr) (sat n32 : Bool) (d a : Nat) (b : Src) (s : State) : Host.Outcome State Fault Refusal :=
  vecSat "VADD_LONG" h d (a :: srcRegs b) (fun c l => addSub false sat n32 (c.lane a l) (c.srcV b l)) s
def execVsub (h : Hdr) (sat n32 : Bool) (d a : Nat) (b : Src) (s : State) : Host.Outcome State Fault Refusal :=
  vecSat "VSUB" h d (a :: srcRegs b) (fun c l => addSub true sat n32 (c.lane a l) (c.srcV b l)) s
def execVmul (h : Hdr) (d a : Nat) (b : Src) (s : State) : Host.Outcome State Fault Refusal :=
  vec2 "VMUL" h 5 d a b (· * ·) s
def execVmulh (h : Hdr) (signed : Bool) (d a : Nat) (b : Src) (s : State) : Host.Outcome State Fault Refusal :=
  vec2 "VMULH" h 5 d a b (vmulHigh signed) s
def execVmad (h : Hdr) (d a b : Nat) (k : Src) (s : State) : Host.Outcome State Fault Refusal :=
  vecL "VMAD" h 5 d (a :: b :: srcRegs k) (fun c l => c.lane a l * c.lane b l + c.srcV k l) s
def execVand (h : Hdr) (d a : Nat) (b : Src) (s : State) : Host.Outcome State Fault Refusal :=
  vec2 "VAND" h 4 d a b (· &&& ·) s
def execVor (h : Hdr) (d a : Nat) (b : Src) (s : State) : Host.Outcome State Fault Refusal :=
  vec2 "VOR" h 4 d a b (· ||| ·) s
def execVxor (h : Hdr) (d a : Nat) (b : Src) (s : State) : Host.Outcome State Fault Refusal :=
  vec2 "VXOR" h 4 d a b (· ^^^ ·) s
def execVandn (h : Hdr) (d a : Nat) (b : Src) (s : State) : Host.Outcome State Fault Refusal :=
  vec2 "VANDN" h 4 d a b (fun x y => x &&& ~~~y) s
def execVnot (h : Hdr) (d : Nat) (a : Src) (s : State) : Host.Outcome State Fault Refusal :=
  vecL "VNOT" h 4 d (srcRegs a) (fun c l => ~~~(c.srcV a l)) s
def execVshl (h : Hdr) (d a : Nat) (b : Src) (s : State) : Host.Outcome State Fault Refusal :=
  vec2 "VSHL" h 4 d a b (fun x y => x <<< (y.toNat % 32)) s
def execVshr (h : Hdr) (d a : Nat) (b : Src) (s : State) : Host.Outcome State Fault Refusal :=
  vec2 "VSHR" h 4 d a b (fun x y => x >>> (y.toNat % 32)) s
def execVsar (h : Hdr) (d a : Nat) (b : Src) (s : State) : Host.Outcome State Fault Refusal :=
  vec2 "VSAR" h 4 d a b (fun x y => x.sshiftRight (y.toNat % 32)) s
def execVmin (h : Hdr) (signed : Bool) (d a : Nat) (b : Src) (s : State) : Host.Outcome State Fault Refusal :=
  vec2 "VMIN" h 4 d a b (vMinMax false signed) s
def execVmax (h : Hdr) (signed : Bool) (d a : Nat) (b : Src) (s : State) : Host.Outcome State Fault Refusal :=
  vec2 "VMAX" h 4 d a b (vMinMax true signed) s
def execVabs (h : Hdr) (sat : Bool) (d : Nat) (a : Src) (s : State) : Host.Outcome State Fault Refusal :=
  vecSat "VABS" h d (srcRegs a) (fun c l => satNeg true sat (c.srcV a l)) s
def execVneg (h : Hdr) (sat : Bool) (d : Nat) (a : Src) (s : State) : Host.Outcome State Fault Refusal :=
  vecSat "VNEG" h d (srcRegs a) (fun c l => satNeg false sat (c.srcV a l)) s
def execVaddi (h : Hdr) (d a : Nat) (k : Int) (s : State) : Host.Outcome State Fault Refusal :=
  vecL "VADDI" h 4 d [a] (fun c l => c.lane a l + BitVec.ofInt 32 k) s
def execVaddiLong (h : Hdr) (d : Nat) (a k : Src) (s : State) : Host.Outcome State Fault Refusal :=
  vecL "VADDI_LONG" h 4 d (srcRegs a) (fun c l => c.srcV a l + c.srcV k l) s
def execVmov (h : Hdr) (d : Nat) (a : Src) (s : State) : Host.Outcome State Fault Refusal :=
  vecL "VMOV" h 4 d (srcRegs a) (fun c l => c.srcV a l) s
def execVmovs (h : Hdr) (hi : Bool) (d : Nat) (a : Src) (s : State) : Host.Outcome State Fault Refusal :=
  vecL "VMOVS" h 4 d [] (fun c _ => (c.srcS a >>> (if hi then 32 else 0)).setWidth 32) s
def execVmovi (h : Hdr) (d : Nat) (k : Int) (s : State) : Host.Outcome State Fault Refusal :=
  vecL "VMOVI" h 4 d [] (fun _ _ => BitVec.ofInt 32 k) s
def execVmoviLong (h : Hdr) (d : Nat) (k : Src) (s : State) : Host.Outcome State Fault Refusal :=
  vecL "VMOVI_LONG" h 4 d [] (fun c l => c.srcV k l) s
def execVbfx (h : Hdr) (signed : Bool) (d a pos len : Nat) (s : State) : Host.Outcome State Fault Refusal :=
  vecL "VBFX" h 4 d [a] (fun c l => bfx signed pos len (c.lane a l)) s
def execVbfi (h : Hdr) (d a pos len : Nat) (s : State) : Host.Outcome State Fault Refusal :=
  vecL "VBFI" h 4 d [a] (fun c l => bfi pos len (c.lane d l) (c.lane a l)) s
def execVclz (h : Hdr) (d a : Nat) (s : State) : Host.Outcome State Fault Refusal :=
  vecL "VCLZ" h 4 d [a] (fun c l => BitVec.ofNat 32 (clz 32 (c.lane a l).toNat)) s
def execVpopc (h : Hdr) (d a : Nat) (s : State) : Host.Outcome State Fault Refusal :=
  vecL "VPOPC" h 4 d [a] (fun c l => BitVec.ofNat 32 (popcount 32 (c.lane a l).toNat)) s
def execVbrev (h : Hdr) (d a : Nat) (s : State) : Host.Outcome State Fault Refusal :=
  vecL "VBREV" h 4 d [a] (fun c l => BitVec.ofNat 32 (bitrev 32 (c.lane a l).toNat)) s

/-- The one bits of the active lanes below a lane, and of the lane itself with .incl (R84). -/
def prefixOf (incl : Bool) (act : Mask) (x : VReg) (l : Nat) : Nat :=
  ((lanesOf act).filter fun k => decide (k < l) || (incl && k == l)).foldl
    (fun n k => n + popcount 32 (vget x k).toNat) 0

def execVprfx (h : Hdr) (incl : Bool) (d a b : Nat) (s : State) : Host.Outcome State Fault Refusal :=
  vecL "VPRFX" h 6 d [a] (fun c l => (c.s b).setWidth 32 + BitVec.ofNat 32 (prefixOf incl c.act (c.v a) l)) s

/-- The lanes of a vector that are not zero. -/
def nonzeroLanes (f : Nat → BitVec 32) : Mask := maskOf ((List.range 64).filter fun l => f l != 0)

def execVbmand (h : Hdr) (d p a b : Nat) (s : State) : Host.Outcome State Fault Refusal :=
  fixed (vecIss "VBMAND" h [d, a, b]) 4
    (fun c => let r (l : Nat) := c.lane a l &&& c.lane b l
              [wrV c d r, .p p c.act (nonzeroLanes r)]) s

/-- One step of an intersection: index and ranks of the lowest common bit (R86). -/
def isect (a b m : BitVec 32) : BitVec 32 :=
  if m = 0 then 0xFFFFFFFF
  else
    let k := lowestOne 32 m.toNat
    BitVec.ofNat 32 (k * 2 ^ 16 + popcount 32 (b.toNat % 2 ^ k) * 2 ^ 8 + popcount 32 (a.toNat % 2 ^ k))

def execVisect (h : Hdr) (d a b k : Nat) (s : State) : Host.Outcome State Fault Refusal :=
  vecL "VISECT" h 6 d [a, b, k] (fun c l => isect (c.lane a l) (c.lane b l) (c.lane k l)) s

/-- The lanes where a condition holds. -/
def lanesWhere (f : Nat → Bool) : Mask := maskOf ((List.range 64).filter f)

def execVcmp (h : Hdr) (rel : Rel) (signed : Bool) (d a : Nat) (b : Src) (s : State) :
    Host.Outcome State Fault Refusal :=
  fixed (vecIss "VCMP" h (a :: srcRegs b)) 4
    (fun c => [.p d c.act (lanesWhere fun l => relBv rel signed (c.lane a l) (c.srcV b l))]) s
def execVsel (h : Hdr) (d p t f : Nat) (s : State) : Host.Outcome State Fault Refusal :=
  vecL "VSEL" h 4 d [t, f] (fun c l => if laneOn (c.p p) l then c.lane t l else c.lane f l) s

end Sys2Proof.Machine
end

