-- ==== Sys2Proof/Machine/VectorFp.lean ====
section
/-!
DEFINITION. Vector floating point and the special functions (R88 to R93).
-/

namespace Sys2Proof.Machine

/-- Element width of a float class (R78). -/
def fclsBits : FCls → Nat
  | .f32 => 32
  | .f16 | .bf16 => 16

/-- An operation on the elements of three lane words: one element, or two packed ones each computed on its own (R78,
R88). -/
def onElems (f : FCls) (op : Nat → Nat → Nat → FRes) (a b c : BitVec 32) : BitVec 32 × Bool :=
  match f with
  | .f32 => let r := op a.toNat b.toNat c.toNat; (BitVec.ofNat 32 r.x, r.inv)
  | .f16 | .bf16 =>
    let lo := op (a.toNat % 2 ^ 16) (b.toNat % 2 ^ 16) (c.toNat % 2 ^ 16)
    let hi := op (a.toNat / 2 ^ 16) (b.toNat / 2 ^ 16) (c.toNat / 2 ^ 16)
    (BitVec.ofNat 32 (hi.x * 2 ^ 16 + lo.x), lo.inv || hi.inv)

/-- A floating-point instruction of up to three sources, with INV (R88). -/
def vecF (row : String) (h : Hdr) (f : FCls) (d : Nat) (vs : List Nat)
    (op : Bool → Bool → Nat → Nat → Nat → FRes) (x y z : Ctl → Nat → BitVec 32) (s : State) :
    Host.Outcome State Fault Refusal :=
  fixed (vecIss row h (d :: vs)) 4 (fun c =>
    let r (l : Nat) := onElems f (op (flushIn c.g.r.fmode (fclsBits f)) (flushOut c.g.r.fmode (fclsBits f)))
      (x c l) (y c l) (z c l)
    wrV c d (fun l => (r l).1) :: wrSt (laneSt c.act fun l => stBits false false (r l).2)) s

/-- A binary one (R89). -/
def vecF2 (row : String) (h : Hdr) (f : FCls) (d a : Nat) (b : Src) (op : Bool → Bool → Nat → Nat → FRes) (s : State) :
    Host.Outcome State Fault Refusal :=
  vecF row h f d (a :: srcRegs b) (fun i o x y _ => op i o x y) (fun c => c.lane a) (fun c => c.srcV b) (fun _ _ => 0) s

/-- A fused one (R90). -/
def vecF3 (row : String) (h : Hdr) (f : FCls) (m : RMode) (negP negC : Bool) (d a : Nat) (b k : Src) (s : State) :
    Host.Outcome State Fault Refusal :=
  vecF row h f d (a :: (srcRegs b ++ srcRegs k)) (fun i o x y z => fFma (fmtOf (fclsTy f)) m negP negC i o x y z)
    (fun c => c.lane a) (fun c => c.srcV b) (fun c => c.srcV k) s

def execVfadd (h : Hdr) (d a b : Nat) (s : State) : Host.Outcome State Fault Refusal :=
  vecF2 "VFADD" h .f32 d a (.reg b) (fAdd fmtF32 .rne) s
def execVfaddLong (h : Hdr) (f : FCls) (m : RMode) (d a : Nat) (b : Src) (s : State) :
    Host.Outcome State Fault Refusal :=
  vecF2 "VFADD_LONG" h f d a b (fAdd (fmtOf (fclsTy f)) m) s
def execVfsub (h : Hdr) (f : FCls) (m : RMode) (d a : Nat) (b : Src) (s : State) : Host.Outcome State Fault Refusal :=
  vecF2 "VFSUB" h f d a b (fSub (fmtOf (fclsTy f)) m) s
def execVfmul (h : Hdr) (f : FCls) (m : RMode) (d a : Nat) (b : Src) (s : State) : Host.Outcome State Fault Refusal :=
  vecF2 "VFMUL" h f d a b (fMul (fmtOf (fclsTy f)) m) s
def execVfmin (h : Hdr) (f : FCls) (d a : Nat) (b : Src) (s : State) : Host.Outcome State Fault Refusal :=
  vecF2 "VFMIN" h f d a b (fun i _ => fExtreme (fmtOf (fclsTy f)) false i) s
def execVfmax (h : Hdr) (f : FCls) (d a : Nat) (b : Src) (s : State) : Host.Outcome State Fault Refusal :=
  vecF2 "VFMAX" h f d a b (fun i _ => fExtreme (fmtOf (fclsTy f)) true i) s

/-- The sign bits of a lane word (R89). -/
def signBits : FCls → BitVec 32
  | .f32 => 0x80000000
  | .f16 | .bf16 => 0x80008000

def execVfabs (h : Hdr) (f : FCls) (d : Nat) (a : Src) (s : State) : Host.Outcome State Fault Refusal :=
  vecL "VFABS" h 4 d (srcRegs a) (fun c l => c.srcV a l &&& ~~~(signBits f)) s
def execVfneg (h : Hdr) (f : FCls) (d : Nat) (a : Src) (s : State) : Host.Outcome State Fault Refusal :=
  vecL "VFNEG" h 4 d (srcRegs a) (fun c l => c.srcV a l ^^^ signBits f) s
def execVfma (h : Hdr) (d a b : Nat) (s : State) : Host.Outcome State Fault Refusal :=
  vecF3 "VFMA" h .f32 .rne false false d a (.reg b) (.reg d) s
def execVfmaLong (h : Hdr) (f : FCls) (m : RMode) (d a : Nat) (b k : Src) (s : State) :
    Host.Outcome State Fault Refusal :=
  vecF3 "VFMA_LONG" h f m false false d a b k s
def execVfms (h : Hdr) (f : FCls) (m : RMode) (d a : Nat) (b k : Src) (s : State) : Host.Outcome State Fault Refusal :=
  vecF3 "VFMS" h f m false true d a b k s
def execVfnma (h : Hdr) (f : FCls) (m : RMode) (d a : Nat) (b k : Src) (s : State) : Host.Outcome State Fault Refusal :=
  vecF3 "VFNMA" h f m true false d a b k s

/-- The elements that VFCMP compares: element 0, or 1 with .hi; an immediate stands as its element-0 half (R91). -/
def cmpElem (f : FCls) (hi imm : Bool) (x : BitVec 32) : Nat :=
  match f with
  | .f32 => x.toNat
  | .f16 | .bf16 => if hi && !imm then x.toNat / 2 ^ 16 else x.toNat % 2 ^ 16

/-- Whether a source is an immediate. -/
def srcIsImm : Src → Bool
  | .imm _ => true
  | .reg _ => false
  | .lit _ => false

def execVfcmp (h : Hdr) (f : FCls) (rel : FRel) (hi : Bool) (d a : Nat) (b : Src) (s : State) :
    Host.Outcome State Fault Refusal :=
  fixed (vecIss "VFCMP" h (a :: srcRegs b)) 4 (fun c =>
    let r (l : Nat) := fCmp (fmtOf (fclsTy f)) rel (flushIn c.g.r.fmode (fclsBits f)) (cmpElem f hi false (c.lane a l))
      (cmpElem f hi (srcIsImm b) (c.srcV b l))
    .p d c.act (lanesWhere fun l => (r l).1) :: wrSt (laneSt c.act fun l => stBits false false (r l).2)) s

/-! ### Special functions -/

/-- VSFU: long-latency, one FP32 value a lane, INV with its results (R92, R93, R101). -/
def vsfu (row : String) (h : Hdr) (d a : Nat) (fn : Bool → Bool → Nat → FRes) (s : State) :
    Host.Outcome State Fault Refusal :=
  issue { row := row, h := h, lane := true, vs := [d, a], ll := true, unit := .sfu 8 } (fun c s1 =>
    let r (l : Nat) := fn (flushIn c.g.r.fmode 32) (flushOut c.g.r.fmode 32) (c.lane a l).toNat
    .done (startOp c (.regs (wrV c d (fun l => BitVec.ofNat 32 (r l).x) ::
      wrSt (laneSt c.act fun l => stBits false false (r l).inv))) s1)) s

def execVrcp (h : Hdr) (d a : Nat) (s : State) : Host.Outcome State Fault Refusal := vsfu "VRCP" h d a sfuRcp s
def execVrsq (h : Hdr) (d a : Nat) (s : State) : Host.Outcome State Fault Refusal := vsfu "VRSQ" h d a sfuRsq s
def execVsqrt (h : Hdr) (d a : Nat) (s : State) : Host.Outcome State Fault Refusal := vsfu "VSQRT" h d a sfuSqrt s
def execVexp2 (h : Hdr) (d a : Nat) (s : State) : Host.Outcome State Fault Refusal := vsfu "VEXP2" h d a sfuExp2 s
def execVlog2 (h : Hdr) (d a : Nat) (s : State) : Host.Outcome State Fault Refusal := vsfu "VLOG2" h d a sfuLog2 s
def execVsin (h : Hdr) (d a : Nat) (s : State) : Host.Outcome State Fault Refusal := vsfu "VSIN" h d a sfuSin s
def execVcos (h : Hdr) (d a : Nat) (s : State) : Host.Outcome State Fault Refusal := vsfu "VCOS" h d a sfuCos s
def execVtanh (h : Hdr) (d a : Nat) (s : State) : Host.Outcome State Fault Refusal := vsfu "VTANH" h d a sfuTanh s
def execVsigm (h : Hdr) (d a : Nat) (s : State) : Host.Outcome State Fault Refusal := vsfu "VSIGM" h d a sfuSigm s
def execVerf (h : Hdr) (d a : Nat) (s : State) : Host.Outcome State Fault Refusal := vsfu "VERF" h d a sfuErf s

end Sys2Proof.Machine
end

