-- ==== Sys2Proof/Machine/Convert.lean ====
section
/-!
DEFINITION. Conversions, random bits, block scales and quantisation (R94 to R100).
-/

namespace Sys2Proof.Machine

/-- STATUS of a conversion result. -/
def cresSt (r : CRes) : BitVec 3 := stBits false r.sati r.inv

/-- Element k of width w of a register, replaced (R78). -/
def putElem (w k x : Nat) (old : BitVec 32) : BitVec 32 :=
  if w = 32 then BitVec.ofNat 32 x else bfi (w * k) w old (BitVec.ofNat 32 x)

/-- A source element of a type (R78, R94). -/
def Ctl.elem (c : Ctl) (t : Ty) (a k l : Nat) : Nat :=
  if tyBits t = 64 then (c.pair a l).toNat else bitsAt (c.lane a l).toNat (tyBits t * k) (tyBits t)

/-- The registers that an operand of a type takes (R19). -/
def tyRegs (t : Ty) (a : Nat) : List Nat := if tyBits t = 64 then [a, a + 1] else [a]

/-- The writes of one element a lane: a pair, or element k of one register (R77, R78). -/
def wrElem (c : Ctl) (t : Ty) (d k : Nat) (x : Nat → Nat) : List RegWr :=
  if tyBits t = 64 then
    [wrV c d fun l => BitVec.ofNat 32 (x l), wrV c (d + 1) fun l => BitVec.ofNat 32 (x l / 2 ^ 32)]
  else [wrV c d fun l => putElem (tyBits t) k (x l) (c.lane d l)]

def execVcvt (h : Hdr) (dt st : Ty) (m : RMode) (sat satf : Bool) (d a sidx didx : Nat) (s : State) :
    Host.Outcome State Fault Refusal :=
  fixed (vecIss "VCVT" h (tyRegs dt d ++ tyRegs st a)) 5 (fun c =>
    let r (l : Nat) := convert dt st m sat satf (flushIn c.g.r.fmode (tyBits st)) (flushOut c.g.r.fmode (tyBits dt))
      (c.elem st a sidx l)
    wrElem c dt d didx (fun l => (r l).x) ++ wrSt (laneSt c.act fun l => cresSt (r l))) s

def execVcvtsr (h : Hdr) (dt : Ty) (satf : Bool) (d a b didx : Nat) (s : State) : Host.Outcome State Fault Refusal :=
  fixed (vecIss "VCVTSR" h [d, a, b]) 5 (fun c =>
    let r (l : Nat) := convertSr dt satf (flushIn c.g.r.fmode 32) (flushOut c.g.r.fmode (tyBits dt))
      (c.lane a l).toNat (c.lane b l).toNat
    wrElem c dt d didx (fun l => (r l).x) ++ wrSt (laneSt c.act fun l => cresSt (r l))) s

/-! ### Random bits -/

/-- One round of Philox4x32 (R97). -/
def philoxRound (c : Nat × Nat × Nat × Nat) (k0 k1 : Nat) : Nat × Nat × Nat × Nat :=
  let p0 := 0xD2511F53 * c.1
  let p1 := 0xCD9E8D57 * c.2.2.1
  ((p1 / 2 ^ 32) ^^^ c.2.1 ^^^ k0, p1 % 2 ^ 32, (p0 / 2 ^ 32) ^^^ c.2.2.2 ^^^ k1, p0 % 2 ^ 32)

/-- Rounds with the key's increments (R97). -/
def philoxGo : Nat → Nat × Nat × Nat × Nat → Nat → Nat → Nat × Nat × Nat × Nat
  | 0, c, _, _ => c
  | n + 1, c, k0, k1 =>
    philoxGo n (philoxRound c k0 k1) ((k0 + 0x9E3779B9) % 2 ^ 32) ((k1 + 0xBB67AE85) % 2 ^ 32)

/-- The four words of a lane (R97). -/
def philoxLane (key ctr : Dword) (lane : Nat) : Nat × Nat × Nat × Nat :=
  philoxGo 10 (ctr.toNat % 2 ^ 32, ctr.toNat / 2 ^ 32, lane, 0) (key.toNat % 2 ^ 32) (key.toNat / 2 ^ 32)

/-- One of four words. -/
def pick4 (w : Nat × Nat × Nat × Nat) : Nat → Nat
  | 0 => w.1
  | 1 => w.2.1
  | 2 => w.2.2.1
  | _ => w.2.2.2

/-- RNGFILL: the counter steps once at issue, whatever `em` holds (R97, R98). -/
def execRngfill (h : Hdr) (d n : Nat) (s : State) : Host.Outcome State Fault Refusal :=
  issue { row := "RNGFILL", h := h, lane := true, vs := runRegs d n, unit := .fma (2 * n) } (fun c s1 =>
    let r := rngOf (coreOf s1 c.t.core) c.t.ctx
    let s2 := updCore s1 c.t.core fun k => setRng k c.t.ctx (r.1, r.2 + 1)
    .done (pendWrs c 7 ((List.range n).map fun j =>
      wrV c (d + j) fun l => BitVec.ofNat 32 (pick4 (philoxLane r.1 r.2 l) j)) s2)) s

/-! ### Block scales -/

/-- The largest |element| of a lane's block, or none with a NaN or an infinity (R99). -/
def blockMax (fin : Bool) (xs : List (BitVec 32)) : Option Nat :=
  xs.foldl (fun a x => match a, absMag fin x.toNat with
    | some m, some k => some (max m k)
    | _, _ => none) (some 0)

/-- The band of SCALECALC without .given (R99). -/
def bandOf (amax : Nat) : Nat := pack fmtBf16 .rne false false false 1 (bandExp amax)

/-- A band's value, where it is finite and positive (R99, R100). -/
def bandVal (band : Nat) : Option (Nat × Int) :=
  match unpack fmtBf16 false (band % 2 ^ 16) with
  | .fin false m e => if m = 0 then none else some (m, e)
  | .fin true _ _ => none
  | .inf _ => none
  | .nan _ _ => none

/-- SCALECALC's results: the band, a code for each lane, STATUS (R99). With no active lane A is 0, and the band is that of
0, though R142 has a lane instruction write nothing then: the model's choice (log entry 39). -/
def scaleCalc (fin : Bool) (act : Mask) (given : Option Nat) (block : Nat → List (BitVec 32)) :
    Nat × (Nat → Nat) × BitVec 3 :=
  let am (l : Nat) := blockMax fin (block l)
  if (lanesOf act).any fun l => (am l).isNone then (0x7FC0, fun _ => 0, stINV)
  else
    let a := (lanesOf act).foldl (fun x l => max x ((am l).getD 0)) 0
    let band := given.getD (bandOf a)
    match bandVal band with
    | none => (band, fun _ => 0, stINV)
    | some (m, e) =>
      let r (l : Nat) := blockCode ((am l).getD 0) m e
      (band, fun l => (r l).1, laneSt act fun l => stBits (r l).2.2 (r l).2.1 false)

def execScalecalc (h : Hdr) (given : Bool) (d a b k : Nat) (s : State) : Host.Outcome State Fault Refusal :=
  issue { row := "SCALECALC", h := h, lane := true, vs := d :: runRegs a 8, ll := true, unit := .fma 16 }
    (fun c s1 =>
      let r := scaleCalc (flushIn c.g.r.fmode 32) c.act (if given then some ((c.s b).toNat % 2 ^ 16) else none)
        fun l => (List.range 8).map fun j => c.lane (a + j) l
      let band : List RegWr := if given then [] else [.s k (BitVec.ofNat 64 r.1)]
      .done (startOp c (.regs (wrV c d (fun l => BitVec.ofNat 32 (r.2.1 l)) :: band ++ wrSt r.2.2)) s1)) s

def execVquant (h : Hdr) (dt : Ty) (m : RMode) (d a b k didx : Nat) (s : State) : Host.Outcome State Fault Refusal :=
  fixed (vecIss "VQUANT" h [d, a, b]) 6 (fun c =>
    let r (l : Nat) := quantise dt m (flushIn c.g.r.fmode 32) (flushOut c.g.r.fmode (tyBits dt)) (c.lane a l).toNat
      ((c.lane b l).toNat % 2 ^ 8) ((c.s k).toNat % 2 ^ 16)
    wrElem c dt d didx (fun l => (r l).x) ++ wrSt (laneSt c.act fun l => cresSt (r l))) s

end Sys2Proof.Machine
end

