-- ==== Sys2Proof/Machine/Lanes.lean ====
section
/-!
DEFINITION. Lane operations and the issue of queue instructions (R70 to R75).
-/

namespace Sys2Proof.Machine

/-- The lane that SHFL reads (R70). -/
def shflSrc (mode : ShflMode) (l c b : Nat) : Nat :=
  match mode with
  | .idx => b % 64
  | .up => if c ≤ l then l - c else l
  | .dn => if l + c < 64 then l + c else l
  | .xor => l ^^^ c

def execShfl (h : Hdr) (mode : ShflMode) (d a b k : Nat) (s : State) : Host.Outcome State Fault Refusal :=
  fixed { row := "SHFL", h := h, lane := true, vs := if mode = .idx then [d, a, b] else [d, a] } 5
    (fun c => [wrV c d fun l => c.lane a (shflSrc mode l k (c.lane b l).toNat)]) s

/-- BALLOT (R71). With no active lane it writes 0, as R71 says, though R142 has a lane instruction write nothing then: the
model's choice (log entry 39). -/
def execBallot (h : Hdr) (d p : Nat) (s : State) : Host.Outcome State Fault Refusal :=
  fixed (lanIss "BALLOT" h) 3 (fun c => [.s d (c.act &&& c.p p)]) s

/-- READLANE reads the named lane whatever `em` holds (R71). -/
def execReadlane (h : Hdr) (d a : Nat) (lane : Src) (s : State) : Host.Outcome State Fault Refusal :=
  fixed { row := "READLANE", h := h, vs := [a] } 3
    (fun c => [.s d ((c.lane a ((c.srcS lane).toNat % 64)).setWidth 64)]) s

/-- WRITELANE writes the named lane whatever `em` holds (R71). -/
def execWritelane (h : Hdr) (d a : Nat) (lane : Src) (s : State) : Host.Outcome State Fault Refusal :=
  fixed { row := "WRITELANE", h := h, vs := [d] } 4
    (fun c => [.v (physOf c.g d) (1#64 <<< ((c.srcS lane).toNat % 64)) (vgen fun _ => (c.s a).setWidth 32)]) s

/-! ### Reductions -/

/-- The value of an idle lane in LRED (R72). -/
def lredIdent : LredOp → BitVec 32
  | .add | .or | .xor | .maxN => 0
  | .minN | .and => 0xFFFFFFFF
  | .minI => 0x7FFFFFFF
  | .maxI | .fadd => 0x80000000
  | .fmin => 0x7F800000
  | .fmax => 0xFF800000

/-- Whether an operator is a floating-point one. -/
def lredFp : LredOp → Bool
  | .fadd | .fmin | .fmax => true
  | .add | .minI | .minN | .maxI | .maxN | .and | .or | .xor => false

/-- One integer step of LRED (R72). -/
def lredStep (op : LredOp) (a b : BitVec 32) : BitVec 32 :=
  match op with
  | .add => a + b
  | .minI => if a.toInt ≤ b.toInt then a else b
  | .minN => if a.toNat ≤ b.toNat then a else b
  | .maxI => if b.toInt ≤ a.toInt then a else b
  | .maxN => if b.toNat ≤ a.toNat then a else b
  | .and => a &&& b
  | .or => a ||| b
  | .xor | .fadd | .fmin | .fmax => a ^^^ b

/-- One floating-point step of LRED with flush-results (R72). -/
def lredF (op : LredOp) (fout : Bool) (a b : Nat) : FRes :=
  match op with
  | .fmin => let r := fExtreme fmtF32 false false a b; ⟨flushRes fout r.x, r.inv⟩
  | .fmax => let r := fExtreme fmtF32 true false a b; ⟨flushRes fout r.x, r.inv⟩
  | _ => fAdd fmtF32 .rne false fout a b
where
  flushRes (fout : Bool) (x : Nat) : Nat := asRead fmtF32 fout x

/-- The fixed tree of LRED: x[i] with x[i + w], w doubling (R72). -/
def lredTree (f : Nat → Nat → FRes) : Nat → List FRes → FRes
  | 0, l => l.headD ⟨0, false⟩
  | k + 1, l => lredTree f k (pairs l)
where
  pairs : List FRes → List FRes
    | a :: b :: r => (let z := f a.x b.x; ⟨z.x, z.inv || a.inv || b.inv⟩) :: pairs r
    | l => l

/-- LRED's result in s_d and whether it is invalid (R72). -/
def lred (op : LredOp) (fmode : BitVec 8) (act : Mask) (x : VReg) : Dword × Bool :=
  let v (l : Nat) : BitVec 32 := if laneOn act l then vget x l else lredIdent op
  if lredFp op then
    let start : List FRes := (List.range 64).map fun l =>
      ⟨if laneOn act l then asRead fmtF32 (flushIn fmode 32) (vget x l).toNat else (lredIdent op).toNat, false⟩
    let r := lredTree (lredF op (flushOut fmode 32)) 6 start
    (BitVec.ofNat 64 r.x, r.inv)
  else
    let r := (List.range 64).foldl (fun a l => lredStep op a (v l)) (lredIdent op)
    (match op with
     | .add | .minI | .maxI => sext64 r
     | _ => r.setWidth 64, false)

/-- LRED (R72). With no active lane it writes the identity, as R72 says, though R142 has a lane instruction write nothing
then: the model's choice (log entry 39). -/
def execLred (h : Hdr) (op : LredOp) (d a : Nat) (s : State) : Host.Outcome State Fault Refusal :=
  fixed { row := "LRED", h := h, lane := true, vs := [a] } (if lredFp op then 7 else 5)
    (fun c => let r := lred op c.g.r.fmode c.act (c.v a)
              .s d r.1 :: wrSt (stBits false false r.2)) s

/-! ### Queues -/

/-- Whether a queue is bound (R73). -/
def qBound (t : Team) (q : Nat) : Bool := (vget t.queues q).bound.isSome

/-- QPUSH: a bound queue traps; else the push is in flight until an entry is free (R73). -/
def execQpush (h : Hdr) (q : Nat) (x : Src) (s : State) : Host.Outcome State Fault Refusal :=
  issue { row := "QPUSH", h := h, ll := true, wr := false } (fun c s1 =>
    if qBound c.t q then .trap { cause := .qbound, mask := c.em }
    else .done (startOp c (.qpush q (c.srcS x)) s1)) s

/-- QPOP: in flight until an entry is served to it (R74). -/
def execQpop (h : Hdr) (d q : Nat) (try? : Option Nat) (s : State) : Host.Outcome State Fault Refusal :=
  issue { row := "QPOP", h := h, ll := true } (fun c s1 => .done (startOp c (.qpop d q try?) s1)) s

end Sys2Proof.Machine
end

