-- ==== Sys2Proof/Machine/Dispatch.lean ====
section
/-!
DEFINITION. The meaning of every row of spec/opcode_table.json: one arm per constructor of Instr, each one direct call.
-/

namespace Sys2Proof.Machine

/-- The meaning of an instruction or event at a state. -/
def exec (i : Instr) (s : State) : Host.Outcome State Fault Refusal :=
  match i with
  | .clauseHeader wait setA setB => Sys2Proof.Machine.execClauseHeader wait setA setB s
  | .nop h => Sys2Proof.Machine.execNop h s
  | .bra h off => Sys2Proof.Machine.execBra h off s
  | .braExt h off => Sys2Proof.Machine.execBraExt h off s
  | .brany h p neg off => Sys2Proof.Machine.execBrany h p neg off s
  | .branyExt h p neg off => Sys2Proof.Machine.execBranyExt h p neg off s
  | .brall h p neg off => Sys2Proof.Machine.execBrall h p neg off s
  | .brallExt h p neg off => Sys2Proof.Machine.execBrallExt h p neg off s
  | .brnone h p neg off => Sys2Proof.Machine.execBrnone h p neg off s
  | .brnoneExt h p neg off => Sys2Proof.Machine.execBrnoneExt h p neg off s
  | .brx h a off => Sys2Proof.Machine.execBrx h a off s
  | .call h off => Sys2Proof.Machine.execCall h off s
  | .callExt h off slide => Sys2Proof.Machine.execCallExt h off slide s
  | .callx h a off slide => Sys2Proof.Machine.execCallx h a off slide s
  | .ret h => Sys2Proof.Machine.execRet h s
  | .exit h => Sys2Proof.Machine.execExit h s
  | .exitExt h => Sys2Proof.Machine.execExitExt h s
  | .yield h => Sys2Proof.Machine.execYield h s
  | .trap h n => Sys2Proof.Machine.execTrap h n s
  | .rte h => Sys2Proof.Machine.execRte h s
  | .emrd h d => Sys2Proof.Machine.execEmrd h d s
  | .emwr h a => Sys2Proof.Machine.execEmwr h a s
  | .emand h p => Sys2Proof.Machine.execEmand h p s
  | .emor h p => Sys2Proof.Machine.execEmor h p s
  | .emandn h p => Sys2Proof.Machine.execEmandn h p s
  | .emsetp h d => Sys2Proof.Machine.execEmsetp h d s
  | .elect h d => Sys2Proof.Machine.execElect h d s
  | .pand h d a b => Sys2Proof.Machine.execPand h d a b s
  | .por h d a b => Sys2Proof.Machine.execPor h d a b s
  | .pxor h d a b => Sys2Proof.Machine.execPxor h d a b s
  | .pandn h d a b => Sys2Proof.Machine.execPandn h d a b s
  | .pnot h d a => Sys2Proof.Machine.execPnot h d a s
  | .pmov h d a => Sys2Proof.Machine.execPmov h d a s
  | .spand h d a b => Sys2Proof.Machine.execSpand h d a b s
  | .spor h d a b => Sys2Proof.Machine.execSpor h d a b s
  | .spxor h d a b => Sys2Proof.Machine.execSpxor h d a b s
  | .spandn h d a b => Sys2Proof.Machine.execSpandn h d a b s
  | .spnot h d a => Sys2Proof.Machine.execSpnot h d a s
  | .spmov h d a => Sys2Proof.Machine.execSpmov h d a s
  | .sadd h d a b => Sys2Proof.Machine.execSadd h d a b s
  | .saddLong h d a b => Sys2Proof.Machine.execSaddLong h d a b s
  | .ssub h d a b => Sys2Proof.Machine.execSsub h d a b s
  | .smul h d a b => Sys2Proof.Machine.execSmul h d a b s
  | .smulh h signed d a b => Sys2Proof.Machine.execSmulh h signed d a b s
  | .sand h d a b => Sys2Proof.Machine.execSand h d a b s
  | .sor h d a b => Sys2Proof.Machine.execSor h d a b s
  | .sxor h d a b => Sys2Proof.Machine.execSxor h d a b s
  | .sandn h d a b => Sys2Proof.Machine.execSandn h d a b s
  | .sshl h d a b => Sys2Proof.Machine.execSshl h d a b s
  | .sshr h d a b => Sys2Proof.Machine.execSshr h d a b s
  | .ssar h d a b => Sys2Proof.Machine.execSsar h d a b s
  | .smin h signed d a b => Sys2Proof.Machine.execSmin h signed d a b s
  | .smax h signed d a b => Sys2Proof.Machine.execSmax h signed d a b s
  | .smovi h d c => Sys2Proof.Machine.execSmovi h d c s
  | .smoviLong h d c => Sys2Proof.Machine.execSmoviLong h d c s
  | .saddi h d a c => Sys2Proof.Machine.execSaddi h d a c s
  | .saddiLong h d a c => Sys2Proof.Machine.execSaddiLong h d a c s
  | .slea h d a b sh c => Sys2Proof.Machine.execSlea h d a b sh c s
  | .sbfx h signed d a pos len => Sys2Proof.Machine.execSbfx h signed d a pos len s
  | .sbfi h d a pos len => Sys2Proof.Machine.execSbfi h d a pos len s
  | .sclz h d a => Sys2Proof.Machine.execSclz h d a s
  | .spopc h d a => Sys2Proof.Machine.execSpopc h d a s
  | .sbrev h d a => Sys2Proof.Machine.execSbrev h d a s
  | .scmp h rel signed d a b => Sys2Proof.Machine.execScmp h rel signed d a b s
  | .ssel h d sp t f => Sys2Proof.Machine.execSsel h d sp t f s
  | .sreadsr h d sr => Sys2Proof.Machine.execSreadsr h d sr s
  | .sreadsrExt h vec d sr => Sys2Proof.Machine.execSreadsrExt h vec d sr s
  | .swritesr h a sr => Sys2Proof.Machine.execSwritesr h a sr s
  | .swritesrExt h a sr => Sys2Proof.Machine.execSwritesrExt h a sr s
  | .shfl h mode d a b c => Sys2Proof.Machine.execShfl h mode d a b c s
  | .ballot h d p => Sys2Proof.Machine.execBallot h d p s
  | .readlane h d a lane => Sys2Proof.Machine.execReadlane h d a lane s
  | .writelane h d a lane => Sys2Proof.Machine.execWritelane h d a lane s
  | .lred h op d a => Sys2Proof.Machine.execLred h op d a s
  | .qpush h q src => Sys2Proof.Machine.execQpush h q src s
  | .qpop h d q tr => Sys2Proof.Machine.execQpop h d q tr s
  | .vadd h d a b => Sys2Proof.Machine.execVadd h d a b s
  | .vaddLong h sat n32 d a b => Sys2Proof.Machine.execVaddLong h sat n32 d a b s
  | .vsub h sat n32 d a b => Sys2Proof.Machine.execVsub h sat n32 d a b s
  | .vmul h d a b => Sys2Proof.Machine.execVmul h d a b s
  | .vmulh h signed d a b => Sys2Proof.Machine.execVmulh h signed d a b s
  | .vmad h d a b c => Sys2Proof.Machine.execVmad h d a b c s
  | .vand h d a b => Sys2Proof.Machine.execVand h d a b s
  | .vor h d a b => Sys2Proof.Machine.execVor h d a b s
  | .vxor h d a b => Sys2Proof.Machine.execVxor h d a b s
  | .vandn h d a b => Sys2Proof.Machine.execVandn h d a b s
  | .vnot h d a => Sys2Proof.Machine.execVnot h d a s
  | .vshl h d a b => Sys2Proof.Machine.execVshl h d a b s
  | .vshr h d a b => Sys2Proof.Machine.execVshr h d a b s
  | .vsar h d a b => Sys2Proof.Machine.execVsar h d a b s
  | .vmin h signed d a b => Sys2Proof.Machine.execVmin h signed d a b s
  | .vmax h signed d a b => Sys2Proof.Machine.execVmax h signed d a b s
  | .vabs h sat d a => Sys2Proof.Machine.execVabs h sat d a s
  | .vneg h sat d a => Sys2Proof.Machine.execVneg h sat d a s
  | .vaddi h d a c => Sys2Proof.Machine.execVaddi h d a c s
  | .vaddiLong h d a c => Sys2Proof.Machine.execVaddiLong h d a c s
  | .vmov h d a => Sys2Proof.Machine.execVmov h d a s
  | .vmovs h hi d a => Sys2Proof.Machine.execVmovs h hi d a s
  | .vmovi h d c => Sys2Proof.Machine.execVmovi h d c s
  | .vmoviLong h d c => Sys2Proof.Machine.execVmoviLong h d c s
  | .vbfx h signed d a pos len => Sys2Proof.Machine.execVbfx h signed d a pos len s
  | .vbfi h d a pos len => Sys2Proof.Machine.execVbfi h d a pos len s
  | .vclz h d a => Sys2Proof.Machine.execVclz h d a s
  | .vpopc h d a => Sys2Proof.Machine.execVpopc h d a s
  | .vbrev h d a => Sys2Proof.Machine.execVbrev h d a s
  | .vprfx h incl d a b => Sys2Proof.Machine.execVprfx h incl d a b s
  | .vbmand h d p a b => Sys2Proof.Machine.execVbmand h d p a b s
  | .visect h d a b c => Sys2Proof.Machine.execVisect h d a b c s
  | .vcmp h rel signed d a b => Sys2Proof.Machine.execVcmp h rel signed d a b s
  | .vsel h d p t f => Sys2Proof.Machine.execVsel h d p t f s
  | .vfadd h d a b => Sys2Proof.Machine.execVfadd h d a b s
  | .vfaddLong h f m d a b => Sys2Proof.Machine.execVfaddLong h f m d a b s
  | .vfsub h f m d a b => Sys2Proof.Machine.execVfsub h f m d a b s
  | .vfmul h f m d a b => Sys2Proof.Machine.execVfmul h f m d a b s
  | .vfmin h f d a b => Sys2Proof.Machine.execVfmin h f d a b s
  | .vfmax h f d a b => Sys2Proof.Machine.execVfmax h f d a b s
  | .vfabs h f d a => Sys2Proof.Machine.execVfabs h f d a s
  | .vfneg h f d a => Sys2Proof.Machine.execVfneg h f d a s
  | .vfma h d a b => Sys2Proof.Machine.execVfma h d a b s
  | .vfmaLong h f m d a b c => Sys2Proof.Machine.execVfmaLong h f m d a b c s
  | .vfms h f m d a b c => Sys2Proof.Machine.execVfms h f m d a b c s
  | .vfnma h f m d a b c => Sys2Proof.Machine.execVfnma h f m d a b c s
  | .vfcmp h f rel hi d a b => Sys2Proof.Machine.execVfcmp h f rel hi d a b s
  | .vrcp h d a => Sys2Proof.Machine.execVrcp h d a s
  | .vrsq h d a => Sys2Proof.Machine.execVrsq h d a s
  | .vsqrt h d a => Sys2Proof.Machine.execVsqrt h d a s
  | .vexp2 h d a => Sys2Proof.Machine.execVexp2 h d a s
  | .vlog2 h d a => Sys2Proof.Machine.execVlog2 h d a s
  | .vsin h d a => Sys2Proof.Machine.execVsin h d a s
  | .vcos h d a => Sys2Proof.Machine.execVcos h d a s
  | .vtanh h d a => Sys2Proof.Machine.execVtanh h d a s
  | .vsigm h d a => Sys2Proof.Machine.execVsigm h d a s
  | .verf h d a => Sys2Proof.Machine.execVerf h d a s
  | .vcvt h dt st m sat satf d a sidx didx => Sys2Proof.Machine.execVcvt h dt st m sat satf d a sidx didx s
  | .vcvtsr h dt satf d a b didx => Sys2Proof.Machine.execVcvtsr h dt satf d a b didx s
  | .rngfill h d n => Sys2Proof.Machine.execRngfill h d n s
  | .scalecalc h given d a b c => Sys2Proof.Machine.execScalecalc h given d a b c s
  | .vquant h dt m d a b c didx => Sys2Proof.Machine.execVquant h dt m d a b c didx s
  | .ld h d m => Sys2Proof.Machine.execLd h d m s
  | .ldLong h z o d m => Sys2Proof.Machine.execLdLong h z o d m s
  | .st h d m => Sys2Proof.Machine.execSt h d m s
  | .stLong h z o d m => Sys2Proof.Machine.execStLong h z o d m s
  | .lda h d m => Sys2Proof.Machine.execLda h d m s
  | .ldaLong h z o d m => Sys2Proof.Machine.execLdaLong h z o d m s
  | .sta h d m => Sys2Proof.Machine.execSta h d m s
  | .staLong h z o d m => Sys2Proof.Machine.execStaLong h z o d m s
  | .ldc h col d acc b c => Sys2Proof.Machine.execLdc h col d acc b c s
  | .stc h col d acc b c => Sys2Proof.Machine.execStc h col d acc b c s
  | .ldu h d a off => Sys2Proof.Machine.execLdu h d a off s
  | .lduLong h z o d a off => Sys2Proof.Machine.execLduLong h z o d a off s
  | .stu h d a off => Sys2Proof.Machine.execStu h d a off s
  | .stuLong h z o d a off => Sys2Proof.Machine.execStuLong h z o d a off s
  | .atom h op wide o d m b c => Sys2Proof.Machine.execAtom h op wide o d m b c s
  | .red h op wide o m b => Sys2Proof.Machine.execRed h op wide o m b s
  | .waita h rel n b64 acq scope d a b off => Sys2Proof.Machine.execWaita h rel n b64 acq scope d a b off s
  | .fenceAcq h scope => Sys2Proof.Machine.execFenceAcq h scope s
  | .fenceRel h scope => Sys2Proof.Machine.execFenceRel h scope s
  | .fenceSc h scope => Sys2Proof.Machine.execFenceSc h scope s
  | .aliasf h => Sys2Proof.Machine.execAliasf h s
  | .commitTeam h ctr => Sys2Proof.Machine.execCommitTeam h ctr s
  | .commitGrid h ctr => Sys2Proof.Machine.execCommitGrid h ctr s
  | .commitPod h ctr => Sys2Proof.Machine.execCommitPod h ctr s
  | .bararv h b n => Sys2Proof.Machine.execBararv h b n s
  | .barwt h b => Sys2Proof.Machine.execBarwt h b s
  | .barsync h b n => Sys2Proof.Machine.execBarsync h b n s
  | .cwaitge h acq scope d a b off => Sys2Proof.Machine.execCwaitge h acq scope d a b off s
  | .cadd h rel poison scope a b off => Sys2Proof.Machine.execCadd h rel poison scope a b off s
  | .ratom h op wide q a b c off => Sys2Proof.Machine.execRatom h op wide q a b c off s
  | .mma acc xa ws xf neg nacc k => Sys2Proof.Machine.execMma acc xa ws xf neg nacc k s
  | .mdrain xd acc xc k => Sys2Proof.Machine.execMdrain xd acc xc k s
  | .maccst acc src mov k => Sys2Proof.Machine.execMaccst acc src mov k s
  | .mwait b => Sys2Proof.Machine.execMwait b s
  | .msig b n => Sys2Proof.Machine.execMsig b n s
  | .msetm cls d src => Sys2Proof.Machine.execMsetm cls d src s
  | .mfmt mode d a c => Sys2Proof.Machine.execMfmt mode d a c s
  | .munf plain a c => Sys2Proof.Machine.execMunf plain a c s
  | .mloop x a c => Sys2Proof.Machine.execMloop x a c s
  | .knotset d a => Sys2Proof.Machine.execKnotset d a s
  | .frder accd acca xa xf k => Sys2Proof.Machine.execFrder accd acca xa xf k s
  | .frgrad xd acca xa xf k => Sys2Proof.Machine.execFrgrad xd acca xa xf k s
  | .frefine accd ws kna knd i0 btr => Sys2Proof.Machine.execFrefine accd ws kna knd i0 btr s
  | .copy h mode d side c => Sys2Proof.Machine.execCopy h mode d side c s
  | .copym h ws side coreMask c => Sys2Proof.Machine.execCopym h ws side coreMask c s
  | .copyp h mode d srca c => Sys2Proof.Machine.execCopyp h mode d srca c s
  | .copyh h mode d c => Sys2Proof.Machine.execCopyh h mode d c s
  | .cbatch h d => Sys2Proof.Machine.execCbatch h d s
  | .cwaitb h d n => Sys2Proof.Machine.execCwaitb h d n s
  | .aexport h d a b => Sys2Proof.Machine.execAexport h d a b s
  | .aexportRev h a => Sys2Proof.Machine.execAexportRev h a s
  | .opfence h => Sys2Proof.Machine.execOpfence h s
  | .collAr h ty scope a => Sys2Proof.Machine.execCollAr h ty scope a s
  | .collRs h ty scope a => Sys2Proof.Machine.execCollRs h ty scope a s
  | .collAg h ty scope a => Sys2Proof.Machine.execCollAg h ty scope a s
  | .collBc h ty scope a => Sys2Proof.Machine.execCollBc h ty scope a s
  | .fmtsel h opB d a b => Sys2Proof.Machine.execFmtsel h opB d a b s
  | .revm h => Sys2Proof.Machine.execRevm h s
  | .fwdm h => Sys2Proof.Machine.execFwdm h s
  | .tapemark h d => Sys2Proof.Machine.execTapemark h d s
  | .tapemarkCut h a => Sys2Proof.Machine.execTapemarkCut h a s
  | .tapespill h d a => Sys2Proof.Machine.execTapespill h d a s
  | .tapefill h a b => Sys2Proof.Machine.execTapefill h a b s
  | .dirins h d key loc dens => Sys2Proof.Machine.execDirins h d key loc dens s
  | .dirdel h d a => Sys2Proof.Machine.execDirdel h d a s
  | .dirmove h d a core loc => Sys2Proof.Machine.execDirmove h d a core loc s
  | .dirlook h mode d a b => Sys2Proof.Machine.execDirlook h mode d a b s
  | .solicit h op pod q a => Sys2Proof.Machine.execSolicit h op pod q a s
  | .respond h a => Sys2Proof.Machine.execRespond h a s
  | .nmpost h scope q a => Sys2Proof.Machine.execNmpost h scope q a s
  | .nmgather h esz d a b c n => Sys2Proof.Machine.execNmgather h esz d a b c n s
  | .zalui d c => Sys2Proof.Machine.execZalui d c s
  | .zelui d c => Sys2Proof.Machine.execZelui d c s
  | .zaaddi d a c => Sys2Proof.Machine.execZaaddi d a c s
  | .zeori d a c => Sys2Proof.Machine.execZeori d a c s
  | .zaadd d a b => Sys2Proof.Machine.execZaadd d a b s
  | .zabra off => Sys2Proof.Machine.execZabra off s
  | .zebra off => Sys2Proof.Machine.execZebra off s
  | .zadbnz a off => Sys2Proof.Machine.execZadbnz a off s
  | .zedbnz a off => Sys2Proof.Machine.execZedbnz a off s
  | .zld w a off => Sys2Proof.Machine.execZld w a off s
  | .zst w a off => Sys2Proof.Machine.execZst w a off s
  | .zlock w a off => Sys2Proof.Machine.execZlock w a off s
  | .zunlk w a off => Sys2Proof.Machine.execZunlk w a off s
  | .zwpair ap atr as n wp wt word => Sys2Proof.Machine.execZwpair ap atr as n wp wt word s
  | .zpop d => Sys2Proof.Machine.execZpop d s
  | .zpush a => Sys2Proof.Machine.execZpush a s
  | .ziadd sat d a b => Sys2Proof.Machine.execZiadd sat d a b s
  | .zimulw d a b => Sys2Proof.Machine.execZimulw d a b s
  | .zdot8 sat uns d a b => Sys2Proof.Machine.execZdot8 sat uns d a b s
  | .zdot4 sat uns d a b => Sys2Proof.Machine.execZdot4 sat uns d a b s
  | .zdq kind k d a b c => Sys2Proof.Machine.execZdq kind k d a b c s
  | .zfadd d a b => Sys2Proof.Machine.execZfadd d a b s
  | .zfsub d a b => Sys2Proof.Machine.execZfsub d a b s
  | .zfmul d a b => Sys2Proof.Machine.execZfmul d a b s
  | .zfma d a b c => Sys2Proof.Machine.execZfma d a b c s
  | .zfmin d a b => Sys2Proof.Machine.execZfmin d a b s
  | .zfmax d a b => Sys2Proof.Machine.execZfmax d a b s
  | .zfsqrt d a => Sys2Proof.Machine.execZfsqrt d a s
  | .zfrsq d a => Sys2Proof.Machine.execZfrsq d a s
  | .zunpk hi d a => Sys2Proof.Machine.execZunpk hi d a s
  | .zpack d a b => Sys2Proof.Machine.execZpack d a b s
  | .unassignedOpcode w => Sys2Proof.Machine.execUnassignedOpcode w s
  | .mend => Sys2Proof.Machine.execMend s
  | .zaend => Sys2Proof.Machine.execZaend s
  | .zeend => Sys2Proof.Machine.execZeend s
  | .zunlkAll => Sys2Proof.Machine.execZunlkAll s
  | .ratomReply id => Sys2Proof.Machine.execRatomReply id s
  | .mmaLanding core id => Sys2Proof.Machine.execMmaLanding core id s
  | .drainExecute core => Sys2Proof.Machine.execDrainExecute core s
  | .longLatencyCompletion id fromL1 => Sys2Proof.Machine.execLongLatencyCompletion id fromL1 s
  | .afterIssueFault id fromL1 => Sys2Proof.Machine.execAfterIssueFault id fromL1 s
  | .trapHandlerEntry tid => Sys2Proof.Machine.execTrapHandlerEntry tid s
  | .tlbWalkComplete core ctx page => Sys2Proof.Machine.execTlbWalkComplete core ctx page s
  | .launch w lrec => Sys2Proof.Machine.execLaunch w lrec s
  | .gridAdmission idx => Sys2Proof.Machine.execGridAdmission idx s
  | .teamHandout grid => Sys2Proof.Machine.execTeamHandout grid s
  | .teamPlacement cluster pl => Sys2Proof.Machine.execTeamPlacement cluster pl s
  | .dispatchSteal cluster => Sys2Proof.Machine.execDispatchSteal cluster s
  | .coresidentPlacement grid pls => Sys2Proof.Machine.execCoresidentPlacement grid pls s
  | .gridCompletion grid => Sys2Proof.Machine.execGridCompletion grid s
  | .sorusRecordArrival core coalesce takeNew => Sys2Proof.Machine.execSorusRecordArrival core coalesce takeNew s
  | .binAgeFlush cluster bin => Sys2Proof.Machine.execBinAgeFlush cluster bin s
  | .thallusPacketArrival idx => Sys2Proof.Machine.execThallusPacketArrival idx s
  | .commitTokenArrival core => Sys2Proof.Machine.execCommitTokenArrival core s
  | .commitClose cid => Sys2Proof.Machine.execCommitClose cid s
  | .sorusClose cid cluster => Sys2Proof.Machine.execSorusClose cid cluster s
  | .commitApplySend cid => Sys2Proof.Machine.execCommitApplySend cid s
  | .thallusApply cid dev ch bad => Sys2Proof.Machine.execThallusApply cid dev ch bad s
  | .commitCompletion cid => Sys2Proof.Machine.execCommitCompletion cid s
  | .podCloseRelease cid => Sys2Proof.Machine.execPodCloseRelease cid s
  | .podCommitCompletion cid => Sys2Proof.Machine.execPodCommitCompletion cid s
  | .copyCommandForm id => Sys2Proof.Machine.execCopyCommandForm id s
  | .copyPieceStart id core data => Sys2Proof.Machine.execCopyPieceStart id core data s
  | .copyCompletion id => Sys2Proof.Machine.execCopyCompletion id s
  | .copyFailure id => Sys2Proof.Machine.execCopyFailure id s
  | .copypCounterAdd id => Sys2Proof.Machine.execCopypCounterAdd id s
  | .hostAckTimeout id => Sys2Proof.Machine.execHostAckTimeout id s
  | .collPieceLand id chunk data => Sys2Proof.Machine.execCollPieceLand id chunk data s
  | .reduceTeamDispatch id chunk core => Sys2Proof.Machine.execReduceTeamDispatch id chunk core s
  | .collRankCompletion id => Sys2Proof.Machine.execCollRankCompletion id s
  | .censusVisit cid core => Sys2Proof.Machine.execCensusVisit cid core s
  | .responderPlacement core pb => Sys2Proof.Machine.execResponderPlacement core pb s
  | .responderEnd tid => Sys2Proof.Machine.execResponderEnd tid s
  | .censusCoreReport cid core peer => Sys2Proof.Machine.execCensusCoreReport cid core peer s
  | .censusRootCompletion cid => Sys2Proof.Machine.execCensusRootCompletion cid s
  | .censusCloseAck cid core => Sys2Proof.Machine.execCensusCloseAck cid core s
  | .censusDeviceLost cid dev => Sys2Proof.Machine.execCensusDeviceLost cid dev s
  | .dirmoveDeparture id => Sys2Proof.Machine.execDirmoveDeparture id s
  | .dirmoveArrival id => Sys2Proof.Machine.execDirmoveArrival id s
  | .nmCommandCheck id => Sys2Proof.Machine.execNmCommandCheck id s
  | .nmCommandStart ch => Sys2Proof.Machine.execNmCommandStart ch s
  | .nmCommandCompletion ch => Sys2Proof.Machine.execNmCommandCompletion ch s
  | .zqdeadDetect ch => Sys2Proof.Machine.execZqdeadDetect ch s
  | .lockHoldTimeout ch => Sys2Proof.Machine.execLockHoldTimeout ch s
  | .lockWaitTimeout ch => Sys2Proof.Machine.execLockWaitTimeout ch s
  | .holdSliceExpiry ch bank => Sys2Proof.Machine.execHoldSliceExpiry ch bank s
  | .arm w first count => Sys2Proof.Machine.execArm w first count s
  | .nodeWaitsDone ctx n => Sys2Proof.Machine.execNodeWaitsDone ctx n s
  | .nodeStart ctx n => Sys2Proof.Machine.execNodeStart ctx n s
  | .nodeCompletion ctx n => Sys2Proof.Machine.execNodeCompletion ctx n s
  | .waitc w addr target => Sys2Proof.Machine.execWaitc w addr target s
  | .preempt w deadline => Sys2Proof.Machine.execPreempt w deadline s
  | .preemptSaved ctx => Sys2Proof.Machine.execPreemptSaved ctx s
  | .preemptDeadline ctx => Sys2Proof.Machine.execPreemptDeadline ctx s
  | .resume w => Sys2Proof.Machine.execResume w s
  | .kill w => Sys2Proof.Machine.execKill w s
  | .budgetRefill => Sys2Proof.Machine.execBudgetRefill s
  | .tempSample core temp => Sys2Proof.Machine.execTempSample core temp s
  | .droopEvent island => Sys2Proof.Machine.execDroopEvent island s
  | .thermalStepDown island => Sys2Proof.Machine.execThermalStepDown island s
  | .thermalRecover island => Sys2Proof.Machine.execThermalRecover island s
  | .powerSample watts => Sys2Proof.Machine.execPowerSample watts s
  | .patrolScrub dev pa bad => Sys2Proof.Machine.execPatrolScrub dev pa bad s
  | .softError site correctable => Sys2Proof.Machine.execSoftError site correctable s
  | .rdmaWrite host key va data => Sys2Proof.Machine.execRdmaWrite host key va data s
  | .rdmaRead host key va n => Sys2Proof.Machine.execRdmaRead host key va n s
  | .claim k => Sys2Proof.Machine.execClaim k s
  | .renew k => Sys2Proof.Machine.execRenew k s
  | .handover k target connected => Sys2Proof.Machine.execHandover k target connected s
  | .release k => Sys2Proof.Machine.execRelease k s
  | .leaseExpiry => Sys2Proof.Machine.execLeaseExpiry s
  | .ctxcreate k p c => Sys2Proof.Machine.execCtxcreate k p c s
  | .ctxdestroy k => Sys2Proof.Machine.execCtxdestroy k s
  | .map k p c => Sys2Proof.Machine.execMap k p c s
  | .unmap k va => Sys2Proof.Machine.execUnmap k va s
  | .hwin k p => Sys2Proof.Machine.execHwin k p s
  | .hwindel k num => Sys2Proof.Machine.execHwindel k num s
  | .comm k num ranks => Sys2Proof.Machine.execComm k num ranks s
  | .debug k dbg stp => Sys2Proof.Machine.execDebug k dbg stp s
  | .budget k rates => Sys2Proof.Machine.execBudget k rates s
  | .pcap k watts => Sys2Proof.Machine.execPcap k watts s
  | .attest k nonce => Sys2Proof.Machine.execAttest k nonce s
  | .telem k => Sys2Proof.Machine.execTelem k s
  | .eventAck k => Sys2Proof.Machine.execEventAck k s
  | .eventResend seq => Sys2Proof.Machine.execEventResend seq s
  | .gwCtxmem ctx va data n => Sys2Proof.Machine.execGwCtxmem ctx va data n s
  | .gwKill ctx cause => Sys2Proof.Machine.execGwKill ctx cause s
  | .markcfg ctx on => Sys2Proof.Machine.execMarkcfg ctx on s
  | .gwEvent code payload => Sys2Proof.Machine.execGwEvent code payload s
  | .debugStepBack tid gid => Sys2Proof.Machine.execDebugStepBack tid gid s
  | .peerLostTimeout dev => Sys2Proof.Machine.execPeerLostTimeout dev s
  | .portFailure port => Sys2Proof.Machine.execPortFailure port s
  | .vdmReservedDrop kind => Sys2Proof.Machine.execVdmReservedDrop kind s
  | .powerOn => Sys2Proof.Machine.execPowerOn s
  | .moduleReset => Sys2Proof.Machine.execModuleReset s
  | .trustedFwStart ok => Sys2Proof.Machine.execTrustedFwStart ok s
  | .hbmTraining failed => Sys2Proof.Machine.execHbmTraining failed s
  | .serviceFwStart ok => Sys2Proof.Machine.execServiceFwStart ok s
  | .coreTest failed => Sys2Proof.Machine.execCoreTest failed s
  | .fabricTraining dev failed => Sys2Proof.Machine.execFabricTraining dev failed s
  | .kdpServiceStart => Sys2Proof.Machine.execKdpServiceStart s
  | .writeThroughDrain core => Sys2Proof.Machine.execWriteThroughDrain core s
  | .l1LineReplacement core idx inst => Sys2Proof.Machine.execL1LineReplacement core idx inst s
  | .dqEntryFilled bank => Sys2Proof.Machine.execDqEntryFilled bank s
  | .ethernetLinkDown => Sys2Proof.Machine.execEthernetLinkDown s
  | .peerReturn dev => Sys2Proof.Machine.execPeerReturn dev s
  | .ualinkRequest src pa r => Sys2Proof.Machine.execUalinkRequest src pa r s
  | .podLaunchOutcome ctx k failed => Sys2Proof.Machine.execPodLaunchOutcome ctx k failed s

end Sys2Proof.Machine
end

