-- ==== Sys2Proof/Machine/Party.lean ====
section
/-!
DEFINITION. How a party fetches, decodes and issues its next instruction (R8, R26, R38, R196, R239, R333 to R336).
-/

namespace Sys2Proof.Machine

/-- The cause of a word that decoding refuses (R26, R27). -/
def rejectCause : Reject → Cause
  | .illop => .illop
  | .illfld => .illfld
  | .illrsv => .illrsv

/-- The same in a Rhizoid image (R336). -/
def zRejectCause : Reject → Cause
  | .illop => .zillop
  | .illfld => .zillfld
  | .illrsv => .zillrsv

/-! ### Groups -/

/-- Whether a group word is a lane instruction's, by its opcode; of PLOG, subops 0x08 to 0x0D are uniform (R61), and
SREADSR is one when its MOD bit 0 is set (R45). -/
def laneWord (w0 : Nat) : Bool :=
  let op := opOf w0
  (op == 0x12 && !(decide (2 ≤ lenOf w0) && decide (8 ≤ bitsAt w0 12 8 ∧ bitsAt w0 12 8 ≤ 13))) ||
  decide (op = 0x11 ∨ (0x20 ≤ op ∧ op ≤ 0x22) ∨ (0x28 ≤ op ∧ op ≤ 0x2D) ∨ (0x30 ≤ op ∧ op ≤ 0x38) ∨
    (0x40 ≤ op ∧ op ≤ 0x45) ∨ op = 0x48 ∨ op = 0x49 ∨ (0x68 ≤ op ∧ op ≤ 0x6B)) ||
    (op == 0x1B && decide (2 ≤ lenOf w0) && bitAt w0 0)

/-- The header of a word that decoding refuses: its DIST, and its guard where it has one. -/
def rejectHdr (r : Raw) : Hdr := if lenOf r.w0 < 2 then baseHdr r false else { (extFields r).h with fs := false }

/-- A cause that stands before decoding: the fetch fails at a word (R8, R407). -/
def fetchTrap (k : Cause) (va : Nat) (s : State) : Host.Outcome State Fault Refusal :=
  issue { row := "IFETCH", h := ⟨.base, 0, false, none⟩ }
    (fun c _ => .trap { cause := k, mask := c.em, addr := BitVec.ofNat 64 va }) s

/-- Decode a group's word and issue it. -/
def runGroupWord (b : List Byte) (s : State) : Host.Outcome State Fault Refusal :=
  let r := rawOfBytes b
  match decodeGroup r with
  | .ok i => exec i s
  | .error e => groupReject (rejectHdr r) (laneWord r.w0) (rejectCause e) s

/-- A group's next instruction: fetched, decoded, issued (R8, R26, R45). A group that its team's halt holds fetches
nothing. -/
def groupStep (s : State) : Host.Outcome State Fault Refusal :=
  match curGroup s with
  | none => .fault (.noParty "FETCH")
  | some (t, g) =>
    if !mayIssue t g s.clock then .next s
    else match fetchIns s t g.r.pc.toNat with
      | .bytes b s1 => runGroupWord b s1
      | .bad k va => fetchTrap k va s
      | .held => .next s

/-! ### Matrix streams -/

/-- Decode a stream's word and issue it. -/
def runStreamWord (b : List Byte) (s : State) : Host.Outcome State Fault Refusal :=
  match decodeStream (rawOfBytes b) with
  | .ok i => exec i s
  | .error e => streamReject (rejectCause e) s

/-- A stream's next instruction (R38, R196, R239). -/
def streamStep (s : State) : Host.Outcome State Fault Refusal :=
  match curStream s with
  | none => .fault (.noParty "FETCH")
  | some (t, m) =>
    if !mayStream t m then .next s
    else match fetchIns s t m.pc.toNat with
      | .bytes b s1 => runStreamWord b s1
      | .bad k va => .next (stopTeam s t.uid (causeCode k) m.pc va 1)
      | .held => .next s

/-! ### Rhizoid threads -/

/-- A thread's next word: outside the image ZWIN, refused by decoding its cause, else issued (R333 to R336, R338). -/
def zThreadStep (s : State) : Host.Outcome State Fault Refusal :=
  match curZ s with
  | none => .fault (.noParty "FETCH")
  | some (ch, arith, z) =>
    let stop (k : Cause) : Host.Outcome State Fault Refusal :=
      .next (abortRun s ch (causeCode k) (pc12 (z.pc arith)) arith 0)
    match zWord z arith with
    | none => stop .zwin
    | some w =>
      match (if arith then decodeZarith w else decodeZaddr w) with
      | .ok i => exec i s
      | .error e => stop (zRejectCause e)

/-! ### Parties -/

/-- The next instruction of a party. -/
def partyStep (p : Party) (s : State) : Host.Outcome State Fault Refusal :=
  let s := { s with cur := some p }
  match p with
  | .group _ _ => groupStep s
  | .stream _ => streamStep s
  | .zaddr _ => zThreadStep s
  | .zarith _ => zThreadStep s

end Sys2Proof.Machine
end

