-- ==== Sys2Proof/Machine/Turns.lean ====
section
/-!
DEFINITION. The order in which groups issue (R75, R98, R122, R145 to R147): the group whose turn comes first, at one clock a
core's lower partition first, and in a partition the group that R145 picks; with it its partner, where the two make a pair.
-/

namespace Sys2Proof.Machine

/-- What a group would do next: nothing, take a header or raise HDRRUN at fetch, or issue in a turn. -/
inductive Intent where
  | none
  | header
  | issue (x : Turn)
  deriving DecidableEq, Repr

/-- What a group would do next. -/
def intent (s : State) (tid gid : Nat) : Intent :=
  match partyStep (.group tid gid) s with
  | .next s1 =>
    if s1.turn.n != s.turn.n then .issue s1.turn
    else if groupOf s1 tid gid = groupOf s tid gid then .none
    else .header
  | .fault _ => .none
  | .refused _ => .none

/-- Whether the partition picks one turn before another at their clock: eligible for 48 counted ck or more first, the
longest first, then the higher PRIO, then the older ready age (R145). -/
def pickedBefore (x y : Turn) : Bool :=
  if 48 ≤ x.waited then decide (y.waited < x.waited)
  else if 48 ≤ y.waited then false
  else if x.prio ≠ y.prio then decide (y.prio < x.prio)
  else decide (x.since < y.since)

/-- Whether one turn comes before another: the earlier clock; at one clock a core's lower partition (R75, R98, R122), and
in a partition the one that it picks. -/
def Turn.before (x y : Turn) : Bool :=
  decide (x.clock < y.clock) ||
    (x.clock == y.clock && x.core == y.core && (decide (x.part < y.part) || (x.part == y.part && pickedBefore x y)))

/-- The groups of the machine, by team and number. -/
def allGroups (s : State) : List (Nat × Nat) := s.work.teams.flatMap fun t => t.groups.map fun g => (t.uid, g.gid)

/-- Whether every other group lets a turn go ahead: none has a header to take first, and none a turn that comes before. -/
def turnFree (s : State) (tid gid : Nat) (x : Turn) : Bool :=
  (allGroups s).all fun k => k == (tid, gid) ||
    match intent s k.1 k.2 with
    | .none => true
    | .header => false
    | .issue y => !y.before x

/-- Whether no group moves before a clock. -/
def quietBefore (s : State) (u : Nat) : Bool :=
  (allGroups s).all fun k =>
    match intent s k.1 k.2 with
    | .none => true
    | .header => false
    | .issue y => decide (u ≤ y.clock)

/-- A move of another party takes place when no group moves before the clock that it brings. -/
def inTime (s : State) (o : Host.Outcome State Fault Refusal) : Host.Outcome State Fault Refusal :=
  match o with
  | .next s1 => if s1.clock ≤ s.clock || quietBefore s s1.clock then .next s1 else .next s
  | .fault f => .fault f
  | .refused r => .refused r

/-! ### The engine's rotation (R241) -/

/-- What a stream would do next: nothing any more, nothing as things stand, another instruction, or a start of the matrix
engine, with the clock. -/
inductive StreamNext where
  | idle
  | held
  | other (u : Nat)
  | engine (u : Nat)
  deriving DecidableEq, Repr

/-- What a stream would do next. -/
def streamNext (s : State) (t : Team) : StreamNext :=
  if !(t.stream.any (mayStream t)) then .idle
  else match partyStep (.stream t.uid) s with
    | .next s1 =>
      if (coreOf s1 t.core).engFree != (coreOf s t.core).engFree then .engine s1.clock
      else if teamOf s1 t.uid = teamOf s t.uid then .held
      else .other s1.clock
    | .fault _ => .idle
    | .refused _ => .idle

/-- How far a stream's context stands from the one that the engine served last. -/
def rotation (s : State) (t : Team) : Nat := (t.stream.map fun m => (m.ctxNo + 3 - (coreOf s t.core).engLast) % 4).getD 0

/-- Whether a start of the engine at clock `u` may go ahead of another context of the core: that one starts it later, or
at the same clock and farther in the rotation, or does something else by then; while it waits for something, the clock
must have come (R241). -/
def engineAhead (s : State) (t k : Team) (u : Nat) : Bool :=
  match streamNext s k with
  | .idle => true
  | .held => decide (u ≤ s.clock)
  | .other v => decide (u ≤ v)
  | .engine v => decide (u < v) || (u == v && decide (rotation s t < rotation s k))

/-- Whether a stream's next instruction may go ahead: it starts no engine, or goes ahead of every other context of its
core. -/
def engineTurn (s : State) (t : Team) : Bool :=
  match streamNext s t with
  | .idle => true
  | .held => true
  | .other _ => true
  | .engine u => s.work.teams.all fun k => k.uid == t.uid || k.core != t.core || engineAhead s t k u

/-- A stream's move. -/
def streamMove (tid : Nat) (s : State) : Host.Outcome State Fault Refusal :=
  if (teamOf s tid).all (engineTurn s) then partyStep (.stream tid) s else .next s

/-! ### Pairs (R146) -/

/-- The opcodes that pairs issue. -/
def pairOp (op : Nat) : Bool :=
  decide ((0x28 ≤ op ∧ op ≤ 0x2D) ∨ (0x30 ≤ op ∧ op ≤ 0x32) ∨ (0x34 ≤ op ∧ op ≤ 0x36) ∨
    op = 0x38 ∨ op = 0x40 ∨ op = 0x42)

/-- The opcode at an address, where it can be fetched. -/
def opcodeAt (s : State) (t : Team) (va : Nat) : Option Nat :=
  match fetchWord s t va with
  | .bytes w _ => some (opOf (natOfBytes w))
  | .bad _ _ => none
  | .held => none

/-- A group's `em` as it stands at a clock. -/
def emAt (u : Nat) (g : Group) : Mask := (settleGroup u g).r.em

/-- The groups that meet the conditions of R146 with a group whose turn is `x`, with their own turns. -/
def partners (s : State) (t : Team) (g : Group) (x : Turn) : List (Group × Turn) :=
  if ((opcodeAt s t g.r.pc.toNat).map pairOp).getD false then
    t.groups.filterMap fun h =>
      if h.gid != g.gid && h.part == g.part && h.r.pc == g.r.pc && (emAt x.clock g &&& emAt x.clock h) == 0 then
        match intent s t.uid h.gid with
        | .issue y => if y.clock = x.clock then some (h, y) else none
        | .none => none
        | .header => none
      else none
  else []

/-- Those of them that are oldest. -/
def oldest (l : List (Group × Turn)) : List (Group × Turn) := l.filter fun h => l.all fun k => decide (h.2.since ≤ k.2.since)

/-- A core whose unit and slot of a partition are as in another state of it. -/
def sameUnits (part : Nat) (old c : Core) : Core :=
  { c with fmaFree := vset c.fmaFree part (vget old.fmaFree part), sfuFree := vset c.sfuFree part (vget old.sfuFree part)
           unitUse := old.unitUse, partLast := vset c.partLast part (vget old.partLast part) }

/-- Two groups issue together: the lower-numbered first, as RNGFILL draws, both at one clock, occupying the unit once
(R102, R146). -/
def pairStep (t : Team) (a b : Group) (s : State) : Host.Outcome State Fault Refusal :=
  match partyStep (.group t.uid (min a.gid b.gid)) s with
  | .next s1 =>
    match partyStep (.group t.uid (max a.gid b.gid)) (updCore s1 t.core (sameUnits a.part (coreOf s t.core))) with
    | .next s2 => .next (updCore s2 t.core (sameUnits a.part (coreOf s1 t.core)))
    | .fault f => .fault f
    | .refused r => .refused r
  | .fault f => .fault f
  | .refused r => .refused r

/-- A group's move: the headers at its pc; else its issue, when its turn has come, with the oldest group that makes a pair
with it, `want` where several are as old. -/
def groupMove (tid gid : Nat) (want : Option Nat) (s : State) : Host.Outcome State Fault Refusal :=
  match intent s tid gid with
  | .none => partyStep (.group tid gid) s
  | .header => partyStep (.group tid gid) s
  | .issue x =>
    if !turnFree s tid gid x then .next s
    else match teamOf s tid, groupOf s tid gid with
      | some t, some g =>
        let l := oldest (partners s t g x)
        match (l.find? fun h => want == some h.1.gid).or l.head? with
        | some h => pairStep t g h.1 s
        | none => partyStep (.group tid gid) s
      | _, _ => .next s

end Sys2Proof.Machine
end

