-- ==== Sys2Proof/Machine/Schedule.lean ====
section
/-!
DEFINITION. What moves when the agenda is empty (log entry 6): bring-up's next step, else the first of the moves that the
state itself determines, else one clock passes. Moves with a choice of the device or of the outside world come from the
agenda alone.
-/

namespace Sys2Proof.Machine

/-- A move to try. -/
abbrev Move := State → Host.Outcome State Fault Refusal

/-- An image that verification admits (R421). -/
def goodImage : FwImage := ⟨[], Config.rootKey, xmssSig Config.rootKey 0 []⟩

/-- The next step of bring-up, each succeeding that can (R430). -/
def bringUpMove (s : State) : Option Move :=
  if !s.firm.powered then some execPowerOn
  else if s.firm.failed || s.firm.tripped then none
  else match s.firm.step with
    | 1 => some (execTrustedFwStart goodImage)
    | 2 => some (execHbmTraining ⟨[], []⟩)
    | 3 => some (execServiceFwStart goodImage)
    | 4 => some (execCoreTest [])
    | 5 => some (execFabricTraining 0 [])
    | 6 => some execKdpServiceStart
    | _ => none

/-- The teams with a stream, each core's in rotation beginning after the context that its engine served last (R241). -/
def streamOrder (s : State) : List Team :=
  (List.range 4).flatMap fun k => s.work.teams.filter fun t => match t.stream with
    | some m => (m.ctxNo + 3 - (coreOf s t.core).engLast) % 4 == k
    | none => false

/-- Parties that issue. -/
def partyMoves (s : State) : List Move :=
  (allGroups s).map (fun k => groupMove k.1 k.2 none) ++
    (streamOrder s).map (fun t => streamMove t.uid) ++
    s.units.flatMap fun u => [partyStep (.zaddr u.ch), partyStep (.zarith u.ch)]

/-- Trap entries and completions. -/
def coreMoves (s : State) : List Move :=
  s.work.teams.map (fun t => execTrapHandlerEntry t.uid) ++
    s.work.ops.flatMap (fun o => [execLongLatencyCompletion o.id false, execAfterIssueFault o.id false, execRatomReply o.id]) ++
    s.work.teams.flatMap (fun t => match t.stream with
      | some m => m.mops.map fun o => execMmaLanding t.core o.id
      | none => []) ++
    s.work.cores.flatMap fun c => [execDrainExecute c.1, execWriteThroughDrain c.1]

/-- The deferred path (R155 to R163). -/
def deferMoves (s : State) : List Move :=
  s.work.cores.flatMap (fun c => [execSorusRecordArrival c.1 false false, execCommitTokenArrival c.1]) ++
    [execThallusPacketArrival 0] ++
    s.defer.commits.flatMap fun c =>
      [execCommitClose c.id] ++ s.defer.sorus.map (fun x => execSorusClose c.id x.1) ++ [execCommitApplySend c.id] ++
        c.applySent.map (fun a => execThallusApply c.id a.1 a.2.1 []) ++ [execCommitCompletion c.id]

/-- The fills that a unit's banks may make, in the order of the ZLDs (R365). -/
def dqMoves (s : State) (u : Unit') : List Move :=
  match u.run with
  | some z => (z.dq.filter fun d => d.data.isNone).flatMap fun d => (keyBanks s d.key 64).map fun b => execDqEntryFilled (32 * u.ch + b)
  | none => []

/-- The next packets of RDMA requests under way (R382). -/
def rdmaMoves (s : State) : List Move :=
  s.host.rdma.map fun r => match r.data with
    | some d => execRdmaWrite r.host r.key r.va d
    | none => execRdmaRead r.host r.key r.va r.n

/-- The outcomes of joint launch checks that this device knows (R419). -/
def podMoves (s : State) : List Move :=
  (s.work.grids.filter fun g => g.phase == .waitPod).filterMap fun g =>
    match g.podNo, podOutcome s g with
    | some k, some f => some (execPodLaunchOutcome g.ctx k (if f = 0 then none else some f))
    | _, _ => none

/-- Copies, directory moves, censuses, Rhizoid commands. -/
def unitMoves (s : State) : List Move :=
  s.work.copies.flatMap (fun c => [execCopyCommandForm c.id, execCopyCompletion c.id, execCopypCounterAdd c.id]) ++
    s.cen.moves.flatMap (fun m => [execDirmoveDeparture m.id, execDirmoveArrival m.id]) ++
    s.cen.open'.map (fun c => execCensusRootCompletion c.id) ++
    s.work.teams.map (fun t => execResponderEnd t.uid) ++
    s.work.nmPosted.map (fun c => execNmCommandCheck c.id) ++
    s.units.flatMap (fun u => dqMoves s u ++ [execNmCommandStart u.ch, execNmCommandCompletion u.ch, execZqdeadDetect u.ch]) ++ rdmaMoves s

/-- The command at the head of a queue. -/
def queueMove (c : QCmd) : Move :=
  let w : CmdWhen := .start c.ctx c.queue
  match c.kind with
  | .launch a _ => execLaunch w a
  | .arm first count => execArm w first count
  | .waitc addr target => execWaitc w addr target
  | .preempt us => execPreempt w us
  | .resume => execResume w
  | .kill => execKill w

/-- Commands, nodes, dispatch and grids. -/
def ctlMoves (s : State) : List Move :=
  s.host.cmds.map queueMove ++
    s.ctl.nodes.flatMap (fun k => [execNodeWaitsDone k.ctx k.n, execNodeStart k.ctx k.n, execNodeCompletion k.ctx k.n]) ++
    s.work.grids.flatMap (fun g => [execTeamHandout g.uid, execGridCompletion g.uid]) ++
    s.ctl.ctxs.map (fun c => execPreemptSaved c.num) ++ podMoves s

/-- The first move that changes the state, none before a group's turn (R145). -/
def firstMove (s : State) : List Move → Option State
  | [] => none
  | f :: r =>
    match inTime s (f s) with
    | .next s' => if s' = s then firstMove s r else some s'
    | .fault _ => firstMove s r
    | .refused _ => firstMove s r

/-- What moves with an empty agenda; on a device that has tripped, time alone (R427). -/
def schedule (s : State) : Host.Outcome State Fault Refusal :=
  match bringUpMove s with
  | some f => f s
  | none =>
    if s.firm.tripped then .next { s with clock := s.clock + 1 }
    else .next ((firstMove s (coreMoves s ++ partyMoves s ++ unitMoves s ++ deferMoves s ++ ctlMoves s)).getD
      { s with clock := s.clock + 1 })

/-- An event of the device or of the outside world. A peer's party writes its own device's memory, and this device's
through UALINK_REQUEST and messages (R417, R418). -/
def runOther (i : Item) (s : State) : Host.Outcome State Fault Refusal :=
  match i with
  | .party p => partyStep p s
  | .pair _ _ _ => .next s
  | .event e => exec e { s with cur := none }
  | .peer cells =>
    if cells.any fun c => keyDev c.1 == s.firm.devNum then .fault (.notEnabled "PEER_WRITE")
    else .next { s with mem := memSetCells s.mem cells }
  | .message src m => receive src m s
  | .reserve core => match reserveDrain core s with
    | some s => .next s
    | none => .fault (.notEnabled "DRAIN_RESERVATION")
  | .operate island mhz mv => operate island mhz mv s
  | .heat island temp => heatIsland island temp s

/-- What a device that has tripped does: it answers ATTEST and TELEM, until it is power-cycled (R427). -/
def afterTrip : Item → Bool
  | .event (.attest _ _) | .event (.telem _) | .event .powerOn => true
  | _ => false

/-- One item of the agenda, of a device that has not tripped. A group moves in its turn (R145), a pair names the partner
where several would do (R146), a stream starts the engine in rotation (R241); any other item takes place unless a group
moves before the clock that it brings. What may not move yet changes nothing. -/
def runLive (i : Item) (s : State) : Host.Outcome State Fault Refusal :=
  match i with
  | .party (.group tid gid) => groupMove tid gid none s
  | .pair tid a b => groupMove tid a (some b) s
  | .party (.stream tid) => inTime s (streamMove tid s)
  | i => inTime s (runOther i s)

/-- One item of the agenda. -/
def runItem (i : Item) (s : State) : Host.Outcome State Fault Refusal :=
  if s.firm.tripped && !afterTrip i then .next s else runLive i s

end Sys2Proof.Machine
end

