-- ==== Sys2Proof/Machine/Place.lean ====
section
/-!
DEFINITION. The least machine in which one given word is the next to be fetched (log entry 6): a context with one page of
code, and a team with one group and a matrix stream, or a Rhizoid command, at that word.
-/

namespace Sys2Proof.Machine

/-- The bytes of a table word: its bits above `nbits` are zero, up to the longest instruction. -/
def placeBytes (nbits w : Nat) : List Byte := bytesOfNat 20 (w % 2 ^ nbits)

/-- The party that fetches a table word, in the decoder's order; `tid` is its team. -/
def placeParty (tid nbits w : Nat) : Party :=
  let r := rawOfBytes (placeBytes nbits w)
  let ok (d : Except Reject Instr) : Bool := match d with | .ok _ => true | .error _ => false
  let rhz : Option Party :=
    if ok (decodeZaddr r.w0) then some (.zaddr 0) else if ok (decodeZarith r.w0) then some (.zarith 0) else none
  let grp : Option Party :=
    if ok (decodeGroup r) then some (.group tid 0) else if ok (decodeStream r) then some (.stream tid) else none
  let first := if nbits ≤ 32 ∧ 2 ≤ lenOf r.w0 then rhz.or grp else grp.or rhz
  first.getD (.group tid 0)

/-- Where the code lies: virtual address 0x10000, physical address 0x160000, under tables from 0x100000 on (R400). -/
def placeVa : Nat := 0x10000

/-- A context whose table maps one executable page. -/
def placeCtx : Ctx :=
  { num := 0, root := 0x100000, thentry := 0, save := 0, dbgArea := 0, dbg := false, stp := false, deadline := 2000
    nodes := 0, nb := 0, pod := [], ownerKey := 0, sharedKey := 1, mark := true, rates := Vector.replicate 6 0
    buckets := Vector.replicate 6 0, drain := none, saved := false, launches := 0
    tabs := [(0x100000, 131072), (0x120000, 131072), (0x140000, 8192), (0x150000, 512)], maps := [(placeVa, 0)] }

/-- The page tables and the code (R400, R401). -/
def placeMem (s : State) (code : List Byte) : Memory :=
  let k (a : Nat) := ownKey s a
  let m := memPut s.mem (k 0x100000) 16 0x120001
  let m := memPut m (k 0x120000) 16 0x140001
  let m := memPut m (k 0x140000) 16 0x150001
  let m := memPut m (k 0x150010) 16 0x16001F
  memSetN m (k 0x160000) code

/-- The context and the code, with nothing of the context's number held elsewhere. -/
def placeCode (s : State) (code : List Byte) : State :=
  { s with
    mem := placeMem s code
    work := { s.work with cores := s.work.cores.map fun c => (c.1, dropCtxCore 0 c.2) }
    ctlb := s.ctlb.map fun c => (c.1, c.2.filter fun e => e.ctx != 0)
    ctl := { s.ctl with ctxs := placeCtx :: s.ctl.ctxs.filter fun c => c.num != 0 }
    host := { s.host with wins := s.host.wins.filter fun w => w.ctx != 0 } }

/-- A team of one group, and with a stream where one is to fetch, each at the code (R138, R140). -/
def placeTeam (s : State) (stream : Bool) : State :=
  let entry : Dword := BitVec.ofNat 64 placeVa
  let al : Alloc := { abase := 0, asize := 0, tiles := [], slots := [], tapeb := 0 }
  let t := Team.start s.nextId 0 s.nextId 0 0 0 al [Group.start s.clock 0 0 false 256 entry 0 0]
    (if stream then some (MStream.start 0 entry) else none) (TeamDef.start 0 false 0) none
  bumpId { s with work := { s.work with teams := s.work.teams ++ [t] } }

/-- A Rhizoid command that runs on unit 0 with the code as its image (R334, R353). -/
def placeRun (s : State) (code : List Byte) : State :=
  let c : NmCmd :=
    { id := s.nextId, ctx := 0, owner := none, scope := 2, reply := none, node := none, op := none, descAt := 0, desc := none
      image := code, winKey := [], ctrKey := none, statKey := none, ch := 0, gather := none }
  bumpId (setUnit s { unitOf s 0 with run := some (startZ c s.clock) })

/-- The machine with a word placed for the party that fetches it. -/
def placeFor (p : Party) (s : State) (code : List Byte) : State :=
  match p with
  | .group _ _ => placeTeam (placeCode s code) false
  | .stream _ => placeTeam (placeCode s code) true
  | .zaddr _ => placeRun s code
  | .zarith _ => placeRun s code

end Sys2Proof.Machine
end

