-- ==== Sys2Proof/Machine/Watch.lean ====
section
/-!
DEFINITION. What the device watches for after every step: period boundaries, deadlines that have passed, accesses that wait
for a held bank, adds that homes have held back, what waits for a cool core, undo rings, silent peers, and counters of task
nodes (R164, R342, R366, R367, R378, R380, R382, R384, R405, R418; log entry 33).
-/

namespace Sys2Proof.Machine

/-! ### Deadlines (R342, R366, R367, R384) -/

/-- The deadlines of a unit's command that the clock has passed: a row held or awaited too long, a hold slice. -/
def unitDue (s : State) (u : Unit') : List Move :=
  (u.slices.filter fun x => decide (x.2 + sliceClocks ≤ s.clock)).map (fun x => execHoldSliceExpiry u.ch x.1) ++
    (match liveRun s u.ch with
     | some z =>
       (if z.locks.head?.any fun k => decide (k.since + 3200 < s.clock) then [execLockHoldTimeout u.ch] else []) ++
         if z.lockWait.any fun x => decide (x.2 + 3200 ≤ s.clock) then [execLockWaitTimeout u.ch] else []
     | none => [])

/-- The contexts whose drain has passed its deadline. -/
def drainsDue (s : State) : List Move :=
  (s.ctl.ctxs.filter fun c => c.drain.any fun d => decide (drainEnd c d ≤ s.clock)).map fun c => execPreemptDeadline c.num

/-- What has fallen due takes place. -/
def runDue (s : State) : State := (s.units.flatMap (unitDue s) ++ drainsDue s).foldl (fun s f => orSame s (f s)) s

/-! ### Hold slices (R366) -/

/-- A hold slice begins in a unit's bank when an access of another party to a different row of it waits. -/
def startSlices (s : State) (u : Unit') : Unit' :=
  let wanted (b : Nat × Nat) : Bool := (bankQueue s u.ch b.1 s.nextId).any fun k => rowId s (keyPa k) != b.2
  let new := u.openRows.filter fun b => (aGet u.slices b.1).isNone && wanted b
  { u with slices := u.slices ++ new.map fun b => (b.1, s.clock) }

/-- Once the accesses that a bank was given up to have been served, the unit's oldest access to it opens its row. -/
def takeBack (s : State) (u : Unit') : State :=
  u.served.foldl (fun s b =>
    let left := b.2.2.filter (bankQueue s u.ch b.1 b.2.1).contains
    let v := unitOf s u.ch
    if !left.isEmpty then setUnit s { v with served := aSet v.served b.1 (b.2.1, left) }
    else
      let s := setUnit s { v with served := aDel v.served b.1 }
      match v.run.bind fun z => (z.loads s b.1).head? with
      | some e => openBank s u.ch b.1 (rowId s (keyPa e.key))
      | none => s) s

/-- Hold slices begin where they must. -/
def watchBanks (s : State) : State :=
  if s.units.all fun u => u.openRows.isEmpty && u.served.isEmpty then s
  else
    let s := s.units.foldl takeBack s
    { s with units := s.units.map (startSlices s) }

/-! ### Waiting for a cool core (R380) -/

/-- Whether the cores of the device hold a number of teams, hot cores counted. -/
def hotEnough (s : State) (n : Need) (count : Nat) : Bool :=
  decide (count ≤ (List.range Config.cores).foldl (fun k c => k + coreRoom s n (count - k) c) 0)

/-- The steps of a collective whose pieces have landed and whose reduce team has not run. -/
def stepsReady (s : State) (c : Coll) : List Nat :=
  match ringPos s c with
  | some (i, n) =>
    if !c.read || c.done || c.failed.isSome then []
    else (List.range (2 * n + 1)).filter fun st => stepExpected c i n st && !c.stepsDone.contains st &&
      (st == 2 * n || ((aGet c.staged st).getD []).length == stepBytes c n st)
  | none => []

/-- What waits with only hot cores fitting: queued teams, co-resident grids, responders, reduce teams. -/
def hotWaiting (s : State) : List HotKey :=
  let teams := s.work.disp.queues.flatMap fun q => (q.2.filter fun e =>
    (gridOf s e.grid).any fun g => hotOnly s (clusterCores q.1) (needOf g.lr)).map fun e => .team e.grid e.team
  let grids := (s.work.grids.filter fun g => g.phase == .dispatch && g.lr.cores && g.cursor == 0 &&
    (let k := (localTeams s g).length
     coolShort s (needOf g.lr) k && hotEnough s (needOf g.lr) k)).map fun g => .grid g.uid
  let resps := s.work.cores.filterMap fun c =>
    match nextResp s c.1, nextNeed s c.1 with
    | some x, some n => if c.2.hot && coreFits s c.1 n then some (.resp c.1 x.1 x.2.1) else none
    | _, _ => none
  let fit := (List.range Config.cores).filter (reduceFits s)
  let reduces := if !fit.isEmpty && fit.all fun k => (coreOf s k).hot then
      s.work.colls.flatMap fun c => (stepsReady s c).map fun st => .reduce c.id st
    else []
  teams ++ grids ++ resps ++ reduces

/-- Since when each of them waits. -/
def watchHeat (s : State) : State :=
  if s.work.disp.hotWait.isEmpty && !s.work.cores.any fun c => c.2.hot then s
  else
    let since (k : HotKey) : Nat := (hotSince s k).getD s.clock
    let l := if s.work.cores.any fun c => c.2.hot then hotWaiting s else []
    { s with work := { s.work with disp := { s.work.disp with hotWait := l.map fun k => (k, since k) } } }

/-! ### The undo log's rings (R405) -/

/-- Write an entry of a group's undo log to its place in the ring, where the owner's debug area is mapped and its homes do
not hold the write back. -/
def putUndo (s : State) (t : Team) (c : Ctx) (gid : Nat) (e : Undo) : Option State :=
  let a := c.dbgArea.toNat + Config.undoRing t.uid gid + 288 * (e.seq % 2048)
  let ks := (List.range 288).map fun i => (homeKey s c.num (a + i) true).toOption
  let put (m : Memory) (x : Option Nat × Byte) : Memory := (x.1.map fun k => memSet m k x.2).getD m
  if ks.any fun k => k.any (homeWaits s) then none else some { s with mem := (ks.zip e.bytes).foldl put s.mem }

/-- The entries of a group that do not stand in the debug area yet, in issue order. -/
def putRing (t : Team) (c : Ctx) (s : State) (g : Group) : State :=
  (g.undo.filter fun e => !e.out).foldl (fun s e =>
    match putUndo s t c g.gid e with
    | some s1 => updGroup s1 t.uid g.gid fun g =>
        { g with undo := g.undo.map fun x => if x.seq = e.seq then { x with out := true } else x }
    | none => s) s

/-- The undo logs of the contexts whose debug bit is set stand in their debug areas (R405). -/
def watchUndo (s : State) : State :=
  (s.ctl.ctxs.filter fun c => c.dbg).foldl (fun s c =>
    (s.work.teams.filter fun t => t.ctx == c.num).foldl (fun s t => t.groups.foldl (putRing t c) s) s) s

/-! ### After a step -/

/-- What the device does of itself after a step. -/
def watch (s : State) : State :=
  lookNodes (watchPeers (watchUndo (watchHeat (watchBanks (addsDue (runDue (refillBudgets s)))))))

/-- A step with it. -/
def watched : Host.Outcome State Fault Refusal → Host.Outcome State Fault Refusal
  | .next s => .next (watch s)
  | .fault f => .fault f
  | .refused r => .refused r

end Sys2Proof.Machine
end

