-- ==== Sys2Proof/Machine/Step.lean ====
section
/-!
DEFINITION. One step of the machine, and a word placed where the next step fetches it.
-/

namespace Sys2Proof.Machine

/-- One step: the head of the agenda, or what the machine's own order moves next (log entry 6), and what the device does
of itself after it (log entry 33). -/
def step (s : State) : Host.Outcome State Fault Refusal :=
  watched (match s.agenda with
    | [] => schedule s
    | i :: r => runItem i { s with agenda := r })

/-- The state with a table word stored where the next step fetches its instruction (log entry 6). -/
def State.withFetchWord (s : State) (nbits w : Nat) : State :=
  let p := placeParty s.nextId nbits w
  { placeFor p s (placeBytes nbits w) with agenda := [.party p] }

end Sys2Proof.Machine
end

