-- ==== Sys2Proof/Safety.lean ====
section
/-!
DEFINITION. What counts as a safe run, and the terms in which claims are stated: when a group's instruction can issue, the
registers it then reads, and what an issue leaves as it is.
-/

namespace Sys2Proof.Machine

/-- The machine takes a step. -/
def Steps (s : State) : Prop := ∃ s', step s = .next s'

/-! ### Invariants -/

/-- Every memory that State holds is in its canonical form. -/
def MemOk (s : State) : Prop :=
  s.mem.wf = true ∧ ∀ c ∈ s.work.cores, c.2.abuf.wf = true ∧ c.2.cbuf.wf = true ∧ c.2.wbuf.wf = true

/-! ### The issue of a group's instruction -/

/-- The clock at which an instruction with issue facts `i` issues (R25, R49, R55, R93, R145). -/
def issueU (i : Iss) (s : State) (t : Team) (g : Group) : Nat := issueClock s t g i.h.dist i.unit

/-- The group as the instruction reads it: its registers as they stand at that clock, pending destinations free (R24,
R143). -/
def settled (i : Iss) (s : State) (t : Team) (g : Group) : Group :=
  veil s.fresh (settleGroup (issueU i s t g) g)

/-- The state at that clock. -/
def atIssue (i : Iss) (s : State) (t : Team) (g : Group) : State :=
  settle { s with clock := issueU i s t g, turn := turnAt i s t g (issueU i s t g) } t.uid g.gid (issueU i s t g)

/-- The active lanes of a lane instruction, or `em` (R16, R45); those of a replay, where one is ordered (R397). -/
def activeAt (i : Iss) (g : Group) : Mask :=
  match g.t.replay with
  | some r => r.active
  | none => if i.lane then g.r.em &&& guardMask g i.h.guard else g.r.em

/-- The address after an instruction, or where a replay goes on (R7, R397). -/
def nextAt (i : Iss) (g : Group) : Dword :=
  match g.t.replay with
  | some r => r.rpc
  | none => g.r.pc + BitVec.ofNat 64 (isLen i.h)

/-- What the instruction sees of its group at issue. -/
def ctlAt (i : Iss) (s : State) (t : Team) (g : Group) : Ctl :=
  let h := settled i s t g
  { tid := t.uid, gid := g.gid
    t := t.updGroup g.gid (settleGroup (issueU i s t g)), g := h
    u := issueU i s t g, pc := h.r.pc
    next := nextAt i h, act := activeAt i h, uni := !i.lane, on := true, replay := h.t.replay
    flag := flagOf h i.h.fs, dbg := ((ctxOf s t.ctx).map fun c => c.dbg).getD false, id0 := s.nextId }

/-- The instruction takes effect: it is a lane instruction, or a replay, or its uniform guard holds (R16, R397). -/
def TakesEffect (i : Iss) (s : State) (t : Team) (g : Group) : Prop :=
  i.lane = true ∨ g.t.replay ≠ none ∨ guardOn (settled i s t g) i.h.guard = true

/-- Group `g` of team `t`, the party of the state, can issue an instruction with issue facts `i`: its team's halt lets it
(R392, R398), nothing holds it (R21, R107, R119, R121, R124), the flag of a long-latency instruction exists and, where it
takes effect, can count (R16, R22, R23), and its vector registers lie in the budget (R18). -/
structure CanIssue (i : Iss) (s : State) (t : Team) (g : Group) : Prop where
  cur : s.cur = some (.group t.uid g.gid)
  team : teamOf s t.uid = some t
  group : groupIn t g.gid = some g
  may : mayIssue t g s.clock = true
  time : mayIssue t g (issueU i s t g) = true
  free : heldByOps s t g i.mem = false
  room : i.ll = true → TakesEffect i s t g → ∀ k, flagOf g i.h.fs = some k → vget g.f.cf k < 63
  flag : i.ll = true → i.wr = true → flagOf g i.h.fs ≠ none
  regs : ∀ n ∈ i.vs, n < g.bud

/-- Whether the step bit of a team's context is set (R406). -/
def stepBit (s : State) (t : Team) : Bool := ((ctxOf s t.ctx).map fun k => k.stp).getD false

/-- The group can issue, and its context's step bit is clear (R406). -/
structure Ready (i : Iss) (s : State) (t : Team) (g : Group) : Prop extends CanIssue i s t g where
  step : stepBit s t = false

/-- What a list of writes, in their order, leaves of a value: what the last that concerns it writes, or the value of
before. -/
def lastOf {α : Type} (l : List RegWr) (f : RegWr → Option α) (old : α) : α := (l.reverse.findSome? f).getD old

/-! ### The state after an issue -/

/-- Whether the group issues while its team's halt settles (R392). -/
def issuesSettling (t : Team) (g : Group) : Bool :=
  (match t.halt with | .running => false | .settling _ => true | .service _ => true) && !g.t.inHandler

/-- The core's issue clocks after an issue (R93, R145). -/
def issueCore (i : Iss) (u part : Nat) (k : Core) : Core :=
  { occupy i.unit part u k with partLast := vset k.partLast part (some u) }

/-- The state after group `g` issued an instruction whose own effect on its group is `eff`, after which it goes on at `pc`
and not before clock `hold`, and which put the operations `ops` in flight. Nothing else changes: no memory, no other
group, no other core. -/
def afterIssue (i : Iss) (s : State) (t : Team) (g : Group) (pc : Dword) (hold : Nat) (eff : Group → Group)
    (ops : List Op) : State :=
  let u := issueU i s t g
  { s with
    clock := u
    nextId := s.nextId + ops.length
    fresh := s.fresh + 1
    turn := turnAt i s t g u
    work := { s.work with
      teams := s.work.teams.map fun x =>
        if x.uid = t.uid then
          x.updGroup g.gid fun y => retireGroup u pc hold (issuesSettling t g) (eff (settleGroup u y))
        else x
      cores := aSet s.work.cores t.core (issueCore i u g.part (coreOf s t.core))
      ops := (s.work.ops.map (countAfter t.uid g.gid (firstId g) s.nextId)) ++ ops } }

/-- Register writes that later instructions see from `lat` clocks after the issue (R143). -/
def writesAt (i : Iss) (s : State) (t : Team) (g : Group) (lat : Nat) (ws : List RegWr) (y : Group) : Group :=
  let c := ctlAt i s t g
  let y := logWrs c.dbg c.u c.pc (c.u + lat) ws y
  { y with i := { y.i with pend := ws.foldl (fun l w => pendIns ⟨c.u + lat, w⟩ l) y.i.pend } }

/-- The state after a fixed-latency instruction that writes `ws`. -/
def afterFixed (i : Iss) (s : State) (t : Team) (g : Group) (lat : Nat) (ws : List RegWr) : State :=
  afterIssue i s t g (ctlAt i s t g).next 0 (writesAt i s t g lat ws) []

/-- The operation that a long-latency instruction puts in flight (R22). -/
def newOp (i : Iss) (s : State) (t : Team) (g : Group) (k : OpKind) : Op :=
  let c := ctlAt i s t g
  { id := s.nextId, tid := c.tid, gid := c.gid, flag := c.flag, pc := c.pc, next := c.next, kind := k, after := 0
    issued := c.u, uni := if c.uni then some c.em else none }

/-- Its flag counts up and its destinations hold free values until the flag reports completion (R22, R24). -/
def opTaken (i : Iss) (s : State) (t : Team) (g : Group) (k : OpKind) (y : Group) : Group :=
  let c := ctlAt i s t g
  takeDsts s.nextId c.flag (opDsts k) (incFlag c.flag
    (logWrs c.dbg c.u c.pc c.u ((opDsts k).map (freeWr (s.fresh + 1))) y))

/-- The state after a long-latency instruction that puts `k` in flight, with a further effect `eff` on its group before.
-/
def afterLong (i : Iss) (s : State) (t : Team) (g : Group) (k : OpKind) (eff : Group → Group := id) : State :=
  afterIssue i s t g (ctlAt i s t g).next 0 (fun y => opTaken i s t g k (eff y)) [newOp i s t g k]

/-! ### Forms of a claim about a group's instruction -/

/-- Wherever `x`, with issue facts `i`, is ready and takes effect, it completes: it writes `ws`, seen from `lat` clocks
after its issue, and changes nothing else but the group's place in the program and its issue clocks. -/
def Writes (i : Iss) (lat : Nat) (x : Instr) (ws : Ctl → List RegWr) : Prop :=
  ∀ s t g, Ready i s t g → TakesEffect i s t g → exec x s = .next (afterFixed i s t g lat (ws (ctlAt i s t g)))

/-- Wherever `x` is ready and takes effect, it puts the operation `k` in flight. -/
def Starts (i : Iss) (x : Instr) (k : Ctl → OpKind) : Prop :=
  ∀ s t g, Ready i s t g → TakesEffect i s t g → exec x s = .next (afterLong i s t g (k (ctlAt i s t g)))

/-- Wherever `x` is ready and takes effect, it goes on at `pc` and holds the next issue until `hold`. -/
def GoesTo (i : Iss) (x : Instr) (pc : Ctl → Dword) (hold : Ctl → Nat) : Prop :=
  ∀ s t g, Ready i s t g → TakesEffect i s t g →
    exec x s = .next (afterIssue i s t g (pc (ctlAt i s t g)) (hold (ctlAt i s t g)) id [])

/-- Wherever `x` is ready, takes effect and finds `ok`, its own effect is `eff`, and its issue ends after it. -/
def Acts (i : Iss) (x : Instr) (ok : Ctl → State → Prop) (eff : Ctl → State → State) : Prop :=
  ∀ s t g, Ready i s t g → TakesEffect i s t g → ok (ctlAt i s t g) (atIssue i s t g) →
    exec x s = .next (retire i (ctlAt i s t g) (eff (ctlAt i s t g) (atIssue i s t g)) (ctlAt i s t g).next 0)

/-- Wherever `x` is ready, takes effect and finds `bad`, it traps with cause `k` before any effect. -/
def TrapsWith (i : Iss) (x : Instr) (bad : Ctl → State → Prop) (k : Cause) : Prop :=
  ∀ s t g, Ready i s t g → TakesEffect i s t g → bad (ctlAt i s t g) (atIssue i s t g) →
    exec x s = .next (raisePrecise (atIssue i s t g) t.uid g.gid g.r.pc
      { cause := k, mask := if i.lane then (ctlAt i s t g).act else (ctlAt i s t g).em })

/-- Wherever `x` can issue and takes effect and its context's step bit is set, it writes `ws`, as it does with the bit
clear, and then its group traps DBGSTEP at its address (R406). -/
def StepsOnce (i : Iss) (lat : Nat) (x : Instr) (ws : Ctl → List RegWr) : Prop :=
  ∀ s t g, CanIssue i s t g → stepBit s t = true → TakesEffect i s t g →
    exec x s = .next (raisePrecise (afterFixed i s t g lat (ws (ctlAt i s t g))) t.uid g.gid g.r.pc
      { cause := .dbgstep, mask := (ctlAt i s t g).em })

/-- The facts of a vector instruction: a lane instruction that holds its partition's FMA unit for 2 ck (R77, R93). -/
def vecFacts (row : String) (h : Hdr) (vs : List Nat) : Iss :=
  { row := row, h := h, lane := true, vs := vs, unit := .fma 2 }

/-! ### Memory accesses -/

/-- The accesses of the active lanes at their addresses, translated at issue for reading or writing. -/
def accsAt (c : Ctl) (s : State) (r w : Bool) (data : Nat → BitVec 128) (as : List (Nat × Nat)) : List LaneAcc :=
  as.map fun p => ⟨p.1, p.2, data p.1, 0, xlate s (some c.t.core) c.t.ctx p.2 r w false⟩

/-- Every address is a multiple of the access size, up to 16, and below 2^56 (R106, R432). -/
def Aligned (size : Nat) (as : List (Nat × Nat)) : Prop := ∀ p ∈ as, p.2 % min size 16 = 0 ∧ p.2 < 2 ^ 56

/-- No access is to a deferred or a differentiable page. -/
def Plain (ls : List LaneAcc) : Prop := ∀ a ∈ ls, a.x.isD = false ∧ a.x.isG = false

/-- The group's later memory instructions wait for the operation with a number (R107, R119, R121). -/
def holdsFor (id : Nat) (y : Group) : Group := { y with i := { y.i with memHold := id :: y.i.memHold } }

/-- All of the group's issue waits for the operation with a number (R124). -/
def holdsAllFor (id : Nat) (y : Group) : Group := { y with i := { y.i with allHold := id :: y.i.allHold } }

/-- The undo log after a store while the context's debug bit is set (R405). -/
def logsStore (c : Ctl) (s : State) (z : SizeCode) (ls : List LaneAcc) (y : Group) : Group :=
  if c.dbg then { y with undo := undoAdd y.undo (storeUndo s c z ls) } else y

/-- The facts of a uniform memory instruction that takes a flag; `wr`: it writes a register. -/
def uniFacts (row : String) (h : Hdr) (wr : Bool) : Iss := { row := row, h := h, ll := true, wr := wr, mem := true }

/-- A uniform address that passes its checks: a multiple of the access size, below 2^56 (R106, R432). -/
def AddrOk (size a : Nat) : Prop := a % size = 0 ∧ a < 2 ^ 56

/-- One uniform access, translated at issue for reading or writing. -/
def accAt (c : Ctl) (s : State) (va : Nat) (b k : Dword) (r w : Bool) : LaneAcc :=
  ⟨0, va, b.setWidth 128, k, xlate s (some c.t.core) c.t.ctx va r w false⟩

/-! ### The matrix stream -/

/-- The stream `m` of team `t` is the party of the state and may issue (R196, R392). -/
structure StreamReady (s : State) (t : Team) (m : MStream) : Prop where
  cur : s.cur = some (.stream t.uid)
  team : teamOf s t.uid = some t
  stream : t.stream = some m
  may : mayStream t m = true

/-- What a stream instruction that may not issue before clock `a` sees. -/
def streamCtl (s : State) (t : Team) (m : MStream) (a : Nat) : SCtl := ⟨t.uid, t, m, max (max s.clock m.hold) a⟩

/-- The state at that clock. -/
def streamAt (s : State) (m : MStream) (a : Nat) : State := { s with clock := max (max s.clock m.hold) a }

/-- Wherever stream instruction `x` of `len` bytes is ready and finds `ok`, its own effect is `eff`; then the stream's pc
is past it, and the next does not issue before the next clock, nor before `hold`. `unit` gives the clock from which the
unit it needs is free. -/
def StreamActs (x : Instr) (len : Nat) (unit : State → Team → MStream → Nat) (ok : SCtl → State → Prop)
    (eff : SCtl → State → State) (hold : SCtl → Nat) : Prop :=
  ∀ s t m, StreamReady s t m →
    let c := streamCtl s t m (unit s t m)
    let s1 := streamAt s m (unit s t m)
    ok c s1 → exec x s = .next (updStream (eff c s1) t.uid fun k =>
      { k with pc := m.pc + BitVec.ofNat 64 len, hold := max (c.u + 1) (hold c) })

/-- Wherever stream instruction `x` is ready and finds `bad`, it stops the team for service firmware with cause `k`;
TRINFO is `info` (R196, R390, R394). -/
def StreamStops (x : Instr) (unit : State → Team → MStream → Nat) (bad : SCtl → State → Prop) (k : Cause)
    (info : BitVec 4) : Prop :=
  ∀ s t m, StreamReady s t m → bad (streamCtl s t m (unit s t m)) (streamAt s m (unit s t m)) →
    exec x s = .next (stopTeam (streamAt s m (unit s t m)) t.uid (causeCode k) m.pc 0 info)

/-- Wherever stream instruction `x` is ready and finds `busy`, it waits: nothing changes. -/
def StreamWaits (x : Instr) (unit : State → Team → MStream → Nat) (busy : SCtl → State → Prop) : Prop :=
  ∀ s t m, StreamReady s t m → busy (streamCtl s t m (unit s t m)) (streamAt s m (unit s t m)) → exec x s = .next s

/-! ### Rhizoid threads -/

/-- Wherever `x` is the instruction of a running thread (`arith`: the arithmetic one) and finds `ok`, its effect is `eff`,
and the thread goes on at `pc`. -/
def ZActs (arith : Bool) (x : Instr) (ok : Nat → ZRun → State → Prop) (eff : Nat → ZRun → State → State × ZRun)
    (pc : ZRun → Int) : Prop :=
  ∀ s ch z, curZ s = some (ch, arith, z) → ok ch z s →
    exec x s = .next (setRun (eff ch z s).1 ch ((eff ch z s).2.goto arith (pc z)))

/-- The word after the thread's. -/
def zNext (arith : Bool) (z : ZRun) : Int := z.pc arith + 4

/-- Wherever `x` is the instruction of a running thread, it changes only the command's own registers and bits, as `f`
says, and the thread goes on at the next word. -/
def ZSets (arith : Bool) (x : Instr) (f : ZRun → ZRun) : Prop :=
  ZActs arith x (fun _ _ _ => True) (fun _ z s => (s, f z)) (zNext arith)

/-- Wherever `x` is the instruction of a running thread and finds `bad`, it aborts the command with cause `k`, at the
thread's offset, with ROW `row` (R336, R350, R351). -/
def ZAborts (arith : Bool) (x : Instr) (bad : Nat → ZRun → State → Prop) (k : Cause) (row : ZRun → Nat) : Prop :=
  ∀ s ch z, curZ s = some (ch, arith, z) → bad ch z s →
    exec x s = .next (abortRun s ch (causeCode k) (BitVec.ofInt 12 (z.pc arith)) arith (row z))

/-- Wherever `x` is the instruction of a running thread and finds `busy`, it waits: nothing changes. -/
def ZWaits (arith : Bool) (x : Instr) (busy : Nat → ZRun → State → Prop) : Prop :=
  ∀ s ch z, curZ s = some (ch, arith, z) → busy ch z s → exec x s = .next s

/-! ### Events -/

/-- Wherever `ok` holds, `e` takes place, and `eff` is the next state. -/
def Gives (e : Instr) (ok : State → Prop) (eff : State → State) : Prop := ∀ s, ok s → exec e s = .next (eff s)

/-- A datagram of command `code` that the device carries out (R410, R411, R412, R430, R431): its link is up, the device
has not tripped and serves KDP in full, it is no repetition of a command, and its header is in order. -/
structure Served (s : State) (k : KdpHdr) (code : Nat) : Prop where
  up : portAnswers s = true
  whole : kdpDropped k 0 = false
  full : kdpFull s = true
  fresh : keptReply s k.host k.seq = none
  pending : seqPending s k.host k.seq = false
  old : seqOld s k.host k.seq = false
  cmd : k.cmd.toNat = code

/-- The same from the owner, with its TERM, for a context that exists (R413, R414). -/
structure ServedOwner (s : State) (k : KdpHdr) (code : Nat) : Prop extends Served s k code where
  owner : k.host = s.host.lease.owner
  term : k.term = s.host.lease.term
  ctx : (ctxOf s k.ctx.toNat).isSome = true

/-- The same for ATTEST and TELEM, which any host may ask for, before KDP is served in full too (R421, R422, R427, R431).
-/
structure ServedAlways (s : State) (k : KdpHdr) (code : Nat) : Prop where
  up : s.firm.powered = true ∧ 2 ≤ s.firm.step ∧ s.fab.ethUp = true
  whole : kdpDropped k 0 = false
  fresh : keptReply s k.host k.seq = none
  pending : seqPending s k.host k.seq = false
  old : seqOld s k.host k.seq = false
  cmd : k.cmd.toNat = code

/-! ### Runs -/

/-- The state after `n` steps, where each answers a next state. -/
def afterSteps : Nat → State → Option State
  | 0, s => some s
  | n + 1, s =>
    match step s with
    | .next s' => afterSteps n s'
    | .fault _ => none
    | .refused _ => none

end Sys2Proof.Machine
end

