-- ==== Sys2Proof/WellFormed.lean ====
section
/-!
DEFINITION. Well-formed instructions: the operands that an encoding can hold and that decoding accepts (R6 to R20, R39,
R47 to R128, R195 to R217, R269 to R291, R335 to R355). An event has no encoding and is well formed.
-/

namespace Sys2Proof

/-- The form is one of those listed. -/
def formIn (h : Hdr) (fs : List Form) : Bool := fs.contains h.form

/-- A base form has no guard; a guard names predicate 0 to 7; FS stands only in long-latency instructions (R10, R13,
R15). -/
def hdrOk (h : Hdr) (forms : List Form) (ll : Bool) : Bool :=
  formIn h forms && decide (h.dist < 8) && (ll || !h.fs) &&
    match h.guard with
    | none => true
    | some g => decide (g.num < 8) && (h.form == .ext || h.form == .extLit)

/-- A base-form header that has no FS field. -/
def baseOk (h : Hdr) (forms : List Form) : Bool := hdrOk h forms false && h.guard.isNone

/-- A register number below a class range (R17). -/
def lt (n k : Nat) : Bool := decide (n < k)

/-- A vector register field: 6 bits in base forms, 8 in extended ones (R17). -/
def vreg (h : Hdr) (n : Nat) : Bool := lt n (if h.form = .base ∨ h.form = .baseLit then 64 else 256)

/-- The last source: a register below `k` in the form without literal, the literal in the form with one (R12, R14). -/
def lastSrc (h : Hdr) (k : Nat) : Src → Bool
  | .reg n => h.form == .ext && lt n k
  | .lit _ => h.form == .baseLit || h.form == .extLit
  | .imm _ => false

/-- The second source of a comparison: register or IMM32 in LEN 0b10, the literal in LEN 0b11 (R66, R87). -/
def cmpOk (h : Hdr) (k : Nat) : Src → Bool
  | .reg n => h.form == .ext && lt n k
  | .imm _ => h.form == .ext
  | .lit _ => h.form == .extLit

/-- An immediate operand of LEN 0b10, or the literal (R64, R82). -/
def immOk (h : Hdr) : Src → Bool
  | .imm _ => h.form == .ext
  | .lit _ => h.form == .baseLit || h.form == .extLit
  | .reg _ => false

/-- A value in a signed n-bit field. -/
def sfit (n : Nat) (v : Int) : Bool := decide (-(2 ^ (n - 1)) ≤ v ∧ v < 2 ^ (n - 1))

/-- A slide that MOD 4:0 can name: a multiple of 8 up to 248 (R51). -/
def slideOk (x : Option Nat) : Bool := lt (x.getD 0) 249 && x.getD 0 % 8 == 0

def extOnly (h : Hdr) (ll : Bool) : Bool := hdrOk h [.ext] ll
def ext23 (h : Hdr) (ll : Bool) : Bool := hdrOk h [.ext, .extLit] ll

/-- A three-operand form on uniform registers (R63). -/
def s3Ok (h : Hdr) (d a : Nat) (b : Src) : Bool := ext23 h false && lt d 64 && lt a 64 && lastSrc h 64 b

/-- The same where the opcode's base form with literal stands for it (R12). -/
def s3LongOk (h : Hdr) (d a : Nat) (b : Src) : Bool :=
  hdrOk h [.baseLit, .ext, .extLit] false && lt d 64 && lt a 64 && lastSrc h 64 b

def v3Ok (h : Hdr) (d a : Nat) (b : Src) : Bool := ext23 h false && lt d 256 && lt a 256 && lastSrc h 256 b

def v3LongOk (h : Hdr) (plain : Bool) (d a : Nat) (b : Src) : Bool :=
  hdrOk h [.baseLit, .ext, .extLit] false && (h.form != .baseLit || plain) && vreg h d && vreg h a && lastSrc h 256 b

def v2Ok (h : Hdr) (d : Nat) (a : Src) : Bool := ext23 h false && lt d 256 && lastSrc h 256 a

/-- A three-register base form (R10). -/
def base3Ok (h : Hdr) (d a b : Nat) : Bool := baseOk h [.base] && lt d 64 && lt a 64 && lt b 64

/-- The short RM form (R10, R104): AM V and an offset scaled by the access size. -/
def rmShortOk (h : Hdr) (pair : Bool) (d : Nat) (m : MemArg) : Bool :=
  hdrOk h [.base] true && h.guard.isNone && lt d 64 &&
    match m with
    | ⟨.v, 0, .reg a, 0, off⟩ => lt a 64 && (!pair || a % 2 == 0) && off % 4 == 0 && sfit 9 off
    | _ => false

/-- The long forms of LD, ST, LDA and STA (R103 to R107, R112). -/
def rmLongOk (h : Hdr) (store abuf : Bool) (z : SizeCode) (o : Ord) (d : Nat) (m : MemArg) : Bool :=
  hdrOk h [.baseLit, .ext, .extLit] true && (!store || storeSize z) && d % regsOfSize z == 0 &&
    match h.form with
    | .baseLit =>
      z == .b32 && o == ⟨0, 0⟩ && lt d 64 &&
        (match m with
         | ⟨.v, 0, .reg a, 0, off⟩ => lt a 64 && (abuf || a % 2 == 0) && sfit 64 off
         | _ => false)
    | _ =>
      lt d 256 && sfit 32 m.off && lt o.code 3 && !(o.code == 2 && (store || abuf)) &&
        (if o.code = 1 then lt o.scope (if abuf then 2 else 4) else o.scope == 0) &&
        (match m with
         | ⟨.v, 0, .reg a, 0, _⟩ => h.form == .ext && lt a 256 && (abuf || a % 2 == 0)
         | ⟨.sv, sh, b, idx, _⟩ => lt sh 4 && lastSrc h 64 b && lt idx 256
         | ⟨.sl, 0, b, 0, _⟩ => lastSrc h 64 b
         | _ => false)

/-- LDU and STU beyond their short base form (R103, R115). -/
def uniLongOk (h : Hdr) (store : Bool) (z : SizeCode) (o : Ord) (d : Nat) (a : Src) (off : Int) : Bool :=
  hdrOk h [.baseLit, .ext, .extLit] true && (z == .b32 || z == .b64) && lt d 64 &&
    match h.form with
    | .baseLit =>
      z == .b64 && o == ⟨0, 0⟩ && sfit 64 off && (match a with | .reg n => lt n 64 | _ => false)
    | _ =>
      sfit 32 off && lt o.code 3 && !(o.code == 2 && store) && (if o.code = 1 then lt o.scope 4 else o.scope == 0)
        && lastSrc h 64 a

/-- The address of ATOM and RED (R105, R116). -/
def atomArgOk : MemArg → Bool
  | ⟨.v, 0, .reg a, 0, off⟩ => lt a 256 && a % 2 == 0 && sfit 32 off
  | ⟨.sl, 0, .reg a, 0, off⟩ => lt a 64 && sfit 32 off
  | _ => false

def atomOrdOk (o : Ord) : Bool := lt o.code 4 && (if o.code = 0 then o.scope == 0 else lt o.scope 4)

/-- The data operands of an atomic (R39, R116): class range `k`, pairs even where `pair`. -/
def atomDataOk (h : Hdr) (op : AOp) (wide pair : Bool) (k : Nat) (b c : Src) : Bool :=
  let even (n : Nat) := !(wide && pair) || n % 2 == 0
  !(wide && (op == .fadd || op == .fmin || op == .fmax)) &&
    if op = .cas then
      (match b with | .reg n => lt n k && even n | _ => false) &&
      (match c with
       | .reg n => h.form == .ext && lt n k && even n
       | .lit _ => h.form == .extLit
       | .imm _ => false)
    else
      (match b with
       | .reg n => h.form == .ext && lt n k && even n
       | .lit _ => h.form == .extLit
       | .imm _ => false) && c == .reg 0

def fieldSpan (k pos len : Nat) : Bool := lt pos k && decide (1 ≤ len) && decide (pos + len ≤ k)

/-- The fields of COPY, COPYM, COPYP and COPYH (R195, R210). -/
def copyOk (h : Hdr) (d : Nat) (c : CopyArg) : Bool :=
  extOnly h true && lt d 64 && lt c.lay 64 && lt c.coord 64 && sfit 16 c.c2 && sfit 16 c.c3 &&
    match c.ctr with
    | none => c.scope == 0
    | some r => lt r 64 && decide (1 ≤ c.scope) && lt c.scope 4

def masksOk (k : Masks) : Bool := lt k.mks 5 && lt k.nks 5 && lt k.kks 5

/-- A stream header word's NOP or EXIT may also be a group's; DIST is then free (R196). -/
def Instr.wf : Instr → Bool
  | .clauseHeader _ a b => lt (a.getD 0) 12 && lt (b.getD 0) 12
  | .nop h => baseOk h [.base]
  | .bra h off => baseOk h [.base] && sfit 20 off
  | .braExt h off => extOnly h false && sfit 32 off
  | .brany h p _ off => baseOk h [.base] && lt p 8 && sfit 16 off
  | .branyExt h p _ off => extOnly h false && lt p 8 && sfit 32 off
  | .brall h p _ off => baseOk h [.base] && lt p 8 && sfit 16 off
  | .brallExt h p _ off => extOnly h false && lt p 8 && sfit 32 off
  | .brnone h p _ off => baseOk h [.base] && lt p 8 && sfit 16 off
  | .brnoneExt h p _ off => extOnly h false && lt p 8 && sfit 32 off
  | .brx h a off => extOnly h false && lt a 64 && sfit 32 off
  | .call h off => baseOk h [.base] && sfit 20 off
  | .callExt h off sl => extOnly h false && sfit 32 off && slideOk sl
  | .callx h a off sl => extOnly h false && lt a 64 && sfit 32 off && slideOk sl
  | .ret h => baseOk h [.base]
  | .exit h => baseOk h [.base]
  | .exitExt h => extOnly h false
  | .yield h => baseOk h [.base]
  | .trap h n => extOnly h false && lt n 16
  | .rte h => baseOk h [.base]
  | .emrd h d => extOnly h false && lt d 64
  | .emwr h a => extOnly h false && lt a 64
  | .emand h p => extOnly h false && lt p 8
  | .emor h p => extOnly h false && lt p 8
  | .emandn h p => extOnly h false && lt p 8
  | .emsetp h d => extOnly h false && lt d 8
  | .elect h d => extOnly h false && lt d 8
  | .pand h d a b => extOnly h false && lt d 8 && lt a 8 && lt b 8
  | .por h d a b => extOnly h false && lt d 8 && lt a 8 && lt b 8
  | .pxor h d a b => extOnly h false && lt d 8 && lt a 8 && lt b 8
  | .pandn h d a b => extOnly h false && lt d 8 && lt a 8 && lt b 8
  | .pnot h d a => extOnly h false && lt d 8 && lt a 8
  | .pmov h d a => extOnly h false && lt d 8 && lt a 8
  | .spand h d a b => extOnly h false && lt d 8 && lt a 8 && lt b 8
  | .spor h d a b => extOnly h false && lt d 8 && lt a 8 && lt b 8
  | .spxor h d a b => extOnly h false && lt d 8 && lt a 8 && lt b 8
  | .spandn h d a b => extOnly h false && lt d 8 && lt a 8 && lt b 8
  | .spnot h d a => extOnly h false && lt d 8 && lt a 8
  | .spmov h d a => extOnly h false && lt d 8 && lt a 8
  | .sadd h d a b => base3Ok h d a b
  | .saddLong h d a b => s3LongOk h d a b
  | .ssub h d a b => s3Ok h d a b
  | .smul h d a b => s3Ok h d a b
  | .smulh h _ d a b => s3Ok h d a b
  | .sand h d a b => s3Ok h d a b
  | .sor h d a b => s3Ok h d a b
  | .sxor h d a b => s3Ok h d a b
  | .sandn h d a b => s3Ok h d a b
  | .sshl h d a b => s3Ok h d a b
  | .sshr h d a b => s3Ok h d a b
  | .ssar h d a b => s3Ok h d a b
  | .smin h _ d a b => s3Ok h d a b
  | .smax h _ d a b => s3Ok h d a b
  | .smovi h d c => baseOk h [.base] && lt d 64 && sfit 14 c
  | .smoviLong h d c => hdrOk h [.baseLit, .ext, .extLit] false && lt d 64 && immOk h c
  | .saddi h d a c => baseOk h [.base] && lt d 64 && lt a 64 && sfit 8 c
  | .saddiLong h d a c => hdrOk h [.baseLit, .ext, .extLit] false && lt d 64 && lt a 64 && immOk h c
  | .slea h d a b sh _ => ext23 h false && lt d 64 && lt a 64 && lastSrc h 64 b && lt sh 8
  | .sbfx h _ d a pos len => extOnly h false && lt d 64 && lt a 64 && fieldSpan 64 pos len
  | .sbfi h d a pos len => extOnly h false && lt d 64 && lt a 64 && fieldSpan 64 pos len
  | .sclz h d a => extOnly h false && lt d 64 && lt a 64
  | .spopc h d a => extOnly h false && lt d 64 && lt a 64
  | .sbrev h d a => extOnly h false && lt d 64 && lt a 64
  | .scmp h _ _ d a b => ext23 h false && lt d 8 && lt a 64 && cmpOk h 64 b
  | .ssel h d sp t f => ext23 h false && lt d 64 && lt sp 8 && lt t 64 && lastSrc h 64 f
  | .sreadsr h d sr => baseOk h [.base] && lt d 64 && sfit 14 sr && srReadable sr false
  | .sreadsrExt h vec d sr => extOnly h false && (if vec then lt d 256 else lt d 64) && srReadable sr.toNat vec
  | .swritesr h a sr => baseOk h [.base] && lt a 64 && sfit 14 sr && srWritable sr
  | .swritesrExt h a sr => extOnly h false && lt a 64 && srWritable sr.toNat
  | .shfl h m d a b c =>
    extOnly h false && lt d 256 && lt a 256 && (if m = .idx then lt b 256 && c == 0 else b == 0 && lt c 64)
  | .ballot h d p => extOnly h false && lt d 64 && lt p 8
  | .readlane h d a l => extOnly h false && lt d 64 && lt a 256 &&
      (match l with | .reg n => lt n 64 | .imm c => lt c.toNat 64 | .lit _ => false)
  | .writelane h d a l => extOnly h false && lt d 256 && lt a 64 &&
      (match l with | .reg n => lt n 64 | .imm c => lt c.toNat 64 | .lit _ => false)
  | .lred h _ d a => extOnly h false && lt d 64 && lt a 256
  | .qpush h q src => extOnly h true && lt q 16 && (match src with | .reg n => lt n 64 | .imm _ => true | .lit _ => false)
  | .qpop h d q t => extOnly h true && lt d 64 && lt q 16 && lt (t.getD 0) 8
  | .vadd h d a b => base3Ok h d a b
  | .vaddLong h sat n32 d a b => v3LongOk h (!sat && !n32) d a b && (sat || !n32)
  | .vsub h sat n32 d a b => v3Ok h d a b && (sat || !n32)
  | .vmul h d a b => v3Ok h d a b
  | .vmulh h _ d a b => v3Ok h d a b
  | .vmad h d a b c => ext23 h false && lt d 256 && lt a 256 && lt b 256 && lastSrc h 256 c
  | .vand h d a b => v3Ok h d a b
  | .vor h d a b => v3Ok h d a b
  | .vxor h d a b => v3Ok h d a b
  | .vandn h d a b => v3Ok h d a b
  | .vnot h d a => v2Ok h d a
  | .vshl h d a b => v3Ok h d a b
  | .vshr h d a b => v3Ok h d a b
  | .vsar h d a b => v3Ok h d a b
  | .vmin h _ d a b => v3Ok h d a b
  | .vmax h _ d a b => v3Ok h d a b
  | .vabs h _ d a => v2Ok h d a
  | .vneg h _ d a => v2Ok h d a
  | .vaddi h d a c => baseOk h [.base] && lt d 64 && lt a 64 && sfit 8 c
  | .vaddiLong h d a c => hdrOk h [.baseLit, .ext, .extLit] false && vreg h d &&
      (match h.form, a, c with
       | .baseLit, .reg n, .lit _ => lt n 64
       | .ext, .reg n, .imm _ => lt n 256
       | .extLit, .lit _, .imm _ => true
       | _, _, _ => false)
  | .vmov h d a => v2Ok h d a
  | .vmovs h _ d a => ext23 h false && lt d 256 && lastSrc h 64 a
  | .vmovi h d c => baseOk h [.base] && lt d 64 && sfit 14 c
  | .vmoviLong h d c => hdrOk h [.baseLit, .ext, .extLit] false && vreg h d && immOk h c
  | .vbfx h _ d a pos len => extOnly h false && lt d 256 && lt a 256 && fieldSpan 32 pos len
  | .vbfi h d a pos len => extOnly h false && lt d 256 && lt a 256 && fieldSpan 32 pos len
  | .vclz h d a => extOnly h false && lt d 256 && lt a 256
  | .vpopc h d a => extOnly h false && lt d 256 && lt a 256
  | .vbrev h d a => extOnly h false && lt d 256 && lt a 256
  | .vprfx h _ d a b => extOnly h false && lt d 256 && lt a 256 && lt b 64
  | .vbmand h d p a b => extOnly h false && lt d 256 && lt p 8 && lt a 256 && lt b 256
  | .visect h d a b c => extOnly h false && lt d 256 && lt a 256 && lt b 256 && lt c 256
  | .vcmp h _ _ d a b => ext23 h false && lt d 8 && lt a 256 && cmpOk h 256 b
  | .vsel h d p t f => extOnly h false && lt d 256 && lt p 8 && lt t 256 && lt f 256
  | .vfadd h d a b => base3Ok h d a b
  | .vfaddLong h f m d a b => v3LongOk h (f == .f32 && m == .rne) d a b
  | .vfsub h _ _ d a b => v3Ok h d a b
  | .vfmul h _ _ d a b => v3Ok h d a b
  | .vfmin h _ d a b => v3Ok h d a b
  | .vfmax h _ d a b => v3Ok h d a b
  | .vfabs h _ d a => v2Ok h d a
  | .vfneg h _ d a => v2Ok h d a
  | .vfma h d a b => base3Ok h d a b
  | .vfmaLong h f m d a b c => hdrOk h [.baseLit, .ext, .extLit] false && vreg h d && vreg h a &&
      (match h.form, b, c with
       | .baseLit, .lit _, .reg n => f == .f32 && m == .rne && n == d
       | .ext, .reg n, .reg k => lt n 256 && lt k 256
       | .extLit, .reg n, .lit _ => lt n 256
       | _, _, _ => false)
  | .vfms h _ _ d a b c => ext23 h false && lt d 256 && lt a 256 &&
      (match b with | .reg n => lt n 256 | _ => false) && lastSrc h 256 c
  | .vfnma h _ _ d a b c => ext23 h false && lt d 256 && lt a 256 &&
      (match b with | .reg n => lt n 256 | _ => false) && lastSrc h 256 c
  | .vfcmp h _ _ _ d a b => ext23 h false && lt d 8 && lt a 256 && cmpOk h 256 b
  | .vrcp h d a => extOnly h true && lt d 256 && lt a 256
  | .vrsq h d a => extOnly h true && lt d 256 && lt a 256
  | .vsqrt h d a => extOnly h true && lt d 256 && lt a 256
  | .vexp2 h d a => extOnly h true && lt d 256 && lt a 256
  | .vlog2 h d a => extOnly h true && lt d 256 && lt a 256
  | .vsin h d a => extOnly h true && lt d 256 && lt a 256
  | .vcos h d a => extOnly h true && lt d 256 && lt a 256
  | .vtanh h d a => extOnly h true && lt d 256 && lt a 256
  | .vsigm h d a => extOnly h true && lt d 256 && lt a 256
  | .verf h d a => extOnly h true && lt d 256 && lt a 256
  | .vcvt h dt sty m sat satf d a sidx didx => extOnly h false && lt d 256 && lt a 256 && dt != sty &&
      (m == .rne || !exactPair dt sty) && (!sat || (tyIsInt dt && tyIsInt sty)) && (!satf || !tyIsInt dt) &&
      lt sidx (elems sty) && lt didx (elems dt) && (tyBits dt != 64 || d % 2 == 0) && (tyBits sty != 64 || a % 2 == 0)
  | .vcvtsr h dt _ d a b didx => extOnly h false && lt d 256 && lt a 256 && lt b 256 && lt didx (elems dt) &&
      (dt == .f16 || dt == .bf16 || dt == .e4m3 || dt == .e5m2 || dt == .e2m1)
  | .rngfill h d n => extOnly h false && lt d 256 && decide (1 ≤ n) && lt n 5
  | .scalecalc h g d a b c => extOnly h true && lt d 256 && lt a 256 &&
      (if g then lt b 64 && c == 0 else b == 0 && lt c 64)
  | .vquant h dt _ d a b c didx => extOnly h false && lt d 256 && lt a 256 && lt b 256 && lt c 64 &&
      lt didx (elems dt) && (dt == .e4m3 || dt == .e5m2 || dt == .e2m1 || dt == .i8 || dt == .i4)
  | .ld h d m => rmShortOk h true d m
  | .ldLong h z o d m => rmLongOk h false false z o d m
  | .st h d m => rmShortOk h true d m
  | .stLong h z o d m => rmLongOk h true false z o d m
  | .lda h d m => rmShortOk h false d m
  | .ldaLong h z o d m => rmLongOk h false true z o d m
  | .sta h d m => rmShortOk h false d m
  | .staLong h z o d m => rmLongOk h true true z o d m
  | .ldc h _ d acc b _ => ext23 h true && lt d 256 && lt acc 16 && lastSrc h 64 b
  | .stc h _ d acc b _ => ext23 h true && lt d 256 && lt acc 16 && lastSrc h 64 b
  | .ldu h d a off => hdrOk h [.base] true && h.guard.isNone && lt d 64 && lt a 64 && off % 8 == 0 && sfit 10 off
  | .lduLong h z o d a off => uniLongOk h false z o d a off
  | .stu h d a off => hdrOk h [.base] true && h.guard.isNone && lt d 64 && lt a 64 && off % 8 == 0 && sfit 10 off
  | .stuLong h z o d a off => uniLongOk h true z o d a off
  | .atom h op wide o d m b c => ext23 h true && lt d 256 && (!wide || d % 2 == 0) && atomArgOk m && atomOrdOk o &&
      atomDataOk h op wide true 256 b c
  | .red h op wide o m b => ext23 h true && atomArgOk m && atomOrdOk o && op != .cas && op != .xchg &&
      atomDataOk h op wide true 256 b (.reg 0)
  | .waita h _ _ _ acq sc d a b off => ext23 h true && (if acq then lt sc 4 else sc == 0) && lt d 64 && lt a 64 &&
      lastSrc h 64 b && sfit 32 off
  | .fenceAcq h sc => extOnly h true && lt sc 4
  | .fenceRel h sc => extOnly h true && lt sc 4
  | .fenceSc h sc => extOnly h true && lt sc 4
  | .aliasf h => extOnly h true
  | .commitTeam h c => extOnly h true && lt (c.getD 0) 64
  | .commitGrid h c => extOnly h true && lt (c.getD 0) 64
  | .commitPod h c => extOnly h true && lt (c.getD 0) 64
  | .bararv h b n => extOnly h true && lt b 16 && decide (1 ≤ n) && lt n 34
  | .barwt h b => extOnly h true && lt b 16
  | .barsync h b n => extOnly h true && lt b 16 && decide (1 ≤ n) && lt n 34
  | .cwaitge h acq sc d a b off => ext23 h true && (if acq then lt sc 4 else sc == 0) && lt d 8 && lt a 64 &&
      lastSrc h 64 b && sfit 32 off
  | .cadd h rel _ sc a b off => ext23 h true && (if rel then lt sc 4 else sc == 0) && lt a 64 && lastSrc h 64 b &&
      sfit 32 off
  | .ratom h op wide q a b c off => ext23 h true && lt q 16 && lt a 64 && atomDataOk h op wide false 64 b c &&
      sfit 32 off
  | .mma acc xa ws xf _ _ k => lt acc 16 && lt xa 32 && lt ws 64 && lt xf 32 && xf % 2 == 0 && masksOk k
  | .mdrain xd acc xc k => lt xd 32 && xd % 2 == 0 && lt acc 16 && lt xc 32 && xc % 2 == 0 && masksOk k && k.kks == 4
  | .maccst acc src mov k => lt acc 16 && lt src (if mov then 16 else 32) && masksOk k && k.kks == 4
  | .mwait b => lt b 16
  | .msig b n => lt b 16 && decide (1 ≤ n) && lt n 34
  | .msetm cls d src => lt d 4 &&
      (match src with
       | .count n => decide (n ≤ if cls = .kk then 256 else 128)
       | .countLit n _ => decide (n ≤ if cls = .kk then 256 else 128)
       | .reg x => lt x 32 && x % (if cls = .kk then 4 else 2) == 0
       | .lit _ => true)
  | .mfmt mode d a _ => lt mode 3 && lt d 32 && (mode != 0 || d % 2 == 0) && (if mode = 1 then a == 0 else lt a 32)
  | .munf plain a c => if plain then a == 0 && decide (c.toNat < 2 ^ 21) && c.toNat % 16 == 0 else lt a 32
  | .mloop x a c => if x then lt a 32 && c == 0 else a == 0
  | .knotset d a => lt d 4 && lt a 32
  | .frder accd acca xa xf k => lt accd 16 && lt acca 16 && lt xa 32 && lt xf 32 && xf % 2 == 0 && lt k.mks 5 &&
      k.nks == 0 && lt k.kks 5
  | .frgrad xd acca xa xf k => lt xd 32 && lt acca 16 && lt xa 32 && lt xf 32 && xf % 2 == 0 && masksOk k
  | .frefine accd ws kna knd i0 _ => lt accd 16 && lt ws 64 && lt kna 4 && lt knd 4 && lt i0 64
  | .copy h mode d side c => copyOk h d c && lt mode 4 && (!side || mode == 2)
  | .copym h ws _ _ c => copyOk h ws c && c.c3 == 0
  | .copyp h mode d _ c => copyOk h d c && lt mode 2
  | .copyh h mode d c => copyOk h d c && lt mode 2
  | .cbatch h d => extOnly h false && lt d 64
  | .cwaitb h d n => extOnly h true && lt d 8 && (match n with | .reg k => lt k 64 | .imm _ => true | .lit _ => false)
  | .aexport h d a b => extOnly h true && lt d 64 && lt a 64 && lt b 64
  | .aexportRev h a => extOnly h true && lt a 64
  | .opfence h => extOnly h true
  | .collAr h ty sc a => extOnly h true && lt ty 2 && decide (2 ≤ sc) && lt sc 4 && lt a 64
  | .collRs h ty sc a => extOnly h true && lt ty 2 && decide (2 ≤ sc) && lt sc 4 && lt a 64
  | .collAg h ty sc a => extOnly h true && lt ty 2 && decide (2 ≤ sc) && lt sc 4 && lt a 64
  | .collBc h ty sc a => extOnly h true && lt ty 2 && decide (2 ≤ sc) && lt sc 4 && lt a 64
  | .fmtsel h _ d a b => extOnly h true && lt d 64 && lt a 64 && lt b 64
  | .revm h => extOnly h true
  | .fwdm h => extOnly h true
  | .tapemark h d => extOnly h true && lt d 64
  | .tapemarkCut h a => extOnly h true && lt a 64
  | .tapespill h d a => extOnly h true && lt d 64 && lt a 64
  | .tapefill h a b => extOnly h true && lt a 64 && lt b 64
  | .dirins h d key loc _ => ext23 h true && lt d 64 && lt key 64 && lastSrc h 64 loc
  | .dirdel h d a => ext23 h true && lt d 64 && lastSrc h 64 a
  | .dirmove h d a core loc => ext23 h true && lt d 64 && lt a 64 && lt core 64 && lastSrc h 64 loc
  | .dirlook h mode d a b => ext23 h true && lt mode 3 && lt d 64 &&
      (if mode = 2 then (match a with | .reg n => lt n 64 | _ => false) && lastSrc h 64 b
       else lastSrc h 64 a && b == .reg 0)
  | .solicit h op _ q a => ext23 h true && lt op 5 && lt q 16 && lastSrc h 64 a
  | .respond h a => extOnly h true && lt a 64
  | .nmpost h sc q a => extOnly h true && decide (1 ≤ sc) && lt sc 4 && lt (q.getD 0) 16 && lt a 64
  | .nmgather h esz d a b c n => extOnly h true && lt esz 4 && lt d 8 && lt a 64 && lt b 64 && lt c 64 &&
      decide (1 ≤ n) && decide (n ≤ 4096)
  | .zalui d _ => lt d 16
  | .zelui d _ => lt d 32
  | .zaaddi d a _ => lt d 16 && lt a 16
  | .zeori d a _ => lt d 32 && lt a 32
  | .zaadd d a b => lt d 16 && lt a 16 && lt b 16
  | .zabra _ => true
  | .zebra _ => true
  | .zadbnz a _ => lt a 16
  | .zedbnz a _ => lt a 32
  | .zld w a _ => lt w 4 && lt a 16
  | .zst w a _ => lt w 4 && lt a 16
  | .zlock w a _ => lt w 4 && lt a 16
  | .zunlk w a _ => lt w 4 && lt a 16
  | .zwpair ap at' as n wp wt word => lt ap 16 && lt at' 16 && lt as 16 && decide (1 ≤ n) &&
      decide (n ≤ if word then 16 else 32) && lt wp 4 && lt wt 4
  | .zpop d => d == 0 || d == 16
  | .zpush a => a == 0 || a == 16
  | .ziadd _ d a b => lt d 32 && lt a 32 && lt b 32
  | .zimulw d a b => lt d 32 && d % 2 == 0 && lt a 32 && lt b 32
  | .zdot8 _ _ d a b => lt d 32 && lt a 32 && lt b 32
  | .zdot4 _ _ d a b => lt d 32 && lt a 32 && lt b 32
  | .zdq kind k d a b c => lt kind 3 && lt k 8 && (kind != 0 || k == 0) && (kind != 1 || lt k 4) && lt d 32 &&
      lt a 32 && lt b 32 && lt c 32
  | .zfadd d a b => lt d 32 && lt a 32 && lt b 32
  | .zfsub d a b => lt d 32 && lt a 32 && lt b 32
  | .zfmul d a b => lt d 32 && lt a 32 && lt b 32
  | .zfma d a b c => lt d 32 && lt a 32 && lt b 32 && lt c 32
  | .zfmin d a b => lt d 32 && lt a 32 && lt b 32
  | .zfmax d a b => lt d 32 && lt a 32 && lt b 32
  | .zfsqrt d a => lt d 32 && lt a 32
  | .zfrsq d a => lt d 32 && lt a 32
  | .zunpk _ d a => lt d 32 && lt a 32
  | .zpack d a b => lt d 32 && lt a 32 && lt b 32
  | .unassignedOpcode w => unassignedOp (opOf w.toNat)
  | _ => true

end Sys2Proof
end

