-- ==== Sys2Proof/Certificates/Slice0/Obligations.lean ====
section
/-!
DEFINITION. The statements about the model, for the provers. Each docstring names the rules of spec/ that it formalises.
`Writes`, `Starts`, `GoesTo`, `Acts` and `TrapsWith` (Sys2Proof/Safety.lean) state the whole next state, so each of them
is a completion, a result and a frame at once.
-/

open Sys2Proof Sys2Proof.Machine

/-! ### Uniform instructions -/

/-- R63: the SALU operations, modulo 2^64, for every last source (a register, an immediate or a literal), 2 ck or, for the
products, 4 ck after issue (R144). -/
def Obligations.UniformArithmetic : Prop :=
  ∀ (h : Hdr) (sg : Bool) (d a n : Nat) (b : Src),
    Writes { row := "SADD", h := h } 2 (.sadd h d a n) (fun c => [.s d (c.s a + c.s n)]) ∧
    Writes { row := "SADD_LONG", h := h } 2 (.saddLong h d a b) (fun c => [.s d (c.s a + c.srcS b)]) ∧
    Writes { row := "SSUB", h := h } 2 (.ssub h d a b) (fun c => [.s d (c.s a - c.srcS b)]) ∧
    Writes { row := "SMUL", h := h } 4 (.smul h d a b) (fun c => [.s d (c.s a * c.srcS b)]) ∧
    Writes { row := "SMULH", h := h } 4 (.smulh h sg d a b) (fun c => [.s d
      (if sg then BitVec.ofInt 64 ((c.s a).toInt * (c.srcS b).toInt / 2 ^ 64)
       else BitVec.ofNat 64 ((c.s a).toNat * (c.srcS b).toNat / 2 ^ 64))]) ∧
    Writes { row := "SAND", h := h } 2 (.sand h d a b) (fun c => [.s d (c.s a &&& c.srcS b)]) ∧
    Writes { row := "SOR", h := h } 2 (.sor h d a b) (fun c => [.s d (c.s a ||| c.srcS b)]) ∧
    Writes { row := "SXOR", h := h } 2 (.sxor h d a b) (fun c => [.s d (c.s a ^^^ c.srcS b)]) ∧
    Writes { row := "SANDN", h := h } 2 (.sandn h d a b) (fun c => [.s d (c.s a &&& ~~~(c.srcS b))]) ∧
    Writes { row := "SSHL", h := h } 2 (.sshl h d a b) (fun c => [.s d (c.s a <<< ((c.srcS b).toNat % 64))]) ∧
    Writes { row := "SSHR", h := h } 2 (.sshr h d a b) (fun c => [.s d (c.s a >>> ((c.srcS b).toNat % 64))]) ∧
    Writes { row := "SSAR", h := h } 2 (.ssar h d a b) (fun c => [.s d ((c.s a).sshiftRight ((c.srcS b).toNat % 64))]) ∧
    Writes { row := "SMIN", h := h } 2 (.smin h sg d a b) (fun c => [.s d
      (if (if sg then (c.s a).slt (c.srcS b) else (c.s a).ult (c.srcS b)) then c.s a else c.srcS b)]) ∧
    Writes { row := "SMAX", h := h } 2 (.smax h sg d a b) (fun c => [.s d
      (if (if sg then (c.s a).slt (c.srcS b) else (c.s a).ult (c.srcS b)) then c.srcS b else c.s a)])

/-- R64 to R67: immediates, addresses, bit fields, counts, comparison and selection. -/
def Obligations.UniformOther : Prop :=
  ∀ (h : Hdr) (sg : Bool) (rel : Rel) (d a n p pos len sh : Nat) (b : Src) (k : Int) (w : BitVec 32),
    Writes { row := "SMOVI", h := h } 2 (.smovi h d k) (fun _ => [.s d (BitVec.ofInt 64 k)]) ∧
    Writes { row := "SMOVI_LONG", h := h } 2 (.smoviLong h d b) (fun c => [.s d (c.srcS b)]) ∧
    Writes { row := "SADDI", h := h } 2 (.saddi h d a k) (fun c => [.s d (c.s a + BitVec.ofInt 64 k)]) ∧
    Writes { row := "SADDI_LONG", h := h } 2 (.saddiLong h d a b) (fun c => [.s d (c.s a + c.srcS b)]) ∧
    Writes { row := "SLEA", h := h } 2 (.slea h d a b sh w)
      (fun c => [.s d (c.s a + (c.srcS b <<< sh) + w.signExtend 64)]) ∧
    Writes { row := "SBFX", h := h } 2 (.sbfx h sg d a pos len) (fun c => [.s d
      (if sg then BitVec.ofInt 64 (sextNat len ((c.s a).toNat / 2 ^ pos % 2 ^ len))
       else BitVec.ofNat 64 ((c.s a).toNat / 2 ^ pos % 2 ^ len))]) ∧
    Writes { row := "SBFI", h := h } 2 (.sbfi h d a pos len) (fun c => [.s d (bfi pos len (c.s d) (c.s a))]) ∧
    Writes { row := "SCLZ", h := h } 2 (.sclz h d a) (fun c => [.s d (BitVec.ofNat 64 (clz 64 (c.s a).toNat))]) ∧
    Writes { row := "SPOPC", h := h } 2 (.spopc h d a) (fun c => [.s d (BitVec.ofNat 64 (popcount 64 (c.s a).toNat))]) ∧
    Writes { row := "SBREV", h := h } 2 (.sbrev h d a) (fun c => [.s d (BitVec.ofNat 64 (bitrev 64 (c.s a).toNat))]) ∧
    Writes { row := "SCMP", h := h } 2 (.scmp h rel sg d a b) (fun c => [.sp d
      (relInt rel (if sg then (c.s a).toInt - (c.srcS b).toInt else ((c.s a).toNat : Int) - (c.srcS b).toNat))]) ∧
    Writes { row := "SSEL", h := h } 2 (.ssel h d p n b) (fun c => [.s d (if c.sp p then c.s n else c.srcS b)])

/-- R68, R69, R394: SREADSR gives the register's value at issue, in every active lane for a vector destination (LANEID
there); the registers 0x030 to 0x03F read only in the handler. R69, R394: SWRITESR writes the register 3 ck after issue;
STATUS is cleared where the source holds 1, and RNGKEY and RNGCTR are the context's in its core, and SREADSR sees what
SWRITESR put there once 3 ck have passed. A handler register traps PRIVOP outside the handler, a value with nonzero
reserved bits ILLRSV, and an FRSZ that is no multiple of 8 ILLFLD. The model's own choices in it: log entries 7 and 39. -/
def Obligations.SpecialRegisters : Prop :=
  (∀ (h : Hdr) (d : Nat) (k : Int) (w : BitVec 32),
      Acts { row := "SREADSR", h := h } (.sreadsr h d k) (fun c _ => handlerOnly k.toNat = true → c.g.t.inHandler = true)
        (fun c s => pendWrs c 3 [.s d (srRead c s k.toNat)] s) ∧
      Acts { row := "SREADSR_EXT", h := h } (.sreadsrExt h false d w)
        (fun c _ => handlerOnly w.toNat = true → c.g.t.inHandler = true)
        (fun c s => pendWrs c 3 [.s d (srRead c s w.toNat)] s) ∧
      Acts { row := "SREADSR_EXT", h := h, lane := true, vs := [d] } (.sreadsrExt h true d w)
        (fun c _ => handlerOnly w.toNat = true → c.g.t.inHandler = true)
        (fun c s => pendWrs c 4 [wrV c d fun l =>
          if w.toNat = 0x010 then BitVec.ofNat 32 l else (srRead c s w.toNat).setWidth 32] s) ∧
      TrapsWith { row := "SREADSR", h := h } (.sreadsr h d k)
        (fun c _ => handlerOnly k.toNat = true ∧ c.g.t.inHandler = false) .privop) ∧
  (∀ (h : Hdr) (a : Nat) (k : Int) (w : BitVec 32),
      Acts { row := "SWRITESR", h := h } (.swritesr h a k)
        (fun c _ => (handlerOnly k.toNat = true → c.g.t.inHandler = true) ∧ (c.s a).toNat < 2 ^ srWidth k.toNat ∧
          (k.toNat = 0x021 → (c.s a).toNat % 8 = 0) ∧ k.toNat ≠ 0x01C ∧ k.toNat ≠ 0x01D)
        (fun c s => pendWrs c 3 (srWrites k.toNat (c.s a)) s) ∧
      Acts { row := "SWRITESR_EXT", h := h } (.swritesrExt h a w)
        (fun c _ => (handlerOnly w.toNat = true → c.g.t.inHandler = true) ∧ (c.s a).toNat < 2 ^ srWidth w.toNat ∧
          (w.toNat = 0x021 → (c.s a).toNat % 8 = 0) ∧ w.toNat ≠ 0x01C ∧ w.toNat ≠ 0x01D)
        (fun c s => pendWrs c 3 (srWrites w.toNat (c.s a)) s) ∧
      Acts { row := "SWRITESR", h := h } (.swritesr h a 0x01C) (fun _ _ => True)
        (fun c s => pendWrs c 3 [] (updCore s c.t.core (writeRng c.t.ctx c.u false (c.s a)))) ∧
      Acts { row := "SWRITESR", h := h } (.swritesr h a 0x01D) (fun _ _ => True)
        (fun c s => pendWrs c 3 [] (updCore s c.t.core (writeRng c.t.ctx c.u true (c.s a)))) ∧
      (∀ (k : Core) (ctx u v : Nat) (ctr : Bool) (x : Dword), u + 3 ≤ v → (∀ o ∈ k.rngOld, o.land ≤ v) →
        rngSeen (writeRng ctx u ctr x k) ctx v ctr = x) ∧
      TrapsWith { row := "SWRITESR", h := h } (.swritesr h a k)
        (fun c _ => handlerOnly k.toNat = true ∧ c.g.t.inHandler = false) .privop ∧
      TrapsWith { row := "SWRITESR", h := h } (.swritesr h a 0x018) (fun c _ => 256 ≤ (c.s a).toNat) .illrsv ∧
      TrapsWith { row := "SWRITESR", h := h } (.swritesr h a 0x021)
        (fun c _ => (c.s a).toNat < 256 ∧ (c.s a).toNat % 8 ≠ 0) .illfld)

/-! ### Masks and predicates -/

/-- R45, R46, R60 to R62: the execution mask and predicate logic, 2 ck after issue. Lane instructions write `p` bits in
the active lanes alone; EMSETP writes all 64; ELECT with no active lane writes nothing. -/
def Obligations.MasksAndPredicates : Prop :=
  ∀ (h : Hdr) (d a b p : Nat),
    Writes { row := "EMRD", h := h } 2 (.emrd h d) (fun c => [.s d c.em]) ∧
    Writes { row := "EMWR", h := h } 2 (.emwr h a) (fun c => [.em (c.s a)]) ∧
    Writes { row := "EMAND", h := h } 2 (.emand h p) (fun c => [.em (c.em &&& c.p p)]) ∧
    Writes { row := "EMOR", h := h } 2 (.emor h p) (fun c => [.em (c.em ||| c.p p)]) ∧
    Writes { row := "EMANDN", h := h } 2 (.emandn h p) (fun c => [.em (c.em &&& ~~~(c.p p))]) ∧
    Writes { row := "EMSETP", h := h } 2 (.emsetp h d) (fun c => [.p d (-1) c.em]) ∧
    Writes { row := "ELECT", h := h, lane := true } 2 (.elect h d)
      (fun c => if c.act = 0 then [] else [.p d c.act (c.act &&& (0 - c.act))]) ∧
    Writes { row := "PAND", h := h, lane := true } 2 (.pand h d a b) (fun c => [.p d c.act (c.p a &&& c.p b)]) ∧
    Writes { row := "POR", h := h, lane := true } 2 (.por h d a b) (fun c => [.p d c.act (c.p a ||| c.p b)]) ∧
    Writes { row := "PXOR", h := h, lane := true } 2 (.pxor h d a b) (fun c => [.p d c.act (c.p a ^^^ c.p b)]) ∧
    Writes { row := "PANDN", h := h, lane := true } 2 (.pandn h d a b) (fun c => [.p d c.act (c.p a &&& ~~~(c.p b))]) ∧
    Writes { row := "PNOT", h := h, lane := true } 2 (.pnot h d a) (fun c => [.p d c.act (~~~(c.p a))]) ∧
    Writes { row := "PMOV", h := h, lane := true } 2 (.pmov h d a) (fun c => [.p d c.act (c.p a)]) ∧
    Writes { row := "SPAND", h := h } 2 (.spand h d a b) (fun c => [.sp d (c.sp a && c.sp b)]) ∧
    Writes { row := "SPOR", h := h } 2 (.spor h d a b) (fun c => [.sp d (c.sp a || c.sp b)]) ∧
    Writes { row := "SPXOR", h := h } 2 (.spxor h d a b) (fun c => [.sp d (c.sp a ^^ c.sp b)]) ∧
    Writes { row := "SPANDN", h := h } 2 (.spandn h d a b) (fun c => [.sp d (c.sp a && !c.sp b)]) ∧
    Writes { row := "SPNOT", h := h } 2 (.spnot h d a) (fun c => [.sp d (!c.sp a)]) ∧
    Writes { row := "SPMOV", h := h } 2 (.spmov h d a) (fun c => [.sp d (c.sp a)])

/-! ### Control -/

/-- R43, R47 to R49, R56: NOP and the branches. A taken relative branch goes to its base word's address plus 4 times its
offset and holds the next issue until 4 ck after its own; one not taken falls through with no hold; BRX holds 6 ck, and
traps PCBAD on an address that is no multiple of 4 or not below 2^56. An instruction issues no sooner than its group's
hold and than its own DIST; and the word 0x1036FFFB is `brany.d2 p3`, five words back. -/
def Obligations.Branches : Prop :=
  ∀ (h : Hdr) (p a : Nat) (neg : Bool) (off : Int),
    let fall (row : String) (x : Instr) (take : Ctl → Bool) : Prop :=
      GoesTo { row := row, h := h } x (fun c => if take c then c.pc + BitVec.ofInt 64 (4 * off) else c.next)
        (fun c => if take c then c.u + 4 else 0)
    let m (c : Ctl) : Mask := if neg then ~~~(c.p p) else c.p p
    fall "BRA" (.bra h off) (fun _ => true) ∧ fall "BRA_EXT" (.braExt h off) (fun _ => true) ∧
    fall "BRANY" (.brany h p neg off) (fun c => c.em &&& m c != 0) ∧
    fall "BRANY_EXT" (.branyExt h p neg off) (fun c => c.em &&& m c != 0) ∧
    fall "BRALL" (.brall h p neg off) (fun c => c.em &&& m c == c.em) ∧
    fall "BRALL_EXT" (.brallExt h p neg off) (fun c => c.em &&& m c == c.em) ∧
    fall "BRNONE" (.brnone h p neg off) (fun c => c.em &&& m c == 0) ∧
    fall "BRNONE_EXT" (.brnoneExt h p neg off) (fun c => c.em &&& m c == 0) ∧
    Writes { row := "NOP", h := h } 0 (.nop h) (fun _ => []) ∧
    (∀ s t g, let i : Iss := { row := "BRX", h := h }
      let c := ctlAt i s t g
      let tgt := c.s a + BitVec.ofInt 64 off
      Ready i s t g → TakesEffect i s t g → tgt.toNat % 4 = 0 → tgt.toNat < 2 ^ 56 →
        exec (.brx h a off) s = .next (afterIssue i s t g tgt (c.u + 6) id [])) ∧
    TrapsWith { row := "BRX", h := h } (.brx h a off)
      (fun c _ => (c.s a + BitVec.ofInt 64 off).toNat % 4 ≠ 0 ∨ 2 ^ 56 ≤ (c.s a + BitVec.ofInt 64 off).toNat) .pcbad ∧
    (∀ i s t g, g.i.hold ≤ issueU i s t g ∧ ∀ l, g.i.last = some l → l + max i.h.dist 1 ≤ issueU i s t g) ∧
    decodeTableWord 32 0x1036FFFB = some (.brany ⟨.base, 2, false, none⟩ 3 false (-5))

/-- R16, R22: a uniform instruction whose guard is false takes its turn and does nothing else, a jump, a memory
instruction or a trap as much as an arithmetic one; it raises no count, so that a flag at its limit does not hold it. One
that takes effect and would count a full flag up to 64 is held. -/
def Obligations.FalseGuardOnlyIssues : Prop :=
  ∀ (h : Hdr) (d a : Nat) (b : Src) (neg : Bool) (off : Int) (w : BitVec 32) (z : SizeCode) (o : Ord) (s : State) (t : Team)
      (g : Group),
    let skips (i : Iss) (x : Instr) : Prop :=
      Ready i s t g → ¬ TakesEffect i s t g → exec x s = .next (afterIssue i s t g (ctlAt i s t g).next 0 id [])
    let full (i : Iss) (x : Instr) : Prop :=
      s.cur = some (.group t.uid g.gid) → teamOf s t.uid = some t → groupIn t g.gid = some g → TakesEffect i s t g →
        flagFull g (flagOf g i.h.fs) = true → exec x s = .next s
    skips { row := "SADD_LONG", h := h } (.saddLong h d a b) ∧ skips { row := "SWRITESR_EXT", h := h } (.swritesrExt h a w) ∧
    skips { row := "BRA_EXT", h := h } (.braExt h off) ∧ skips { row := "BRANY_EXT", h := h } (.branyExt h d neg off) ∧
    skips { row := "BRALL_EXT", h := h } (.brallExt h d neg off) ∧
    skips { row := "BRNONE_EXT", h := h } (.brnoneExt h d neg off) ∧ skips { row := "TRAP", h := h } (.trap h d) ∧
    skips (uniFacts "LDU_LONG" h true) (.lduLong h z o d b off) ∧
    skips (uniFacts "STU_LONG" h false) (.stuLong h z o d b off) ∧
    full (uniFacts "LDU_LONG" h true) (.lduLong h z o d b off) ∧
    full (uniFacts "STU_LONG" h false) (.stuLong h z o d b off)

/-- R20, R21: a clause header sets the wait mask, to which successive headers add, replaces flags A and B, and moves the
pc 4 bytes on, without an issue; the ninth in a row traps HDRRUN. The model's own choices in it: log entry 17. -/
def Obligations.ClauseHeader : Prop :=
  ∀ (wait : BitVec 12) (a b : Option Nat) (s : State) (t : Team) (g : Group),
    s.cur = some (.group t.uid g.gid) → teamOf s t.uid = some t → groupIn t g.gid = some g → mayIssue t g s.clock = true →
    (g.f.hdrRun < 8 → exec (.clauseHeader wait a b) s = .next (updGroup s t.uid g.gid fun y =>
      { y with
        r := { y.r with pc := y.r.pc + 4 }
        f := { y.f with flagA := a, flagB := b, wait := y.f.wait ||| wait, hdrRun := y.f.hdrRun + 1 } })) ∧
    (8 ≤ g.f.hdrRun → exec (.clauseHeader wait a b) s =
      let s1 := settle s t.uid g.gid s.clock
      .next (raisePrecise s1 t.uid g.gid g.r.pc
        { cause := .hdrrun, mask := ((groupOf s1 t.uid g.gid).map fun k => k.r.em).getD 0 }))

/-- R58, R59, R145, R397, R406: YIELD makes the group the youngest ready one, behind every group that is eligible no
later, and does nothing else; TRAP n raises SWT0 + n on `em`; RTE in the handler gives back the mask and the saved mode
and resumes, and outside it traps PRIVOP. With the context's step bit set an instruction has its effect and then traps
DBGSTEP at its own address. The model's own choices in it: log entries 19 and 40. -/
def Obligations.YieldTrapRte : Prop :=
  ∀ (h : Hdr) (d a n : Nat) (s : State) (t : Team) (g : Group),
    (let i : Iss := { row := "YIELD", h := h }
     Ready i s t g → TakesEffect i s t g →
      exec (.yield h) s = .next (afterIssue i s t g (ctlAt i s t g).next 0
        (fun y => { y with i := { y.i with yield := some (issueU i s t g) } }) [])) ∧
    (∀ (i j : Iss) (t' : Team) (g' : Group) (u v : Nat), hasYielded g = true → hasYielded g' = false →
      eligibleAt g' j.h.dist j.mem ≤ eligibleAt g i.h.dist i.mem →
      (turnAt j s t' g' v).since < (turnAt i s t g u).since) ∧
    TrapsWith { row := "TRAP", h := h } (.trap h n) (fun _ _ => True) (.swt n) ∧
    (let i : Iss := { row := "RTE", h := h }
     Ready i s t g → TakesEffect i s t g → (settled i s t g).t.inHandler = true →
      (settled i s t g).t.tr.rpc.toNat % 4 = 0 → (settled i s t g).t.tr.rpc.toNat < 2 ^ 56 →
      exec (.rte h) s = .next (resumeTeam
        (updGroup (afterIssue i s t g (ctlAt i s t g).next 0 id []) t.uid g.gid returnGroup) t.uid)) ∧
    TrapsWith { row := "RTE", h := h } (.rte h) (fun c _ => c.g.t.inHandler = false) .privop ∧
    StepsOnce { row := "SADD", h := h } 2 (.sadd h d a n) (fun c => [.s d (c.s a + c.s n)]) ∧
    StepsOnce { row := "NOP", h := h } 0 (.nop h) (fun _ => [])

/-- R57: EXIT of a group, once every flag is clear and, where it is its team's last, the token of the commit that ends the
team finds room (R154), ends the group, and its team with its last party; until then it waits. The model's own choices in
it: log entry 23. -/
def Obligations.ExitOfGroup : Prop :=
  ∀ (h : Hdr) (s : State) (t : Team) (g : Group),
    let go (i : Iss) (x : Instr) : Prop :=
      let c := ctlAt i s t g
      let s1 := atIssue i s t g
      let after := c.t.updGroup c.gid fun k => { k with ended := true }
      Ready i s t g → TakesEffect i s t g →
        (flagsClear g = true → (teamEnds s1 after = false ∨ endRoom s1 after = true) →
          exec x s = .next (endGroup (retireOnly i c s1 c.next 0) t.uid (settled i s t g))) ∧
        ((flagsClear g = false ∨ teamEnds s1 after = true ∧ endRoom s1 after = false) → exec x s = .next s)
    go { row := "EXIT", h := h } (.exit h) ∧ go { row := "EXIT_EXT", h := h } (.exitExt h)

/-- R50 to R55: a call whose slide, target and backing store pass their checks stores the sliding registers and the frame
record at WSP, slides the window and goes to its target; a CALLX whose slide is not below the budget traps SLIDERNG. R53
to R55: RET reads the frame record below WSP, once no access of the group to those bytes is in flight, slides the window
back and fills the registers that come into it from the backing store, and goes to the return address 6 ck later; with an
empty window it traps RETUF. The model's own choices in it: log entries 21 and 39. -/
def Obligations.CallsAndReturns : Prop :=
  (∀ (h : Hdr) (off : Int) (slide : Option Nat) (a : Nat) (s : State) (t : Team) (g : Group),
      let call (i : Iss) (x : Instr) (n : Ctl → Nat) (ok : Dword → Prop) (tgt : Ctl → Dword) : Prop :=
        let c := ctlAt i s t g
        let wsp := c.g.w.wsp.toNat
        Ready i s t g → TakesEffect i s t g → n c < g.bud → ok (tgt c) → wsp % 16 = 0 →
          wsp + 256 * n c + 16 ≤ c.g.w.wslim.toNat → flagsClear g = true →
          groupTouches (atIssue i s t g) c wsp (256 * n c + 16) = false →
          firstBad (atIssue i s t g) c true (parts wsp (256 * n c + 16)) = none →
          exec x s = .next (retire i c
            (updGroup (spill (atIssue i s t g) c (parts wsp (256 * n c + 16)) wsp (frameBytes c.g (n c) c.next)) t.uid g.gid
              fun y => { y with w := { y.w with
                wb := (y.w.wb + n c) % y.bud, fdepth := y.w.fdepth + 1
                wsp := y.w.wsp + BitVec.ofNat 64 (256 * n c + 16) } })
            (tgt c) (c.u + 4 + n c))
      call { row := "CALL", h := h } (.call h off) (fun c => c.g.w.frsz.toNat) (fun _ => True)
        (fun c => c.pc + BitVec.ofInt 64 (4 * off)) ∧
      call { row := "CALL_EXT", h := h } (.callExt h off slide) (fun c => slide.getD c.g.w.frsz.toNat) (fun _ => True)
        (fun c => c.pc + BitVec.ofInt 64 (4 * off)) ∧
      call { row := "CALLX", h := h } (.callx h a off slide) (fun c => slide.getD c.g.w.frsz.toNat)
        (fun tgt => tgt.toNat % 4 = 0 ∧ tgt.toNat < 2 ^ 56) (fun c => c.s a + BitVec.ofInt 64 off) ∧
      TrapsWith { row := "CALLX", h := h } (.callx h a off slide) (fun c _ => c.g.bud ≤ slide.getD c.g.w.frsz.toNat) .sliderng) ∧
  (∀ (h : Hdr) (s : State) (t : Team) (g : Group),
      let i : Iss := { row := "RET", h := h }
      let c := ctlAt i s t g
      let s1 := atIssue i s t g
      let l := parts (c.g.w.wsp - 16).toNat 16
      let r := refill s1 c l
      let slide := 8 * (r.1.getD 8 0).toNat
      let ra : Dword := BitVec.ofNat 64 (natOfBytes (slice r.1 0 8))
      let base := c.g.w.wsp - 16 - BitVec.ofNat 64 (256 * slide)
      let k := parts base.toNat (256 * slide)
      let fine (l : List (Nat × Nat)) : Prop :=
        firstBad s1 c false l = none ∧ partMarked s1 c l = none ∧ partWaits s1 c l = false
      (Ready i s t g → TakesEffect i s t g → c.g.w.fdepth ≠ 0 → flagsClear g = true →
        groupTouches s1 c (c.g.w.wsp - 16).toNat 16 = false → fine l → slide < g.bud →
        ra.toNat % 4 = 0 → ra.toNat < 2 ^ 56 → fine k → groupTouches s1 c base.toNat (256 * slide) = false →
        exec (.ret h) s = .next (retire i c
          (updGroup (refill r.2 c k).2 t.uid g.gid fun y => popWindow slide base (refill r.2 c k).1
            (logWrs c.dbg c.u c.pc c.u (refillWrs slide (refill r.2 c k).1 y) y)) ra (c.u + 6))) ∧
      TrapsWith i (.ret h) (fun c _ => c.g.w.fdepth = 0) .retuf)

/-! ### Lanes -/

/-- R70 to R72: permutation, ballot, access to one lane whatever the mask, and reductions. The model's own choices in it:
log entries 20 and 39. -/
def Obligations.LaneOperations : Prop :=
  ∀ (h : Hdr) (d a b k p : Nat) (x : Src) (op : LredOp),
    Writes { row := "SHFL", h := h, lane := true, vs := [d, a, b] } 5 (.shfl h .idx d a b k)
      (fun c => [wrV c d fun l => c.lane a ((c.lane b l).toNat % 64)]) ∧
    Writes { row := "SHFL", h := h, lane := true, vs := [d, a] } 5 (.shfl h .up d a b k)
      (fun c => [wrV c d fun l => c.lane a (if k ≤ l then l - k else l)]) ∧
    Writes { row := "SHFL", h := h, lane := true, vs := [d, a] } 5 (.shfl h .dn d a b k)
      (fun c => [wrV c d fun l => c.lane a (if l + k < 64 then l + k else l)]) ∧
    Writes { row := "SHFL", h := h, lane := true, vs := [d, a] } 5 (.shfl h .xor d a b k)
      (fun c => [wrV c d fun l => c.lane a (l ^^^ k)]) ∧
    Writes { row := "BALLOT", h := h, lane := true } 3 (.ballot h d p) (fun c => [.s d (c.act &&& c.p p)]) ∧
    Writes { row := "READLANE", h := h, vs := [a] } 3 (.readlane h d a x)
      (fun c => [.s d ((c.lane a ((c.srcS x).toNat % 64)).setWidth 64)]) ∧
    Writes { row := "WRITELANE", h := h, vs := [d] } 4 (.writelane h d a x)
      (fun c => [.v (physOf c.g d) (1#64 <<< ((c.srcS x).toNat % 64)) (vgen fun _ => (c.s a).setWidth 32)]) ∧
    Writes { row := "LRED", h := h, lane := true, vs := [a] } (if lredFp op then 7 else 5) (.lred h op d a)
      (fun c => .s d (lred op c.g.r.fmode c.act (c.v a)).1 ::
        (if (lred op c.g.r.fmode c.act (c.v a)).2 then [.statusSet 4] else []))

/-- R73, R74: QPUSH puts the value in flight, or traps QBOUND where the queue is bound; QPOP is in flight until it is
served. The model's own choice for a push whose queue becomes bound: log entry 39. -/
def Obligations.QueueIssue : Prop :=
  ∀ (h : Hdr) (d q : Nat) (x : Src) (tr : Option Nat),
    Acts { row := "QPUSH", h := h, ll := true, wr := false } (.qpush h q x) (fun c _ => (vget c.t.queues q).bound = none)
      (fun c s => startOp c (.qpush q (c.srcS x)) s) ∧
    TrapsWith { row := "QPUSH", h := h, ll := true, wr := false } (.qpush h q x)
      (fun c _ => (vget c.t.queues q).bound ≠ none) .qbound ∧
    Starts { row := "QPOP", h := h, ll := true } (.qpop h d q tr) (fun _ => .qpop d q tr)

/-! ### Vector integers -/

/-- R80 to R82: vector integer arithmetic and logic in the active lanes, on registers, immediates or literals. -/
def Obligations.VectorArithmetic : Prop :=
  ∀ (h : Hdr) (sg : Bool) (d a b : Nat) (x y : Src) (k : Int),
    let bin (row : String) (lat : Nat) (i : Instr) (f : BitVec 32 → BitVec 32 → BitVec 32) : Prop :=
      Writes (vecFacts row h (d :: a :: srcRegs x)) lat i (fun c => [wrV c d fun l => f (c.lane a l) (c.srcV x l)])
    Writes (vecFacts "VADD" h [d, a, b]) 4 (.vadd h d a b) (fun c => [wrV c d fun l => c.lane a l + c.lane b l]) ∧
    bin "VMUL" 5 (.vmul h d a x) (fun u v => u * v) ∧
    bin "VMULH" 5 (.vmulh h sg d a x) (fun u v => if sg then BitVec.ofInt 32 (u.toInt * v.toInt / 2 ^ 32)
      else BitVec.ofNat 32 (u.toNat * v.toNat / 2 ^ 32)) ∧
    Writes (vecFacts "VMAD" h (d :: a :: b :: srcRegs x)) 5 (.vmad h d a b x)
      (fun c => [wrV c d fun l => c.lane a l * c.lane b l + c.srcV x l]) ∧
    bin "VAND" 4 (.vand h d a x) (fun u v => u &&& v) ∧
    bin "VOR" 4 (.vor h d a x) (fun u v => u ||| v) ∧
    bin "VXOR" 4 (.vxor h d a x) (fun u v => u ^^^ v) ∧
    bin "VANDN" 4 (.vandn h d a x) (fun u v => u &&& ~~~v) ∧
    Writes (vecFacts "VNOT" h (d :: srcRegs x)) 4 (.vnot h d x) (fun c => [wrV c d fun l => ~~~(c.srcV x l)]) ∧
    bin "VSHL" 4 (.vshl h d a x) (fun u v => u <<< (v.toNat % 32)) ∧
    bin "VSHR" 4 (.vshr h d a x) (fun u v => u >>> (v.toNat % 32)) ∧
    bin "VSAR" 4 (.vsar h d a x) (fun u v => u.sshiftRight (v.toNat % 32)) ∧
    bin "VMIN" 4 (.vmin h sg d a x) (fun u v => if (if sg then u.slt v else u.ult v) then u else v) ∧
    bin "VMAX" 4 (.vmax h sg d a x) (fun u v => if (if sg then u.slt v else u.ult v) then v else u) ∧
    Writes (vecFacts "VADDI" h [d, a]) 4 (.vaddi h d a k) (fun c => [wrV c d fun l => c.lane a l + BitVec.ofInt 32 k]) ∧
    Writes (vecFacts "VADDI_LONG" h (d :: srcRegs x)) 4 (.vaddiLong h d x y)
      (fun c => [wrV c d fun l => c.srcV x l + c.srcV y l])

/-- R81: with the saturating modifier a sum, a difference, a magnitude or a negation clamps to the type's range, and sets
SATI where an active lane clamped; without it the result wraps. -/
def Obligations.VectorSaturation : Prop :=
  ∀ (h : Hdr) (sat n32 : Bool) (d a : Nat) (x : Src),
    let num (v : BitVec 32) : Int := if n32 then (v.toNat : Int) else v.toInt
    let lo : Int := if n32 then 0 else -(2 ^ 31)
    let hi : Int := if n32 then 2 ^ 32 - 1 else 2 ^ 31 - 1
    let clamp (lo hi e : Int) : BitVec 32 := BitVec.ofInt 32 (if e < lo then lo else if hi < e then hi else e)
    let out (lo hi e : Int) : Bool := decide (e < lo) || decide (hi < e)
    let sati (c : Ctl) (f : Nat → Bool) : List RegWr := if (lanesOf c.act).any f then [.statusSet 2] else []
    (∀ e : Ctl → Nat → Int, e = (fun c l => num (c.lane a l) + num (c.srcV x l)) →
      Writes (vecFacts "VADD_LONG" h (d :: a :: srcRegs x)) 4 (.vaddLong h sat n32 d a x) (fun c =>
        if sat then wrV c d (fun l => clamp lo hi (e c l)) :: sati c fun l => out lo hi (e c l)
        else [wrV c d fun l => c.lane a l + c.srcV x l])) ∧
    (∀ e : Ctl → Nat → Int, e = (fun c l => num (c.lane a l) - num (c.srcV x l)) →
      Writes (vecFacts "VSUB" h (d :: a :: srcRegs x)) 4 (.vsub h sat n32 d a x) (fun c =>
        if sat then wrV c d (fun l => clamp lo hi (e c l)) :: sati c fun l => out lo hi (e c l)
        else [wrV c d fun l => c.lane a l - c.srcV x l])) ∧
    (∀ e : Ctl → Nat → Int, e = (fun c l => ((c.srcV x l).toInt.natAbs : Int)) →
      Writes (vecFacts "VABS" h (d :: srcRegs x)) 4 (.vabs h sat d x) (fun c =>
        if sat then wrV c d (fun l => clamp (-(2 ^ 31)) (2 ^ 31 - 1) (e c l)) ::
          sati c fun l => out (-(2 ^ 31)) (2 ^ 31 - 1) (e c l)
        else [wrV c d fun l => BitVec.ofInt 32 (e c l)])) ∧
    (∀ e : Ctl → Nat → Int, e = (fun c l => -(c.srcV x l).toInt) →
      Writes (vecFacts "VNEG" h (d :: srcRegs x)) 4 (.vneg h sat d x) (fun c =>
        if sat then wrV c d (fun l => clamp (-(2 ^ 31)) (2 ^ 31 - 1) (e c l)) ::
          sati c fun l => out (-(2 ^ 31)) (2 ^ 31 - 1) (e c l)
        else [wrV c d fun l => BitVec.ofInt 32 (e c l)]))

/-- R82, R83, R86, R87: moves, bit fields, counts, intersection, comparison and selection. -/
def Obligations.VectorBitsAndMoves : Prop :=
  ∀ (h : Hdr) (sg hi : Bool) (rel : Rel) (d a b k p pos len : Nat) (x : Src) (n : Int),
    let one (row : String) (vs : List Nat) (i : Instr) (f : Ctl → Nat → BitVec 32) : Prop :=
      Writes (vecFacts row h (d :: vs)) 4 i (fun c => [wrV c d (f c)])
    one "VMOV" (srcRegs x) (.vmov h d x) (fun c l => c.srcV x l) ∧
    one "VMOVS" [] (.vmovs h hi d x) (fun c _ => (c.srcS x >>> (if hi then 32 else 0)).setWidth 32) ∧
    one "VMOVI" [] (.vmovi h d n) (fun _ _ => BitVec.ofInt 32 n) ∧
    one "VMOVI_LONG" [] (.vmoviLong h d x) (fun c l => c.srcV x l) ∧
    one "VBFX" [a] (.vbfx h sg d a pos len) (fun c l =>
      if sg then BitVec.ofInt 32 (sextNat len ((c.lane a l).toNat / 2 ^ pos % 2 ^ len))
      else BitVec.ofNat 32 ((c.lane a l).toNat / 2 ^ pos % 2 ^ len)) ∧
    one "VBFI" [a] (.vbfi h d a pos len) (fun c l => bfi pos len (c.lane d l) (c.lane a l)) ∧
    one "VCLZ" [a] (.vclz h d a) (fun c l => BitVec.ofNat 32 (clz 32 (c.lane a l).toNat)) ∧
    one "VPOPC" [a] (.vpopc h d a) (fun c l => BitVec.ofNat 32 (popcount 32 (c.lane a l).toNat)) ∧
    one "VBREV" [a] (.vbrev h d a) (fun c l => BitVec.ofNat 32 (bitrev 32 (c.lane a l).toNat)) ∧
    Writes (vecFacts "VISECT" h [d, a, b, k]) 6 (.visect h d a b k)
      (fun c => [wrV c d fun l => isect (c.lane a l) (c.lane b l) (c.lane k l)]) ∧
    Writes (vecFacts "VCMP" h (a :: srcRegs x)) 4 (.vcmp h rel sg d a x)
      (fun c => [.p d c.act (lanesWhere fun l => relBv rel sg (c.lane a l) (c.srcV x l))]) ∧
    one "VSEL" [a, b] (.vsel h d p a b) (fun c l => if (c.p p).getLsbD l then c.lane a l else c.lane b l)

/-- R84: VPRFX forms popcount prefix offsets across the active lanes: each gets bits 31:0 of s_b plus the one bits of v_a
in the active lanes below it, and with .incl its own, modulo 2^32. Inactive lanes neither contribute nor receive. -/
def Obligations.VectorPrefix : Prop :=
  ∀ (h : Hdr) (incl : Bool) (d a b : Nat),
    Writes (vecFacts "VPRFX" h [d, a]) 6 (.vprfx h incl d a b) (fun c => [wrV c d fun l =>
      BitVec.ofNat 32 ((c.s b).toNat % 2 ^ 32 +
        (((lanesOf c.act).filter fun k => decide (k < l) || (incl && k == l)).map fun k =>
          popcount 32 (c.lane a k).toNat).sum)])

/-- R85: VBMAND sets v_d to the AND of v_a and v_b in each active lane, and the lane's bit of p_c to 1 where that is
nonzero and to 0 where it is zero; inactive lanes keep both their `v` and their `p` bits. -/
def Obligations.VectorBooleanMatrix : Prop :=
  ∀ (h : Hdr) (d p a b : Nat) (s : State) (t : Team) (g : Group),
    let i := vecFacts "VBMAND" h [d, a, b]
    let c := ctlAt i s t g
    Ready i s t g →
      ∃ ws, exec (.vbmand h d p a b) s = .next (afterFixed i s t g 4 ws) ∧
        ∀ y : Group, ∀ l < 64,
          let z := applyWrs y ws
          vget (vget z.r.v (physOf c.g d)) l =
            (if c.act.getLsbD l then c.lane a l &&& c.lane b l else vget (vget y.r.v (physOf c.g d)) l) ∧
          (vget z.r.p p).getLsbD l =
            (if c.act.getLsbD l then c.lane a l &&& c.lane b l != 0 else (vget y.r.p p).getLsbD l)

/-! ### Vector floating point -/

/-- R78, R88 to R91: floating-point arithmetic in the active lanes, one FP32 element or two packed 16-bit ones, each
computed on its own with FMODE's flushes, and STATUS.INV where an active lane's operation is invalid. R91: VFCMP writes
the predicate in the active lanes, from the low or the high element of a packed class; an immediate is one element. The
model's own choices in it: log entry 20. -/
def Obligations.VectorFloat : Prop :=
  (∀ (h : Hdr) (f : FCls) (m : RMode) (d a b : Nat) (x y : Src),
      let fm := fmtOf (fclsTy f)
      let res (f : FCls) (op : Bool → Bool → Nat → Nat → Nat → FRes) (c : Ctl) (u v w : Nat → BitVec 32) : List RegWr :=
        let r (l : Nat) := onElems f (op (flushIn c.g.r.fmode (fclsBits f)) (flushOut c.g.r.fmode (fclsBits f))) (u l) (v l) (w l)
        wrV c d (fun l => (r l).1) :: wrSt (laneSt c.act fun l => stBits false false (r l).2)
      let two (row : String) (i : Instr) (op : Bool → Bool → Nat → Nat → FRes) : Prop :=
        Writes (vecFacts row h (d :: a :: srcRegs x)) 4 i
          (fun c => res f (fun i o u v _ => op i o u v) c (c.lane a) (c.srcV x) (fun _ => 0))
      let fused (row : String) (i : Instr) (np nc : Bool) : Prop :=
        Writes (vecFacts row h (d :: a :: (srcRegs x ++ srcRegs y))) 4 i
          (fun c => res f (fun i o u v w => fFma fm m np nc i o u v w) c (c.lane a) (c.srcV x) (c.srcV y))
      Writes (vecFacts "VFADD" h [d, a, b]) 4 (.vfadd h d a b)
        (fun c => res .f32 (fun i o u v _ => fAdd fmtF32 .rne i o u v) c (c.lane a) (c.lane b) (fun _ => 0)) ∧
      two "VFADD_LONG" (.vfaddLong h f m d a x) (fAdd fm m) ∧
      two "VFSUB" (.vfsub h f m d a x) (fSub fm m) ∧
      two "VFMUL" (.vfmul h f m d a x) (fMul fm m) ∧
      two "VFMIN" (.vfmin h f d a x) (fun i _ => fExtreme fm false i) ∧
      two "VFMAX" (.vfmax h f d a x) (fun i _ => fExtreme fm true i) ∧
      Writes (vecFacts "VFABS" h (d :: srcRegs x)) 4 (.vfabs h f d x) (fun c => [wrV c d fun l =>
        c.srcV x l &&& (if f = .f32 then 0x7FFFFFFF else 0x7FFF7FFF)]) ∧
      Writes (vecFacts "VFNEG" h (d :: srcRegs x)) 4 (.vfneg h f d x) (fun c => [wrV c d fun l =>
        c.srcV x l ^^^ (if f = .f32 then 0x80000000 else 0x80008000)]) ∧
      Writes (vecFacts "VFMA" h [d, a, b, d]) 4 (.vfma h d a b)
        (fun c => res .f32 (fun i o u v w => fFma fmtF32 .rne false false i o u v w) c (c.lane a) (c.lane b) (c.lane d)) ∧
      fused "VFMA_LONG" (.vfmaLong h f m d a x y) false false ∧
      fused "VFMS" (.vfms h f m d a x y) false true ∧
      fused "VFNMA" (.vfnma h f m d a x y) true false) ∧
  (∀ (h : Hdr) (f : FCls) (rel : FRel) (hi : Bool) (d a : Nat) (x : Src),
      let el (w : BitVec 32) : Nat :=
        if f = .f32 then w.toNat else if hi then w.toNat / 2 ^ 16 else w.toNat % 2 ^ 16
      let el2 (w : BitVec 32) : Nat := if f ≠ .f32 ∧ srcIsImm x = true then w.toNat % 2 ^ 16 else el w
      Writes (vecFacts "VFCMP" h (a :: srcRegs x)) 4 (.vfcmp h f rel hi d a x) (fun c =>
        let r (l : Nat) := fCmp (fmtOf (fclsTy f)) rel (flushIn c.g.r.fmode (fclsBits f)) (el (c.lane a l)) (el2 (c.srcV x l))
        .p d c.act (lanesWhere fun l => (r l).1) :: wrSt (laneSt c.act fun l => stBits false false (r l).2)))

/-- R92, R93: the special functions are long-latency lane instructions that hold their partition's SFU for 8 ck; the
result of each active lane, and INV, land with the completion. The model's own choices in it: log entries 2 and 20. -/
def Obligations.SpecialFunctions : Prop :=
  ∀ (h : Hdr) (d a : Nat),
    let fn (row : String) (i : Instr) (f : Bool → Bool → Nat → FRes) : Prop :=
      Starts { row := row, h := h, lane := true, vs := [d, a], ll := true, unit := .sfu 8 } i (fun c =>
        let r (l : Nat) := f (flushIn c.g.r.fmode 32) (flushOut c.g.r.fmode 32) (c.lane a l).toNat
        .regs (wrV c d (fun l => BitVec.ofNat 32 (r l).x) :: wrSt (laneSt c.act fun l => stBits false false (r l).inv)))
    fn "VRCP" (.vrcp h d a) sfuRcp ∧ fn "VRSQ" (.vrsq h d a) sfuRsq ∧ fn "VSQRT" (.vsqrt h d a) sfuSqrt ∧
    fn "VEXP2" (.vexp2 h d a) sfuExp2 ∧ fn "VLOG2" (.vlog2 h d a) sfuLog2 ∧ fn "VSIN" (.vsin h d a) sfuSin ∧
    fn "VCOS" (.vcos h d a) sfuCos ∧ fn "VTANH" (.vtanh h d a) sfuTanh ∧ fn "VSIGM" (.vsigm h d a) sfuSigm ∧
    fn "VERF" (.verf h d a) sfuErf

/-- R94 to R100: conversion, stochastic rounding, random bits, block scales and quantisation. RNGFILL advances the
context's RNGCTR in its core by one, whatever the mask. The model's own choices in it: log entries 20 and 39. -/
def Obligations.Conversions : Prop :=
  ∀ (h : Hdr) (dt st : Ty) (m : RMode) (sat satf given : Bool) (d a b k sidx didx n : Nat),
    Writes (vecFacts "VCVT" h (tyRegs dt d ++ tyRegs st a)) 5 (.vcvt h dt st m sat satf d a sidx didx) (fun c =>
      let r (l : Nat) := convert dt st m sat satf (flushIn c.g.r.fmode (tyBits st)) (flushOut c.g.r.fmode (tyBits dt))
        (c.elem st a sidx l)
      wrElem c dt d didx (fun l => (r l).x) ++ wrSt (laneSt c.act fun l => stBits false (r l).sati (r l).inv)) ∧
    Writes (vecFacts "VCVTSR" h [d, a, b]) 5 (.vcvtsr h dt satf d a b didx) (fun c =>
      let r (l : Nat) := convertSr dt satf (flushIn c.g.r.fmode 32) (flushOut c.g.r.fmode (tyBits dt))
        (c.lane a l).toNat (c.lane b l).toNat
      wrElem c dt d didx (fun l => (r l).x) ++ wrSt (laneSt c.act fun l => stBits false (r l).sati (r l).inv)) ∧
    Writes (vecFacts "VQUANT" h [d, a, b]) 6 (.vquant h dt m d a b k didx) (fun c =>
      let r (l : Nat) := quantise dt m (flushIn c.g.r.fmode 32) (flushOut c.g.r.fmode (tyBits dt)) (c.lane a l).toNat
        ((c.lane b l).toNat % 2 ^ 8) ((c.s k).toNat % 2 ^ 16)
      wrElem c dt d didx (fun l => (r l).x) ++ wrSt (laneSt c.act fun l => stBits false (r l).sati (r l).inv)) ∧
    Acts { row := "RNGFILL", h := h, lane := true, vs := runRegs d n, unit := .fma (2 * n) } (.rngfill h d n)
      (fun _ _ => True) (fun c s =>
        let r := rngOf (coreOf s c.t.core) c.t.ctx
        pendWrs c 7 ((List.range n).map fun j => wrV c (d + j) fun l => BitVec.ofNat 32 (pick4 (philoxLane r.1 r.2 l) j))
          (updCore s c.t.core fun k => setRng k c.t.ctx (r.1, r.2 + 1))) ∧
    Starts { row := "SCALECALC", h := h, lane := true, vs := d :: runRegs a 8, ll := true, unit := .fma 16 }
      (.scalecalc h given d a b k) (fun c =>
        let r := scaleCalc (flushIn c.g.r.fmode 32) c.act (if given then some ((c.s b).toNat % 2 ^ 16) else none)
          fun l => (List.range 8).map fun j => c.lane (a + j) l
        .regs (wrV c d (fun l => BitVec.ofNat 32 (r.2.1 l)) ::
          ((if given then [] else [.s k (BitVec.ofNat 64 r.1)]) ++ wrSt r.2.2)))

/-! ### Memory -/

/-- R103 to R109, R115: loads and stores of lanes and of `s` registers: loads in forward mode on every page, and in
reverse mode on pages that are not differentiable; stores, in either mode, on pages that are neither deferred nor
differentiable. With its addresses aligned and below 2^56 the access goes in flight, and memory stays as it is until it
completes; an acquiring load holds the group's later memory instructions. Lanes whose address does not translate go in
flight too, and fault when the access is performed (R108). The model's own choices in it: log entries 16 and 21. -/
def Obligations.LoadsAndStores : Prop :=
  ∀ (h : Hdr) (z : SizeCode) (o : Ord) (d a : Nat) (m : MemArg) (x : Src) (off : Int) (s : State) (t : Team) (g : Group),
    let ld (row : String) (z : SizeCode) (o : Ord) (i : Instr) : Prop :=
      let f : Iss := { row := row, h := h, lane := true, vs := runRegs d (sizeRegs z) ++ addrRegs m false, ll := true
                       wr := true, mem := true }
      let c := ctlAt f s t g
      let as := c.addrs m false (sizeBytes z)
      let ls := accsAt c (atIssue f s t g) true false (fun l => c.data d (sizeRegs z) l) as
      Ready f s t g → Aligned (sizeBytes z) as → (g.e.rev = true → ∀ a ∈ ls, a.x.isG = false) →
        exec i s = .next (afterLong f s t g (.mem false z o g.e.rev (vecDst c d (sizeRegs z)) ls c.g.r.fmode [] none)
          (if o.code = 1 then holdsFor s.nextId else id))
    let st (row : String) (z : SizeCode) (o : Ord) (i : Instr) : Prop :=
      let f : Iss := { row := row, h := h, lane := true, vs := runRegs d (sizeRegs z) ++ addrRegs m false, ll := true
                       wr := false, mem := true }
      let c := ctlAt f s t g
      let as := c.addrs m false (sizeBytes z)
      let ls := accsAt c (atIssue f s t g) false true (fun l => c.data d (sizeRegs z) l) as
      Ready f s t g → (g.e.rev = true → c.flag ≠ none) → Aligned (sizeBytes z) as → Plain ls →
        exec i s = .next (afterLong f s t g
          (.mem true z o g.e.rev (if g.e.rev then vecDst c d (sizeRegs z) else .none) ls c.g.r.fmode [] none)
          (logsStore c (atIssue f s t g) z
            (ls.filter fun a => (memFault t.d.gridUnit true g.e.rev z o a.x).isNone)))
    let ldu (row : String) (z : SizeCode) (o : Ord) (x : Src) (i : Instr) : Prop :=
      let f : Iss := { row := row, h := h, ll := true, wr := true, mem := true }
      let c := ctlAt f s t g
      let as := [(0, c.uaddr x off)]
      let ls := accsAt c (atIssue f s t g) true false (fun _ => (c.s d).setWidth 128) as
      Ready f s t g → TakesEffect f s t g → Aligned (sizeBytes z) as → (g.e.rev = true → ∀ a ∈ ls, a.x.isG = false) →
        exec i s = .next (afterLong f s t g (.mem false z o g.e.rev (.s d) ls c.g.r.fmode [] none)
          (if o.code = 1 then holdsFor s.nextId else id))
    let stu (row : String) (z : SizeCode) (o : Ord) (x : Src) (i : Instr) : Prop :=
      let f : Iss := { row := row, h := h, ll := true, wr := false, mem := true }
      let c := ctlAt f s t g
      let as := [(0, c.uaddr x off)]
      let ls := accsAt c (atIssue f s t g) false true (fun _ => (c.s d).setWidth 128) as
      Ready f s t g → TakesEffect f s t g → (g.e.rev = true → c.flag ≠ none) → Aligned (sizeBytes z) as → Plain ls →
        exec i s = .next (afterLong f s t g
          (.mem true z o g.e.rev (if g.e.rev then .s d else .none) ls c.g.r.fmode [] none)
          (logsStore c (atIssue f s t g) z
            (ls.filter fun a => (memFault t.d.gridUnit true g.e.rev z o a.x).isNone)))
    ld "LD" .b32 ⟨0, 0⟩ (.ld h d m) ∧ ld "LD_LONG" z o (.ldLong h z o d m) ∧
    st "ST" .b32 ⟨0, 0⟩ (.st h d m) ∧ st "ST_LONG" z o (.stLong h z o d m) ∧
    ldu "LDU" .b64 ⟨0, 0⟩ (.reg a) (.ldu h d a off) ∧ ldu "LDU_LONG" z o x (.lduLong h z o d x off) ∧
    stu "STU" .b64 ⟨0, 0⟩ (.reg a) (.stu h d a off) ∧ stu "STU_LONG" z o x (.stuLong h z o d x off)

/-- R106, R115, R393, R432: a lane of a load or a store, or the address of a uniform one, at every access size, that is no
multiple of that size, up to 16, or not below 2^56, makes the instruction trap before any effect, with the lowest code
among its lanes and the lanes that raise it, or, for a uniform instruction, `em`. The model's own choices in it: log entry
18. -/
def Obligations.MisalignedAccess : Prop :=
  ∀ (h : Hdr) (z : SizeCode) (o : Ord) (d a : Nat) (m : MemArg) (x : Src) (off : Int) (s : State) (t : Team) (g : Group),
    let trap (f : Iss) (size : Nat) (as : Ctl → List (Nat × Nat)) (i : Instr) : Prop :=
      let c := ctlAt f s t g
      let bad := (as c).filterMap fun p =>
        if p.2 % min size 16 ≠ 0 then some ⟨p.1, causeCode .misaln, p.2⟩
        else if 2 ^ 56 ≤ p.2 then some ⟨p.1, causeCode .addrbad, p.2⟩ else none
      Ready f s t g → TakesEffect f s t g → (f.wr = false → g.e.rev = true → c.flag ≠ none) → bad ≠ [] →
        exec i s = .next (raiseRec (atIssue f s t g) t.uid g.gid true
          (wonRec c.g c.pc (winner (if f.lane then none else some c.em) bad)) none)
    let lanes (row : String) (wr : Bool) (z : SizeCode) (i : Instr) : Prop :=
      trap { row := row, h := h, lane := true, vs := runRegs d (sizeRegs z) ++ addrRegs m false, ll := true, wr := wr
             mem := true } (sizeBytes z) (fun c => c.addrs m false (sizeBytes z)) i
    let uni (row : String) (wr : Bool) (z : SizeCode) (b : Src) (i : Instr) : Prop :=
      trap (uniFacts row h wr) (sizeBytes z) (fun c => [(0, c.uaddr b off)]) i
    lanes "LD" true .b32 (.ld h d m) ∧ lanes "LD_LONG" true z (.ldLong h z o d m) ∧
    lanes "ST" false .b32 (.st h d m) ∧ lanes "ST_LONG" false z (.stLong h z o d m) ∧
    uni "LDU" true .b64 (.reg a) (.ldu h d a off) ∧ uni "LDU_LONG" true z x (.lduLong h z o d x off) ∧
    uni "STU" false .b64 (.reg a) (.stu h d a off) ∧ uni "STU_LONG" false z x (.stuLong h z o d x off)

/-- R109, R149, R153, R154: a forward-mode ST of 32 bits whose lanes all translate to deferred pages makes one record a
lane, in the core's Sporangium, charged to the team's commit unit, when the unit's quota and the Sporangium have room;
where the quota lacks room, the lanes that exceed it trap DEFQUOTA and no record is made. R272, R301: a forward-mode ST of
32 bits whose lanes all translate to differentiable pages, and that is no replay, takes one tape position a lane above the
highest in use, in ascending lane order; where the tape lacks room it traps TAPEFULL. R273: a reverse-mode load of words
from differentiable pages with deferred shadows makes a record for each lane's word, the add of its adjoint. R274, R301,
R304: a reverse-mode ST of 32 bits whose lanes all translate to differentiable pages takes the records that stand on top
of the tape, the highest for the highest lane, and with a deferred shadow, where the team is its unit, commits; with an
empty tape it traps TAPEEMPTY. The model's own choices in it: log entries 16, 22 and 23. -/
def Obligations.DeferredAndTapeStores : Prop :=
  (∀ (h : Hdr) (d : Nat) (m : MemArg) (s : State) (t : Team) (g : Group),
      let f : Iss := { row := "ST", h := h, lane := true, vs := runRegs d 1 ++ addrRegs m false, ll := true, wr := false
                       mem := true }
      let c := ctlAt f s t g
      let s1 := atIssue f s t g
      let as := c.addrs m false 4
      let ls := accsAt c s1 false true (fun l => c.data d 1 l) as
      let recs := ls.map fun a : LaneAcc => (⟨.xchg, false, a.x.key, BitVec.ofNat 64 (a.b.toNat % 2 ^ 32)⟩ : NewRec)
      Ready f s t g → Aligned 4 as → g.e.rev = false → c.dbg = false → ls ≠ [] →
        (∀ a ∈ ls, a.x.isD = true ∧ a.x.isG = false) →
        (recs.length ≤ quotaRoom s1 c.t → recs.length ≤ sporRoom s1 t.core →
          exec (.st h d m) s = .next (retire f c
            (startOp c (.mem true .b32 ⟨0, 0⟩ false .none ls c.g.r.fmode [] none) (makeRecs s1 t.uid g.gid none recs)) c.next 0)) ∧
        (quotaRoom s1 c.t < recs.length →
          exec (.st h d m) s = .next (raiseRec s1 t.uid g.gid true (wonRec c.g c.pc (winner none
            ((ls.drop (quotaRoom s1 c.t)).map fun a => ⟨a.lane, causeCode .defquota, a.va⟩))) none))) ∧
  (∀ (h : Hdr) (d : Nat) (m : MemArg) (s : State) (t : Team) (g : Group),
      let f : Iss := { row := "ST", h := h, lane := true, vs := runRegs d 1 ++ addrRegs m false, ll := true, wr := false
                       mem := true }
      let c := ctlAt f s t g
      let s1 := atIssue f s t g
      let as := c.addrs m false 4
      let ls := accsAt c s1 false true (fun l => c.data d 1 l) as
      Ready f s t g → Aligned 4 as → g.e.rev = false → c.dbg = false → g.t.replay = none → ls ≠ [] →
        (∀ a ∈ ls, a.x.isD = false ∧ a.x.isG = true ∧ memFault t.d.gridUnit true false .b32 ⟨0, 0⟩ a.x = none) →
        (t.tape.length + ls.length ≤ t.al.tapeb / 16 →
          exec (.st h d m) s = .next (retire f c
            (startOp c (.mem true .b32 ⟨0, 0⟩ false .none ls c.g.r.fmode
                ((List.range ls.length).map fun k => ((ls.map fun a => a.lane).getD k 0, 0, t.tape.length + k)) none)
              (updTeam s1 t.uid fun x => { x with tape := t.tape ++ List.replicate ls.length .taken })) c.next 0)) ∧
        (t.al.tapeb / 16 < t.tape.length + ls.length →
          exec (.st h d m) s = .next (raisePrecise s1 t.uid g.gid g.r.pc { cause := .tapefull, mask := c.em }))) ∧
  (∀ (h : Hdr) (z : SizeCode) (o : Ord) (d : Nat) (m : MemArg) (s : State) (t : Team) (g : Group),
      let f : Iss := { row := "LD_LONG", h := h, lane := true, vs := runRegs d (sizeRegs z) ++ addrRegs m false, ll := true
                       wr := true, mem := true }
      let c := ctlAt f s t g
      let s1 := atIssue f s t g
      let as := c.addrs m false (sizeBytes z)
      let ls := accsAt c s1 true false (fun l => c.data d (sizeRegs z) l) as
      let recs := ls.flatMap fun a => (List.range (sizeBytes z / 4)).map fun j =>
        (⟨.fadd, false, ((a.x.shadow j).map fun p => p.1).getD 0,
          recValue c.g.r.fmode .fadd ((wordAt a.b j).setWidth 64)⟩ : NewRec)
      Ready f s t g → Aligned (sizeBytes z) as → g.e.rev = true → o.code ≠ 1 → ls ≠ [] →
        (∀ a ∈ ls, a.x.isG = true ∧ a.x.shadowDfr = true ∧ memFault t.d.gridUnit false true z o a.x = none) →
        recs.length ≤ quotaRoom s1 c.t → recs.length ≤ sporRoom s1 t.core →
        exec (.ldLong h z o d m) s = .next (retire f c
          (startOp c (.mem false z o true (vecDst c d (sizeRegs z)) ls c.g.r.fmode [] none)
            (makeRecs s1 t.uid g.gid none recs)) c.next 0)) ∧
  (∀ (h : Hdr) (d : Nat) (m : MemArg) (low : List TapePos) (recOf : Nat → BitVec 128) (s : State) (t : Team) (g : Group),
      let f : Iss := { row := "ST", h := h, lane := true, vs := runRegs d 1 ++ addrRegs m false, ll := true, wr := false
                       mem := true }
      let c := ctlAt f s t g
      let s1 := atIssue f s t g
      let as := c.addrs m false 4
      let ls := accsAt c s1 false true (fun l => c.data d 1 l) as
      let n := ls.length
      let commits := !t.d.gridUnit && ls.any fun a => a.x.shadowDfr
      let p := if commits then placeCommit s1 t.uid .team none none else (s1, 0)
      Ready f s t g → Aligned 4 as → g.e.rev = true → c.flag ≠ none → c.dbg = false → g.t.replay = none → ls ≠ [] →
        (∀ a ∈ ls, a.x.isG = true ∧ memFault t.d.gridUnit true true .b32 ⟨0, 0⟩ a.x = none) →
        (t.tape = low ++ ls.map (fun a => .filled (recOf a.lane)) → (∀ a ∈ ls, recPa (recOf a.lane) = keyPa a.x.key) →
          (commits = true → t.d.open' < 4 ∧ 1 ≤ sporRoom s1 t.core) →
          exec (.st h d m) s = .next (retire f c
            (startOp c (.mem true .b32 ⟨0, 0⟩ true (vecDst c d 1) ls c.g.r.fmode
                ((List.range n).map fun k => ((ls.map fun a => a.lane).getD (n - 1 - k) 0, 0, t.tape.length - 1 - k))
                (if commits then some p.2 else none))
              (updTeam p.1 t.uid fun x => { x with tape := low ++ ls.map fun a => .popping (recOf a.lane) })) c.next 0)) ∧
        (t.tape = [] →
          exec (.st h d m) s = .next (raisePrecise s1 t.uid g.gid g.r.pc { cause := .tapeempty, mask := c.em })))

/-- R112, R148: LDA and STA reach the team's A-buffer allocation; an access that is misaligned traps MISALN, and one that
does not lie inside it ABOUND. The model's own choices in it: log entry 16. -/
def Obligations.BufferAccesses : Prop :=
  ∀ (h : Hdr) (z : SizeCode) (o : Ord) (d : Nat) (m : MemArg) (s : State) (t : Team) (g : Group),
    let acc (store : Bool) (row : String) (z : SizeCode) (o : Ord) (i : Instr) : Prop :=
      let f : Iss := { row := row, h := h, lane := true, vs := runRegs d (sizeRegs z) ++ addrRegs m true, ll := true
                       wr := !store, mem := true }
      let c := ctlAt f s t g
      let as := c.addrs m true (sizeBytes z)
      let ls := as.map fun p => bufAcc p.1 p.2 (c.data d (sizeRegs z) p.1)
      let bad := as.filterMap fun p =>
        if p.2 % min (sizeBytes z) 16 ≠ 0 then some ⟨p.1, causeCode .misaln, p.2⟩
        else if t.al.asize < p.2 + sizeBytes z then some ⟨p.1, causeCode .abound, p.2⟩ else none
      Ready f s t g →
        (bad = [] → exec i s = .next (afterLong f s t g
          (.abuf store z o (if store then .none else vecDst c d (sizeRegs z)) ls)
          (if !store && o.code == 1 then holdsFor s.nextId else id))) ∧
        (bad ≠ [] →
          exec i s = .next (raiseRec (atIssue f s t g) t.uid g.gid true (wonRec c.g c.pc (winner none bad)) none))
    acc false "LDA" .b32 ⟨0, 0⟩ (.lda h d m) ∧ acc false "LDA_LONG" z o (.ldaLong h z o d m) ∧
    acc true "STA" .b32 ⟨0, 0⟩ (.sta h d m) ∧ acc true "STA_LONG" z o (.staLong h z o d m)

/-- R113: LDC and STC reach element e0 + lane of a tile, or e0 + 128 · lane with .col; a tile the team does not have traps
CTILE, and an element above 16,383 CBOUND on its lanes. The model's own choices in it: log entries 16 and 18. -/
def Obligations.TileAccesses : Prop :=
  ∀ (h : Hdr) (col : Bool) (d acc : Nat) (b : Src) (k : BitVec 32) (s : State) (t : Team) (g : Group),
    let go (store : Bool) (row : String) (i : Instr) : Prop :=
      let f : Iss := { row := row, h := h, lane := true, vs := [d], ll := true, wr := !store, mem := true }
      let c := ctlAt f s t g
      let es := (lanesOf c.act).map fun l => (l, (c.srcS b).toNat + k.toNat + (if col then 128 * l else l))
      let out := es.filter fun p => decide (16383 < p.2)
      Ready f s t g →
        (acc < t.al.tiles.length → out = [] → exec i s = .next (afterLong f s t g
          (.cbuf store acc (if store then .none else vecDst c d 1)
            (es.map fun p => bufAcc p.1 p.2 ((c.lane d p.1).setWidth 128))))) ∧
        (t.al.tiles.length ≤ acc →
          exec i s = .next (raisePrecise (atIssue f s t g) t.uid g.gid g.r.pc { cause := .ctile, mask := c.em })) ∧
        (acc < t.al.tiles.length → out ≠ [] →
          exec i s = .next (raiseRec (atIssue f s t g) t.uid g.gid true (wonRec c.g c.pc
            (winner none (out.map fun p => ⟨p.1, causeCode .cbound, 0⟩))) none))
    go false "LDC" (.ldc h col d acc b k) ∧ go true "STC" (.stc h col d acc b k)

/-- R116, R117, R177: ATOM and RED go in flight with their lanes translated for reading and writing; the core's L1 lines
of the addresses are dropped; a RED's lanes on a deferred page make a record each, where the unit's quota and the
Sporangium have room; an acquiring one holds the group's later memory instructions. The model's own choices in it: log
entries 16 and 21. -/
def Obligations.Atomics : Prop :=
  ∀ (h : Hdr) (op : AOp) (wide : Bool) (o : Ord) (d : Nat) (m : MemArg) (b k : Src) (s : State) (t : Team) (g : Group),
    let n := if wide then 2 else 1
    let accs (f : Iss) : List LaneAcc := (let c := ctlAt f s t g
      (c.addrs m false (4 * n)).map fun p => ⟨p.1, p.2, (c.aval wide b p.1).setWidth 128,
        if op = .cas then c.aval wide k p.1 else 0, xlate (atIssue f s t g) (some c.t.core) c.t.ctx p.2 true true false⟩)
    (let f : Iss := { row := "ATOM", h := h, lane := true
                      vs := runRegs d n ++ addrRegs m false ++ avalRegs wide b ++ (if op = .cas then avalRegs wide k else [])
                      ll := true, wr := true, mem := true }
     let c := ctlAt f s t g
     Ready f s t g → Aligned (4 * n) (c.addrs m false (4 * n)) →
       exec (.atom h op wide o d m b k) s = .next (retire f c
         (startOp c (.atom op wide o (vecDst c d n) (accs f) c.g.r.fmode)
           (let s2 := dropLines (atIssue f s t g) t.core t.ctx (accs f)
            if o.code = 1 ∨ o.code = 3 then holdMem c s2 else s2)) c.next 0)) ∧
    (let f : Iss := { row := "RED", h := h, lane := true, vs := addrRegs m false ++ avalRegs wide b, ll := true, wr := false
                      mem := true }
     let c := ctlAt f s t g
     let s1 := atIssue f s t g
     let recs := ((accs f).filter fun a => (atomFault false a.x).isNone && a.x.isD).map fun a =>
       (⟨op, wide, a.x.key, recValue c.g.r.fmode op (a.b.setWidth 64)⟩ : NewRec)
     Ready f s t g → op ≠ .cas → Aligned (4 * n) (c.addrs m false (4 * n)) → recs.length ≤ quotaRoom s1 c.t →
       recs.length ≤ sporRoom s1 t.core →
       exec (.red h op wide o m b) s = .next (retire f c
         (startOp c (.atom op wide o .none (accs f) c.g.r.fmode)
           (let s2 := dropLines (if recs = [] then s1 else makeRecs s1 t.uid g.gid none recs) t.core t.ctx (accs f)
            if o.code = 1 ∨ o.code = 3 then holdMem c s2 else s2)) c.next 0))

/-! ### Waits, fences, commits, barriers -/

/-- R118, R126 to R128, R432: WAITA, CWAITGE, CADD and RATOM, with an address that is aligned and below 2^56, go in
flight. An acquiring wait holds the group's later memory instructions; CADD and RATOM drop the core's line; RATOM reserves
two entries of its queue. A counter on a deferred page traps CTRDEF, and a queue bound by another kind of operation
QBOUND. The model's own choices in it: log entry 21. -/
def Obligations.CountersAndRemoteAtomics : Prop :=
  ∀ (h : Hdr) (rel : Rel) (n b64 acq crel poison wide : Bool) (op : AOp) (scope d a q : Nat) (b k : Src) (off : Int),
    let va (c : Ctl) : Nat := (c.s a + BitVec.ofInt 64 off).toNat
    Acts (uniFacts "WAITA" h true) (.waita h rel n b64 acq scope d a b off)
      (fun c _ => AddrOk (if b64 then 8 else 4) (va c))
      (fun c s => startOp c
        (.waita rel n b64 (if acq then some scope else none) d (accAt c s (va c) (c.srcS b) 0 true false))
        (if acq then holdMem c s else s)) ∧
    Acts (uniFacts "CWAITGE" h true) (.cwaitge h acq scope d a b off) (fun c _ => AddrOk 8 (va c))
      (fun c s => startOp c (.cwaitge (if acq then some scope else none) d (accAt c s (va c) (c.srcS b) 0 true false))
        (if acq then holdMem c s else s)) ∧
    Acts (uniFacts "CADD" h false) (.cadd h crel poison scope a b off)
      (fun c s => AddrOk 8 (va c) ∧ (accAt c s (va c) (c.srcS b) 0 true true).x.isD = false)
      (fun c s => let x := accAt c s (va c) (c.srcS b) 0 true true
        startOp c (.cadd (if crel then some scope else none) poison x) (dropLines s c.t.core c.t.ctx [x])) ∧
    (∀ s t g, let i := uniFacts "CADD" h false
      let c := ctlAt i s t g
      Ready i s t g → TakesEffect i s t g → AddrOk 8 (va c) →
        (accAt c (atIssue i s t g) (va c) (c.srcS b) 0 true true).x.isD = true →
        exec (.cadd h crel poison scope a b off) s = .next (raiseRec (atIssue i s t g) t.uid g.gid true
          (wonRec c.g c.pc ⟨causeCode .ctrdef, c.em, 0, 0, va c⟩) none)) ∧
    Acts (uniFacts "RATOM" h false) (.ratom h op wide q a b k off)
      (fun c _ => AddrOk (if wide then 8 else 4) (va c) ∧ bindBad .ratom (vget c.t.queues q) = false ∧
        (vget c.t.queues q).ents.length ≤ 14)
      (fun c s => let x := accAt c s (va c) (c.srcS b) (if op = .cas then c.srcS k else 0) true true
        startOp c (.ratom op wide q x c.g.r.fmode) (dropLines (setQueue s c.tid q (reserve2 .ratom s.nextId
          (vget c.t.queues q))) c.t.core c.t.ctx [x])) ∧
    TrapsWith (uniFacts "RATOM" h false) (.ratom h op wide q a b k off)
      (fun c _ => bindBad .ratom (vget c.t.queues q) = true) .qbound

/-- R119, R121, R215, R270: fences, ALIASF, OPFENCE and the mode switches go in flight and hold the group's later memory
instructions until they complete; whether ALIASF's lines go at its issue or at its completion is left free. The model's
own choices in it: log entries 5 and 21. -/
def Obligations.Fences : Prop :=
  ∀ (h : Hdr) (scope : Nat),
    let f (i : Iss) (x : Instr) (k : OpKind) : Prop := Acts i x (fun _ _ => True) (fun c s => startOp c k (holdMem c s))
    f (uniFacts "FENCE_ACQ" h false) (.fenceAcq h scope) (.fence 0 scope) ∧
    f (uniFacts "FENCE_REL" h false) (.fenceRel h scope) (.fence 1 scope) ∧
    f (uniFacts "FENCE_SC" h false) (.fenceSc h scope) (.fence 2 scope) ∧
    Acts (uniFacts "ALIASF" h false) (.aliasf h) (fun _ _ => True) (fun c s =>
      let gone := Config.freeBit s.fresh
      let s := holdMem c (bump s)
      startOp c (.aliasf gone) (if gone then acquireL1 s c.t.core c.t.ctx 2 else s)) ∧
    f (uniFacts "OPFENCE" h false) (.opfence h) .opfence ∧
    f { row := "REVM", h := h, ll := true, wr := false } (.revm h) (.mode true) ∧
    f { row := "FWDM", h := h, ll := true, wr := false } (.fwdm h) (.mode false)

/-- R122, R153, R154, R291: COMMIT places its commit and its token, and goes in flight; with four commits open, with no
room in its core's log, or behind a store that a fence has taken as acknowledged and that still drains, it waits; a
responder, or a team-scope commit of a team whose unit is the grid, traps COMMITSCOPE. The model's own choices in it: log
entries 5, 21 and 23. -/
def Obligations.Commits : Prop :=
  ∀ (h : Hdr) (ctr : Option Nat),
    let go (row : String) (sc : CScope) (k : Nat) (x : Instr) : Prop :=
      Acts (uniFacts row h false) x
        (fun c s => c.t.resp = none ∧ (sc = .team → c.t.d.gridUnit = false) ∧ c.t.d.open' < 4 ∧ 0 < sporRoom s c.t.core ∧
          ackWaits s c.t.core = false)
        (fun c s =>
          let p := placeCommit s c.tid sc (some (s.nextId + 1)) (ctr.map fun a => ((c.s a).toNat, c.t.ctx, k))
          startOp c (.commit p.2) p.1) ∧
      TrapsWith (uniFacts row h false) x
        (fun c _ => c.t.resp ≠ none ∨ (sc = .team ∧ c.t.d.gridUnit = true)) .commitscope ∧
      (∀ s t g, Ready (uniFacts row h false) s t g → TakesEffect (uniFacts row h false) s t g → t.resp = none →
        (sc = .team → t.d.gridUnit = false) → (4 ≤ t.d.open' ∨ sporRoom s t.core = 0 ∨ ackWaits s t.core = true) →
        exec x s = .next s)
    go "COMMIT_TEAM" .team 1 (.commitTeam h ctr) ∧ go "COMMIT_GRID" .grid 2 (.commitGrid h ctr) ∧
    go "COMMIT_POD" .pod 3 (.commitPod h ctr)

/-- R124: barrier instructions go in flight, BARWT and BARSYNC holding all of the group's issue; an arrival whose expected
count differs from that of the arrivals before it traps BARMIX. The model's own choices in it: log entry 23. -/
def Obligations.Barriers : Prop :=
  ∀ (h : Hdr) (b n : Nat),
    Acts (uniFacts "BARARV" h false) (.bararv h b n) (fun c s => (barArrive (barAfter s c.t b) n).2 = false)
      (fun c s => startOp c (.arrive b n) s) ∧
    Acts (uniFacts "BARWT" h false) (.barwt h b) (fun _ _ => True)
      (fun c s => startOp c (.barwt b (waitTarget s c b)) (holdAll c s)) ∧
    Acts (uniFacts "BARSYNC" h false) (.barsync h b n) (fun c s => (barArrive (barAfter s c.t b) n).2 = false)
      (fun c s => startOp c (.barsync b n none) (holdAll c s)) ∧
    TrapsWith (uniFacts "BARARV" h false) (.bararv h b n) (fun c s => (barArrive (barAfter s c.t b) n).2 = true) .barmix ∧
    TrapsWith (uniFacts "BARSYNC" h false) (.barsync h b n) (fun c s => (barArrive (barAfter s c.t b) n).2 = true) .barmix

/-! ### Copies, collectives, windows -/

/-- R210 to R213, R256: a copy instruction with an active lane puts one command in the core's copy queue and in the
group's open batch, and goes in flight; with no active lane it only issues; with the queue full it waits; a slot that the
team does not have traps WSLOT. The model's own choices in it: log entry 25. -/
def Obligations.CopyIssue : Prop :=
  ∀ (h : Hdr) (mode d ws : Nat) (side srca : Bool) (m : BitVec 8) (x : CopyArg) (s : State) (t : Team) (g : Group),
    let go (row : String) (i : Instr) (slot : Option Nat) (dst : Ctl → Dword) (kind : Ctl → State → CKind) : Prop :=
      let f : Iss := { row := row, h := h, lane := true, ll := true, wr := false, mem := true }
      let c := ctlAt f s t g
      let s1 := atIssue f s t g
      Ready f s t g →
        (c.act = 0 → exec i s = .next (afterIssue f s t g c.next 0 id [])) ∧
        (c.act ≠ 0 → (∀ w, slot = some w → w < t.al.slots.length) → copyRoom s1 t.core = true →
          ∃ k : Copy, k.id = s.nextId ∧ k.ctx = t.ctx ∧ k.owner = some (t.uid, g.gid) ∧ k.started = 0 ∧ k.running = [] ∧
            k.core = t.core ∧ k.kind = kind c s1 ∧ k.dst = dst c ∧
            k.lay = c.s x.lay ∧ k.coord = copyCoord c x ∧ k.ctr = x.ctr.map (fun n => (c.s n, x.scope)) ∧ k.done = false ∧
            k.form = none ∧ k.failed = none ∧ k.op = some (s.nextId + 1) ∧
            exec i s = .next (retire f c (startOp c (.copy s.nextId) (bringTo (updGroup
              (bumpId { s1 with work := { s1.work with copies := s1.work.copies ++ [k] } }) t.uid g.gid
              fun y => { y with e := { y.e with pendCopies := y.e.pendCopies ++ [s.nextId] } }) t.uid g.gid s.nextId
              (.copy s.nextId))) c.next 0)) ∧
        (c.act ≠ 0 → (∀ w, slot = some w → w < t.al.slots.length) → copyRoom s1 t.core = false → exec i s = .next s) ∧
        (∀ w, c.act ≠ 0 → slot = some w → t.al.slots.length ≤ w →
          exec i s = .next (raisePrecise s1 t.uid g.gid g.r.pc { cause := .wslot, mask := c.em }))
    go "COPY" (.copy h 0 d side x) none (fun c => c.s d) (fun _ _ => .toa) ∧
    go "COPY" (.copy h 1 d side x) none (fun c => c.s d) (fun _ _ => .froma) ∧
    go "COPY" (.copy h 2 d side x) (some d) (fun _ => BitVec.ofNat 64 d) (fun _ _ => .tows side) ∧
    go "COPY" (.copy h 3 d side x) none (fun c => c.s d) (fun _ _ => .mem) ∧
    go "COPYM" (.copym h ws side m x) (some ws) (fun _ => BitVec.ofNat 64 ws)
      (fun c s => .multicast side (castTargets s c.t ws m)) ∧
    go "COPYP" (.copyp h mode d srca x) none (fun c => c.s d) (fun _ _ => if mode = 0 then .pmem srca else .pwin srca) ∧
    go "COPYH" (.copyh h mode d x) none (fun c => c.s d) (fun _ _ => if mode = 0 then .toh else .fromh)

/-- R144, R213, R214: CBATCH closes the open batch under the next number, which wraps from 0xFFFF_FFFF to 1; CWAITB waits
in flight for a batch that has been opened, and traps CBFUT for one that has not; AEXPORT takes the lowest window free on
the core for a range inside the team's A-buffer allocation, and AEXPORT.rev ends a window of the team. The model's own
choices in it: log entry 25. -/
def Obligations.BatchesAndWindows : Prop :=
  ∀ (h : Hdr) (d a b : Nat) (n : Src),
    Acts { row := "CBATCH", h := h, mem := true } (.cbatch h d) (fun _ _ => True) (fun c s =>
      let k : BitVec 32 := if c.g.e.batch = 0xFFFFFFFF then 1 else c.g.e.batch + 1
      pendWrs c 2 [.s d (k.setWidth 64)] (updGroup s c.tid c.gid fun y =>
        { y with e := { y.e with batch := k, batches := y.e.batches ++ [⟨k, y.e.pendCopies⟩], pendCopies := [] } })) ∧
    Acts (uniFacts "CWAITB" h true) (.cwaitb h d n)
      (fun c _ => (c.srcS n).setWidth 32 = 0#32 ∨ newer ((c.srcS n).setWidth 32) c.g.e.batch = false)
      (fun c s => startOp c (.cwaitb d ((c.srcS n).setWidth 32)) (holdMem c s)) ∧
    TrapsWith (uniFacts "CWAITB" h true) (.cwaitb h d n)
      (fun c _ => (c.srcS n).setWidth 32 ≠ 0#32 ∧ newer ((c.srcS n).setWidth 32) c.g.e.batch = true) .cbfut ∧
    (∀ k, Acts (uniFacts "AEXPORT" h true) (.aexport h d a b)
      (fun c s => (c.s b).toNat ≠ 0 ∧ (c.s a).toNat + (c.s b).toNat ≤ c.t.al.asize ∧ c.t.wins.length < 4 ∧
        (List.range 4).find? (fun j => (windowOf s c.t.core j).isNone) = some k)
      (fun c s => startOp c
        (.regs [.s d (BitVec.ofNat 64 (s.firm.devNum * 2 ^ 33 + c.t.core * 2 ^ 23 + k * 2 ^ 21))])
        (updTeam s c.tid fun x => { x with wins := x.wins ++ [⟨k, (c.s a).toNat, (c.s b).toNat⟩] }))) ∧
    TrapsWith (uniFacts "AEXPORT" h true) (.aexport h d a b)
      (fun c _ => (c.s b).toNat = 0 ∨ c.t.al.asize < (c.s a).toNat + (c.s b).toNat ∨ 4 ≤ c.t.wins.length) .aexpbad ∧
    Acts (uniFacts "AEXPORT_REV" h false) (.aexportRev h a)
      (fun c s => ∃ k < 4, c.s a = BitVec.ofNat 64 (s.firm.devNum * 2 ^ 33 + c.t.core * 2 ^ 23 + k * 2 ^ 21) ∧
        s.firm.devNum < 1024 ∧ c.t.core < 1024 ∧ (c.t.wins.any fun w => w.num == k) = true)
      (fun c s => let k := (c.s a).toNat / 2 ^ 21 % 4
        startOp c (.aexportRev k) (updTeam s c.tid fun x => { x with wins := x.wins.filter fun w => w.num != k }))

/-- R216, R217, R267, R432: COLL, with a descriptor address that is a multiple of 64 and below 2^56, enters its collective
and goes in flight; the seventeenth on a communicator waits. FMTSEL goes in flight. The model's own choices in it: log
entry 26. -/
def Obligations.CollectivesIssue : Prop :=
  ∀ (h : Hdr) (ty scope d a b : Nat) (opB : Bool),
    let go (row : String) (oper : Nat) (x : Instr) : Prop :=
      let comm (c : Ctl) (s : State) : Nat := match collDesc s c.t.ctx (c.s a) with
        | .ok b => descW b 0x20 % 2 ^ 16
        | .error _ => 0
      Acts (uniFacts row h false) x
        (fun c s => AddrOk 64 (c.s a + BitVec.ofInt 64 0).toNat ∧ collsOn s c.t.ctx (comm c s) < 16)
        (fun c s => startOp c (.coll s.nextId) (bumpId { s with work := { s.work with
          colls := s.work.colls ++ [newColl s c.t.ctx oper ty scope (some (c.tid, c.gid)) none (c.s a)
            (some (s.nextId + 1)) (comm c s) c.pc] } })) ∧
      (∀ s t g, let i := uniFacts row h false
        let c := ctlAt i s t g
        Ready i s t g → TakesEffect i s t g → AddrOk 64 (c.s a + BitVec.ofInt 64 0).toNat →
          16 ≤ collsOn (atIssue i s t g) t.ctx (comm c (atIssue i s t g)) → exec x s = .next s)
    go "COLL_AR" 0 (.collAr h ty scope a) ∧ go "COLL_RS" 1 (.collRs h ty scope a) ∧ go "COLL_AG" 2 (.collAg h ty scope a) ∧
    go "COLL_BC" 3 (.collBc h ty scope a) ∧
    Acts (uniFacts "FMTSEL" h true) (.fmtsel h opB d a b) (fun c _ => AddrOk 64 (c.s a + BitVec.ofInt 64 0).toNat)
      (fun c s => startOp c (.fmtsel d (accAt c s (c.s a + BitVec.ofInt 64 0).toNat 0 0 true false) (c.s b) opB) s)

/-! ### The tape, the directory, censuses, Rhizoid commands -/

/-- R276, R277, R301: with no store in flight at the top of the tape, TAPEMARK gives 16 bytes for each position up to the
highest that is not free; TAPEMARK.cut keeps the bytes it names, and traps TAPESEQ for a count that is no multiple of 16
or exceeds them; TAPESPILL empties the tape to a block of memory, and TAPEFILL puts a block back on it. The model's own
choices in it: log entry 22. -/
def Obligations.TapeInstructions : Prop :=
  ∀ (h : Hdr) (d a b : Nat),
    Acts (uniFacts "TAPEMARK" h true) (.tapemark h d) (fun c _ => topInFlight c.t.tape = false)
      (fun c s => startOp c (.regs [.s d (BitVec.ofNat 64 (16 * (tapeTrim c.t.tape).length))]) s) ∧
    Acts (uniFacts "TAPEMARK_CUT" h false) (.tapemarkCut h a)
      (fun c _ => topInFlight c.t.tape = false ∧ (c.s a).toNat % 16 = 0 ∧
        (c.s a).toNat ≤ 16 * (tapeTrim c.t.tape).length ∧
        ((c.t.tape.drop ((c.s a).toNat / 16)).any fun p => p.isOpen || p.inFlight) = false)
      (fun c s => startOp c (.regs []) (updTeam s c.tid fun x =>
        { x with tape := tapeTrim (x.tape.take ((c.s a).toNat / 16)) })) ∧
    TrapsWith (uniFacts "TAPEMARK_CUT" h false) (.tapemarkCut h a)
      (fun c _ => topInFlight c.t.tape = false ∧
        ((c.s a).toNat % 16 ≠ 0 ∨ 16 * (tapeTrim c.t.tape).length < (c.s a).toNat)) .tapeseq ∧
    Acts (uniFacts "TAPESPILL" h true) (.tapespill h d a)
      (fun c s => (c.t.tape.any fun p => p.isOpen || p.inFlight) = false ∧
        tapeRange s c true (c.s a).toNat (16 * (tapeRecs c.t.tape).length) = none)
      (fun c s =>
        let keys := (List.range (tapeRecs c.t.tape).length).map fun i =>
          ((xlate s (some c.t.core) c.t.ctx ((c.s a).toNat + 16 * i) false true false).key, (tapeRecs c.t.tape).getD i 0)
        startOp c (.tapespill d (c.s a).toNat keys) (updTeam s c.tid fun x => { x with tape := [] })) ∧
    Acts (uniFacts "TAPEFILL" h false) (.tapefill h a b)
      (fun c s => tapeRange s c false (c.s a).toNat (c.s b).toNat = none ∧ (c.s b).toNat % 16 = 0 ∧
        (tapeTrim c.t.tape).length + (c.s b).toNat / 16 ≤ c.t.al.tapeb / 16)
      (fun c s =>
        let n := (c.s b).toNat / 16
        let keys := (List.range n).map fun i =>
          fillKey (xlate s (some c.t.core) c.t.ctx ((c.s a).toNat + 16 * i) true false false)
        startOp c (.tapefill (c.s a).toNat keys ((List.range n).map fun i => (tapeTrim c.t.tape).length + i))
          (updTeam s c.tid fun x => { x with tape := tapeTrim c.t.tape ++ List.replicate n .hole })) ∧
    TrapsWith (uniFacts "TAPEFILL" h false) (.tapefill h a b)
      (fun c s => tapeRange s c false (c.s a).toNat (c.s b).toNat = none ∧
        ((c.s b).toNat % 16 ≠ 0 ∨ c.t.al.tapeb / 16 < (tapeTrim c.t.tape).length + (c.s b).toNat / 16)) .tapefull

/-- R287, R288, R323: the directory instructions go in flight with their operands as read at issue; DIRMOVE reserves the
lowest free slot of its target core, where there is one, and traps DIRBAD for a core that does not exist. R289 to R291,
R324: SOLICIT opens a census in the lowest free slot, reserves two entries of its queue and goes in flight; with four
censuses of its team open, every slot taken or no room in its queue it waits. RESPOND gives a responder's one answer; from
any other team, or a second time, it traps RESPBAD. R353 to R355, R432: NMPOST posts its command, with .q reserving one
entry of its queue, and goes in flight; NMGATHER posts its gather when its three addresses are aligned and its list and
destination lie in the team's A-buffer allocation. The model's own choices in it: log entries 27, 28 and 30. -/
def Obligations.DirectoryCensusRhizoidIssue : Prop :=
  (∀ (h : Hdr) (mode d key a core : Nat) (x y : Src) (dens : BitVec 8),
      Starts (uniFacts "DIRINS" h true) (.dirins h d key x dens) (fun c => .dirins d (c.s key) (c.srcS x) dens) ∧
      Starts (uniFacts "DIRDEL" h true) (.dirdel h d x) (fun c => .dirdel d (c.srcS x)) ∧
      Starts (uniFacts "DIRLOOK" h true) (.dirlook h mode d x y) (fun c => .dirlook d mode (c.srcS x) (c.srcS y)) ∧
      Acts (uniFacts "DIRMOVE" h true) (.dirmove h d a core x) (fun c _ => (c.s core).toNat < 768) (fun c s =>
        let m : DirMove :=
          { id := s.nextId, handle := c.s a, toCore := (c.s core).toNat, toEnt := freeEnt s (c.s core).toNat, loc := c.srcS x
            ctx := c.t.ctx, left := false, fromCore := 0, key := 0, dens := 0, ans := [], more := [], waits := [] }
        let s2 := match freeEnt s (c.s core).toNat with
          | some i => setDir s { dirOf s (c.s core).toNat i with v := true, mov := true, ctx := c.t.ctx }
          | none => s
        startOp c (.dirmove d s.nextId) (bumpId (updCen s2 fun k => { k with moves := k.moves ++ [m] }))) ∧
      TrapsWith (uniFacts "DIRMOVE" h true) (.dirmove h d a core x) (fun c _ => 768 ≤ (c.s core).toNat) .dirbad) ∧
  (∀ (h : Hdr) (op q slot a : Nat) (pod : Bool) (x : Src),
      Acts (uniFacts "SOLICIT" h false) (.solicit h op pod q x)
        (fun c s => AddrOk 64 (c.srcS x + BitVec.ofInt 64 0).toNat ∧ bindBad .census (vget c.t.queues q) = false ∧
          freeSlot s = some slot ∧ c.t.d.opened.length < 4 ∧ (vget c.t.queues q).ents.length ≤ 14)
        (fun c s =>
          let k : Census :=
            { id := s.nextId, ident := censusIdent s slot, slot := slot, asker := c.tid, ctx := c.t.ctx
              q := q, oper := op, pod := pod, op := some (s.nextId + 1), key := 0, mask := 0, entry := c.srcS x, arg := 0
              bresp := 0, ready := false, visited := [], cores := [], lates := [], late := 0, total := Sys2Proof.Machine.Part.none op
              reported := [], peers := [], heard := none, done := false, closed := [], peer := none }
          startOp c (.solicit s.nextId) (bumpId (updCen (updTeam s c.tid fun y =>
            { y with queues := vset y.queues q (reserve2 .census s.nextId (vget c.t.queues q))
                     d := { y.d with opened := s.nextId :: y.d.opened, asked := y.d.asked ++ [(s.nextId, pod)] } })
            fun z => { z with open' := z.open' ++ [k] }))) ∧
      (∀ s t g, let i := uniFacts "SOLICIT" h false
        let c := ctlAt i s t g
        Ready i s t g → TakesEffect i s t g → AddrOk 64 (c.srcS x + BitVec.ofInt 64 0).toNat →
          bindBad .census (vget t.queues q) = false →
          (4 ≤ t.d.opened.length ∨ freeSlot s = none ∨ 14 < (vget t.queues q).ents.length) →
          exec (.solicit h op pod q x) s = .next s) ∧
      TrapsWith (uniFacts "SOLICIT" h false) (.solicit h op pod q x)
        (fun c _ => bindBad .census (vget c.t.queues q) = true) .qbound ∧
      Acts (uniFacts "RESPOND" h false) (.respond h a) (fun c _ => ∃ r, c.t.resp = some r ∧ r.answer = none)
        (fun c s => startOp c (.regs []) (updTeam s c.tid fun y =>
          { y with resp := y.resp.map fun r => { r with answer := some (c.s a) } })) ∧
      TrapsWith (uniFacts "RESPOND" h false) (.respond h a)
        (fun c _ => c.t.resp = none ∨ ∃ r, c.t.resp = some r ∧ r.answer ≠ none) .respbad) ∧
  (∀ (h : Hdr) (scope q esz d a b e n : Nat),
      Acts (uniFacts "NMPOST" h false) (.nmpost h scope none a) (fun c _ => AddrOk 64 (c.s a + BitVec.ofInt 64 0).toNat)
        (fun c s => startOp c (.nmpost s.nextId)
          (postNm s (newNm s.nextId c.t.ctx scope (some (c.tid, c.gid)) none none (some s.nextId) (c.s a)))) ∧
      Acts (uniFacts "NMPOST" h false) (.nmpost h scope (some q) a)
        (fun c _ => AddrOk 64 (c.s a + BitVec.ofInt 64 0).toNat ∧ bindBad .nm (vget c.t.queues q) = false ∧
          (vget c.t.queues q).ents.length < 16)
        (fun c s => startOp c (.nmpost s.nextId)
          (postNm (setQueue s c.tid q (reserve1 s.nextId (vget c.t.queues q)))
            (newNm s.nextId c.t.ctx scope (some (c.tid, c.gid)) (some (c.tid, q)) none (some s.nextId) (c.s a)))) ∧
      TrapsWith (uniFacts "NMPOST" h false) (.nmpost h scope (some q) a)
        (fun c _ => bindBad .nm (vget c.t.queues q) = true) .qbound ∧
      Acts (uniFacts "NMGATHER" h true) (.nmgather h esz d a b e n)
        (fun c _ => (c.s b).toNat % 4 = 0 ∧ (c.s a).toNat % 2 ^ esz = 0 ∧ (c.s e).toNat % 2 ^ esz = 0 ∧
          (c.s b).toNat + 4 * n ≤ c.t.al.asize ∧ (c.s e).toNat + n * 2 ^ esz ≤ c.t.al.asize)
        (fun c s => startOp c (.nmgather s.nextId d (c.s b).toNat (c.s e).toNat n (2 ^ esz) false false)
          (postNm (bringTo s c.tid c.gid s.nextId (.copy s.nextId)) { newNm s.nextId c.t.ctx 1 (some (c.tid, c.gid)) none none
            (some s.nextId) (c.s a) with
            gather := some ⟨c.tid, c.gid, c.s a, (c.s b).toNat, (c.s e).toNat, n, 2 ^ esz⟩ })))

/-! ### The matrix stream -/

/-- R199 to R201, R246, R279: the stream's registers. MFMT loads a pair of `x` registers from 16 aligned bytes of the
A-buffer allocation, or writes one from an immediate or a sum; MUNF sets the unfolding; MSETM writes a mask register;
KNOTSET writes a knot register, and stops the team with MFMTBAD for a value outside the limits. Bytes that race with a
write of the buffer are undefined, and it is noted which registers then hold undefined values. The model's own choices in
it: log entry 24. -/
def Obligations.StreamRegisters : Prop :=
  ∀ (d a : Nat) (w : BitVec 32) (src : MaskSrc),
    let inBuf (n : Nat) (c : SCtl) : Prop :=
      (c.x a + w.signExtend 64).toNat % n = 0 ∧ (c.x a + w.signExtend 64).toNat + n ≤ c.t.al.asize ∧
        drainsToBuf c.m = false
    let len := match src with | .count _ => 12 | .countLit _ _ => 20 | .reg _ => 12 | .lit _ => 20
    StreamActs (.mfmt 0 d a w) 12 portAt (fun c _ => inBuf 16 c)
      (fun c s => bufTaken c s (c.x a + w.signExtend 64).toNat 16 fun bad b m => setUndef [d, d + 1] bad (setX (d + 1)
        (BitVec.ofNat 64 (natOfBytes (b.drop 8))) (setX d (BitVec.ofNat 64 (natOfBytes (b.take 8))) m))) (fun c => c.u + 6) ∧
    StreamActs (.mfmt 1 d a w) 12 noWait (fun _ _ => True)
      (fun c s => updStream s c.tid fun m => setUndef [d] false (setX d (w.signExtend 64) m)) (fun _ => 0) ∧
    StreamActs (.mfmt 2 d a w) 12 noWait (fun _ _ => True)
      (fun c s => updStream s c.tid fun m => setUndef [d] (c.m.undef.contains a) (setX d (c.x a + w.signExtend 64) m))
      (fun _ => 0) ∧
    StreamActs (.munf true a w) 12 noWait (fun _ _ => True)
      (fun c s => updStream s c.tid fun m => setUndef [32] false { m with unf := .plain w.toNat }) (fun _ => 0) ∧
    StreamActs (.munf false a w) 12 portAt (fun c _ => inBuf 64 c)
      (fun c s => bufTaken c s (c.x a + w.signExtend 64).toNat 64 fun bad b m =>
        setUndef [32] bad { m with unf := .loaded (BitVec.ofNat 512 (natOfBytes b)) }) (fun c => c.u + 6) ∧
    StreamActs (.msetm .mk d src) len noWait (fun _ _ => True)
      (fun c s => updStream s c.tid fun m => { m with mkr := vset m.mkr d (BitVec.ofNat 128 (msetmVal c src 2)) })
      (fun _ => 0) ∧
    StreamActs (.msetm .nk d src) len noWait (fun _ _ => True)
      (fun c s => updStream s c.tid fun m => { m with nkr := vset m.nkr d (BitVec.ofNat 128 (msetmVal c src 2)) })
      (fun _ => 0) ∧
    StreamActs (.msetm .kk d src) len noWait (fun _ _ => True)
      (fun c s => updStream s c.tid fun m => { m with kkr := vset m.kkr d (BitVec.ofNat 256 (msetmVal c src 4)) })
      (fun _ => 0) ∧
    StreamActs (.knotset d a) 12 noWait (fun c _ => knotOf (c.x a) ≠ none)
      (fun c s => updStream s c.tid fun m => { m with knr := vset m.knr d (c.x a) }) (fun _ => 0) ∧
    StreamStops (.knotset d a) noWait (fun c _ => knotOf (c.x a) = none) .mfmtbad 1 ∧
    StreamStops (.mfmt 0 d a w) portAt (fun c _ => (c.x a + w.signExtend 64).toNat % 16 ≠ 0) .misaln 1

/-- R198, R202 to R204, R241, R243, R244: MMA takes the engine for 64 ck, its tile result landing 8 ck after, when every
writer of the tile that it reads has landed, no queued drain still reads the tile, no earlier drain to the A-buffer is
queued, its tile and slot are the team's, its format block is within the limits and its operand runs lie in the A-buffer
allocation. Where the format block is undefined, every unmasked element is, and nothing traps (R221). A tile or slot
beyond the team's stops the team with CTILE or WSLOT. The model's own choices in it: log entry 24. -/
def Obligations.MatrixMultiply : Prop :=
  ∀ (acc xa ws xf : Nat) (neg nacc : Bool) (k : Masks),
    let clear (c : SCtl) : Prop :=
      (nacc = false → tileLanded c.m acc = true) ∧ tileUndrained c.m acc = true ∧ drainsToBuf c.m = false
    let runs (c : SCtl) (f : MForm) (u : Unf) : List Run :=
      aRuns f u (c.x xa).toNat (onBits 128 (c.rows k)) (c.terms k) ++ bRuns f (onBits 128 (c.cols k)) (c.terms k)
    (∀ f u, StreamActs (.mma acc xa ws xf neg nacc k) 12 (engineAt acc)
      (fun c _ => clear c ∧ acc < c.t.al.tiles.length ∧ ws < c.t.al.slots.length ∧ blockUndef c xf = false ∧
        blockOf c xf = some (f, u) ∧ ∀ r ∈ runs c f u, r.1 + r.2 ≤ c.t.al.asize)
      (fun c s =>
        let l := tileElems (c.rows k) (c.cols k) fun m n => mmaElem f u (c.x xa).toNat (abufGet s c.t) (slotGet s c.t ws)
          (c.terms k) neg (if nacc then none else some (tileGet s c.t acc (128 * m + n)).toNat) m n
        engineTaken c s
          { rd := abRegs (runs c f u) ++ [.slot ws] ++ (if nacc then [] else [Region.tile acc]), tile := some acc
            rows := c.rows k, cols := c.cols k
            elems := if bandsBad f u (c.x xa).toNat (abufGet s c.t) (slotGet s c.t ws) (onBits 128 (c.rows k))
              (onBits 128 (c.cols k)) (c.terms k) then freeElems s.fresh l else l
            int := some (tyIsInt f.ta), recs := [], occ := 64, lands := 8 }) (fun _ => 0)) ∧
    StreamActs (.mma acc xa ws xf neg nacc k) 12 (engineAt acc)
      (fun c _ => clear c ∧ acc < c.t.al.tiles.length ∧ ws < c.t.al.slots.length ∧ blockUndef c xf = true)
      (fun c s => engineTaken c (bump s)
        { rd := [.slot ws, .tile acc], tile := some acc, rows := c.rows k, cols := c.cols k
          elems := freeTile s.fresh (c.rows k) (c.cols k), int := none, recs := [], occ := 64, lands := 8 })
      (fun _ => 0) ∧
    StreamStops (.mma acc xa ws xf neg nacc k) (engineAt acc) (fun c _ => clear c ∧ c.t.al.tiles.length ≤ acc) .ctile 1 ∧
    StreamStops (.mma acc xa ws xf neg nacc k) (engineAt acc)
      (fun c _ => clear c ∧ acc < c.t.al.tiles.length ∧ c.t.al.slots.length ≤ ws) .wslot 1 ∧
    StreamWaits (.mma acc xa ws xf neg nacc k) (engineAt acc) (fun c _ => ¬ clear c)

/-- R206: MACCST fills the unmasked elements of tile acc_d with bits 31:0 of x_a, as raw bits, or copies element [m][n] of
acc_a to each; both tiles must be below CTILES, otherwise CTILE. The model's own choices in it: log entry 24. -/
def Obligations.FillAndCopyTile : Prop :=
  ∀ (acc src : Nat) (k : Masks),
    StreamActs (.maccst acc src false k) 12 (engineAt acc)
      (fun c _ => tileUndrained c.m acc = true ∧ acc < c.t.al.tiles.length)
      (fun c s => engineTaken c s { rd := [], tile := some acc, rows := c.rows k, cols := c.cols k
                                    elems := tileElems (c.rows k) (c.cols k) fun _ _ => (c.x src).toNat
                                    int := none, recs := [], occ := 16, lands := 0 }) (fun _ => 0) ∧
    StreamActs (.maccst acc src true k) 12 (engineAt acc)
      (fun c _ => tileLanded c.m src = true ∧ tileUndrained c.m acc = true ∧ acc < c.t.al.tiles.length ∧
        src < c.t.al.tiles.length)
      (fun c s => engineTaken c s { rd := [.tile src], tile := some acc, rows := c.rows k, cols := c.cols k
                                    elems := tileElems (c.rows k) (c.cols k) fun m n =>
                                      (tileGet s c.t src (128 * m + n)).toNat
                                    int := some (c.m.ints.contains src), recs := [], occ := 16, lands := 0 })
      (fun _ => 0) ∧
    StreamStops (.maccst acc src false k) (engineAt acc)
      (fun c _ => tileUndrained c.m acc = true ∧ c.t.al.tiles.length ≤ acc) .ctile 1 ∧
    StreamStops (.maccst acc src true k) (engineAt acc)
      (fun c _ => tileLanded c.m src = true ∧ tileUndrained c.m acc = true ∧
        (c.t.al.tiles.length ≤ acc ∨ c.t.al.tiles.length ≤ src)) .ctile 1

/-- R280 to R285: FRDER, FRGRAD and FREFINE take the engine for 64 ck. FRDER writes the unmasked rows of the columns below
I with the derivatives. FRGRAD, whose gradient words lie on deferred pages that may be written, within the quota of the
team's commit unit, makes a record for each; a misaligned address, a word on no such page or too little quota stops the
team, TRINFO 3, before any record. FREFINE writes the refined coefficients of its inputs, and the refined knot register at
issue. With an undefined block FRDER leaves the unmasked rows undefined, FRGRAD makes no record, and nothing traps; with
only the unfolding undefined the values alone are (R221). The model's own choices in it: log entry 24. -/
def Obligations.FrondInstructions : Prop :=
  ∀ (accd acca xd xa xf ws kna knd i0 : Nat) (btr : Bool) (k : Masks),
    let runs (c : SCtl) (f : MForm) (u : Unf) : List Run := aRuns f u (c.x xa).toNat (onBits 128 (c.rows k)) (c.terms k)
    let inside (c : SCtl) (f : MForm) (u : Unf) : Prop := ∀ r ∈ runs c f u, r.1 + r.2 ≤ c.t.al.asize
    let unf (c : SCtl) (f : MForm) (u : Option Unf) : Prop := match u with
      | some u => c.unfUndef = false ∧ unfOf c.m f = some u ∧ inside c f u
      | none => c.unfUndef = true
    let der (c : SCtl) : Prop := tileLanded c.m acca = true ∧ tileUndrained c.m accd = true ∧ drainsToBuf c.m = false ∧
      accd < c.t.al.tiles.length ∧ acca < c.t.al.tiles.length
    let grad (c : SCtl) : Prop := tileLanded c.m acca = true ∧ drainsToBuf c.m = false
    (∀ f u g, StreamActs (.frder accd acca xa xf k) 12 (engineAt accd)
      (fun c _ => der c ∧ c.pairUndef xf = false ∧ frondOf c xf = some (f, g) ∧ unf c f (some u))
      (fun c s =>
        engineTaken c s
          { rd := abRegs (runs c f u) ++ [.tile acca], tile := some accd, rows := c.rows k, cols := frderCols g
            elems := tileElems (c.rows k) (frderCols g) fun m i => frderElem f g u (c.x xa).toNat (abufGet s c.t) (c.terms k)
              (fun j => (tileGet s c.t acca (128 * m + j)).toNat) m i
            int := some false, recs := [], occ := 64, lands := 8 }) (fun _ => 0)) ∧
    (∀ f g, StreamActs (.frder accd acca xa xf k) 12 (engineAt accd)
      (fun c _ => der c ∧ c.pairUndef xf = false ∧ frondOf c xf = some (f, g) ∧ unf c f none)
      (fun c s => engineTaken c (bump s)
        { rd := [.tile acca], tile := some accd, rows := c.rows k, cols := frderCols g
          elems := freeTile s.fresh (c.rows k) (frderCols g), int := none, recs := [], occ := 64, lands := 8 })
      (fun _ => 0)) ∧
    StreamActs (.frder accd acca xa xf k) 12 (engineAt accd) (fun c _ => der c ∧ c.pairUndef xf = true)
      (fun c s => engineTaken c (bump s)
        { rd := [.tile acca], tile := some accd, rows := c.rows k, cols := -1
          elems := freeTile s.fresh (c.rows k) (-1), int := none, recs := [], occ := 64, lands := 8 })
      (fun _ => 0) ∧
    (∀ f u g keys,
      let kn (c : SCtl) : List (Nat × Nat) :=
        (onBits 128 (c.cols k)).flatMap fun n => (gradTerms g (c.terms k)).map fun j => (j, n)
      let at' (c : SCtl) (s : State) : List Xl := (kn c).map fun p =>
        xlate s (some c.t.core) c.t.ctx (c.x xd + BitVec.ofNat 64 (256 * p.2 + 4 * p.1)).toNat false true false
      let fine (c : SCtl) : Prop := grad c ∧ acca < c.t.al.tiles.length ∧ c.pairUndef xf = false ∧
        frondOf c xf = some (f, g)
      StreamActs (.frgrad xd acca xa xf k) 12 (engineAt 16)
        (fun c s => fine c ∧ unf c f (some u) ∧ (c.x xd).toNat % 4 = 0 ∧
          gradKeys (at' c s) = .ok keys ∧ keys.length ≤ quotaRoom s c.t)
        (fun c s => engineTaken c s
          { rd := abRegs (runs c f u) ++ [.tile acca], tile := none, rows := 0, cols := 0, elems := [], int := none
            recs := keys.zip ((kn c).map fun p => BitVec.ofNat 32 (frgradElem f g u (c.x xa).toNat (abufGet s c.t)
              (c.rows k) (fun m => (tileGet s c.t acca (128 * m + p.2)).toNat) p.1))
            occ := 64, lands := 0 }) (fun _ => 0) ∧
      StreamActs (.frgrad xd acca xa xf k) 12 (engineAt 16)
        (fun c s => fine c ∧ unf c f none ∧ (c.x xd).toNat % 4 = 0 ∧
          gradKeys (at' c s) = .ok keys ∧ keys.length ≤ quotaRoom s c.t)
        (fun c s => engineTaken c (bump s)
          { rd := [.tile acca], tile := none, rows := 0, cols := 0, elems := [], int := none
            recs := keys.zip ((kn c).map fun p => freeWord s.fresh (128 * p.1 + p.2)), occ := 64, lands := 0 })
        (fun _ => 0) ∧
      (∀ v, StreamStops (.frgrad xd acca xa xf k) (engineAt 16)
        (fun c _ => fine c ∧ unf c f v ∧ (c.x xd).toNat % 4 ≠ 0) .misaln 3) ∧
      (∀ v e, StreamStops (.frgrad xd acca xa xf k) (engineAt 16)
        (fun c s => fine c ∧ unf c f v ∧ (c.x xd).toNat % 4 = 0 ∧ gradKeys (at' c s) = .error e) e 3) ∧
      (∀ v, StreamStops (.frgrad xd acca xa xf k) (engineAt 16)
        (fun c s => fine c ∧ unf c f v ∧ (c.x xd).toNat % 4 = 0 ∧ gradKeys (at' c s) = .ok keys ∧
          quotaRoom s c.t < keys.length) .defquota 3)) ∧
    StreamActs (.frgrad xd acca xa xf k) 12 (engineAt 16)
      (fun c _ => grad c ∧ acca < c.t.al.tiles.length ∧ c.pairUndef xf = true)
      (fun c s => engineTaken c (bump s)
        { rd := [.tile acca], tile := none, rows := 0, cols := 0, elems := [], int := none, recs := [], occ := 64, lands := 0 })
      (fun _ => 0) ∧
    StreamStops (.frgrad xd acca xa xf k) (engineAt 16)
      (fun c _ => grad c ∧ c.t.al.tiles.length ≤ acca) .ctile 3 ∧
    (∀ g : Knot,
      let g2 : Knot := { g with g := 2 * g.g, e := g.e - 1 }
      let js := (List.range g2.inputs).filter fun j => decide (i0 + j < g.inputs)
      StreamActs (.frefine accd ws kna knd i0 btr) 12 (engineAt accd)
        (fun c _ => tileUndrained c.m accd = true ∧ accd < c.t.al.tiles.length ∧ ws < c.t.al.slots.length ∧
          knotOf (vget c.m.knr kna) = some g ∧ 2 * g.g ≤ 61 ∧ -128 ≤ g.e - 1 ∧ i0 < g.inputs)
        (fun c s => engineTaken c
          (updStream s c.tid fun m => { m with knr := vset m.knr knd (refineKnot (vget c.m.knr kna)) })
          { rd := [.slot ws], tile := some accd, cols := -1
            rows := (js.flatMap fun j => (List.range g2.nb).map fun b => g2.pad * j + b).foldl
              (fun m r => m ||| (1#128 <<< r)) 0
            elems := js.flatMap fun j => (List.range g2.nb).flatMap fun b' => (List.range 128).map fun n =>
              (128 * (g2.pad * j + b') + n, BitVec.ofNat 32
                (refined (fun b => bRaw (refineForm btr) (slotGet s c.t ws) (g.pad * (i0 + j) + b) n) b'))
            int := some false, recs := [], occ := 64, lands := 8 }) (fun _ => 0))

/-- R205, R239, R248: MDRAIN reads its registers and enters the stream's drain queue, four deep; its control word outside
the limits stops the team with MFMTBAD, but for registers that hold undefined values, which trap nothing (R221). The
model's own choices in it: log entry 24. -/
def Obligations.DrainIssue : Prop :=
  ∀ (xd acc xc : Nat) (k : Masks),
    let room (c : SCtl) : Prop := c.m.drains.length < 4 ∧ acc < c.t.al.tiles.length
    let undef (c : SCtl) : Bool := c.pairUndef xd || c.pairUndef xc
    (∀ dc, StreamActs (.mdrain xd acc xc k) 12 noWait
      (fun c _ => room c ∧ drainCtl (c.x xc) (c.m.ints.contains acc) = some dc)
      (fun c s =>
        let d : Drain := { id := s.nextId, pc := c.m.pc, acc := acc, dst := c.x xd, pitch := c.x (xd + 1), ctl := c.x xc
                           stat := c.x (xc + 1), mrow := c.rows k, ncol := c.cols k, undef := undef c, resv := [] }
        let rd := Region.tile acc :: abRegs (drainRuns dc d).1
        updStream (bumpId s) c.tid fun m =>
          { m with drains := m.drains ++ [d]
                   busy := m.busy ++ [{ id := s.nextId, rd := rd, wr := abRegs (drainRuns dc d).2, tiles := [], outA := []
                                        outM := [], sig := none, bad := rd.any (streamRaces s c.t) }] }) (fun _ => 0)) ∧
    StreamStops (.mdrain xd acc xc k) noWait
      (fun c _ => room c ∧ undef c = false ∧ drainCtl (c.x xc) (c.m.ints.contains acc) = none) .mfmtbad 1 ∧
    StreamActs (.mdrain xd acc xc k) 12 noWait
      (fun c _ => room c ∧ undef c = true ∧ drainCtl (c.x xc) (c.m.ints.contains acc) = none) (fun _ s => s) (fun _ => 0) ∧
    StreamWaits (.mdrain xd acc xc k) noWait (fun c _ => 4 ≤ c.m.drains.length)

/-- R56, R57, R124, R197, R207, R208: barriers, loops, NOP and EXIT of a stream. MSIG is counted once every earlier matrix
instruction has completed; MWAIT takes the phase of its issue, and goes on when the phase has changed; a loop of n > 0
runs its body n times; EXIT ends the stream when its queues are empty, and with a loop open stops the team with MLOOPBAD.
The model's own choices in it: log entry 24. -/
def Obligations.StreamControl : Prop :=
  ∀ (b n a : Nat) (x : Bool) (w : BitVec 32) (h : Hdr),
    let cnt (c : SCtl) : Nat := if x then (c.x a).toNat % 2 ^ 32 else w.toNat
    StreamActs (.msig b n) 12 noWait
      (fun c s => c.m.mops = [] ∧ c.m.drains = [] ∧ pendingArrivals s c.tid b = [] ∧ (barArrive (vget c.t.bars b) n).2 = false)
      (fun c s => updStream (setBar (carryBar s c.tid .stream s.nextId b (vget c.t.bars b).ph) c.tid b
          (barArrive (vget c.t.bars b) n).1) c.tid fun m =>
        { m with lp := vset m.lp b (some (vget c.t.bars b).ph)
                 busy := m.busy.map fun e => if e.sig = none then { e with sig := some (b, (vget c.t.bars b).ph) } else e })
      (fun _ => 0) ∧
    StreamStops (.msig b n) noWait (fun c s => c.m.mops = [] ∧ c.m.drains = [] ∧ pendingArrivals s c.tid b = [] ∧
      (barArrive (vget c.t.bars b) n).2 = true) .barmix 1 ∧
    StreamActs (.mwait b) 12 noWait (fun c _ => ∃ p, vget c.m.lp b = some p ∧ p ≠ (vget c.t.bars b).ph)
      (fun c s => updStream s c.tid fun m =>
        { m with lp := vset m.lp b none, seen := vset m.seen b (vget c.t.bars b).ph }) (fun _ => 0) ∧
    StreamWaits (.mwait b) noWait (fun c _ => vget c.m.lp b = some (vget c.t.bars b).ph) ∧
    (∀ s t m, StreamReady s t m → vget m.lp b = none →
      exec (.mwait b) s = .next (updStream (streamAt s m 0) t.uid fun y =>
        { y with lp := vset y.lp b (some (vget t.bars b).ph) })) ∧
    StreamActs (.mloop x a w) 12 noWait (fun c _ => cnt c ≠ 0 ∧ c.m.loops.length < 4)
      (fun c s => updStream s c.tid fun m => { m with loops := ⟨c.m.pc + 12, cnt c⟩ :: m.loops }) (fun _ => 0) ∧
    StreamStops (.mloop x a w) noWait (fun c _ => cnt c ≠ 0 ∧ 4 ≤ c.m.loops.length) .mloopbad 1 ∧
    (∀ s t m l r, StreamReady s t m → m.loops = l :: r → 1 < l.left →
      exec .mend s = .next (updStream (updStream (streamAt s m 0) t.uid fun y => { y with loops := ⟨l.body, l.left - 1⟩ :: r })
        t.uid fun y => { y with pc := l.body, hold := (streamCtl s t m 0).u + 1 })) ∧
    StreamActs .mend 4 noWait (fun c _ => ∃ l r, c.m.loops = l :: r ∧ l.left ≤ 1)
      (fun c s => updStream s c.tid fun m => { m with loops := c.m.loops.tail }) (fun _ => 0) ∧
    StreamStops .mend noWait (fun c _ => c.m.loops = []) .mloopbad 1 ∧
    StreamActs (.nop h) 4 noWait (fun _ _ => True) (fun _ s => s) (fun _ => 0) ∧
    (∀ s t m, StreamReady s t m → m.loops = [] → m.mops = [] → m.drains = [] →
      let after : Team := { t with stream := some { m with ended := true } }
      ((teamEnds (streamAt s m 0) after = false ∨ endRoom (streamAt s m 0) after = true) →
        exec (.exit h) s = .next (partyEnded (updStream (streamAt s m 0) t.uid fun y =>
          { y with ended := true, pc := y.pc + 4 }) t.uid) ∧
        exec (.exitExt h) s = .next (partyEnded (updStream (streamAt s m 0) t.uid fun y =>
          { y with ended := true, pc := y.pc + 12 }) t.uid)) ∧
      (teamEnds (streamAt s m 0) after = true → endRoom (streamAt s m 0) after = false →
        exec (.exit h) s = .next s ∧ exec (.exitExt h) s = .next s)) ∧
    StreamStops (.exit h) noWait (fun c _ => c.m.loops ≠ []) .mloopbad 1

/-! ### Rhizoid threads -/

/-- R340, R344 to R348: the integer, dot-product, dequantising and floating-point instructions of a unit's threads, their
branches, and the ends of the threads. SATI and INV are sticky; every result is computed exactly and rounded once; a
thread that ends leaves the other running, and ZAEND with a row held aborts with ZLKEND. The model's own choices in it:
log entry 20. -/
def Obligations.RhizoidRegisters : Prop :=
  ∀ (d a b c kind k : Nat) (i off : BitVec 16) (sat uns hi : Bool),
    let fl (z : ZRun) (r : FRes) : ZRun := { z with e := vset z.e d (BitVec.ofNat 32 r.x), inv := z.inv || r.inv }
    let e (z : ZRun) (n : Nat) : Nat := (vget z.e n).toNat
    let sums (z : ZRun) (t : Int) : ZRun :=
      { z with
        e := vset z.e d (BitVec.ofInt 32 (if sat then max (-2 ^ 31) (min t (2 ^ 31 - 1)) else t))
        sati := z.sati || (sat && decide (t < -2 ^ 31 ∨ 2 ^ 31 ≤ t)) }
    let dot (w : Nat) (z : ZRun) : Int := ((List.range (32 / w)).map fun j =>
      let y := e z b / 2 ^ (w * j) % 2 ^ w
      sextNat w (e z a / 2 ^ (w * j) % 2 ^ w) * (if uns then (y : Int) else sextNat w y)).foldl (· + ·) 0
    let two (x : Instr) (op : Nat → Nat → FRes) : Prop := ZSets true x fun z => fl z (op (e z a) (e z b))
    let target (arith : Bool) (z : ZRun) : Int := z.pc arith + 4 * off.toInt
    ZSets false (.zalui d i) (fun z => { z with a := vset z.a d (i.setWidth 32 <<< 16) }) ∧
    ZSets true (.zelui d i) (fun z => { z with e := vset z.e d (i.setWidth 32 <<< 16) }) ∧
    ZSets false (.zaaddi d a i) (fun z => { z with a := vset z.a d (vget z.a a + i.signExtend 32) }) ∧
    ZSets true (.zeori d a i) (fun z => { z with e := vset z.e d (vget z.e a ||| i.setWidth 32) }) ∧
    ZSets false (.zaadd d a b) (fun z => { z with a := vset z.a d (vget z.a a + vget z.a b) }) ∧
    ZSets true (.ziadd sat d a b) (fun z => sums z ((vget z.e a).toInt + (vget z.e b).toInt)) ∧
    ZSets true (.zimulw d a b) (fun z =>
      let p : BitVec 64 := BitVec.ofInt 64 ((vget z.e a).toInt * (vget z.e b).toInt)
      { z with e := vset (vset z.e d (p.setWidth 32)) (d + 1) ((p >>> 32).setWidth 32) }) ∧
    ZSets true (.zdot8 sat uns d a b) (fun z => sums z ((vget z.e d).toInt + dot 8 z)) ∧
    ZSets true (.zdot4 sat uns d a b) (fun z => sums z ((vget z.e d).toInt + dot 4 z)) ∧
    ZSets true (.zdq kind k d a b c) (fun z => fl z (zdqF
      (match kind with
        | 0 => (vget z.e a).toInt
        | 1 => sextNat 8 (e z a / 2 ^ (8 * k) % 2 ^ 8)
        | _ => sextNat 4 (e z a / 2 ^ (4 * k) % 2 ^ 4)) (e z b) (e z c))) ∧
    two (.zfadd d a b) (fAdd fmtF32 .rne false false) ∧
    two (.zfsub d a b) (fSub fmtF32 .rne false false) ∧
    two (.zfmul d a b) (fMul fmtF32 .rne false false) ∧
    two (.zfmin d a b) (fExtreme fmtF32 false false) ∧
    two (.zfmax d a b) (fExtreme fmtF32 true false) ∧
    ZSets true (.zfma d a b c)
      (fun z => fl z (fFma fmtF32 .rne false false false false (e z a) (e z b) (e z c))) ∧
    ZSets true (.zfsqrt d a) (fun z => fl z (sfuSqrt false false (e z a))) ∧
    ZSets true (.zfrsq d a) (fun z => fl z (sfuRsq false false (e z a))) ∧
    ZSets true (.zunpk hi d a)
      (fun z => { z with e := vset z.e d (if hi then vget z.e a &&& 0xFFFF0000 else vget z.e a <<< 16) }) ∧
    two (.zpack d a b) (fun x y =>
      let l := packV fmtBf16 .rne false (unpack fmtF32 false x)
      let u := packV fmtBf16 .rne false (unpack fmtF32 false y)
      ⟨u.x * 2 ^ 16 + l.x, l.inv || u.inv⟩) ∧
    ZActs false (.zabra off) (fun _ _ _ => True) (fun _ z s => (s, z)) (target false) ∧
    ZActs true (.zebra off) (fun _ _ _ => True) (fun _ z s => (s, z)) (target true) ∧
    ZActs false (.zadbnz a off) (fun _ _ _ => True) (fun _ z s => (s, { z with a := vset z.a a (vget z.a a - 1) }))
      (fun z => if vget z.a a - 1 = 0 then z.pc false + 4 else target false z) ∧
    ZActs true (.zedbnz a off) (fun _ _ _ => True) (fun _ z s => (s, { z with e := vset z.e a (vget z.e a - 1) }))
      (fun z => if vget z.e a - 1 = 0 then z.pc true + 4 else target true z) ∧
    ZActs false .zaend (fun _ z _ => z.locks = []) (fun _ z s => (s, { z with endA := true })) (zNext false) ∧
    ZAborts false .zaend (fun _ z _ => z.locks ≠ []) .zlkend (fun _ => 0) ∧
    ZSets true .zeend (fun z => { z with endE := true })

/-- R339, R341 to R344, R364 to R367: a window's bytes are those at offset a + 64·OFF16, within WLEN, else ZWIN, and for
ZLD and ZST at a multiple of 64, else ZMISALN; ZLD reserves a `dq` entry and waits at 16; ZST writes the oldest `wq`
entry; ZLOCK holds a row with its snapshot once its bank's earlier accesses are served, a drain's reservations of its
lines are over and the row does not pend, aborts with ZLKTIME where that comes 3,200 ck after its issue or later, and a
ninth row aborts with ZLKMAX; a write waits for what was issued to its banks before it; ZUNLK and ZUNLK.ALL release;
ZWPAIR writes its elements twice, to rows that are held, else ZNOLOCK; ZPOP and ZPUSH move 64 bytes, byte 4j+3:4j in
register j. The model's own choices in it: log entry 29. -/
def Obligations.RhizoidMemory : Prop :=
  ∀ (w a d n wp wt as : Nat) (off : BitVec 16) (word : Bool),
    let o (z : ZRun) : Int := (vget z.a a).toInt + 64 * off.toInt
    let fits (z : ZRun) (w : Nat) (o : Int) (n : Nat) : Prop := z.wlen w ≠ 0 ∧ 0 ≤ o ∧ o + n ≤ z.wlen w
    let at' (z : ZRun) : Nat := z.wkey w + (o z).toNat
    let held (s : State) (z : ZRun) (key : Nat) : Prop := ∃ k ∈ z.locks, k.row = rowId s (keyPa key)
    let clear (s : State) (z : ZRun) (key n : Nat) : Prop :=
      ∀ b ∈ keyBanks s key n, ∀ e ∈ z.dq, e.data = none → b ∉ keyBanks s e.key 64
    let free (s : State) (z : ZRun) (key n : Nat) : Prop :=
      rowPending s key = false ∧ rowPending s (key + (n - 1)) = false ∧ clear s z key n ∧ unitServed s key n = true
    let open' (s : State) (z : ZRun) (key : Nat) : Prop :=
      rowPending s key = false ∧ rowReserved s (keyPa key) = false ∧ clear s z key 1 ∧ unitServed s key 1 = true
    let late (s : State) (z : ZRun) : Prop := ∃ x, z.lockWait = some x ∧ x.2 + 3200 ≤ s.clock
    let sz : Nat := if word then 4 else 2
    let pairs (z : ZRun) : List (Nat × Int × Nat) := (List.range n).flatMap fun j =>
      [(wp, (vget z.a a).toInt + ((j * sz : Nat) : Int), j * sz),
       (wt, (vget z.a d).toInt + ((j * (vget z.a as).toNat : Nat) : Int), j * sz)]
    let even (z : ZRun) : Prop :=
      (vget z.a a).toNat % sz = 0 ∧ (vget z.a d).toNat % sz = 0 ∧ (vget z.a as).toNat % sz = 0
    let inside (z : ZRun) : Prop := ∀ p ∈ pairs z, fits z p.1 p.2.1 sz
    let key (z : ZRun) (p : Nat × Int × Nat) : Nat := z.wkey p.1 + p.2.1.toNat
    let allHeld (s : State) (z : ZRun) : Prop := ∀ p ∈ pairs z, held s z (key z p) ∧ held s z (key z p + (sz - 1))
    (∀ x ∈ [Instr.zld w a off, Instr.zst w a off],
      ZAborts false x (fun _ z _ => ¬ fits z w (o z) 64) .zwin (fun _ => 0) ∧
      ZAborts false x (fun _ z _ => fits z w (o z) 64 ∧ o z % 64 ≠ 0) .zmisaln (fun _ => 0)) ∧
    (∀ x ∈ [Instr.zlock w a off, Instr.zunlk w a off],
      ZAborts false x (fun _ z _ => ¬ fits z w (o z) 1) .zwin (fun _ => 0)) ∧
    ZActs false (.zld w a off) (fun _ z _ => fits z w (o z) 64 ∧ o z % 64 = 0 ∧ z.dq.length < 16)
      (fun ch z s => (holdRows s ch (at' z) 64, { z with dq := z.dq ++ [⟨at' z, z.pcA, none⟩] })) (zNext false) ∧
    ZWaits false (.zld w a off) (fun _ z _ => fits z w (o z) 64 ∧ o z % 64 = 0 ∧ 16 ≤ z.dq.length) ∧
    (∀ b r, ZActs false (.zst w a off)
      (fun _ z s => fits z w (o z) 64 ∧ o z % 64 = 0 ∧ z.wq = b :: r ∧ free s z (at' z) 64)
      (fun _ z s => (engineStore s (at' z) b, { z with wq := r })) (zNext false)) ∧
    ZWaits false (.zst w a off) (fun _ z s => fits z w (o z) 64 ∧ o z % 64 = 0 ∧ (z.wq = [] ∨ ¬ free s z (at' z) 64)) ∧
    ZActs false (.zlock w a off) (fun _ z s => fits z w (o z) 1 ∧ held s z (at' z))
      (fun _ z s => (s, { z with lockWait := none })) (zNext false) ∧
    ZAborts false (.zlock w a off) (fun _ z s => fits z w (o z) 1 ∧ ¬ held s z (at' z) ∧ 8 ≤ z.locks.length) .zlkmax
      (fun z => rowBase (keyPa (at' z))) ∧
    ZAborts false (.zlock w a off)
      (fun _ z s => fits z w (o z) 1 ∧ ¬ held s z (at' z) ∧ z.locks.length < 8 ∧ late s z) .zlktime
      (fun z => rowBase (keyPa (at' z))) ∧
    ZActs false (.zlock w a off)
      (fun _ z s => fits z w (o z) 1 ∧ ¬ held s z (at' z) ∧ z.locks.length < 8 ∧ ¬ late s z ∧ open' s z (at' z) ∧
        rowMarked s (keyPa (at' z)) = false)
      (fun _ z s => (s,
        { z with
          locks := z.locks ++ [⟨rowId s (keyPa (at' z)), rowBase (keyPa (at' z)), rowBytes s (keyPa (at' z)), s.clock, []⟩]
          lockWait := none })) (zNext false) ∧
    ZAborts false (.zlock w a off)
      (fun _ z s => fits z w (o z) 1 ∧ ¬ held s z (at' z) ∧ z.locks.length < 8 ∧ ¬ late s z ∧ open' s z (at' z) ∧
        rowMarked s (keyPa (at' z)) = true) .zparity (fun z => rowBase (keyPa (at' z))) ∧
    (∀ s ch z, curZ s = some (ch, false, z) → fits z w (o z) 1 → ¬ held s z (at' z) → z.locks.length < 8 → ¬ late s z →
      ¬ open' s z (at' z) → exec (.zlock w a off) s =
        .next (setRun s ch { z with lockWait := some (z.lockWait.getD (rowBase (keyPa (at' z)), s.clock)) })) ∧
    ZActs false (.zunlk w a off) (fun _ z _ => fits z w (o z) 1)
      (fun _ z s => (s, { z with locks := z.locks.filter fun k => k.row != rowId s (keyPa (at' z)) })) (zNext false) ∧
    ZSets false .zunlkAll (fun z => { z with locks := [] }) ∧
    (let x := Instr.zwpair a d as n wp wt word
     ZAborts false x (fun _ z _ => ¬ even z) .zmisaln (fun _ => 0) ∧
     ZAborts false x (fun _ z _ => even z ∧ ¬ inside z) .zwin (fun _ => 0) ∧
     (∀ s ch z, curZ s = some (ch, false, z) → even z → inside z → ¬ allHeld s z →
       ∃ p ∈ pairs z, ∃ b ≤ sz - 1, ¬ held s z (key z p + b) ∧ exec x s =
         .next (abortRun s ch (causeCode .znolock) (BitVec.ofInt 12 z.pcA) false (rowBase (keyPa (key z p + b))))) ∧
     (∀ e r, ZActs false x
       (fun _ z s => even z ∧ inside z ∧ allHeld s z ∧ z.wq = e :: r ∧ ∀ p ∈ pairs z, free s z (key z p) sz)
       (fun _ z s => ((pairs z).foldl (fun s p => engineStore s (key z p) (slice e p.2.2 sz)) s, { z with wq := r }))
       (zNext false)) ∧
     ZWaits false x (fun _ z s => even z ∧ inside z ∧ allHeld s z ∧
       (z.wq = [] ∨ ∃ p ∈ pairs z, ¬ free s z (key z p) sz))) ∧
    (∀ k pc b r, ZActs true (.zpop d) (fun _ z _ => z.dq = ⟨k, pc, some b⟩ :: r)
      (fun _ z s => (s, { z with
        dq := r
        e := (List.range 16).foldl (fun e j => vset e (d + j) (BitVec.ofNat 32 (natOfBytes (slice b (4 * j) 4)))) z.e }))
      (zNext true)) ∧
    ZWaits true (.zpop d) (fun _ z _ => z.dq = [] ∨ ∃ e r, z.dq = e :: r ∧ e.data = none) ∧
    ZActs true (.zpush a) (fun _ z _ => z.wq.length < 16)
      (fun _ z s => (s, { z with
        wq := z.wq ++ [(List.range 16).flatMap fun j => bytesOfNat 4 (vget z.e (a + j)).toNat] })) (zNext true) ∧
    ZWaits true (.zpush a) (fun _ z _ => 16 ≤ z.wq.length)

/-! ### Events: what completes, arrives and ends by itself -/

/-- R22, R24, R110, R128, R154, R164, R177, R205, R243, R249 to R252, R391, R392, R402: an operation in flight completes,
with its registers written and its flag's count one lower; a faulting one raises its cause; the reply of a remote atomic
fills its two entries, a cause in the second; a raised cause enters the handler; a walk fills the TLBs; a store reaches
its home; a line leaves a cache; matrix results land; the oldest drain of a core is carried out, element by element, with
its statistics record, and stops its team where it meets a cause. The model's own choices in it: log entries 16, 17, 19,
24, 39 and 40. -/
def Obligations.Completions : Prop :=
  ∀ (id core ctx page tid : Nat) (l1 inst : Bool),
    (∀ o ws, Gives (.longLatencyCompletion id l1) (fun s => opOf? s id = some o ∧ o.kind = .regs ws)
      (fun s => endOp (writeNow s o ws) o)) ∧
    (∀ o w p, Gives (.longLatencyCompletion id l1)
      (fun s => opOf? s id = some o ∧ opFaulty s o = false ∧ whoOf s o = some w ∧ accessPerform s o l1 = some p ∧
        opFaults w.t.d.gridUnit o.kind = [] ∧ p.ue = [])
      (fun _ => endOp (accessWrite o w p) o)) ∧
    (∀ o w p, Gives (.afterIssueFault id l1)
      (fun s => opOf? s id = some o ∧ whoOf s o = some w ∧ mayReport w.g o = true ∧ accessPerform s o l1 = some p ∧
        opFaults w.t.d.gridUnit o.kind ++ p.ue ≠ [])
      (fun _ => reportFault (accessWrite o w p) o (opFaults w.t.d.gridUnit o.kind ++ p.ue))) ∧
    (∀ o w op wide q a fm k, Gives (.ratomReply id)
      (fun s => opOf? s id = some o ∧ whoOf s o = some w ∧ o.kind = .ratom op wide q a fm ∧ ratomCause s wide a.x = some k)
      (fun s => endOp (updTeam s o.tid fun t =>
        { t with queues := vset t.queues q (fill2 id 0 (k.setWidth 64) (vget t.queues q)) }) o)) ∧
    (∀ o w op wide q a fm, Gives (.ratomReply id)
      (fun s => opOf? s id = some o ∧ whoOf s o = some w ∧ o.kind = .ratom op wide q a fm ∧ ratomCause s wide a.x = none ∧
        homeReady s w o [a] (if wide then 8 else 4) = true)
      (fun s =>
        let p := atomLane w op wide true fm ⟨s, [], [], 0⟩ a
        endOp (updTeam (writeNow p.s o (wrSt p.st)) o.tid fun t =>
          { t with queues := vset t.queues q (fill2 id (BitVec.ofNat 64 (laneVal p.res 0)) 0 (vget t.queues q)) }) o)) ∧
    (∀ t u g, Gives (.trapHandlerEntry tid)
      (fun s => teamOf s tid = some t ∧ t.halt = .settling u ∧ firstPending t = some g ∧
        ∀ g ∈ t.groups, g.t.inHandler = false)
      (fun s => enterNext s tid)) ∧
    (∀ c k e, Gives (.tlbWalkComplete core ctx page)
      (fun s => ctxOf s ctx = some c ∧ walkFrom s page 4 c.root = .leaf k e)
      (fun s =>
        let n : TlbEnt := ⟨ctx, page / 2 ^ leafBits k * 2 ^ leafBits k, k, BitVec.ofNat 128 e⟩
        let s1 := updCore s core fun x => { x with tlb := tlbAdd 256 n x.tlb }
        { s1 with ctlb := aSet s1.ctlb (core / 8) (tlbAdd 4096 n ((aGet s1.ctlb (core / 8)).getD [])) })) ∧
    (∀ e r, Gives (.writeThroughDrain core)
      (fun s => (coreOf s core).wtq = e :: r ∧ homeWaits s e.key = false ∧
        homeWaits s (e.key + (e.bytes.length - 1)) = false)
      (fun s => updCore { publish s e.tid e.rel.isSome 2 with mem := memSetN s.mem e.key e.bytes } core fun c =>
        { c with wtq := r })) ∧
    Gives (.l1LineReplacement core id inst)
      (fun s => id < (if inst then (coreOf s core).icache else (coreOf s core).l1).length)
      (fun s => setCore s core (if inst then { coreOf s core with icache := (coreOf s core).icache.eraseIdx id }
        else { coreOf s core with l1 := (coreOf s core).l1.eraseIdx id })) ∧
    (∀ t m o, Gives (.mmaLanding core id)
      (fun s => (streamsOn s core).find? (fun p => p.2.mops.any fun x => x.id == id) = some (t, m) ∧
        m.mops.find? (fun x => x.id == id) = some o ∧ o.recs.length ≤ sporRoom s core ∧
        ∀ x ∈ m.mops, x.id < id → x.tile ≠ o.tile)
      (fun s =>
        let s1 : State := { s with clock := max s.clock o.land }
        let s2 := match o.tile with
          | some d => o.elems.foldl (fun s e => tilePut s t d e.1 e.2) s1
          | none => s1
        updStream (makeRecs s2 t.uid 32 (some o.id) (o.recs.map fun r => ⟨.fadd, false, r.1, r.2.setWidth 64⟩)) t.uid
          fun m => { m with mops := m.mops.filter fun x => x.id != id })) ∧
    (∀ t m d c, Gives (.drainExecute core)
      (fun s => oldestDrain s core = some (t, m, d) ∧ drainCtl d.ctl (m.ints.contains d.acc) = some c ∧
        tileLanded m d.acc = true ∧ (∀ k ∈ drainKeys s c t d, homeWaitsBut s (some d.id) k = false) ∧
        (c.stat = true → 0 < sporRoom s core))
      (fun s =>
        let u := max s.clock (coreOf s core).drainFree
        let s1 := updCore { s with clock := u } core fun k => { k with drainFree := u + 16 }
        let el := (onBits 128 d.mrow).flatMap fun i => (onBits 128 d.ncol).map fun n => (i, n)
        let bad := m.busy.any fun b => b.id == d.id && b.bad
        let p := drainStat c t d
          (el.foldl (fun p e => drainOne c (m.ints.contains d.acc) bad t d p e.1 e.2) ⟨s1, [], [], 0, false, none⟩)
        let s2 := updStream (bump p.s) t.uid fun m =>
          { m with drains := m.drains.filter fun x => x.id != d.id, tileFree := aSet m.tileFree d.acc (u + 16)
                   busy := m.busy.map fun b => if b.id = d.id then { b with outA := p.outA, outM := p.outM } else b }
        match (if d.undef then none else p.cause) with
        | some k => stopTeam s2 t.uid (causeCode k) d.pc 0 2
        | none => s2))

/-- R134 to R141, R147, R153, R167, R379 to R381, R419: LAUNCH is queued, and starts its grid from the record, or fails
with its cause; a pod's grid starts, or fails, by the outcome of its devices' checks; a waiting unit takes its tag, the
grid of a task node not while its context drains or is saved; a grid's next team, with its tag where it is a commit unit
of its own, goes to cluster (g + t) mod 96, is stolen by an idle dispatcher, and is placed on the chosen core; a
co-resident grid starts whole; a grid whose teams have ended, on every device of a pod, and whose commits are done adds to
CPLCTR. The model's own choices in it: log entries 12, 23, 33 and 39. -/
def Obligations.GridEvents : Prop :=
  ∀ (idx grid cl ctx q k n : Nat) (lr : BitVec 64) (p : Place) (ps : List Place),
    (∀ c a no, Gives (.launch (.start ctx q) lr)
      (fun s => queueHead s ctx q = some c ∧ c.kind = .launch a no ∧ c.started = false ∧ lrecWaits s c.ctx a = false)
      (fun s => launchGrid (updCmd s c fun x => { x with started := true }) c.ctx a
        (if isPodCtx s c.ctx then some no else none) (some (c.host, c.seq)) none)) ∧
    (∀ w g s1, Gives (.gridAdmission idx)
      (fun s => s.defer.waiting[idx]? = some w ∧ gridOf s w.1 = some g ∧
        (w.2 = none → g.node ≠ none → nodesHeld s g.ctx = false) ∧ takeTag s w.1 w.2 g.lr.deferq = some s1)
      (fun _ => unitAdmitted s1 w.1 w.2)) ∧
    (∀ g t,
      let out (s : State) : Prop := gridOf s grid = some g ∧ nextTeam s g = some t ∧ g.phase = .dispatch ∧ g.lr.cores = false ∧
        draining s g.ctx = false ∧ (clusterQueue s ((g.seq + t) % 96)).length < 16
      let untagged (s : State) : Prop := g.lr.cunit = false ∧ unitTag s grid (some t) = none ∧
        (grid, some t) ∉ s.defer.waiting
      let handed (s : State) : State :=
        let c := (g.seq + t) % 96
        let s1 := setQueueOf (updGrid s grid (handedOut t)) c
          (clusterQueue s c ++ [⟨grid, t, s.work.disp.order, s.clock⟩])
        { s1 with work := { s1.work with disp := { s1.work.disp with order := s1.work.disp.order + 1 } } }
      Gives (.teamHandout grid) (fun s => out s ∧ (g.lr.cunit = true ∨ unitTag s grid (some t) ≠ none)) handed ∧
      (∀ s1, Gives (.teamHandout grid)
        (fun s => out s ∧ untagged s ∧ mapsPeer s g.ctx = false ∧ takeTag s grid (some t) g.lr.deferq = some s1)
        (fun _ => handed s1)) ∧
      Gives (.teamHandout grid)
        (fun s => out s ∧ untagged s ∧ (mapsPeer s g.ctx = true ∨ takeTag s grid (some t) g.lr.deferq = none))
        (fun s => updDefer s fun d => { d with waiting := d.waiting ++ [(grid, some t)] })) ∧
    (∀ e g, Gives (.teamPlacement cl p)
      (fun s => queueTop s (clusterQueue s cl) = some e ∧ gridOf s e.grid = some g ∧ draining s g.ctx = false ∧
        chooseCore s (clusterCores cl) (needOf g.lr) = some p.core ∧ placeOk s (needOf g.lr) p = true ∧
        respFirst s p.core = false ∧ (coreOf s p.core).hot = false)
      (fun s => startTeam (setQueueOf s cl ((clusterQueue s cl).filter fun x => x != e)) g e.team p)) ∧
    (∀ f l e g, Gives (.dispatchSteal cl)
      (fun s => longestQueue s = some (f, l) ∧ queueTop s l = some e ∧ gridOf s e.grid = some g ∧
        clusterQueue s cl = [] ∧ cl < 96 ∧ f ≠ cl ∧ chooseCore s (clusterCores cl) (needOf g.lr) ≠ none)
      (fun s => setQueueOf { setQueueOf s f (l.filter fun x => x != e) with clock := s.clock + 40 } cl [e])) ∧
    (∀ g s1, Gives (.coresidentPlacement grid ps)
      (fun s => gridOf s grid = some g ∧ g.phase = .dispatch ∧ g.lr.cores = true ∧ draining s g.ctx = false ∧
        (∀ p ∈ ps, (coreOf s p.core).hot = false) ∧
        (let ts := (localTeams s g).filter fun t => decide (g.cursor ≤ t)
         ts.length = ps.length ∧ ts ≠ [] ∧ placeAll g (ts.zip ps) s = some s1))
      (fun _ => updGrid s1 grid fun x => { x with cursor := g.lr.gx * g.lr.gy * g.lr.gz })) ∧
    (∀ g, Gives (.gridCompletion grid)
      (fun s => gridOf s grid = some g ∧ g.phase = .dispatch ∧ g.ended.length = (localTeams s g).length ∧
        commitsDone s grid = true ∧ (g.lr.cplctr ≠ 0 → counterWaits s g.ctx g.lr.cplctr = false) ∧
        (1 < (podOf s g).length → podHeldBy s g = false ∧ podAgreed s g .ended .allEnded = true))
      (fun s =>
        let s1 := if g.lr.cplctr = 0 then s else addAt s g.ctx g.lr.cplctr
        let s2 := forgetPod { s1 with work := { s1.work with grids := s1.work.grids.filter fun x => x.uid != grid } } g
        sweepTeams (tellNode s2 g.ctx g.node none))) ∧
    (∀ g, Gives (.podLaunchOutcome ctx k (some n))
      (fun s => awaitsPod s ctx k = some g ∧ podOutcome s g = some n ∧ n ≠ 0)
      (fun s => forgetPod (launchFails s g (BitVec.ofNat 9 n)) g)) ∧
    (∀ g, Gives (.podLaunchOutcome ctx k none) (fun s => awaitsPod s ctx k = some g ∧ podOutcome s g = some 0)
      (fun s => enterUnit (updGrid s g.uid fun x => { x with phase := .waitUnit }) g))

/-- R153 to R169, R317: a record leaves its core's Sporangium, in order, for its bin, which ships at 64 records, by age
and by closes, and packets arrive in the order of their source and destination; a commit of any scope closes when every
required arrival is in, a pod's when its devices agree; its Sorus units ship what it covers and send markers after it to
every destination that it concerns, those apply it in arrival order, and when all have answered it completes; a
coordinator keeps its commits in order, and a pod's devices agree first. The model's own choices in it: log entry 23. -/
def Obligations.DeferredEvents : Prop :=
  ∀ (core cl bin idx cid dev ch : Nat) (coal new : Bool) (bad : List Nat),
    (∀ r rest, Gives (.sorusRecordArrival core coal new) (fun s => (coreOf s core).spor = .entry r :: rest)
      (fun s =>
        let c := core / 8
        let r := closedRec s r
        let k := binKey s r
        let s1 := haveBin (updCore s core fun x => { x with spor := rest }) c k
        let s2 := setSorus s1 c { sorusOf s1 c with bins := (sorusOf s1 c).bins.map fun b =>
          if (b.dev, b.ch) == k then
            { b with recs := binAdd coal new r (b.recs.map (closedRec s1))
                     since := if b.recs.isEmpty then s1.clock else b.since }
          else b }
        if 64 ≤ (((sorusOf s2 c).bins.find? fun b => (b.dev, b.ch) == k).map fun b => b.recs.length).getD 0 then shipBin s2 c k
        else s2)) ∧
    (∀ b, Gives (.binAgeFlush cl bin) (fun s => (sorusOf s cl).bins[bin]? = some b ∧ b.recs ≠ [])
      (fun s => shipBin { s with clock := max s.clock (b.since + 16000) } cl (b.dev, b.ch))) ∧
    (∀ p, Gives (.thallusPacketArrival idx)
      (fun s => s.defer.packets[idx]? = some p ∧ peerHeld s (packetDev p) = false ∧
        ∀ q ∈ s.defer.packets.take idx, packetKey s q ≠ packetKey s p)
      (fun s => deliver (updDefer s fun d => { d with packets := d.packets.eraseIdx idx }) p)) ∧
    (∀ c t rest, Gives (.commitTokenArrival core) (fun s => (coreOf s core).spor = .token c t :: rest)
      (fun s => updCommit (updCore s core fun k => { k with spor := rest }) c fun k =>
        { k with arrived := t :: k.arrived })) ∧
    (∀ c,
      let ready (s : State) : Prop := match c.scope with
        | .team | .endTeam | .endGrid => ∀ t ∈ c.tokens, t ∈ c.arrived
        | .grid | .pod => ∃ g, gridOf s c.grid = some g ∧ allArrived s g c = true
      let tags (s : State) : List Nat := match c.scope with
        | .grid | .pod => (s.defer.tags.filter fun t => t.grid == c.grid).map fun t => t.tag
        | .team | .endTeam | .endGrid => c.tags
      Gives (.commitClose cid)
        (fun s => commitOf s cid = some c ∧ c.closed = false ∧ ready s ∧ (podCommit s c = true → c.podGo = true) ∧
          coordBehind s c (fun k => k.closed) = false)
        (fun s => updCommit s cid fun _ =>
          { c with tags := tags s, closed := true, toShip := closeTargets s { c with tags := tags s, closed := true } })) ∧
    (∀ c, Gives (.sorusClose cid cl)
      (fun s => commitOf s cid = some c ∧ cl ∈ c.toShip ∧ coordBehind s c (fun k => !k.toShip.contains cl) = false)
      (fun s =>
        let s1 := (((sorusOf s cl).bins.filter fun b => b.recs.any (coversD s c)).map fun b => (b.dev, b.ch)).foldl
          (fun s k => shipBin s cl k) s
        let marks := (((sorusOf s1 cl).touched.filter (coversT s1 c)).map fun t => (t.dev, t.ch)).dedup
        updCommit (updDefer s1 fun d => { d with packets := d.packets ++ marks.map fun m => .marker cl m.1 m.2 cid }) cid
          fun k => { k with toShip := k.toShip.filter (· != cl), shipped := cl :: k.shipped
                            marked := k.marked ++ marks.map fun m => (cl, m.1, m.2) })) ∧
    (∀ c, Gives (.commitApplySend cid)
      (fun s => commitOf s cid = some c ∧ c.closed = true ∧ c.toShip = [] ∧ c.marked ≠ [] ∧ c.applySent = [] ∧
        coordBehind s c (fun k => k.closed && k.toShip.isEmpty && (k.marked.isEmpty || !k.applySent.isEmpty)) = false)
      (fun s => updCommit s cid fun k => { k with
        applySent := (c.marked.map fun m => (m.2.1, m.2.2)).dedup.map fun x =>
          (x.1, x.2, (c.marked.filter fun m => (m.2.1, m.2.2) == x).length) })) ∧
    (∀ c, Gives (.thallusApply cid dev ch bad)
      (fun s => commitOf s cid = some c ∧
        (dev, ch, ((thallusOf s (dev, ch)).markers.filter fun m => m.2 == cid).length) ∈ c.applySent ∧
        coordBehind s c (fun k => k.acked.contains (dev, ch) || !k.applySent.any fun a => (a.1, a.2.1) == (dev, ch)) = false ∧
        peerHeld s dev = false ∧ (dev, ch) ∉ c.acked ∧ mayCharge s c.ctx 1 = true ∧
        (∀ r ∈ covered s c (thallusOf s (dev, ch)), rowLocked s (devBase r.dev + r.pa) = false ∧
          bankHeld s (devBase r.dev + r.pa) = false) ∧
        olderLoads s c (covered s c (thallusOf s (dev, ch))) = false)
      (fun s => applyAt s c dev ch bad)) ∧
    (∀ c, Gives (.commitCompletion cid)
      (fun s => commitOf s cid = some c ∧ allAcked c = true ∧ (podCommit s c = true → c.podDone = true) ∧
        ctrsWait s c = false)
      (fun s => completeCommit s c)) ∧
    (∀ c, Gives (.podCloseRelease cid)
      (fun s => commitOf s cid = some c ∧ podCommit s c = true ∧ c.podGo = false ∧ commitReady s c = true ∧
        podHeld s c = false ∧ commitAgreed s c .arrived .go = true)
      (fun s => updCommit s cid fun k => { k with podGo := true })) ∧
    (∀ c, Gives (.podCommitCompletion cid)
      (fun s => commitOf s cid = some c ∧ podCommit s c = true ∧ c.podDone = false ∧ allAcked c = true ∧
        podHeld s c = false ∧ commitAgreed s c .applied .complete = true)
      (fun s => updCommit s cid fun k => { k with podDone := true }))

/-- R178, R211, R212, R255 to R266, R371: a copy command is formed from its layout record, or fails with its cause; an
engine starts its next piece, whose elements are read a 16-byte chunk at a time and written a 32-bit word at a time, each
once what it reads or writes is served, or fails with the cause that this meets; it completes when every piece has been
performed, with its counter added to; it fails with its counter poisoned and a report; a collective's piece lands, its
steps run where the next position has room for what they send, and the rank ends, its sends acknowledged, with its release
add. The model's own choices in it: log entries 16, 25, 26 and 39. -/
def Obligations.CopyAndCollectiveEvents : Prop :=
  ∀ (id core st p j q : Nat) (data : List Byte),
    let runs (s : State) (c : Copy) (l : Layout) : Prop :=
      copyOf s id = some c ∧ c.form = some l ∧ c.failed = none ∧ c.done = false
    let mine (s : State) (c : Copy) : Option Team := c.owner.bind fun o => teamOf s o.1
    (∀ c key l, Gives (.copyCommandForm id)
      (fun s => copyOf s id = some c ∧ c.form = none ∧ c.failed = none ∧ c.done = false ∧
        relPending s c.owner c.id = false ∧ ctrCause s c = none ∧ c.lay.toNat % 64 = 0 ∧ homeKey s c.ctx c.lay.toNat false = .ok key ∧
        homeWaits s key = false ∧
        layoutOf (memGetN s.mem key 64) = l ∧ l.ok = true ∧ formCause s c l = none)
      (fun s => endCopyOp (updCopy s id fun x => { x with form := some l, total := pieces c l }) c.op)) ∧
    (∀ c, Gives (.copyCommandForm id)
      (fun s => copyOf s id = some c ∧ c.form = none ∧ c.failed = none ∧ c.done = false ∧
        relPending s c.owner c.id = false ∧ ctrCause s c = none ∧ c.lay.toNat % 64 ≠ 0)
      (fun s => endCopyOp (updCopy s id fun x =>
        { x with failed := some (causeCode .copyoob, BitVec.ofNat 64 c.lay.toNat) }) c.op)) ∧
    (∀ c l, Gives (.copyPieceStart id core (.start []))
      (fun s => runs s c l ∧ c.started < c.total ∧ takesPiece s c core = true ∧ mayCharge s c.ctx 0 = true ∧
        c.onHost = false)
      (fun s => updCopy (charge s c.ctx 0 ((pieceElems l c.started).length * l.esz)) id fun x =>
        ({ x with started := c.started + 1, running := x.running ++ [⟨c.started, firstBytes c l c.started []⟩] } :
          Copy).setBytes fun _ b => b)) ∧
    (∀ c l, Gives (.copyPieceStart id core (.start data))
      (fun s => runs s c l ∧ c.started < c.total ∧ takesPiece s c core = true ∧ mayCharge s c.ctx 0 = true ∧
        mayCharge s c.ctx 5 = true ∧ (c.kind = .fromh → data.length = (pieceElems l c.started).length * l.esz))
      (fun s => startPiece s c l data)) ∧
    (∀ c l,
      let reads (s : State) : Prop := runs s c l ∧ p < c.started ∧ j ∈ chunkElems c l p j ∧
        ∀ i ∈ chunkElems c l p j, ∀ k, srcKey s c l i = some k → homeWaits s k = false
      (∀ bs, Gives (.copyPieceStart id core (.read p j))
        (fun s => reads s ∧ allOk (readElem s c (mine s c) l) (chunkElems c l p j) = .ok bs)
        (fun s => updCopy (bump s) id fun x => x.setBytes fun q b =>
          match (((chunkElems c l p j).zip bs).flatMap fun y =>
            y.2.zipIdx.map fun b => (y.1 * l.esz + b.2, b.1)).find? fun y => y.1 == q with
          | some y => .got y.2
          | none => b)) ∧
      (∀ e, Gives (.copyPieceStart id core (.read p j))
        (fun s => reads s ∧ allOk (readElem s c (mine s c) l) (chunkElems c l p j) = .error e)
        (fun s => stopPieces s id e))) ∧
    (∀ c l ws,
      let writes (s : State) : Prop := runs s c l ∧ c.kind ≠ .toh ∧ wordWrite s c l (4096 * p + q) = some ws ∧
        ∀ x ∈ ws, ∀ k, dstKey s c l x = some k → homeWaits s k = false
      (∀ s2, Gives (.copyPieceStart id core (.write p q))
        (fun s => writes s ∧ writeWord s c (mine s c) l (4096 * p + q) ws = .ok s2)
        (fun _ => updCopy s2 id fun x => x.setBytes fun y b => if ws.contains y then .put else b)) ∧
      (∀ e, Gives (.copyPieceStart id core (.write p q))
        (fun s => writes s ∧ writeWord s c (mine s c) l (4096 * p + q) ws = .error e) (fun s => stopPieces s id e))) ∧
    (∀ c, Gives (.copyCompletion id)
      (fun s => copyOf s id = some c ∧ c.form ≠ none ∧ c.failed = none ∧ c.done = false ∧ c.adds = false ∧
        c.started = c.total ∧ c.running = [] ∧ (c.onHost = true → s.fab.ethUp = true) ∧ copyEndRoom s c = true ∧ addsRemote c = false ∧
        ∀ x, c.ctr = some x → counterWaits s c.ctx x.1 = false)
      (fun s => copyDone (copyAdd (updCopy s id fun x => { x with done := true, ack := false }) c) c none)) ∧
    (∀ c, Gives (.copyCompletion id)
      (fun s => copyOf s id = some c ∧ c.form ≠ none ∧ c.failed = none ∧ c.done = false ∧ c.adds = false ∧
        c.started = c.total ∧ c.running = [] ∧ c.onHost = false ∧ copyEndRoom s c = true ∧ addsRemote c = true)
      (fun s => copyEnded (updCopy s id fun x => { x with adds := true, done := true }) c)) ∧
    (∀ c a m, Gives (.copypCounterAdd id)
      (fun s => copyOf s id = some c ∧ c.adds = true ∧ c.ctr = some (a, m) ∧ counterWaits s c.ctx a = false)
      (fun s => tellNode (addAt (updCopy s id fun x => { x with adds := false }) c.ctx a) c.ctx c.node none)) ∧
    (∀ c k a, Gives (.copyFailure id)
      (fun s => copyOf s id = some c ∧ c.done = false ∧ copyEndRoom s c = true ∧ c.failed = some (k, a))
      (fun s => failCopy s c k a)) ∧
    (∀ c, Gives (.hostAckTimeout id)
      (fun s => copyOf s id = some c ∧ c.done = false ∧ c.failed = none ∧ c.ack = true ∧ copyEndRoom s c = true)
      (fun s => failCopy { s with clock := max s.clock (c.issued + 800000) } c (causeCode .hwlink) c.dst)) ∧
    (∀ c i n, Gives (.collPieceLand id st data)
      (fun s => s.work.colls.find? (fun c => c.id == id) = some c ∧ ringPos s c = some (i, n) ∧ c.read = true ∧
        c.done = false ∧ c.failed = none ∧ st ≠ 2 * n ∧ stepExpected c i n st = true ∧ ringHeld s c = false ∧
        (let left := stepBytes c n st - ((aGet c.staged st).getD []).length
         left ≠ 0 ∧ data.length = min 4096 left))
      (fun s => updColl s id fun x => { x with staged := aSet x.staged st ((aGet c.staged st).getD [] ++ data) })) ∧
    (∀ c i n,
      let eff (s : State) : State :=
        if st = 2 * n then collStart s c i n
        else if st < n then sumStep s c i n st ((aGet c.staged st).getD [])
        else roundStep s c i n (st % n) ((aGet c.staged st).getD [])
      Gives (.reduceTeamDispatch id st core)
        (fun s => s.work.colls.find? (fun c => c.id == id) = some c ∧ ringPos s c = some (i, n) ∧ c.read = true ∧
          c.done = false ∧ c.failed = none ∧ stepExpected c i n st = true ∧ st ∉ c.stepsDone ∧
          (st = 2 * n ∨ ((aGet c.staged st).getD []).length = stepBytes c n st) ∧ reduceFits s core = true ∧
          (coreOf s core).hot = false ∧ chunkRead c i n st = true ∧ (∀ k ∈ stepHomes s c i n st, homeWaits s k = false) ∧
          (∀ k ∈ newSends (eff s) c, k ∈ c.credit) ∧ (newSends (eff s) c ≠ [] → mayCharge s c.ctx 3 = true))
        (fun s => updColl (eff s) id fun x => { x with stepsDone := st :: x.stepsDone })) ∧
    (∀ c i n, Gives (.collRankCompletion id)
      (fun s => s.work.colls.find? (fun c => c.id == id) = some c ∧ ringPos s c = some (i, n) ∧ c.read = true ∧
        c.done = false ∧ c.failed = none ∧ (∀ x ∈ stepsOf c i n, x ∈ c.stepsDone) ∧ (∀ x ∈ c.sent, x.1 ∈ c.acked) ∧
        counterWaits s c.ctx c.ctr = false ∧ spoilWaits s c i n = false)
      (fun s => tellNode (addAt (updColl (spoilSources s c i n) id fun x => { x with done := true }) c.ctx c.ctr) c.ctx c.node
        none))

/-- R288, R323 to R331: an entry leaves its core and arrives at the target, joining the censuses that have been there, and
its handle is written; a census visits a core, whose matching entries are answered by responders, one at a time per entry,
or, where their asker is gone, counted as faults; reports, late ones and those of peers among them, are combined, a peer's
that comes too late or is missing as a fault; with the last of them the asker's two entries are filled; a closed census
leaves every ANS of a core that acknowledges it, and with the last acknowledgement the slot is free. The model's own
choices in it: log entries 27, 28 and 39. -/
def Obligations.CensusEvents : Prop :=
  ∀ (id cid core pb tid dev : Nat),
    (∀ m o e i, Gives (.dirmoveDeparture id)
      (fun s => moveOf s id = some m ∧ moveOp s id = some o ∧ handleEnt s m.ctx m.handle = some e ∧ m.left = false ∧
        m.toEnt = some i ∧ behindDir s o = false ∧ moveHeld s e = false)
      (fun s => updCen (setDir s e.freed) fun c => { c with moves := c.moves.map fun x => if x.id = id then
        { m with left := true, fromCore := e.core, key := e.key, dens := e.dens, ans := e.ans, more := e.more } else x })) ∧
    (∀ m o i, Gives (.dirmoveArrival id)
      (fun s => moveOf s id = some m ∧ moveOp s id = some o ∧ m.left = true ∧ m.toEnt = some i)
      (fun s =>
        let e : DirEnt := { dirOf s m.toCore i with
          v := true, mov := false, ctx := m.ctx, key := m.key, loc := m.loc, dens := m.dens, run := false
          ans := m.ans.filter (isOpenAt s m.toCore), more := m.more.filter (isOpenAt s m.toCore) }
        let s1 := updCen (setDir s e) fun c => { c with moves := c.moves.filter fun x => x.id != m.id }
        let s2 := ((coreOf s1 m.toCore).census.map fun p => p.1).foldl (fun s c => joinLate s m.toCore i c) s1
        endOp (writeNow s2 o [.s (moveDst o) (handleOf e)]) o)) ∧
    (∀ c, Gives (.censusVisit cid core)
      (fun s => censusOf s cid = some c ∧ c.ready = true ∧ c.done = false ∧ core ∉ c.visited ∧ core < 768 ∧
        (coreOf s core).census.length < 512)
      (fun s => visit s c core)) ∧
    (∀ c c1, Gives (.censusVisit cid core)
      (fun s => censusOf s cid = some c ∧ c.ready = false ∧ censusDesc s c = .ok (some c1) ∧ c.done = false ∧
        core ∉ c.visited ∧ core < 768 ∧ (coreOf s core).census.length < 512)
      (fun s => visit s c1 core)) ∧
    (∀ s ent late c asker, nextResp s core = some (cid, ent, late) → censusOf s cid = some c →
      (askerOf s c).1 = some asker → ((heldOn s core).add (respNeed c.bresp) pb).ok = true → pb < 8 →
      (coreOf s core).hot = false →
      ∃ s' t g, exec (.responderPlacement core pb) s = .next s' ∧ s'.work.teams = s.work.teams ++ [t] ∧ t.core = core ∧
        t.ctx = c.ctx ∧ t.groups = [g] ∧ g.bud = 8 * c.bresp ∧ g.r.pc = c.entry ∧ g.r.em = -1 ∧
        vget g.r.s 0 = (dirOf s core ent).key ∧ vget g.r.s 1 = (dirOf s core ent).loc ∧ vget g.r.s 2 = c.arg ∧
        vget g.r.s 3 = (dirOf s core ent).dens.setWidth 64 ∧ vget g.r.s 4 = handleOf (dirOf s core ent) ∧
        vget g.r.s 5 = c.ident) ∧
    (∀ ent late c, Gives (.responderPlacement core pb)
      (fun s => nextResp s core = some (cid, ent, late) ∧ censusOf s cid = some c ∧ c.peer ≠ none ∧ (askerOf s c).1 = none)
      (fun s => countResp (updCore s core fun k => { k with respQ := k.respQ.erase (cid, ent, late) }) core ent cid late
        fun c => ⟨censusUnit c.oper, 0, 1, causeCode .respbad⟩)) ∧
    (∀ t r, Gives (.responderEnd tid)
      (fun s => teamOf s tid = some t ∧ t.resp = some r ∧ (t.ended = true ∨ ∃ k, t.halt = .service k) ∧
        (∀ o ∈ s.work.ops, o.tid ≠ tid) ∧ sporHas s t.core tid = false)
      (fun s => endResp s t r)) ∧
    (∀ c p, Gives (.censusCoreReport cid core none)
      (fun s => censusOf s cid = some c ∧ c.done = false ∧ core ∉ c.reported ∧ aGet c.cores core = some (0, p) ∧
        ∀ m ∈ s.cen.moves, m.fromCore = core → cid ∉ m.waits)
      (fun s => coreReport s cid p fun c => { c with reported := core :: c.reported })) ∧
    (∀ c x, Gives (.censusCoreReport cid core none)
      (fun s => censusOf s cid = some c ∧ c.done = false ∧ c.lates.find? (fun x => x.1 == core) = some x ∧
        (core ∈ c.reported ∨ ∃ m ∈ s.cen.moves, m.fromCore = core ∧ cid ∈ m.waits))
      (fun s => coreReport s cid x.2 fun c => { c with lates := c.lates.erase x, late := c.late - 1 })) ∧
    (∀ c r, Gives (.censusCoreReport cid core (some r))
      (fun s => censusOf s cid = some c ∧ c.done = false ∧ r.dev ∈ c.peers ∧ tooLate s c r.dev = false)
      (fun s => atRoot s cid ⟨r.value, r.answers, r.faults, BitVec.ofNat 9 r.cause⟩
        fun c => { c with peers := c.peers.filter (· != r.dev), heard := some s.clock })) ∧
    (∀ c r, Gives (.censusCoreReport cid core (some r))
      (fun s => censusOf s cid = some c ∧ c.done = false ∧ r.dev ∈ c.peers ∧ tooLate s c r.dev = true)
      (fun s => deviceLost s cid r.dev)) ∧
    (∀ c t, Gives (.censusDeviceLost cid dev)
      (fun s => censusOf s cid = some c ∧ c.done = false ∧ dev ∈ c.peers ∧ dev ∉ s.fab.lost ∧ c.heard = some t)
      (fun s => deviceLost { s with clock := max s.clock (t + 800000) } cid dev)) ∧
    (∀ c, Gives (.censusDeviceLost cid dev)
      (fun s => censusOf s cid = some c ∧ c.done = false ∧ dev ∈ c.peers ∧ dev ∈ s.fab.lost)
      (fun s => deviceLost s cid dev)) ∧
    (∀ c, Gives (.censusRootCompletion cid)
      (fun s => censusOf s cid = some c ∧ c.done = false ∧ c.ready = true ∧ c.reported.length = 768 ∧ c.late = 0 ∧
        c.peers = [])
      (fun s => updCensus (fillCensus s c c.total) cid fun c => { c with done := true })) ∧
    (∀ c k, Gives (.censusRootCompletion cid)
      (fun s => censusOf s cid = some c ∧ c.done = false ∧ c.ready = false ∧ censusDesc s c = .error k)
      (fun s => freeCensus (fillCensus s c ⟨censusUnit c.oper, 0, 0, k⟩) c)) ∧
    (∀ c, Gives (.censusCloseAck cid core)
      (fun s => censusOf s cid = some c ∧ closeSent c = true ∧ core ∉ c.closed ∧ core < 768 ∧
        ∀ m ∈ s.cen.moves, m.left = true → m.toCore = core → m.ctx ≠ c.ctx)
      (fun s =>
        let s1 := updCen (updCore s core fun k => { k with census := k.census.filter fun p => p.1 != cid }) fun x =>
          { x with dir := x.dir.map fun e => if e.core = core then
            { e with ans := e.ans.filter (· != cid), more := e.more.filter (· != cid) } else e }
        let s2 := updCensus s1 cid fun c => { c with closed := core :: c.closed }
        if c.closed.length + 1 = 768 ∧ c.late = 0 then freeCensus s2 c else s2))

/-- R334, R341, R342, R348 to R355, R364 to R369: a posted command is checked, and accepted or rejected with its cause; it
starts, completes when both threads have ended, and aborts when its `wq` is left with entries, when its threads wait for
ever, or when a row is held or waited for over 4 µs; the `dq` entries of a bank fill in their order; a held row that is
not locked is let go, with its last access or when its slice ends. The model's own choices in it: log entries 29 and 30.
-/
def Obligations.RhizoidEvents : Prop :=
  ∀ (id ch bank : Nat),
    (∀ c k, Gives (.nmCommandCheck id)
      (fun s => s.work.nmPosted.find? (fun c => c.id == id) = some c ∧ relPending s c.owner c.id = false ∧ c.gather = none ∧
        runKeys s c.ctx c.descAt.toNat 128 = .error k)
      (fun s => rejectNm s c k)) ∧
    (∀ c ks d l, Gives (.nmCommandCheck id)
      (fun s => s.work.nmPosted.find? (fun c => c.id == id) = some c ∧ relPending s c.owner c.id = false ∧ c.gather = none ∧
        runKeys s c.ctx c.descAt.toNat 128 = .ok ks ∧ d = nmDescOf (runBytes s c.ctx c.descAt.toNat 128) ∧
        (∀ k ∈ ks ++ (if d.ok then (runKeys s c.ctx d.img.toNat d.ilen).toOption.getD [] else []), homeWaits s k = false) ∧
        ((d.wbase.head?).bind fun a => nPage s c.ctx a.toNat) = some l ∧ (unitOf s (channelOf s l.frame)).offline = false ∧
        (unitOf s (channelOf s l.frame)).queue.length < 16 ∧ nmCause s c.ctx d = none)
      (fun s => endCopyOp (acceptNm s (resolveNm s c d (channelOf s l.frame))) c.op)) ∧
    (∀ c r, Gives (.nmCommandStart ch)
      (fun s => (unitOf s ch).run = none ∧ (unitOf s ch).queue = c :: r ∧ (unitOf s ch).offline = false ∧
        mayCharge s c.ctx 2 = true)
      (fun s => setUnit s { unitOf s ch with queue := r, run := some (startZ c s.clock) })) ∧
    (∀ z, Gives (.nmCommandCompletion ch)
      (fun s => (unitOf s ch).run = some z ∧ z.cmd.gather = none ∧ z.stop = none ∧ z.endA = true ∧ z.endE = true ∧
        z.wq = [] ∧ endWaits s z.cmd = false)
      (fun s => endRun s ch z ⟨0, 0, false, 0, 0⟩)) ∧
    (∀ s z, (unitOf s ch).run = some z → z.cmd.gather = none → z.stop = none → z.endA = true → z.endE = true → z.wq ≠ [] →
      ∃ pc thr, exec (.nmCommandCompletion ch) s = .next (abortRun (bump s) ch (causeCode .zqleft) pc thr 0)) ∧
    (∀ z, Gives (.zqdeadDetect ch)
      (fun s => liveRun s ch = some z ∧ zaWaits s ch z = true ∧ z.endE = true)
      (fun s => abortRun (bump s) ch (causeCode .zqdead) (BitVec.ofInt 12 z.pcA) false 0)) ∧
    (∀ z, Gives (.zqdeadDetect ch)
      (fun s => liveRun s ch = some z ∧ zeWaits z = true ∧ z.endA = true)
      (fun s => abortRun (bump s) ch (causeCode .zqdead) (BitVec.ofInt 12 z.pcE) true 0)) ∧
    (∀ s z k r, liveRun s ch = some z → z.locks = k :: r → ∃ pc thr, exec (.lockHoldTimeout ch) s =
      .next (abortRun (bump { s with clock := max s.clock (k.since + 3201) }) ch (causeCode .zlktime) pc thr k.base)) ∧
    (∀ z base since, Gives (.lockWaitTimeout ch)
      (fun s => liveRun s ch = some z ∧ z.lockWait = some (base, since))
      (fun s => abortRun { s with clock := max s.clock (since + 3200) } ch (causeCode .zlktime) (BitVec.ofInt 12 z.pcA) false
        base)) ∧
    (∀ z row since, Gives (.holdSliceExpiry ch bank)
      (fun s => (unitOf s ch).run = some z ∧ aGet (unitOf s ch).openRows bank = some row ∧
        aGet (unitOf s ch).slices bank = some since ∧ ∀ k ∈ z.locks, k.row ≠ row)
      (fun s => closeBank { s with clock := max s.clock (since + 204) } ch bank)) ∧
    (∀ z n d, Gives (.dqEntryFilled (32 * ch + bank))
      (fun s => bank < 32 ∧ liveRun s ch = some z ∧
        z.dq.findIdx? (fun d => d.data.isNone && (keyBanks s d.key 64).contains bank) = some n ∧ z.dq[n]? = some d ∧
        rowPending s d.key = false ∧ rowPending s (d.key + 63) = false ∧ unitServed s d.key 64 = true ∧
        rowMarked s (keyPa d.key) = false ∧ rowMarked s (keyPa (d.key + 63)) = false)
      (fun s =>
        let z' := { z with dq := z.dq.set n { d with data := some (memGetN s.mem d.key 64) } }
        (keyBanks s d.key 64).foldl (fun s b => match z'.loads s b with
          | [] => closeBank s ch b
          | e :: _ => if aGet (unitOf s ch).openRows b = some (rowId s (keyPa e.key)) then s
            else openBank (closeBank s ch b) ch b (rowId s (keyPa e.key))) (setRun s ch z'))) ∧
    (∀ z n d, Gives (.dqEntryFilled (32 * ch + bank))
      (fun s => bank < 32 ∧ liveRun s ch = some z ∧
        z.dq.findIdx? (fun d => d.data.isNone && (keyBanks s d.key 64).contains bank) = some n ∧ z.dq[n]? = some d ∧
        rowPending s d.key = false ∧ rowPending s (d.key + 63) = false ∧ unitServed s d.key 64 = true ∧
        (rowMarked s (keyPa d.key) = true ∨ rowMarked s (keyPa (d.key + 63)) = true))
      (fun s => abortRun s ch (causeCode .zparity) (BitVec.ofInt 12 d.pc) false (rowBase (keyPa d.key))))

/-- R376 to R387: each command of a queue is enqueued at its datagram and carried out at the head of its queue: ARM arms
its nodes, WAITC completes by its counter, PREEMPT drains its context, whose bins are then flushed and whose grids are
saved in its save area, or which its deadline resets; RESUME lets the saved grids go on whose records fit, and admits what
waits; KILL resets. A node is READY when its waits are done, runs, and is DONE when its work is, with a wait completed on
bit 63 with its counter poisoned. The model's own choices in it: log entries 13, 31 and 32. -/
def Obligations.QueueAndGraphEvents : Prop :=
  ∀ (ctx q n first count us : Nat) (k : KdpHdr) (a v : BitVec 64),
    Gives (.launch (.arrive k) a) (fun s => ServedOwner s k 0x20 ∧ k.bytes = 8)
      (fun s => countLaunch k.ctx.toNat
        (enqueue s k (.launch a (((ctxOf s k.ctx.toNat).map fun c => c.launches).getD 0)))) ∧
    Gives (.arm (.arrive k) first count) (fun s => ServedOwner s k 0x21) (fun s => enqueue s k (.arm first count)) ∧
    Gives (.waitc (.arrive k) a v) (fun s => ServedOwner s k 0x22) (fun s => enqueue s k (.waitc a v)) ∧
    Gives (.preempt (.arrive k) us) (fun s => ServedOwner s k 0x23 ∧ (us = 0 ∨ 100 ≤ us ∧ us ≤ 100000))
      (fun s => enqueue s k (.preempt us)) ∧
    Gives (.preempt (.arrive k) us) (fun s => ServedOwner s k 0x23 ∧ us ≠ 0 ∧ (us < 100 ∨ 100000 < us))
      (fun s => reply s k 0x203 []) ∧
    Gives (.resume (.arrive k)) (fun s => ServedOwner s k 0x24 ∧ k.bytes = 0) (fun s => enqueue s k .resume) ∧
    Gives (.kill (.arrive k)) (fun s => ServedOwner s k 0x25 ∧ k.bytes = 0) (fun s => enqueue s k .kill) ∧
    (∀ c l f m slots, Gives (.arm (.start ctx q) first count)
      (fun s => queueHead s ctx q = some c ∧ c.kind = .arm f m ∧ (ctxOf s c.ctx).map (fun x => x.nodes) = some slots ∧
        f + m ≤ slots ∧ armWaits s c.ctx f m = false ∧
        allNodes ((List.range m).map fun i => armNode s c.ctx (f + i)) = some l)
      (fun s => finishCmd (putNodes s l) c.host c.seq 0)) ∧
    (∀ c w x, Gives (.waitc (.start ctx q) a v)
      (fun s => queueHead s ctx q = some c ∧ c.kind = .waitc w x ∧
        waitSees s c.ctx w (BitVec.ofNat 64 (x.toNat % 2 ^ 63)) = some false)
      (fun s => finishCmd s c.host c.seq 0)) ∧
    (∀ c w x, Gives (.waitc (.start ctx q) a v)
      (fun s => queueHead s ctx q = some c ∧ c.kind = .waitc w x ∧
        waitSees s c.ctx w (BitVec.ofNat 64 (x.toNat % 2 ^ 63)) = some true)
      (fun s => finishCmd s c.host c.seq (causeStatus (causeCode .graphbad)))) ∧
    (∀ c d, Gives (.preempt (.start ctx q) us)
      (fun s => queueHead s ctx q = some c ∧ c.kind = .preempt d ∧ c.started = false ∧ draining s c.ctx = false)
      (fun s => withdraw (updCtx (updCmd s c fun x => { x with started := true }) c.ctx fun x =>
        { x with deadline := if d = 0 then x.deadline else d, drain := some ⟨s.clock, some c.queue⟩ }) c.ctx)) ∧
    (∀ c, Gives (.resume (.start ctx q))
      (fun s => queueHead s ctx q = some c ∧ c.kind = .resume ∧ ∀ g ∈ savedGrids s c.ctx, lrecWaits s c.ctx g.recAddr = false)
      (fun s =>
        let l := savedGrids s c.ctx
        let s1 := l.foldl (fun s1 g => match savedLrec s g with
          | some lr => updGrid s1 g.uid fun x => { x with phase := .dispatch, lr := lr }
          | none => s1) s
        finishCmd (admitWaiting (updCtx s1 c.ctx fun x => { x with saved := false })) c.host c.seq
          (if l.all fun g => (savedLrec s g).isSome then 0 else causeStatus (causeCode .lfit)))) ∧
    (∀ c, Gives (.kill (.start ctx q))
      (fun s => queueHead s ctx q = some c ∧ c.kind = .kill ∧ ((ctxOf s c.ctx).bind fun x => x.drain) = none)
      (fun s => finishCmd (forcedReset s c.ctx (causeCode .ctxkill)) c.host c.seq 0)) ∧
    (∀ c d,
      let l (s : State) : List Grid := s.work.grids.filter fun g => g.ctx == ctx && unended s g
      Gives (.preemptSaved ctx)
        (fun s => ctxOf s ctx = some c ∧ c.drain = some d ∧ drained s ctx = true ∧ s.clock < d.since + 800 * c.deadline ∧
          savedWaits s ctx (l s) c.save.toNat = false)
        (fun s =>
          let s1 := (l s).foldl (fun s g => updGrid s g.uid fun x => { x with phase := .saved })
            (putSaved ctx (l s) c.save.toNat (flushBins s ctx))
          preemptEnds (updCtx s1 ctx fun x => { x with drain := none, saved := true }) ctx d 0)) ∧
    (∀ c d, Gives (.preemptDeadline ctx) (fun s => ctxOf s ctx = some c ∧ c.drain = some d)
      (fun s => preemptEnds (forcedReset { s with clock := max s.clock (d.since + 800 * c.deadline) } ctx
        (causeCode .preemptrst)) ctx d (causeStatus (causeCode .preemptrst)))) ∧
    (∀ x, Gives (.nodeWaitsDone ctx n)
      (fun s => nodeOf s ctx n = some x ∧ x.ctx = ctx ∧ x.st = .waiting ∧ nodesHeld s ctx = false ∧ x.met = [] ∧
        x.bad = false ∧ ∀ w ∈ x.waits, waitSees s ctx w.1 w.2.1 = some false)
      (fun s => updNode s ctx n fun k => { k with met := List.range x.waits.length, st := .ready })) ∧
    (∀ s x w, nodeOf s ctx n = some x → x.ctx = ctx → x.st = .waiting → nodesHeld s ctx = false → x.met = [] →
      w ∈ x.waits → waitSees s ctx w.1 w.2.1 = some true → recordWaits s x = false →
      exec (.nodeWaitsDone ctx n) s = .next (poisonNode (updNode s ctx n fun k => { k with st := .done }) (lookNode s x))) ∧
    (∀ x, Gives (.nodeStart ctx n)
      (fun s => nodeOf s ctx n = some x ∧ x.st = .ready ∧ x.result = none ∧ x.ctx = ctx ∧ nodesHeld s ctx = false ∧ x.kind = 1)
      (fun s => bumpId (postNm (nodeRuns s x) (newNm s.nextId ctx x.csc none none (some x.n) none x.payload)))) ∧
    (∀ x r, Gives (.nodeCompletion ctx n)
      (fun s => nodeOf s ctx n = some x ∧ x.result = some r ∧ x.st = .running ∧ x.kind ≠ 4)
      (fun s => updNode s ctx n fun x => { x with st := .done, result := none })) ∧
    (∀ x, Gives (.nodeCompletion ctx n)
      (fun s => nodeOf s ctx n = some x ∧ x.result = some none ∧ x.st = .running ∧ x.kind = 4 ∧
        counterWaits s ctx x.cpl = false)
      (fun s => addAt (updNode s ctx n fun x => { x with st := .done, result := none }) ctx x.cpl))

/-- R362, R382, R403, R409 to R416, R419 to R425, R429: RDMA reaches the pages that its key reaches, and an unknown key is
answered with a NAK; the lease is claimed when it is free or expired, renewed, handed over and released by its holder; the
owner's commands do what
R413 gives them, and another host's are answered NOTOWNER, a stale TERM's STALETERM, an unknown context's BADCTX;
attestation and telemetry answer any host; events are acknowledged and sent again; service firmware acts through its
gateway. The model's own choices in it: log entries 14, 34, 35 and 36. -/
def Obligations.HostEvents : Prop :=
  ∀ (k : KdpHdr) (host key : BitVec 32) (va : BitVec 64) (data nonce : List Byte) (n w ctx code : Nat) (rates : List Nat)
    (p : CtxPayload) (ch : CtxChoice) (mp : MapPayload) (mc : MapChoice) (hw : HwinPayload) (dbg stp on : Bool)
    (ranks : List Nat),
    (let q : Rdma := ⟨host, key, va, data.length, some data, 0, []⟩
     ∀ c ks r,
      let m := min packetBytes (data.length - r.got)
      let sent (s : State) : Prop := portAnswers s = true ∧ keyCtx s host key = some (c, true) ∧ (rdmaOf s q).getD q = r ∧
        (rdmaOf s q = none → (rdmaKeys s c.num va.toNat data.length true false).isSome = true)
      Gives (.rdmaWrite host key va data)
        (fun s => sent s ∧ rdmaKeys s c.num (va.toNat + r.got) m true false = some ks ∧ (∀ x ∈ ks, homeWaits s x = false) ∧
          mayCharge s c.num 5 = true)
        (fun s =>
          let s1 := charge { s with mem := memSetCells s.mem (ks.zip (data.drop r.got)) } c.num 5 m
          if r.got + m = data.length then endRdma s1 q else putRdma s1 { r with got := r.got + m, waits := [] }) ∧
      Gives (.rdmaWrite host key va data)
        (fun s => sent s ∧ rdmaKeys s c.num (va.toNat + r.got) m true false = some ks ∧ ∃ x ∈ ks, homeWaits s x = true)
        (fun s => putRdma s { r with waits := ks.filter (homeWaits s) }) ∧
      Gives (.rdmaWrite host key va data)
        (fun s => portAnswers s = true ∧ keyCtx s host key = some (c, true) ∧ rdmaOf s q = none ∧
          rdmaKeys s c.num va.toNat data.length true false = none)
        (fun s => nak (endRdma s q) host)) ∧
    Gives (.rdmaWrite host key va data) (fun s => portAnswers s = true ∧ ∀ c, keyCtx s host key ≠ some (c, true))
      (fun s => nak s host) ∧
    (let q : Rdma := ⟨host, key, va, n, none, 0, []⟩
     ∀ c own ks r,
      let m := min packetBytes (n - r.got)
      let sent (s : State) : Prop := portAnswers s = true ∧ keyCtx s host key = some (c, own) ∧ (rdmaOf s q).getD q = r ∧
        (rdmaOf s q = none → (rdmaKeys s c.num va.toNat n own true).isSome = true)
      Gives (.rdmaRead host key va n)
        (fun s => sent s ∧ rdmaKeys s c.num (va.toNat + r.got) m own true = some ks ∧ (∀ x ∈ ks, homeWaits s x = false) ∧
          mayCharge s c.num 5 = true)
        (fun s =>
          let s1 := charge (updHost s fun h => { h with out := (host, ks.map (memGet s.mem)) :: h.out }) c.num 5 m
          if r.got + m = n then endRdma s1 q else putRdma s1 { r with got := r.got + m, waits := [] }) ∧
      Gives (.rdmaRead host key va n)
        (fun s => sent s ∧ rdmaKeys s c.num (va.toNat + r.got) m own true = some ks ∧ ∃ x ∈ ks, homeWaits s x = true)
        (fun s => putRdma s { r with waits := ks.filter (homeWaits s) }) ∧
      Gives (.rdmaRead host key va n)
        (fun s => portAnswers s = true ∧ keyCtx s host key = some (c, own) ∧ rdmaOf s q = none ∧
          rdmaKeys s c.num va.toNat n own true = none)
        (fun s => nak (endRdma s q) host)) ∧
    Gives (.rdmaRead host key va n) (fun s => portAnswers s = true ∧ keyCtx s host key = none) (fun s => nak s host) ∧
    Gives (.claim k)
      (fun s => Served s k 1 ∧ k.bytes = 0 ∧ (s.host.lease.owner = 0 ∨ s.host.lease.expiry ≤ nowNs s))
      (fun s => deliverKept (reply (setLease s
        { owner := k.host, term := s.host.lease.term + 1, expiry := nowNs s + 2000000000 }) k 0 []) k.host) ∧
    Gives (.claim k)
      (fun s => Served s k 1 ∧ k.bytes = 0 ∧ s.host.lease.owner ≠ 0 ∧ nowNs s < s.host.lease.expiry)
      (fun s => reply s k 0x201 (leaseBytes s.host.lease)) ∧
    Gives (.renew k) (fun s => Served s k 2 ∧ k.bytes = 0 ∧ leaseHeld s k = true)
      (fun s => reply (updHost s fun h => { h with lease := { h.lease with expiry := nowNs s + 2000000000 } })
        k 0 []) ∧
    Gives (.handover k host true) (fun s => Served s k 3 ∧ k.bytes = 4 ∧ leaseHeld s k = true ∧ host ≠ 0)
      (fun s => reply (setLease s { owner := host, term := s.host.lease.term + 1, expiry := nowNs s + 2000000000 })
        k 0 []) ∧
    Gives (.release k) (fun s => Served s k 4 ∧ k.bytes = 0 ∧ leaseHeld s k = true)
      (fun s => reply (setLease s { s.host.lease with owner := 0 }) k 0 []) ∧
    Gives .leaseExpiry (fun s => s.host.lease.owner ≠ 0 ∧ nowNs s < s.host.lease.expiry)
      (fun s => { s with clock := (s.host.lease.expiry * 4 + 4) / 5 }) ∧
    (∀ x ∈ [(0x11, Instr.ctxdestroy k), (0x12, .map k mp mc), (0x13, .unmap k va), (0x14, .hwin k hw), (0x15, .hwindel k n),
        (0x16, .comm k n ranks), (0x17, .debug k dbg stp), (0x18, .budget k rates)], ∀ s, Served s k x.1 →
      (k.term ≠ s.host.lease.term → exec x.2 s = .next (reply s k 0x202 [])) ∧
      (k.term = s.host.lease.term → k.host ≠ s.host.lease.owner → exec x.2 s = .next (reply s k 0x201 [])) ∧
      (k.host = s.host.lease.owner → k.term = s.host.lease.term → ctxOf s k.ctx.toNat = none →
        exec x.2 s = .next (reply s k 0x204 []))) ∧
    (∀ e ∈ [Instr.claim k, .renew k, .handover k host on, .release k, .ctxcreate k p ch, .ctxdestroy k, .map k mp mc,
        .unmap k va, .hwin k hw, .hwindel k n, .comm k n ranks, .debug k dbg stp, .budget k rates, .pcap k w],
      Gives e (fun s => portAnswers s = true ∧ kdpDropped k 0 = false ∧ kdpFull s = false) (fun s => reply s k 0x206 []) ∧
      (∀ r, Gives e (fun s => portAnswers s = true ∧ kdpDropped k 0 = false ∧ kdpFull s = true ∧ keptReply s k.host k.seq = some r)
        (fun s => sendReply s r)) ∧
      Gives e (fun s => portAnswers s = false ∨ kdpDropped k 0 = true) (fun s => s)) ∧
    Gives (.ctxcreate k p ch)
      (fun s => Served s k 0x10 ∧ k.host = s.host.lease.owner ∧ k.term = s.host.lease.term ∧ ctxPayloadOk p = true ∧
        ctxOf s k.ctx.toNat = none ∧ ch.room = true ∧ slotsUsed s + p.nodes ≤ 65536 ∧ ctxChoiceOk s ch = true)
      (fun s => reply { s with
        ctl := { s.ctl with ctxs := s.ctl.ctxs ++ [newCtx k.ctx.toNat p ch] }
        mem := memClear s.mem (ownKey s ch.root) 131072 } k 0
        (bytesOfNat 4 ch.ownerKey.toNat ++ bytesOfNat 4 ch.sharedKey.toNat ++ bytesOfNat 8 ch.nodeBase.toNat)) ∧
    Gives (.ctxdestroy k) (fun s => ServedOwner s k 0x11 ∧ k.bytes = 0)
      (fun s => reply (freeCtx (forcedReset s k.ctx.toNat (causeCode .ctxkill)) k.ctx.toNat) k 0 []) ∧
    (∀ c s2 st b, Gives (.map k mp mc)
      (fun s => ServedOwner s k 0x12 ∧ ctxOf s k.ctx.toNat = some c ∧ mapPayloadOk s mp = true ∧ mc.found = true ∧
        unmapWaits s c mp.va.toNat (2 ^ leafBits mp.level) = false ∧ frameOk s mp c.num mc.frame = true ∧
        tablesOk s mc.tables = true ∧ mapLeaf s c mp mc = some (s2, st, b))
      (fun _ => reply s2 k st b)) ∧
    (∀ c l a, Gives (.unmap k va)
      (fun s => ServedOwner s k 0x13 ∧ ctxOf s k.ctx.toNat = some c ∧ va.toNat < 2 ^ 56 ∧
        entryAt s va.toNat 4 c.root = some (l, a) ∧
        unmapWaits s c (va.toNat / 2 ^ leafBits l * 2 ^ leafBits l) (2 ^ leafBits l) = false)
      (fun s =>
        let b := va.toNat / 2 ^ leafBits l * 2 ^ leafBits l
        let s1 := updCtx { s with mem := memPut s.mem (ownKey s a) 16 0 } c.num fun c =>
          { c with maps := c.maps.filter fun m => m.1 != b || m.2 != l }
        reply (dropPages s1 c.num b (2 ^ leafBits l)) k 0 [])) ∧
    Gives (.hwin k hw)
      (fun s => ServedOwner s k 0x14 ∧ hw.num ≤ 65535 ∧ ∀ r, hw.ring = some r → 64 ≤ r.2)
      (fun s => reply (updHost s fun h => { h with
        wins := h.wins.filter (fun w => !(w.ctx == k.ctx.toNat && w.p.num == hw.num)) ++ [⟨k.ctx.toNat, hw⟩] })
        k 0 []) ∧
    Gives (.hwindel k n) (fun s => ServedOwner s k 0x15 ∧ n ≤ 65535)
      (fun s => reply (updHost s fun h => { h with
        wins := h.wins.filter fun w => !(w.ctx == k.ctx.toNat && w.p.num == n) }) k 0 []) ∧
    Gives (.comm k n ranks)
      (fun s => ServedOwner s k 0x16 ∧ 1 ≤ ranks.length ∧ ranks.length ≤ 1024 ∧ (∀ d ∈ ranks, d < 1024) ∧
        (let pod := ((ctxOf s k.ctx.toNat).map fun c => c.pod).getD []
         pod = [] ∨ ∀ d ∈ ranks, d ∈ pod))
      (fun s => reply (updHost s fun h => { h with
        comms := h.comms.filter (fun c => !(c.ctx == k.ctx.toNat && c.num == n)) ++ [⟨k.ctx.toNat, n, ranks⟩] })
        k 0 []) ∧
    Gives (.debug k dbg stp) (fun s => ServedOwner s k 0x17)
      (fun s => reply (updCtx s k.ctx.toNat fun c => { c with dbg := dbg, stp := stp }) k 0 []) ∧
    Gives (.budget k rates) (fun s => ServedOwner s k 0x18 ∧ rates.length = 6)
      (fun s => reply (updCtx s k.ctx.toNat fun c => { c with rates := vgen fun i => rates.getD i 0 }) k 0 []) ∧
    Gives (.pcap k w)
      (fun s => Served s k 0x19 ∧ k.host = s.host.lease.owner ∧ k.term = s.host.lease.term ∧ 2000 ≤ w ∧ w ≤ 4200)
      (fun s => reply (updPow s fun p => { p with cap := w }) k 0 []) ∧
    Gives (.attest k nonce)
      (fun s => ServedAlways s k 0x30 ∧ k.bytes = 32 ∧ nonce.length = 32 ∧ s.firm.leaf < 2 ^ 20)
      (fun s =>
        let r := nonce ++ fitBytes 16 Config.serial ++ fitBytes 32 (Config.shake256 s.firm.log) ++
          bytesOfNat 8 s.host.lease.term.toNat ++ bytesOfNat 4 s.host.lease.owner.toNat ++ bytesOfNat 4 s.firm.leaf
        reply { s with firm := { s.firm with leaf := s.firm.leaf + 1 } } k 0
          (r ++ bytesOfNat 4 s.firm.leaf ++ fitBytes 2816 (Config.xmssSign Config.attestKey s.firm.leaf r))) ∧
    Gives (.attest k nonce)
      (fun s => ServedAlways s k 0x30 ∧ k.bytes = 32 ∧ nonce.length = 32 ∧ 2 ^ 20 ≤ s.firm.leaf)
      (fun s => reply s k 0x206 []) ∧
    Gives (.telem k) (fun s => ServedAlways s k 0x31) (fun s => reply (bump s) k 0 (telemPages s)) ∧
    (∀ s, (telemPages s).length ≤ 8192 ∧ (s.firm.failedParts = [] → ∃ b, telemPages s =
      BitVec.ofNat 8 s.firm.step :: (if s.firm.failed then 1 else 0) :: b ∧ (s.firm.step < 4 → b = []))) ∧
    Gives (.eventAck k) (fun s => portAnswers s = true ∧ kdpDropped k 3 = false ∧ kdpFull s = true)
      (fun s => updHost s fun h => { h with
        events := h.events.filter fun e => !(e.host == some k.host && e.seq == k.seq.toNat) }) ∧
    (∀ e, let now (s : State) := max s.clock (e.last + 800000)
      Gives (.eventResend n)
        (fun s => s.host.events.find? (fun e => e.seq == n && e.host.isSome) = some e ∧ s.firm.tripped = false ∧
          now s < e.born + 800000000)
        (fun s => sendOut (updHost { s with clock := now s } fun h => { h with
          events := s.host.events.map fun x => if x.seq = n then { x with last := now s } else x }) e) ∧
      Gives (.eventResend n)
        (fun s => s.host.events.find? (fun e => e.seq == n && e.host.isSome) = some e ∧ s.firm.tripped = false ∧
          e.born + 800000000 ≤ now s)
        (fun s => updHost { s with clock := now s } fun h => { h with events := s.host.events.filter fun x => x.seq != n })) ∧
    (let called (s : State) : Prop := serviceRuns s = true ∧ (ctxOf s ctx).isSome = true ∧ leaseLive s = true
     let keys (s : State) (m : Nat) : Option (List Nat) := allSome ((List.range m).map fun i =>
       match xlate s none ctx (va.toNat + i) false false false with
         | .at k _ _ _ => some k
         | .bad _ _ => none)
     (∀ ks, Gives (.gwCtxmem ctx va (some data) n)
       (fun s => called s ∧ gwWriteOk s ctx va.toNat data = true ∧ keys s data.length = some ks ∧ ∀ x ∈ ks, homeWaits s x = false)
       (fun s => { s with mem := memSetCells s.mem (ks.zip data) })) ∧
     Gives (.gwCtxmem ctx va (some data) n)
       (fun s => called s ∧ (gwWriteOk s ctx va.toNat data = false ∨ keys s data.length = none)) (fun s => s) ∧
     Gives (.gwKill ctx code) called (fun s => resetNow s ctx (BitVec.ofNat 9 code)) ∧
     (∀ c, Gives (.gwKill ctx code) (fun s => called s ∧ ctxOf s ctx = some c ∧ c.drain = none)
       (fun s => forcedReset s ctx (BitVec.ofNat 9 code))) ∧
     Gives (.markcfg ctx on) called (fun s => updCtx s ctx fun c => { c with mark := on })) ∧
    Gives (.gwEvent 0x41 data) (fun s => serviceRuns s = true ∧ causeCtx s data = some ctx)
      (fun s => ownerEvent s 0x41 ctx data) ∧
    Gives (.gwEvent code data) (fun s => serviceRuns s = true ∧ (code ≠ 0x41 ∨ causeCtx s data = none)) (fun s => s)

/-- R171, R264, R369, R380, R382, R404, R406, R417, R418, R426 to R431: budgets, heat, droop and power; soft errors and
scrubbing; a step back; peers, ports, messages and requests of peers; power-on, module reset, and the seven steps of
bring-up, each of which ends or fails and names its parts. The model's own choices in it: log entries 15, 36, 37 and 38.
-/
def Obligations.ModuleEvents : Prop :=
  ∀ (core temp isl watts dev pa port kind tid gid src : Nat) (bad : Bool) (site : SoftSite) (failed : List Nat)
    (im : FwImage) (ht : HbmTest),
    (∀ s, s.pow.period ≤ s.clock / 8000 → ∃ s', exec .budgetRefill s = .next s' ∧ s'.clock = (s.clock / 8000 + 1) * 8000 ∧
      s'.pow.period = s.clock / 8000 + 1 ∧ s'.ctl.ctxs = s.ctl.ctxs.map fun c =>
        let n := s.clock / 8000 + 1 - s.pow.period
        { c with buckets := vgen fun k => min (vget c.buckets k + n * vget c.rates k) (2 * vget c.rates k) }) ∧
    (let sampled (s : State) : State :=
       noteTemp (updCore s core fun c => judgeHeat s.clock { c with temp := temp }) core temp
     Gives (.tempSample core temp) (fun s => core < 768 ∧ s.firm.tripped = false ∧ temp < 115) sampled ∧
     Gives (.tempSample core temp) (fun s => core < 768 ∧ s.firm.tripped = false ∧ 115 ≤ temp) (fun s => trip (sampled s)) ∧
     ∀ s, (trip s).firm.tripped = true) ∧
    Gives (.droopEvent isl) (fun _ => isl < 1024) (fun s =>
      let s1 := updPow { s with clock := s.clock + 1 } fun p => { p with stretched := p.stretched + 1 }
      if isl < 768 then updCore s1 isl fun c => judgeHeat (s.clock + 1) { c with droops := c.droops ++ [s.clock + 1] }
      else s1) ∧
    Gives (.thermalStepDown isl) (fun s => isl ∈ s.pow.stepping ∧ 400 < islandMhz s.pow isl)
      (fun s => heatStep s isl 8000 (heatSteps s.pow isl + 1)) ∧
    Gives (.thermalRecover isl) (fun s => heatSteps s.pow isl ≠ 0 ∧ isl ∉ s.pow.stepping)
      (fun s => heatStep s isl 800000 (heatSteps s.pow isl - 1)) ∧
    (∀ s, let l := (watts :: s.pow.samples).take 10
      ∃ s', exec (.powerSample watts) s = .next s' ∧ s'.pow.samples = l ∧
        (s.pow.cap * l.length < l.sum → s'.pow.capping = true ∧
          ((∃ i < 768, 400 < islandMhz s.pow i) →
            s'.pow.lowered = s.pow.lowered + 1 ∧ s'.pow.loweredMem = s.pow.loweredMem) ∧
          ((∀ i < 768, islandMhz s.pow i ≤ 400) → s'.pow.lowered = s.pow.lowered ∧
            ((∃ i < 256, 400 < islandMhz s.pow (768 + i)) → s'.pow.loweredMem = s.pow.loweredMem + 1))) ∧
        (l.sum < s.pow.cap * l.length → s'.pow.capping = false ∧
          (s.pow.loweredMem = 0 → s'.pow.lowered = s.pow.lowered - 1 ∧ s'.pow.loweredMem = 0) ∧
          (0 < s.pow.loweredMem → s'.pow.lowered = s.pow.lowered ∧ s'.pow.loweredMem = s.pow.loweredMem - 1)) ∧
        (l.sum = s.pow.cap * l.length → s'.pow.capping = s.pow.capping)) ∧
    Gives (.patrolScrub dev pa bad) (fun _ => True) (fun s => if bad then markWord s dev pa else s) ∧
    Gives (.softError site true) (fun _ => True)
      (fun s => { s with pow := { s.pow with corrected := s.pow.corrected + 1 } }) ∧
    Gives (.softError site false) (fun _ => True) (fun s => uncorrectable s site) ∧
    (∀ s t g e r, teamOf s tid = some t → groupOf s tid gid = some g → lastEntries g.undo = e :: r → t.halt ≠ .running →
      g.ended = false → (∀ o ∈ s.work.ops, o.tid = tid → o.gid ≠ gid) →
      (∀ x ∈ (coreOf s t.core).wtq, x.tid = tid → x.gid ≠ gid) →
      (∀ x ∈ e :: r, x.kind = 3 → ∀ k f l m, xlate s (some t.core) t.ctx x.target.toNat false false false = .at k f l m →
        homeWaits s k = false ∧ homeWaits s (k + (x.mask.toNat - 1)) = false) →
      exec (.debugStepBack tid gid) s = .next
        (updGroup ((e :: r).foldl (restoreOne t.core t.ctx tid gid) (settle s tid gid (s.clock + 8))) tid gid fun g =>
          { g with r := { g.r with pc := e.pc }, f := { g.f with wait := 0, hdrRun := 0 }
                   undo := g.undo.take (g.undo.length - (r.length + 1)) })) ∧
    (∀ n since, Gives (.peerLostTimeout dev)
      (fun s => dev < 1024 ∧ dev ≠ s.firm.devNum ∧ dev ∉ s.fab.lost ∧
        s.fab.silent.find? (fun x => x.1 == dev) = some (dev, n, since))
      (fun s =>
        let s1 := updFab { s with clock := max s.clock (since + 800000) } fun f => { f with lost := f.lost ++ [dev] }
        let s2 := failLink s1 fun c => peerDev s1 c == some dev
        (s2.cen.open'.map fun c => c.id).foldl (fun s id => deviceLost s id dev) s2)) ∧
    Gives (.peerReturn dev) (fun s => dev ∈ s.fab.lost)
      (fun s => updFab s fun f => { f with lost := f.lost.filter fun d => d != dev }) ∧
    Gives (.portFailure port) (fun s => port < 24 ∧ port ∉ s.fab.portsDown)
      (fun s => updFab s fun f => { f with portsDown := f.portsDown ++ [port] }) ∧
    Gives (.vdmReservedDrop kind) (fun _ => kind = 0 ∨ 8 ≤ kind ∧ kind ≤ 15)
      (fun s => updFab s fun f => { f with vdmDrops := f.vdmDrops + 1 }) ∧
    Gives .ethernetLinkDown (fun s => s.fab.ethUp = true)
      (fun s => failLink (updFab s fun f => { f with ethUp := false }) fun c => c.kind == .toh || c.kind == .fromh) ∧
    (∀ b, Gives (.ualinkRequest src pa (.write b))
      (fun s => s.firm.powered = true ∧ 6 ≤ s.firm.step ∧ s.firm.tripped = false ∧ src < 1024 ∧ src ≠ s.firm.devNum ∧
        1 ≤ b.length ∧ b.length ≤ 256 ∧ pa + b.length ≤ Config.mappable ∧
        ∀ i < b.length, homeWaits s (ownKey s pa + i) = false)
      (fun s => engineStore (hears s src) (ownKey s pa) b)) ∧
    (∀ op wide b c fm, let n := if wide then 8 else 4
      Gives (.ualinkRequest src pa (.atomic op wide b c fm))
        (fun s => s.firm.powered = true ∧ 6 ≤ s.firm.step ∧ s.firm.tripped = false ∧ src < 1024 ∧ src ≠ s.firm.devNum ∧
          pa % n = 0 ∧ pa + n ≤ Config.mappable ∧ ∀ i < n, homeWaits s (ownKey s pa + i) = false)
        (fun s =>
          let r := atomStep op wide (flushIn fm 32) (flushOut fm 32) (memNat s.mem (ownKey s pa) n) b.toNat c.toNat
          engineStore (hears s src) (ownKey s pa) (bytesOfNat n r.1))) ∧
    (∀ s, s.firm.powered = false ∨ s.firm.tripped = true ∨ s.firm.failed = true → ∃ s', exec .powerOn s = .next s' ∧
      s'.firm.powered = true ∧ s'.firm.tripped = false ∧ s'.ctl.ctxs = [] ∧ s'.host.lease.owner = 0 ∧
      (Config.freeBit s.fresh = false → s'.firm.step = 1 ∧ s'.firm.failed = false ∧ s'.firm.failedParts = []) ∧
      (Config.freeBit s.fresh = true → s'.firm.step = 0 ∧ s'.firm.failed = true ∧ s'.firm.failedParts = [(1, 0)])) ∧
    (∀ s, s.firm.powered = true → s.firm.tripped = false → ∃ s', exec .moduleReset s = .next s' ∧ s'.firm.log = [] ∧
      s'.ctl.ctxs = [] ∧ s'.cen.dir = [] ∧ s'.work.teams = [] ∧ s'.host.lease.owner = 0 ∧
      (s'.firm.step = 1 ∧ s'.firm.failed = false ∧ s'.firm.failedParts = [] ∨
        s'.firm.step = 0 ∧ s'.firm.failed = true ∧ s'.firm.failedParts = [(1, 0)])) ∧
    (let digest (i : FwImage) : List Byte := fitBytes 32 (Config.shake256 i.image)
     (∀ s, bringUp s 1 = true → verified im = true → ∃ s', exec (.trustedFwStart im) s = .next s' ∧ s'.firm.step = 2 ∧
       s'.firm.failed = false ∧ s'.firm.log = s.firm.log ++ digest im ∧ s'.fab.ethUp = true) ∧
     Gives (.trustedFwStart im) (fun s => bringUp s 1 = true ∧ verified im = false ∧ s.firm.standby = false)
       (fun s => updFirm s fun f => { f with standby := true }) ∧
     Gives (.trustedFwStart im) (fun s => bringUp s 1 = true ∧ verified im = false ∧ s.firm.standby = true)
       (fun s => updFirm s fun f => { f with failed := true, failedParts := f.failedParts ++ [(2, 0)] }) ∧
     Gives (.hbmTraining ht) (fun s => bringUp s 2 = true ∧ ht.failed = [] ∧ ∀ i ∈ ht.images, verified i = true)
       (fun s => updFirm s fun f => { f with step := 3, log := f.log ++ ht.images.flatMap digest }) ∧
     Gives (.hbmTraining ht) (fun s => bringUp s 2 = true ∧ badStacks ht ≠ [])
       (fun s => updFirm s fun f =>
         { f with failed := true, log := f.log ++ (ht.images.filter verified).flatMap digest
                  failedParts := f.failedParts ++ (badStacks ht).map fun k => (3, k) }) ∧
     (∀ k, k ∈ badStacks ht ↔ k ∈ ht.failed ∨ ∃ i, ht.images[k]? = some i ∧ verified i = false) ∧
     Gives (.serviceFwStart im) (fun s => bringUp s 3 = true ∧ verified im = true)
       (fun s => updFirm s fun f => { f with step := 4, log := f.log ++ digest im }) ∧
     Gives (.serviceFwStart im) (fun s => bringUp s 3 = true ∧ verified im = false)
       (fun s => updFirm s fun f => { f with failed := true, failedParts := f.failedParts ++ [(4, 0)] })) ∧
    (∀ s, bringUp s 4 = true → ∃ s', exec (.coreTest failed) s = .next s' ∧ (∀ i, islandMhz s'.pow i = 800) ∧
      s'.firm = if failed = [] then { s.firm with step := 5 }
        else { s.firm with failed := true, failedParts := s.firm.failedParts ++ failed.map fun k => (5, k) }) ∧
    (∀ s, bringUp s 5 = true → dev < 1024 → (∀ p ∈ failed, p < 24) → ∃ s', exec (.fabricTraining dev failed) s = .next s' ∧
      s'.firm.step = 6 ∧ s'.firm.failed = false ∧ s'.firm.devNum = dev ∧ s'.fab.portsDown = failed ∧
      s'.firm.failedParts = s.firm.failedParts ++ failed.map fun k => (6, k)) ∧
    (∀ s, bringUp s 6 = true → ∃ s', exec .kdpServiceStart s = .next s' ∧ s'.firm.step = 7 ∧ s'.firm.failed = false ∧
      s'.host.lease.owner = 0 ∧ s'.host.lease.term = 0)

/-! ### Issue, traps, steps -/

/-- R25, R49, R143, R145: an instruction issues no sooner than max(DIST, 1) clocks after its group's previous one, than
its group's hold, and than the clock after the last issue of its partition and of those above it; issued at clock u, it
sees a register write from that write's clock on and the value of before until then: of the writes that are pending, which
stand in the order of their clocks, the last one due by u. The model's own choices in it: log entry 17. -/
def Obligations.IssueTiming : Prop :=
  ∀ (i : Iss) (s : State) (t : Team) (g : Group),
    let u := issueU i s t g
    let h := (settled i s t g).r
    let due := (g.i.pend.takeWhile fun w => decide (w.land ≤ u)).map fun w => w.wr
    s.clock ≤ u ∧ g.i.hold ≤ u ∧ (∀ l, g.i.last = some l → l + max i.h.dist 1 ≤ u) ∧
    (∀ q < 8, g.part ≤ q → ∀ l, vget (coreOf s t.core).partLast q = some l → l + 1 ≤ u) ∧
    (g.i.dsts = [] →
      (∀ d < 64, vget h.s d =
        lastOf due (fun w => match w with | .s n x => if n % 64 = d then some x else none | _ => none) (vget g.r.s d)) ∧
      (∀ d < 256, ∀ l < 64, vget (vget h.v d) l =
        lastOf due (fun w => match w with | .v n m x => if n % 256 = d ∧ laneOn m l = true then some (vget x l) else none | _ => none)
          (vget (vget g.r.v d) l)) ∧
      (∀ d < 8, ∀ l < 64, laneOn (vget h.p d) l =
        lastOf due (fun w => match w with | .p n m x => if n % 8 = d ∧ laneOn m l = true then some (laneOn x l) else none | _ => none)
          (laneOn (vget g.r.p d) l)) ∧
      (∀ d < 8, vget h.sp d =
        lastOf due (fun w => match w with | .sp n b => if n % 8 = d then some b else none | _ => none) (vget g.r.sp d)) ∧
      h.em = lastOf due (fun w => match w with | .em x => some x | _ => none) g.r.em) ∧
    (g.i.pend.Pairwise (fun a b => a.key ≤ b.key) →
      due = (g.i.pend.filter fun w => decide (w.land ≤ u)).map (fun w => w.wr) ∧
      ∀ w, (pendIns w g.i.pend).Pairwise (fun a b => a.key ≤ b.key) ∧ ∀ x, x ∈ pendIns w g.i.pend ↔ x = w ∨ x ∈ g.i.pend)

/-- R26, R37, R196, R328, R390 to R398: a word of an unassigned opcode traps ILLOP before any effect. A precise cause of a
group enters its handler at once where the group is its team's only party: the record holds the cause, the pc, the lanes,
`em`, its pending writes done, the address and where to go on; the mode is forward, the flag waits of headers go but at
HDRRUN (R43), nothing else of the group's registers changes, and the next issue is held 16 ck. With other parties it first
halts the team. In the handler it stops the team with DBLFLT and the inner cause; with no handler it stops the team for
service firmware. The model's own choices in it: log entries 18 and 19. -/
def Obligations.TrapEntry : Prop :=
  (∀ w : BitVec 32,
    TrapsWith { row := "UNASSIGNED_OPCODE", h := ⟨formOf w.toNat, distOf w.toNat, false, none⟩ } (.unassignedOpcode w)
      (fun _ _ => True) .illop ∧
    StreamStops (.unassignedOpcode w) noWait (fun _ _ => True) .illop 1) ∧
  ∀ (s : State) (t : Team) (g : Group) (r : Raise), teamOf s t.uid = some t → groupIn t g.gid = some g → t.resp = none →
    toHandler r.cause = true → g.t.pending = none →
    let s' := raisePrecise s t.uid g.gid g.r.pc r
    let tr : TrapRec :=
      { cause := causeCode r.cause, rev := g.e.rev, pc := g.r.pc, mask := r.mask, smask := r.smask
        em := (settleGroup (s.clock + 8) g).r.em
        scause := r.scause, addr := r.addr, rpc := if isSwt (causeCode r.cause) then g.r.pc + 12 else g.r.pc, rep := 0
        skid := 0, info := 0, tape := [] }
    let entered := thentryOf s t.ctx
    (g.t.inHandler = false → entered ≠ 0 → t.halt = .running → t.groups = [g] → t.stream = none →
      groupOf s' t.uid g.gid = some { g with
        r := { g.r with pc := entered }
        f := { g.f with wait := if r.cause = .hdrrun then g.f.wait else 0, hdrRun := 0 }
        i := { g.i with hold := max g.i.hold (s.clock + 16), ready := s.clock }
        t := { g.t with pending := none, tr := tr
                        mode := g.e.rev, inHandler := true, replay := none, skid := 0
                        entry := s.nextId }
        e := { g.e with rev := false } }) ∧
    (g.t.inHandler = false → entered ≠ 0 → t.halt = .running → otherParties t g.gid = true →
      (∃ y, teamOf s' t.uid = some y ∧ y.halt = .settling s.clock) ∧
      groupOf s' t.uid g.gid = some { g with t := { g.t with pending := some (tr, none) } }) ∧
    (g.t.inHandler = true →
      (∃ y, teamOf s' t.uid = some y ∧ y.halt = .service (causeCode .dblflt)) ∧
      groupOf s' t.uid g.gid = some { g with t := { g.t with tr := { g.t.tr with scause := causeCode r.cause } } }) ∧
    (g.t.inHandler = false → entered = 0 →
      (∃ y, teamOf s' t.uid = some y ∧ y.halt = .service (causeCode r.cause)) ∧
      groupOf s' t.uid g.gid = some { g with t := { g.t with tr := tr } })

/-- R8, R26, R146, R196, R239, R333 to R336 and log entries 6 and 33 (the agenda and the turns are the model's): a step
whose item is a party runs the instruction that the bytes at the party's pc decode to, and a word that decoding refuses
raises its cause; a group whose turn has not come waits, and one with a partner issues with it; a step whose item is an
event runs it. After it the device does what it does of itself (`watched`); what would bring a clock before which a group
moves waits (`inTime`). A device that has tripped answers what R427 lets it (`afterTrip`), and nothing else. -/
def Obligations.StepRunsDecoded : Prop :=
  ∀ (s : State) (rest : List Item),
    let a : State := { s with agenda := rest }
    (∀ i, s.agenda = i :: rest → s.firm.tripped = true → afterTrip i = false → step s = .next (watch a)) ∧
    (∀ t g, s.agenda = .party (.group t.uid g.gid) :: rest → s.firm.tripped = false → teamOf s t.uid = some t → groupOf s t.uid g.gid = some g →
      let s0 : State := { a with cur := some (.group t.uid g.gid) }
      (∀ b s1 i, mayIssue t g s.clock = true → fetchIns s0 t g.r.pc.toNat = .bytes b s1 →
        (∀ x, intent a t.uid g.gid = .issue x → turnFree a t.uid g.gid x = true ∧ oldest (partners a t g x) = []) →
          (decodeGroup (rawOfBytes b) = .ok i → step s = watched (exec i s1)) ∧
          (∀ e, decodeGroup (rawOfBytes b) = .error e → step s = watched
            (groupReject (rejectHdr (rawOfBytes b)) (laneWord (rawOfBytes b).w0) (rejectCause e) s1))) ∧
      (∀ x, intent a t.uid g.gid = .issue x → turnFree a t.uid g.gid x = false → step s = .next (watch a)) ∧
      (∀ x h l, intent a t.uid g.gid = .issue x → turnFree a t.uid g.gid x = true → oldest (partners a t g x) = h :: l →
        step s = watched (pairStep t g h.1 a))) ∧
    (∀ t m b s1, s.agenda = .party (.stream t.uid) :: rest →
      let s0 : State := { a with cur := some (.stream t.uid) }
      s.firm.tripped = false → teamOf s t.uid = some t → t.stream = some m → mayStream t m = true → engineTurn a t = true →
      fetchIns s0 t m.pc.toNat = .bytes b s1 →
        (∀ i, decodeStream (rawOfBytes b) = .ok i → step s = watched (inTime a (exec i s1))) ∧
        (∀ e, decodeStream (rawOfBytes b) = .error e → step s = watched (inTime a (streamReject (rejectCause e) s1)))) ∧
    (∀ ch z w i, s.agenda = .party (.zaddr ch) :: rest → s.firm.tripped = false →
      let s0 : State := { a with cur := some (.zaddr ch) }
      liveRun s ch = some z → z.endA = false → zWord z false = some w → decodeZaddr w = .ok i →
        step s = watched (inTime a (exec i s0))) ∧
    (∀ ch z w i, s.agenda = .party (.zarith ch) :: rest → s.firm.tripped = false →
      let s0 : State := { a with cur := some (.zarith ch) }
      liveRun s ch = some z → z.endE = false → zWord z true = some w → decodeZarith w = .ok i →
        step s = watched (inTime a (exec i s0))) ∧
    (∀ e, s.agenda = .event e :: rest → (s.firm.tripped = true → afterTrip (.event e) = true) →
      step s = watched (inTime a (exec e { a with cur := none })))

/-- Words that the spec works out beside R20, R31, R46, R63, R64, R77, R92, R103, R116, R122, R195, R204, R205, R210,
R269, R343, R345 and R353, and what they decode to. -/
def Obligations.DecodeWords : Prop :=
  let base (d : Nat) : Hdr := ⟨.base, d, false, none⟩
  let ext (d : Nat) : Hdr := ⟨.ext, d, false, none⟩
  let long (w0 w1 w2 : Nat) : Option Instr := decodeTableWord 96 (w0 + w1 * 2 ^ 32 + w2 * 2 ^ 64)
  decodeTableWord 32 0x0000095F = some (.clauseHeader 0x009 (some 5) none) ∧
  decodeTableWord 32 0x08100000 = some (.nop (base 1)) ∧
  decodeTableWord 32 0x1036FFFB = some (.brany (base 2) 3 false (-5)) ∧
  decodeTableWord 32 0x0940C414 = some (.sadd (base 1) 3 4 5) ∧
  long 0x49508000 0x56789ABC 0x00001234 = some (.smoviLong ⟨.baseLit, 1, false, none⟩ 2 (.lit 0x123456789ABC)) ∧
  decodeTableWord 32 0x13120108 = some (.vfma (base 2) 8 1 2) ∧
  long 0x8B010001 0x03040500 0 = some (.vfaddLong (ext 1) .bf16 .rtz 3 4 (.reg 5)) ∧
  decodeTableWord 32 0x0C010806 = some (.ld (base 1) 4 ⟨.v, 0, .reg 8, 0, 12⟩) ∧
  long 0x8C003025 0x06020900 0x00000040 = some (.ldLong (ext 1) .i16 ⟨2, 0⟩ 6 ⟨.sv, 1, .reg 2, 9, 64⟩) ∧
  long 0x8CD00001 0x000D0000 0 = some (.commitTeam (ext 1) (some 13)) ∧
  long 0x85800002 0x01020004 0x00000444 = some (.mma 1 2 0 4 false true ⟨4, 4, 4⟩) ∧
  long 0x8E900018 0x03040506 0x0000000D = some (.copym (ext 1) 3 false 0x0D ⟨4, 5, some 6, 2, 0, 0⟩) ∧
  long 0x8F60000B 0x02060000 0 = some (.solicit (ext 1) 3 true 2 (.reg 6)) ∧
  decodeTableWord 32 0x344321C4 = some (.zwpair 2 3 4 8 0 1 false) ∧
  decodeTableWord 32 0xA4884801 = some (.zdot8 true false 4 8 9)

/-! ### Encodings -/

/-- R335 to R347: a Rhizoid instruction's word decodes to it, in its own thread's half of the opcodes, for every operand
that the encoding admits; and every word that either thread accepts is the word of the instruction it decodes to. -/
def Obligations.RhizoidRoundTrip : Prop :=
  (∀ i w, i.wf = true → encodeZ i = some w →
    w < 2 ^ 32 ∧ (if w < 2 ^ 31 then decodeZaddr w else decodeZarith w) = .ok i) ∧
  (∀ i w, w < 2 ^ 32 → (decodeZaddr w = .ok i ∨ decodeZarith w = .ok i) → encodeZ i = some w)

/-- R10, R13, R39, R47 to R128, R195, R196, R209 to R217, R269 to R291, R355: the words of a matrix-stream instruction,
and those of a group's instruction, decode to it, for every operand that the encoding admits. -/
def Obligations.StreamRoundTrip : Prop :=
  (∀ i r, i.wf = true → encodeStream i = some r → decodeStream r = .ok i) ∧
  (∀ i r, i.wf = true → encodeGroup i = some r → decodeGroup r = .ok i)

/-! ### The whole machine -/

/-- The memory of homes and every core's A-buffer, C-tiles and weight buffer keep their canonical form in every step. -/
def Obligations.StepKeepsMemory : Prop :=
  ∀ s s', MemOk s → step s = .next s' → MemOk s'

/-- R414, R430, R431: after reset nothing runs, memory, page tables, directories and the measurement log are clear, and
the lease is free with TERM 0; memory is in canonical form; and with nothing from outside bring-up ends after seven steps,
with KDP served in full, or fails at step 1, which the free bit of log entry 1 decides (log entry 6: each later step of
bring-up succeeds). -/
def Obligations.ResetState : Prop :=
  let s := State.reset
  let up (s : State) : Nat × Bool × Bool × Bool := (s.firm.step, s.firm.failed, s.firm.powered, s.fab.ethUp)
  MemOk s ∧ s.work.teams = [] ∧ s.work.grids = [] ∧ s.ctl.ctxs = [] ∧ s.cen.dir = [] ∧ s.firm.log = [] ∧
    s.firm.powered = false ∧ s.host.lease.owner = 0 ∧ s.host.lease.term = 0 ∧ (∀ a, memGet s.mem a = 0) ∧
    (Config.freeBit 0 = false → (afterSteps 7 s).map up = some (7, false, true, true)) ∧
    (Config.freeBit 0 = true → (afterSteps 1 s).map up = some (0, true, true, false))
end

