-- ==== Sys2Proof/Laws/Access.lean ====
section
/-!
SUPPORT. The issue of loads and stores on pages that are neither deferred nor differentiable.
-/

namespace Sys2Proof.Machine

theorem addrCauses_nil {n : Nat} {as : List (Nat × Nat)} (h : Aligned n as) : addrCauses none n as = [] := by
  unfold addrCauses
  rw [List.filterMap_eq_nil_iff]
  intro p hp
  obtain ⟨h1, h2⟩ := h p hp
  simp [addrCause, h1]; omega

theorem memStart_plain (c : Ctl) (s : State) (store : Bool) (z : SizeCode) (o : Ord) (dst : MDst) (data : Nat → BitVec 128)
    (as : List (Nat × Nat)) (hp : Plain (accsAt c s (!store) store data as)) :
    memStart c s store z o dst data as =
      let ls := accsAt c s (!store) store data as
      let s := if c.dbg && store then updGroup s c.tid c.gid fun g =>
            { g with undo := undoAdd g.undo (storeUndo s c z (ls.filter fun a =>
                (memFault c.t.d.gridUnit store c.g.e.rev z o a.x).isNone)) } else s
      let s := if !store && o.code == 1 then holdMem c s else s
      .done (startOp c (.mem store z o c.g.e.rev dst ls c.g.r.fmode [] none) s) := by
  have hrec : ∀ a ∈ accsAt c s (!store) store data as, laneRecs store c.g.e.rev z c.g.r.fmode a = [] := by
    intro a ha
    obtain ⟨h1, h2⟩ := hp a ha
    unfold laneRecs
    rcases hx : a.x with ⟨k, g⟩ | ⟨k, l, d, sh⟩
    · rfl
    · simp [hx, Xl.isD, Xl.isG] at h1 h2
      subst h1 h2
      simp
  unfold memStart
  rw [show (as.map fun p : Nat × Nat =>
      (⟨p.1, p.2, data p.1, 0, xlate s (some c.t.core) c.t.ctx p.2 (!store) store false⟩ : LaneAcc)) =
      accsAt c s (!store) store data as from rfl]
  generalize hls : accsAt c s (!store) store data as = ls at *
  have h1 : ((ls.filter fun a => !(memFault c.t.d.gridUnit store c.g.e.rev z o a.x).isSome).map fun a =>
      (a, laneRecs store c.g.e.rev z c.g.r.fmode a)).filter (fun p => !p.2.isEmpty) = [] := by
    rw [List.filter_eq_nil_iff]
    intro p hp
    simp only [List.mem_map, List.mem_filter] at hp
    obtain ⟨a, ⟨ha, -⟩, rfl⟩ := hp
    simp [hrec a ha]
  have h2 : (ls.filter fun a => a.x.isG && decide (4 ≤ sizeBytes z)) = [] := by
    rw [List.filter_eq_nil_iff]
    intro a ha
    simp [(hp a ha).2]
  have h3 : (ls.any fun a => a.x.shadowDfr) = false := by
    rw [List.any_eq_false]
    intro a ha
    have hg := (hp a ha).2
    rcases hx : a.x with ⟨k, g⟩ | ⟨k, l, d, sh⟩ <;> simp [hx, Xl.isG] at hg <;> subst hg <;> simp [Xl.shadowDfr]
  have h4 : (ls.filter fun a => !(memFault c.t.d.gridUnit store c.g.e.rev z o a.x).isSome).filter (fun a => !a.x.isD) =
      ls.filter fun a => (memFault c.t.d.gridUnit store c.g.e.rev z o a.x).isNone := by
    rw [List.filter_filter]
    apply List.filter_congr
    intro a ha
    simp [(hp a ha).1]
  simp only [h1, h2, h3, h4]
  cases store <;> simp [overQuota, bit]

end Sys2Proof.Machine
end

