-- ==== Sys2Proof/Laws/State.lean ====
section
/-!
SUPPORT. What each update of the state leaves as it is, and the fields that an update sets: one lemma per field.
-/

namespace Sys2Proof.Machine

/-! ### updTeam -/

@[simp] theorem updTeam_clock (s : State) (n : Nat) (f : Team → Team) : (updTeam s n f).clock = s.clock := rfl
@[simp] theorem updTeam_mem (s : State) (n : Nat) (f : Team → Team) : (updTeam s n f).mem = s.mem := rfl
@[simp] theorem updTeam_work_cores (s : State) (n : Nat) (f : Team → Team) : (updTeam s n f).work.cores = s.work.cores := rfl
@[simp] theorem updTeam_work_grids (s : State) (n : Nat) (f : Team → Team) : (updTeam s n f).work.grids = s.work.grids := rfl
@[simp] theorem updTeam_work_disp (s : State) (n : Nat) (f : Team → Team) : (updTeam s n f).work.disp = s.work.disp := rfl
@[simp] theorem updTeam_work_ops (s : State) (n : Nat) (f : Team → Team) : (updTeam s n f).work.ops = s.work.ops := rfl
@[simp] theorem updTeam_work_copies (s : State) (n : Nat) (f : Team → Team) : (updTeam s n f).work.copies = s.work.copies := rfl
@[simp] theorem updTeam_work_colls (s : State) (n : Nat) (f : Team → Team) : (updTeam s n f).work.colls = s.work.colls := rfl
@[simp] theorem updTeam_work_nmPosted (s : State) (n : Nat) (f : Team → Team) : (updTeam s n f).work.nmPosted = s.work.nmPosted := rfl
@[simp] theorem updTeam_defer (s : State) (n : Nat) (f : Team → Team) : (updTeam s n f).defer = s.defer := rfl
@[simp] theorem updTeam_cen (s : State) (n : Nat) (f : Team → Team) : (updTeam s n f).cen = s.cen := rfl
@[simp] theorem updTeam_units (s : State) (n : Nat) (f : Team → Team) : (updTeam s n f).units = s.units := rfl
@[simp] theorem updTeam_ctl (s : State) (n : Nat) (f : Team → Team) : (updTeam s n f).ctl = s.ctl := rfl
@[simp] theorem updTeam_host (s : State) (n : Nat) (f : Team → Team) : (updTeam s n f).host = s.host := rfl
@[simp] theorem updTeam_firm (s : State) (n : Nat) (f : Team → Team) : (updTeam s n f).firm = s.firm := rfl
@[simp] theorem updTeam_fab (s : State) (n : Nat) (f : Team → Team) : (updTeam s n f).fab = s.fab := rfl
@[simp] theorem updTeam_pow (s : State) (n : Nat) (f : Team → Team) : (updTeam s n f).pow = s.pow := rfl
@[simp] theorem updTeam_ctlb (s : State) (n : Nat) (f : Team → Team) : (updTeam s n f).ctlb = s.ctlb := rfl
@[simp] theorem updTeam_nextId (s : State) (n : Nat) (f : Team → Team) : (updTeam s n f).nextId = s.nextId := rfl
@[simp] theorem updTeam_fresh (s : State) (n : Nat) (f : Team → Team) : (updTeam s n f).fresh = s.fresh := rfl
@[simp] theorem updTeam_cur (s : State) (n : Nat) (f : Team → Team) : (updTeam s n f).cur = s.cur := rfl
@[simp] theorem updTeam_turn (s : State) (n : Nat) (f : Team → Team) : (updTeam s n f).turn = s.turn := rfl
@[simp] theorem updTeam_agenda (s : State) (n : Nat) (f : Team → Team) : (updTeam s n f).agenda = s.agenda := rfl

/-! ### updGroup -/

@[simp] theorem updGroup_clock (s : State) (n k : Nat) (f : Group → Group) : (updGroup s n k f).clock = s.clock := rfl
@[simp] theorem updGroup_mem (s : State) (n k : Nat) (f : Group → Group) : (updGroup s n k f).mem = s.mem := rfl
@[simp] theorem updGroup_work_cores (s : State) (n k : Nat) (f : Group → Group) : (updGroup s n k f).work.cores = s.work.cores := rfl
@[simp] theorem updGroup_work_grids (s : State) (n k : Nat) (f : Group → Group) : (updGroup s n k f).work.grids = s.work.grids := rfl
@[simp] theorem updGroup_work_disp (s : State) (n k : Nat) (f : Group → Group) : (updGroup s n k f).work.disp = s.work.disp := rfl
@[simp] theorem updGroup_work_ops (s : State) (n k : Nat) (f : Group → Group) : (updGroup s n k f).work.ops = s.work.ops := rfl
@[simp] theorem updGroup_work_copies (s : State) (n k : Nat) (f : Group → Group) : (updGroup s n k f).work.copies = s.work.copies := rfl
@[simp] theorem updGroup_work_colls (s : State) (n k : Nat) (f : Group → Group) : (updGroup s n k f).work.colls = s.work.colls := rfl
@[simp] theorem updGroup_work_nmPosted (s : State) (n k : Nat) (f : Group → Group) : (updGroup s n k f).work.nmPosted = s.work.nmPosted := rfl
@[simp] theorem updGroup_defer (s : State) (n k : Nat) (f : Group → Group) : (updGroup s n k f).defer = s.defer := rfl
@[simp] theorem updGroup_cen (s : State) (n k : Nat) (f : Group → Group) : (updGroup s n k f).cen = s.cen := rfl
@[simp] theorem updGroup_units (s : State) (n k : Nat) (f : Group → Group) : (updGroup s n k f).units = s.units := rfl
@[simp] theorem updGroup_ctl (s : State) (n k : Nat) (f : Group → Group) : (updGroup s n k f).ctl = s.ctl := rfl
@[simp] theorem updGroup_host (s : State) (n k : Nat) (f : Group → Group) : (updGroup s n k f).host = s.host := rfl
@[simp] theorem updGroup_firm (s : State) (n k : Nat) (f : Group → Group) : (updGroup s n k f).firm = s.firm := rfl
@[simp] theorem updGroup_fab (s : State) (n k : Nat) (f : Group → Group) : (updGroup s n k f).fab = s.fab := rfl
@[simp] theorem updGroup_pow (s : State) (n k : Nat) (f : Group → Group) : (updGroup s n k f).pow = s.pow := rfl
@[simp] theorem updGroup_ctlb (s : State) (n k : Nat) (f : Group → Group) : (updGroup s n k f).ctlb = s.ctlb := rfl
@[simp] theorem updGroup_nextId (s : State) (n k : Nat) (f : Group → Group) : (updGroup s n k f).nextId = s.nextId := rfl
@[simp] theorem updGroup_fresh (s : State) (n k : Nat) (f : Group → Group) : (updGroup s n k f).fresh = s.fresh := rfl
@[simp] theorem updGroup_cur (s : State) (n k : Nat) (f : Group → Group) : (updGroup s n k f).cur = s.cur := rfl
@[simp] theorem updGroup_turn (s : State) (n k : Nat) (f : Group → Group) : (updGroup s n k f).turn = s.turn := rfl
@[simp] theorem updGroup_agenda (s : State) (n k : Nat) (f : Group → Group) : (updGroup s n k f).agenda = s.agenda := rfl

/-! ### setCore -/

@[simp] theorem setCore_clock (s : State) (n : Nat) (c : Core) : (setCore s n c).clock = s.clock := rfl
@[simp] theorem setCore_mem (s : State) (n : Nat) (c : Core) : (setCore s n c).mem = s.mem := rfl
@[simp] theorem setCore_work_teams (s : State) (n : Nat) (c : Core) : (setCore s n c).work.teams = s.work.teams := rfl
@[simp] theorem setCore_work_grids (s : State) (n : Nat) (c : Core) : (setCore s n c).work.grids = s.work.grids := rfl
@[simp] theorem setCore_work_disp (s : State) (n : Nat) (c : Core) : (setCore s n c).work.disp = s.work.disp := rfl
@[simp] theorem setCore_work_ops (s : State) (n : Nat) (c : Core) : (setCore s n c).work.ops = s.work.ops := rfl
@[simp] theorem setCore_work_copies (s : State) (n : Nat) (c : Core) : (setCore s n c).work.copies = s.work.copies := rfl
@[simp] theorem setCore_work_colls (s : State) (n : Nat) (c : Core) : (setCore s n c).work.colls = s.work.colls := rfl
@[simp] theorem setCore_work_nmPosted (s : State) (n : Nat) (c : Core) : (setCore s n c).work.nmPosted = s.work.nmPosted := rfl
@[simp] theorem setCore_defer (s : State) (n : Nat) (c : Core) : (setCore s n c).defer = s.defer := rfl
@[simp] theorem setCore_cen (s : State) (n : Nat) (c : Core) : (setCore s n c).cen = s.cen := rfl
@[simp] theorem setCore_units (s : State) (n : Nat) (c : Core) : (setCore s n c).units = s.units := rfl
@[simp] theorem setCore_ctl (s : State) (n : Nat) (c : Core) : (setCore s n c).ctl = s.ctl := rfl
@[simp] theorem setCore_host (s : State) (n : Nat) (c : Core) : (setCore s n c).host = s.host := rfl
@[simp] theorem setCore_firm (s : State) (n : Nat) (c : Core) : (setCore s n c).firm = s.firm := rfl
@[simp] theorem setCore_fab (s : State) (n : Nat) (c : Core) : (setCore s n c).fab = s.fab := rfl
@[simp] theorem setCore_pow (s : State) (n : Nat) (c : Core) : (setCore s n c).pow = s.pow := rfl
@[simp] theorem setCore_ctlb (s : State) (n : Nat) (c : Core) : (setCore s n c).ctlb = s.ctlb := rfl
@[simp] theorem setCore_nextId (s : State) (n : Nat) (c : Core) : (setCore s n c).nextId = s.nextId := rfl
@[simp] theorem setCore_fresh (s : State) (n : Nat) (c : Core) : (setCore s n c).fresh = s.fresh := rfl
@[simp] theorem setCore_cur (s : State) (n : Nat) (c : Core) : (setCore s n c).cur = s.cur := rfl
@[simp] theorem setCore_turn (s : State) (n : Nat) (c : Core) : (setCore s n c).turn = s.turn := rfl
@[simp] theorem setCore_agenda (s : State) (n : Nat) (c : Core) : (setCore s n c).agenda = s.agenda := rfl

/-! ### updCore -/

@[simp] theorem updCore_clock (s : State) (n : Nat) (f : Core → Core) : (updCore s n f).clock = s.clock := rfl
@[simp] theorem updCore_mem (s : State) (n : Nat) (f : Core → Core) : (updCore s n f).mem = s.mem := rfl
@[simp] theorem updCore_work_teams (s : State) (n : Nat) (f : Core → Core) : (updCore s n f).work.teams = s.work.teams := rfl
@[simp] theorem updCore_work_grids (s : State) (n : Nat) (f : Core → Core) : (updCore s n f).work.grids = s.work.grids := rfl
@[simp] theorem updCore_work_disp (s : State) (n : Nat) (f : Core → Core) : (updCore s n f).work.disp = s.work.disp := rfl
@[simp] theorem updCore_work_ops (s : State) (n : Nat) (f : Core → Core) : (updCore s n f).work.ops = s.work.ops := rfl
@[simp] theorem updCore_work_copies (s : State) (n : Nat) (f : Core → Core) : (updCore s n f).work.copies = s.work.copies := rfl
@[simp] theorem updCore_work_colls (s : State) (n : Nat) (f : Core → Core) : (updCore s n f).work.colls = s.work.colls := rfl
@[simp] theorem updCore_work_nmPosted (s : State) (n : Nat) (f : Core → Core) : (updCore s n f).work.nmPosted = s.work.nmPosted := rfl
@[simp] theorem updCore_defer (s : State) (n : Nat) (f : Core → Core) : (updCore s n f).defer = s.defer := rfl
@[simp] theorem updCore_cen (s : State) (n : Nat) (f : Core → Core) : (updCore s n f).cen = s.cen := rfl
@[simp] theorem updCore_units (s : State) (n : Nat) (f : Core → Core) : (updCore s n f).units = s.units := rfl
@[simp] theorem updCore_ctl (s : State) (n : Nat) (f : Core → Core) : (updCore s n f).ctl = s.ctl := rfl
@[simp] theorem updCore_host (s : State) (n : Nat) (f : Core → Core) : (updCore s n f).host = s.host := rfl
@[simp] theorem updCore_firm (s : State) (n : Nat) (f : Core → Core) : (updCore s n f).firm = s.firm := rfl
@[simp] theorem updCore_fab (s : State) (n : Nat) (f : Core → Core) : (updCore s n f).fab = s.fab := rfl
@[simp] theorem updCore_pow (s : State) (n : Nat) (f : Core → Core) : (updCore s n f).pow = s.pow := rfl
@[simp] theorem updCore_ctlb (s : State) (n : Nat) (f : Core → Core) : (updCore s n f).ctlb = s.ctlb := rfl
@[simp] theorem updCore_nextId (s : State) (n : Nat) (f : Core → Core) : (updCore s n f).nextId = s.nextId := rfl
@[simp] theorem updCore_fresh (s : State) (n : Nat) (f : Core → Core) : (updCore s n f).fresh = s.fresh := rfl
@[simp] theorem updCore_cur (s : State) (n : Nat) (f : Core → Core) : (updCore s n f).cur = s.cur := rfl
@[simp] theorem updCore_turn (s : State) (n : Nat) (f : Core → Core) : (updCore s n f).turn = s.turn := rfl
@[simp] theorem updCore_agenda (s : State) (n : Nat) (f : Core → Core) : (updCore s n f).agenda = s.agenda := rfl

/-! ### updGrid -/

@[simp] theorem updGrid_clock (s : State) (n : Nat) (f : Grid → Grid) : (updGrid s n f).clock = s.clock := rfl
@[simp] theorem updGrid_mem (s : State) (n : Nat) (f : Grid → Grid) : (updGrid s n f).mem = s.mem := rfl
@[simp] theorem updGrid_work_cores (s : State) (n : Nat) (f : Grid → Grid) : (updGrid s n f).work.cores = s.work.cores := rfl
@[simp] theorem updGrid_work_teams (s : State) (n : Nat) (f : Grid → Grid) : (updGrid s n f).work.teams = s.work.teams := rfl
@[simp] theorem updGrid_work_disp (s : State) (n : Nat) (f : Grid → Grid) : (updGrid s n f).work.disp = s.work.disp := rfl
@[simp] theorem updGrid_work_ops (s : State) (n : Nat) (f : Grid → Grid) : (updGrid s n f).work.ops = s.work.ops := rfl
@[simp] theorem updGrid_work_copies (s : State) (n : Nat) (f : Grid → Grid) : (updGrid s n f).work.copies = s.work.copies := rfl
@[simp] theorem updGrid_work_colls (s : State) (n : Nat) (f : Grid → Grid) : (updGrid s n f).work.colls = s.work.colls := rfl
@[simp] theorem updGrid_work_nmPosted (s : State) (n : Nat) (f : Grid → Grid) : (updGrid s n f).work.nmPosted = s.work.nmPosted := rfl
@[simp] theorem updGrid_defer (s : State) (n : Nat) (f : Grid → Grid) : (updGrid s n f).defer = s.defer := rfl
@[simp] theorem updGrid_cen (s : State) (n : Nat) (f : Grid → Grid) : (updGrid s n f).cen = s.cen := rfl
@[simp] theorem updGrid_units (s : State) (n : Nat) (f : Grid → Grid) : (updGrid s n f).units = s.units := rfl
@[simp] theorem updGrid_ctl (s : State) (n : Nat) (f : Grid → Grid) : (updGrid s n f).ctl = s.ctl := rfl
@[simp] theorem updGrid_host (s : State) (n : Nat) (f : Grid → Grid) : (updGrid s n f).host = s.host := rfl
@[simp] theorem updGrid_firm (s : State) (n : Nat) (f : Grid → Grid) : (updGrid s n f).firm = s.firm := rfl
@[simp] theorem updGrid_fab (s : State) (n : Nat) (f : Grid → Grid) : (updGrid s n f).fab = s.fab := rfl
@[simp] theorem updGrid_pow (s : State) (n : Nat) (f : Grid → Grid) : (updGrid s n f).pow = s.pow := rfl
@[simp] theorem updGrid_ctlb (s : State) (n : Nat) (f : Grid → Grid) : (updGrid s n f).ctlb = s.ctlb := rfl
@[simp] theorem updGrid_nextId (s : State) (n : Nat) (f : Grid → Grid) : (updGrid s n f).nextId = s.nextId := rfl
@[simp] theorem updGrid_fresh (s : State) (n : Nat) (f : Grid → Grid) : (updGrid s n f).fresh = s.fresh := rfl
@[simp] theorem updGrid_cur (s : State) (n : Nat) (f : Grid → Grid) : (updGrid s n f).cur = s.cur := rfl
@[simp] theorem updGrid_turn (s : State) (n : Nat) (f : Grid → Grid) : (updGrid s n f).turn = s.turn := rfl
@[simp] theorem updGrid_agenda (s : State) (n : Nat) (f : Grid → Grid) : (updGrid s n f).agenda = s.agenda := rfl

/-! ### setOps -/

@[simp] theorem setOps_clock (s : State) (f : List Op → List Op) : (setOps s f).clock = s.clock := rfl
@[simp] theorem setOps_mem (s : State) (f : List Op → List Op) : (setOps s f).mem = s.mem := rfl
@[simp] theorem setOps_work_cores (s : State) (f : List Op → List Op) : (setOps s f).work.cores = s.work.cores := rfl
@[simp] theorem setOps_work_teams (s : State) (f : List Op → List Op) : (setOps s f).work.teams = s.work.teams := rfl
@[simp] theorem setOps_work_grids (s : State) (f : List Op → List Op) : (setOps s f).work.grids = s.work.grids := rfl
@[simp] theorem setOps_work_disp (s : State) (f : List Op → List Op) : (setOps s f).work.disp = s.work.disp := rfl
@[simp] theorem setOps_work_copies (s : State) (f : List Op → List Op) : (setOps s f).work.copies = s.work.copies := rfl
@[simp] theorem setOps_work_colls (s : State) (f : List Op → List Op) : (setOps s f).work.colls = s.work.colls := rfl
@[simp] theorem setOps_work_nmPosted (s : State) (f : List Op → List Op) : (setOps s f).work.nmPosted = s.work.nmPosted := rfl
@[simp] theorem setOps_defer (s : State) (f : List Op → List Op) : (setOps s f).defer = s.defer := rfl
@[simp] theorem setOps_cen (s : State) (f : List Op → List Op) : (setOps s f).cen = s.cen := rfl
@[simp] theorem setOps_units (s : State) (f : List Op → List Op) : (setOps s f).units = s.units := rfl
@[simp] theorem setOps_ctl (s : State) (f : List Op → List Op) : (setOps s f).ctl = s.ctl := rfl
@[simp] theorem setOps_host (s : State) (f : List Op → List Op) : (setOps s f).host = s.host := rfl
@[simp] theorem setOps_firm (s : State) (f : List Op → List Op) : (setOps s f).firm = s.firm := rfl
@[simp] theorem setOps_fab (s : State) (f : List Op → List Op) : (setOps s f).fab = s.fab := rfl
@[simp] theorem setOps_pow (s : State) (f : List Op → List Op) : (setOps s f).pow = s.pow := rfl
@[simp] theorem setOps_ctlb (s : State) (f : List Op → List Op) : (setOps s f).ctlb = s.ctlb := rfl
@[simp] theorem setOps_nextId (s : State) (f : List Op → List Op) : (setOps s f).nextId = s.nextId := rfl
@[simp] theorem setOps_fresh (s : State) (f : List Op → List Op) : (setOps s f).fresh = s.fresh := rfl
@[simp] theorem setOps_cur (s : State) (f : List Op → List Op) : (setOps s f).cur = s.cur := rfl
@[simp] theorem setOps_turn (s : State) (f : List Op → List Op) : (setOps s f).turn = s.turn := rfl
@[simp] theorem setOps_agenda (s : State) (f : List Op → List Op) : (setOps s f).agenda = s.agenda := rfl

/-! ### updCtx -/

@[simp] theorem updCtx_clock (s : State) (n : Nat) (f : Ctx → Ctx) : (updCtx s n f).clock = s.clock := rfl
@[simp] theorem updCtx_mem (s : State) (n : Nat) (f : Ctx → Ctx) : (updCtx s n f).mem = s.mem := rfl
@[simp] theorem updCtx_work (s : State) (n : Nat) (f : Ctx → Ctx) : (updCtx s n f).work = s.work := rfl
@[simp] theorem updCtx_defer (s : State) (n : Nat) (f : Ctx → Ctx) : (updCtx s n f).defer = s.defer := rfl
@[simp] theorem updCtx_cen (s : State) (n : Nat) (f : Ctx → Ctx) : (updCtx s n f).cen = s.cen := rfl
@[simp] theorem updCtx_units (s : State) (n : Nat) (f : Ctx → Ctx) : (updCtx s n f).units = s.units := rfl
@[simp] theorem updCtx_host (s : State) (n : Nat) (f : Ctx → Ctx) : (updCtx s n f).host = s.host := rfl
@[simp] theorem updCtx_firm (s : State) (n : Nat) (f : Ctx → Ctx) : (updCtx s n f).firm = s.firm := rfl
@[simp] theorem updCtx_fab (s : State) (n : Nat) (f : Ctx → Ctx) : (updCtx s n f).fab = s.fab := rfl
@[simp] theorem updCtx_pow (s : State) (n : Nat) (f : Ctx → Ctx) : (updCtx s n f).pow = s.pow := rfl
@[simp] theorem updCtx_ctlb (s : State) (n : Nat) (f : Ctx → Ctx) : (updCtx s n f).ctlb = s.ctlb := rfl
@[simp] theorem updCtx_nextId (s : State) (n : Nat) (f : Ctx → Ctx) : (updCtx s n f).nextId = s.nextId := rfl
@[simp] theorem updCtx_fresh (s : State) (n : Nat) (f : Ctx → Ctx) : (updCtx s n f).fresh = s.fresh := rfl
@[simp] theorem updCtx_cur (s : State) (n : Nat) (f : Ctx → Ctx) : (updCtx s n f).cur = s.cur := rfl
@[simp] theorem updCtx_turn (s : State) (n : Nat) (f : Ctx → Ctx) : (updCtx s n f).turn = s.turn := rfl
@[simp] theorem updCtx_agenda (s : State) (n : Nat) (f : Ctx → Ctx) : (updCtx s n f).agenda = s.agenda := rfl

/-! ### bump -/

@[simp] theorem bump_clock (s : State) : (bump s).clock = s.clock := rfl
@[simp] theorem bump_mem (s : State) : (bump s).mem = s.mem := rfl
@[simp] theorem bump_work (s : State) : (bump s).work = s.work := rfl
@[simp] theorem bump_defer (s : State) : (bump s).defer = s.defer := rfl
@[simp] theorem bump_cen (s : State) : (bump s).cen = s.cen := rfl
@[simp] theorem bump_units (s : State) : (bump s).units = s.units := rfl
@[simp] theorem bump_ctl (s : State) : (bump s).ctl = s.ctl := rfl
@[simp] theorem bump_host (s : State) : (bump s).host = s.host := rfl
@[simp] theorem bump_firm (s : State) : (bump s).firm = s.firm := rfl
@[simp] theorem bump_fab (s : State) : (bump s).fab = s.fab := rfl
@[simp] theorem bump_pow (s : State) : (bump s).pow = s.pow := rfl
@[simp] theorem bump_ctlb (s : State) : (bump s).ctlb = s.ctlb := rfl
@[simp] theorem bump_nextId (s : State) : (bump s).nextId = s.nextId := rfl
@[simp] theorem bump_cur (s : State) : (bump s).cur = s.cur := rfl
@[simp] theorem bump_turn (s : State) : (bump s).turn = s.turn := rfl
@[simp] theorem bump_agenda (s : State) : (bump s).agenda = s.agenda := rfl

/-! ### bumpId -/

@[simp] theorem bumpId_clock (s : State) : (bumpId s).clock = s.clock := rfl
@[simp] theorem bumpId_mem (s : State) : (bumpId s).mem = s.mem := rfl
@[simp] theorem bumpId_work (s : State) : (bumpId s).work = s.work := rfl
@[simp] theorem bumpId_defer (s : State) : (bumpId s).defer = s.defer := rfl
@[simp] theorem bumpId_cen (s : State) : (bumpId s).cen = s.cen := rfl
@[simp] theorem bumpId_units (s : State) : (bumpId s).units = s.units := rfl
@[simp] theorem bumpId_ctl (s : State) : (bumpId s).ctl = s.ctl := rfl
@[simp] theorem bumpId_host (s : State) : (bumpId s).host = s.host := rfl
@[simp] theorem bumpId_firm (s : State) : (bumpId s).firm = s.firm := rfl
@[simp] theorem bumpId_fab (s : State) : (bumpId s).fab = s.fab := rfl
@[simp] theorem bumpId_pow (s : State) : (bumpId s).pow = s.pow := rfl
@[simp] theorem bumpId_ctlb (s : State) : (bumpId s).ctlb = s.ctlb := rfl
@[simp] theorem bumpId_fresh (s : State) : (bumpId s).fresh = s.fresh := rfl
@[simp] theorem bumpId_cur (s : State) : (bumpId s).cur = s.cur := rfl
@[simp] theorem bumpId_turn (s : State) : (bumpId s).turn = s.turn := rfl
@[simp] theorem bumpId_agenda (s : State) : (bumpId s).agenda = s.agenda := rfl

/-! ### report -/

@[simp] theorem report_clock (s : State) (r : Report) : (report s r).clock = s.clock := rfl
@[simp] theorem report_mem (s : State) (r : Report) : (report s r).mem = s.mem := rfl
@[simp] theorem report_work (s : State) (r : Report) : (report s r).work = s.work := rfl
@[simp] theorem report_defer (s : State) (r : Report) : (report s r).defer = s.defer := rfl
@[simp] theorem report_cen (s : State) (r : Report) : (report s r).cen = s.cen := rfl
@[simp] theorem report_units (s : State) (r : Report) : (report s r).units = s.units := rfl
@[simp] theorem report_ctl (s : State) (r : Report) : (report s r).ctl = s.ctl := rfl
@[simp] theorem report_firm (s : State) (r : Report) : (report s r).firm = s.firm := rfl
@[simp] theorem report_fab (s : State) (r : Report) : (report s r).fab = s.fab := rfl
@[simp] theorem report_pow (s : State) (r : Report) : (report s r).pow = s.pow := rfl
@[simp] theorem report_ctlb (s : State) (r : Report) : (report s r).ctlb = s.ctlb := rfl
@[simp] theorem report_nextId (s : State) (r : Report) : (report s r).nextId = s.nextId := rfl
@[simp] theorem report_fresh (s : State) (r : Report) : (report s r).fresh = s.fresh := rfl
@[simp] theorem report_cur (s : State) (r : Report) : (report s r).cur = s.cur := rfl
@[simp] theorem report_turn (s : State) (r : Report) : (report s r).turn = s.turn := rfl
@[simp] theorem report_agenda (s : State) (r : Report) : (report s r).agenda = s.agenda := rfl

/-! ### engineStore -/

@[simp] theorem engineStore_mem (s : State) (k : Nat) (b : List Byte) : (engineStore s k b).mem = memSetN s.mem k b := rfl
@[simp] theorem engineStore_work_teams (s : State) (k : Nat) (b : List Byte) : (engineStore s k b).work.teams = s.work.teams := rfl
@[simp] theorem engineStore_work_grids (s : State) (k : Nat) (b : List Byte) : (engineStore s k b).work.grids = s.work.grids := rfl
@[simp] theorem engineStore_work_disp (s : State) (k : Nat) (b : List Byte) : (engineStore s k b).work.disp = s.work.disp := rfl
@[simp] theorem engineStore_work_ops (s : State) (k : Nat) (b : List Byte) : (engineStore s k b).work.ops = s.work.ops := rfl
@[simp] theorem engineStore_work_copies (s : State) (k : Nat) (b : List Byte) : (engineStore s k b).work.copies = s.work.copies := rfl
@[simp] theorem engineStore_work_colls (s : State) (k : Nat) (b : List Byte) : (engineStore s k b).work.colls = s.work.colls := rfl
@[simp] theorem engineStore_work_nmPosted (s : State) (k : Nat) (b : List Byte) : (engineStore s k b).work.nmPosted = s.work.nmPosted := rfl
@[simp] theorem engineStore_clock (s : State) (k : Nat) (b : List Byte) : (engineStore s k b).clock = s.clock := rfl
@[simp] theorem engineStore_defer (s : State) (k : Nat) (b : List Byte) : (engineStore s k b).defer = s.defer := rfl
@[simp] theorem engineStore_cen (s : State) (k : Nat) (b : List Byte) : (engineStore s k b).cen = s.cen := rfl
@[simp] theorem engineStore_units (s : State) (k : Nat) (b : List Byte) : (engineStore s k b).units = s.units := rfl
@[simp] theorem engineStore_ctl (s : State) (k : Nat) (b : List Byte) : (engineStore s k b).ctl = s.ctl := rfl
@[simp] theorem engineStore_host (s : State) (k : Nat) (b : List Byte) : (engineStore s k b).host = s.host := rfl
@[simp] theorem engineStore_firm (s : State) (k : Nat) (b : List Byte) : (engineStore s k b).firm = s.firm := rfl
@[simp] theorem engineStore_fab (s : State) (k : Nat) (b : List Byte) : (engineStore s k b).fab = s.fab := rfl
@[simp] theorem engineStore_pow (s : State) (k : Nat) (b : List Byte) : (engineStore s k b).pow = s.pow := rfl
@[simp] theorem engineStore_ctlb (s : State) (k : Nat) (b : List Byte) : (engineStore s k b).ctlb = s.ctlb := rfl
@[simp] theorem engineStore_nextId (s : State) (k : Nat) (b : List Byte) : (engineStore s k b).nextId = s.nextId := rfl
@[simp] theorem engineStore_fresh (s : State) (k : Nat) (b : List Byte) : (engineStore s k b).fresh = s.fresh := rfl
@[simp] theorem engineStore_cur (s : State) (k : Nat) (b : List Byte) : (engineStore s k b).cur = s.cur := rfl
@[simp] theorem engineStore_turn (s : State) (k : Nat) (b : List Byte) : (engineStore s k b).turn = s.turn := rfl
@[simp] theorem engineStore_agenda (s : State) (k : Nat) (b : List Byte) : (engineStore s k b).agenda = s.agenda := rfl

/-! ### settle -/

@[simp] theorem settle_clock (s : State) (n k u : Nat) : (settle s n k u).clock = s.clock := rfl
@[simp] theorem settle_mem (s : State) (n k u : Nat) : (settle s n k u).mem = s.mem := rfl
@[simp] theorem settle_work_cores (s : State) (n k u : Nat) : (settle s n k u).work.cores = s.work.cores := rfl
@[simp] theorem settle_work_grids (s : State) (n k u : Nat) : (settle s n k u).work.grids = s.work.grids := rfl
@[simp] theorem settle_work_disp (s : State) (n k u : Nat) : (settle s n k u).work.disp = s.work.disp := rfl
@[simp] theorem settle_work_ops (s : State) (n k u : Nat) : (settle s n k u).work.ops = s.work.ops := rfl
@[simp] theorem settle_work_copies (s : State) (n k u : Nat) : (settle s n k u).work.copies = s.work.copies := rfl
@[simp] theorem settle_work_colls (s : State) (n k u : Nat) : (settle s n k u).work.colls = s.work.colls := rfl
@[simp] theorem settle_work_nmPosted (s : State) (n k u : Nat) : (settle s n k u).work.nmPosted = s.work.nmPosted := rfl
@[simp] theorem settle_defer (s : State) (n k u : Nat) : (settle s n k u).defer = s.defer := rfl
@[simp] theorem settle_cen (s : State) (n k u : Nat) : (settle s n k u).cen = s.cen := rfl
@[simp] theorem settle_units (s : State) (n k u : Nat) : (settle s n k u).units = s.units := rfl
@[simp] theorem settle_ctl (s : State) (n k u : Nat) : (settle s n k u).ctl = s.ctl := rfl
@[simp] theorem settle_host (s : State) (n k u : Nat) : (settle s n k u).host = s.host := rfl
@[simp] theorem settle_firm (s : State) (n k u : Nat) : (settle s n k u).firm = s.firm := rfl
@[simp] theorem settle_fab (s : State) (n k u : Nat) : (settle s n k u).fab = s.fab := rfl
@[simp] theorem settle_pow (s : State) (n k u : Nat) : (settle s n k u).pow = s.pow := rfl
@[simp] theorem settle_ctlb (s : State) (n k u : Nat) : (settle s n k u).ctlb = s.ctlb := rfl
@[simp] theorem settle_nextId (s : State) (n k u : Nat) : (settle s n k u).nextId = s.nextId := rfl
@[simp] theorem settle_cur (s : State) (n k u : Nat) : (settle s n k u).cur = s.cur := rfl
@[simp] theorem settle_turn (s : State) (n k u : Nat) : (settle s n k u).turn = s.turn := rfl
@[simp] theorem settle_agenda (s : State) (n k u : Nat) : (settle s n k u).agenda = s.agenda := rfl

/-! ### writeNow -/

@[simp] theorem writeNow_clock (s : State) (o : Op) (ws : List RegWr) : (writeNow s o ws).clock = s.clock := rfl
@[simp] theorem writeNow_mem (s : State) (o : Op) (ws : List RegWr) : (writeNow s o ws).mem = s.mem := rfl
@[simp] theorem writeNow_work_cores (s : State) (o : Op) (ws : List RegWr) : (writeNow s o ws).work.cores = s.work.cores := rfl
@[simp] theorem writeNow_work_grids (s : State) (o : Op) (ws : List RegWr) : (writeNow s o ws).work.grids = s.work.grids := rfl
@[simp] theorem writeNow_work_disp (s : State) (o : Op) (ws : List RegWr) : (writeNow s o ws).work.disp = s.work.disp := rfl
@[simp] theorem writeNow_work_ops (s : State) (o : Op) (ws : List RegWr) : (writeNow s o ws).work.ops = s.work.ops := rfl
@[simp] theorem writeNow_work_copies (s : State) (o : Op) (ws : List RegWr) : (writeNow s o ws).work.copies = s.work.copies := rfl
@[simp] theorem writeNow_work_colls (s : State) (o : Op) (ws : List RegWr) : (writeNow s o ws).work.colls = s.work.colls := rfl
@[simp] theorem writeNow_work_nmPosted (s : State) (o : Op) (ws : List RegWr) : (writeNow s o ws).work.nmPosted = s.work.nmPosted := rfl
@[simp] theorem writeNow_defer (s : State) (o : Op) (ws : List RegWr) : (writeNow s o ws).defer = s.defer := rfl
@[simp] theorem writeNow_cen (s : State) (o : Op) (ws : List RegWr) : (writeNow s o ws).cen = s.cen := rfl
@[simp] theorem writeNow_units (s : State) (o : Op) (ws : List RegWr) : (writeNow s o ws).units = s.units := rfl
@[simp] theorem writeNow_ctl (s : State) (o : Op) (ws : List RegWr) : (writeNow s o ws).ctl = s.ctl := rfl
@[simp] theorem writeNow_host (s : State) (o : Op) (ws : List RegWr) : (writeNow s o ws).host = s.host := rfl
@[simp] theorem writeNow_firm (s : State) (o : Op) (ws : List RegWr) : (writeNow s o ws).firm = s.firm := rfl
@[simp] theorem writeNow_fab (s : State) (o : Op) (ws : List RegWr) : (writeNow s o ws).fab = s.fab := rfl
@[simp] theorem writeNow_pow (s : State) (o : Op) (ws : List RegWr) : (writeNow s o ws).pow = s.pow := rfl
@[simp] theorem writeNow_ctlb (s : State) (o : Op) (ws : List RegWr) : (writeNow s o ws).ctlb = s.ctlb := rfl
@[simp] theorem writeNow_nextId (s : State) (o : Op) (ws : List RegWr) : (writeNow s o ws).nextId = s.nextId := rfl
@[simp] theorem writeNow_fresh (s : State) (o : Op) (ws : List RegWr) : (writeNow s o ws).fresh = s.fresh + 1 := rfl
@[simp] theorem writeNow_cur (s : State) (o : Op) (ws : List RegWr) : (writeNow s o ws).cur = s.cur := rfl
@[simp] theorem writeNow_turn (s : State) (o : Op) (ws : List RegWr) : (writeNow s o ws).turn = s.turn := rfl
@[simp] theorem writeNow_agenda (s : State) (o : Op) (ws : List RegWr) : (writeNow s o ws).agenda = s.agenda := rfl

/-! ### endOp -/

@[simp] theorem endOp_clock (s : State) (o : Op) : (endOp s o).clock = s.clock := rfl
@[simp] theorem endOp_mem (s : State) (o : Op) : (endOp s o).mem = s.mem := rfl
@[simp] theorem endOp_work_cores (s : State) (o : Op) : (endOp s o).work.cores = s.work.cores := rfl
@[simp] theorem endOp_work_grids (s : State) (o : Op) : (endOp s o).work.grids = s.work.grids := rfl
@[simp] theorem endOp_work_disp (s : State) (o : Op) : (endOp s o).work.disp = s.work.disp := rfl
@[simp] theorem endOp_work_copies (s : State) (o : Op) : (endOp s o).work.copies = s.work.copies := rfl
@[simp] theorem endOp_work_colls (s : State) (o : Op) : (endOp s o).work.colls = s.work.colls := rfl
@[simp] theorem endOp_work_nmPosted (s : State) (o : Op) : (endOp s o).work.nmPosted = s.work.nmPosted := rfl
@[simp] theorem endOp_defer (s : State) (o : Op) : (endOp s o).defer = s.defer := rfl
@[simp] theorem endOp_cen (s : State) (o : Op) : (endOp s o).cen = s.cen := rfl
@[simp] theorem endOp_units (s : State) (o : Op) : (endOp s o).units = s.units := rfl
@[simp] theorem endOp_ctl (s : State) (o : Op) : (endOp s o).ctl = s.ctl := rfl
@[simp] theorem endOp_host (s : State) (o : Op) : (endOp s o).host = s.host := rfl
@[simp] theorem endOp_firm (s : State) (o : Op) : (endOp s o).firm = s.firm := rfl
@[simp] theorem endOp_fab (s : State) (o : Op) : (endOp s o).fab = s.fab := rfl
@[simp] theorem endOp_pow (s : State) (o : Op) : (endOp s o).pow = s.pow := rfl
@[simp] theorem endOp_ctlb (s : State) (o : Op) : (endOp s o).ctlb = s.ctlb := rfl
@[simp] theorem endOp_nextId (s : State) (o : Op) : (endOp s o).nextId = s.nextId := rfl
@[simp] theorem endOp_fresh (s : State) (o : Op) : (endOp s o).fresh = s.fresh := rfl
@[simp] theorem endOp_cur (s : State) (o : Op) : (endOp s o).cur = s.cur := rfl
@[simp] theorem endOp_turn (s : State) (o : Op) : (endOp s o).turn = s.turn := rfl
@[simp] theorem endOp_agenda (s : State) (o : Op) : (endOp s o).agenda = s.agenda := rfl

/-! ### updDefer -/

@[simp] theorem updDefer_clock (s : State) (f : Deferred → Deferred) : (updDefer s f).clock = s.clock := rfl
@[simp] theorem updDefer_mem (s : State) (f : Deferred → Deferred) : (updDefer s f).mem = s.mem := rfl
@[simp] theorem updDefer_work (s : State) (f : Deferred → Deferred) : (updDefer s f).work = s.work := rfl
@[simp] theorem updDefer_cen (s : State) (f : Deferred → Deferred) : (updDefer s f).cen = s.cen := rfl
@[simp] theorem updDefer_units (s : State) (f : Deferred → Deferred) : (updDefer s f).units = s.units := rfl
@[simp] theorem updDefer_ctl (s : State) (f : Deferred → Deferred) : (updDefer s f).ctl = s.ctl := rfl
@[simp] theorem updDefer_host (s : State) (f : Deferred → Deferred) : (updDefer s f).host = s.host := rfl
@[simp] theorem updDefer_firm (s : State) (f : Deferred → Deferred) : (updDefer s f).firm = s.firm := rfl
@[simp] theorem updDefer_fab (s : State) (f : Deferred → Deferred) : (updDefer s f).fab = s.fab := rfl
@[simp] theorem updDefer_pow (s : State) (f : Deferred → Deferred) : (updDefer s f).pow = s.pow := rfl
@[simp] theorem updDefer_ctlb (s : State) (f : Deferred → Deferred) : (updDefer s f).ctlb = s.ctlb := rfl
@[simp] theorem updDefer_nextId (s : State) (f : Deferred → Deferred) : (updDefer s f).nextId = s.nextId := rfl
@[simp] theorem updDefer_fresh (s : State) (f : Deferred → Deferred) : (updDefer s f).fresh = s.fresh := rfl
@[simp] theorem updDefer_cur (s : State) (f : Deferred → Deferred) : (updDefer s f).cur = s.cur := rfl
@[simp] theorem updDefer_turn (s : State) (f : Deferred → Deferred) : (updDefer s f).turn = s.turn := rfl
@[simp] theorem updDefer_agenda (s : State) (f : Deferred → Deferred) : (updDefer s f).agenda = s.agenda := rfl

/-! ### updHost -/

@[simp] theorem updHost_clock (s : State) (f : HostSt → HostSt) : (updHost s f).clock = s.clock := rfl
@[simp] theorem updHost_mem (s : State) (f : HostSt → HostSt) : (updHost s f).mem = s.mem := rfl
@[simp] theorem updHost_work (s : State) (f : HostSt → HostSt) : (updHost s f).work = s.work := rfl
@[simp] theorem updHost_defer (s : State) (f : HostSt → HostSt) : (updHost s f).defer = s.defer := rfl
@[simp] theorem updHost_cen (s : State) (f : HostSt → HostSt) : (updHost s f).cen = s.cen := rfl
@[simp] theorem updHost_units (s : State) (f : HostSt → HostSt) : (updHost s f).units = s.units := rfl
@[simp] theorem updHost_ctl (s : State) (f : HostSt → HostSt) : (updHost s f).ctl = s.ctl := rfl
@[simp] theorem updHost_firm (s : State) (f : HostSt → HostSt) : (updHost s f).firm = s.firm := rfl
@[simp] theorem updHost_fab (s : State) (f : HostSt → HostSt) : (updHost s f).fab = s.fab := rfl
@[simp] theorem updHost_pow (s : State) (f : HostSt → HostSt) : (updHost s f).pow = s.pow := rfl
@[simp] theorem updHost_ctlb (s : State) (f : HostSt → HostSt) : (updHost s f).ctlb = s.ctlb := rfl
@[simp] theorem updHost_nextId (s : State) (f : HostSt → HostSt) : (updHost s f).nextId = s.nextId := rfl
@[simp] theorem updHost_fresh (s : State) (f : HostSt → HostSt) : (updHost s f).fresh = s.fresh := rfl
@[simp] theorem updHost_cur (s : State) (f : HostSt → HostSt) : (updHost s f).cur = s.cur := rfl
@[simp] theorem updHost_turn (s : State) (f : HostSt → HostSt) : (updHost s f).turn = s.turn := rfl
@[simp] theorem updHost_agenda (s : State) (f : HostSt → HostSt) : (updHost s f).agenda = s.agenda := rfl

/-! ### updCen -/

@[simp] theorem updCen_clock (s : State) (f : CensusSt → CensusSt) : (updCen s f).clock = s.clock := rfl
@[simp] theorem updCen_mem (s : State) (f : CensusSt → CensusSt) : (updCen s f).mem = s.mem := rfl
@[simp] theorem updCen_work (s : State) (f : CensusSt → CensusSt) : (updCen s f).work = s.work := rfl
@[simp] theorem updCen_defer (s : State) (f : CensusSt → CensusSt) : (updCen s f).defer = s.defer := rfl
@[simp] theorem updCen_units (s : State) (f : CensusSt → CensusSt) : (updCen s f).units = s.units := rfl
@[simp] theorem updCen_ctl (s : State) (f : CensusSt → CensusSt) : (updCen s f).ctl = s.ctl := rfl
@[simp] theorem updCen_host (s : State) (f : CensusSt → CensusSt) : (updCen s f).host = s.host := rfl
@[simp] theorem updCen_firm (s : State) (f : CensusSt → CensusSt) : (updCen s f).firm = s.firm := rfl
@[simp] theorem updCen_fab (s : State) (f : CensusSt → CensusSt) : (updCen s f).fab = s.fab := rfl
@[simp] theorem updCen_pow (s : State) (f : CensusSt → CensusSt) : (updCen s f).pow = s.pow := rfl
@[simp] theorem updCen_ctlb (s : State) (f : CensusSt → CensusSt) : (updCen s f).ctlb = s.ctlb := rfl
@[simp] theorem updCen_nextId (s : State) (f : CensusSt → CensusSt) : (updCen s f).nextId = s.nextId := rfl
@[simp] theorem updCen_fresh (s : State) (f : CensusSt → CensusSt) : (updCen s f).fresh = s.fresh := rfl
@[simp] theorem updCen_cur (s : State) (f : CensusSt → CensusSt) : (updCen s f).cur = s.cur := rfl
@[simp] theorem updCen_turn (s : State) (f : CensusSt → CensusSt) : (updCen s f).turn = s.turn := rfl
@[simp] theorem updCen_agenda (s : State) (f : CensusSt → CensusSt) : (updCen s f).agenda = s.agenda := rfl

/-! ### updFirm -/

@[simp] theorem updFirm_clock (s : State) (f : Firm → Firm) : (updFirm s f).clock = s.clock := rfl
@[simp] theorem updFirm_mem (s : State) (f : Firm → Firm) : (updFirm s f).mem = s.mem := rfl
@[simp] theorem updFirm_work (s : State) (f : Firm → Firm) : (updFirm s f).work = s.work := rfl
@[simp] theorem updFirm_defer (s : State) (f : Firm → Firm) : (updFirm s f).defer = s.defer := rfl
@[simp] theorem updFirm_cen (s : State) (f : Firm → Firm) : (updFirm s f).cen = s.cen := rfl
@[simp] theorem updFirm_units (s : State) (f : Firm → Firm) : (updFirm s f).units = s.units := rfl
@[simp] theorem updFirm_ctl (s : State) (f : Firm → Firm) : (updFirm s f).ctl = s.ctl := rfl
@[simp] theorem updFirm_host (s : State) (f : Firm → Firm) : (updFirm s f).host = s.host := rfl
@[simp] theorem updFirm_fab (s : State) (f : Firm → Firm) : (updFirm s f).fab = s.fab := rfl
@[simp] theorem updFirm_pow (s : State) (f : Firm → Firm) : (updFirm s f).pow = s.pow := rfl
@[simp] theorem updFirm_ctlb (s : State) (f : Firm → Firm) : (updFirm s f).ctlb = s.ctlb := rfl
@[simp] theorem updFirm_nextId (s : State) (f : Firm → Firm) : (updFirm s f).nextId = s.nextId := rfl
@[simp] theorem updFirm_fresh (s : State) (f : Firm → Firm) : (updFirm s f).fresh = s.fresh := rfl
@[simp] theorem updFirm_cur (s : State) (f : Firm → Firm) : (updFirm s f).cur = s.cur := rfl
@[simp] theorem updFirm_turn (s : State) (f : Firm → Firm) : (updFirm s f).turn = s.turn := rfl
@[simp] theorem updFirm_agenda (s : State) (f : Firm → Firm) : (updFirm s f).agenda = s.agenda := rfl

/-! ### updFab -/

@[simp] theorem updFab_clock (s : State) (f : Fabric → Fabric) : (updFab s f).clock = s.clock := rfl
@[simp] theorem updFab_mem (s : State) (f : Fabric → Fabric) : (updFab s f).mem = s.mem := rfl
@[simp] theorem updFab_work (s : State) (f : Fabric → Fabric) : (updFab s f).work = s.work := rfl
@[simp] theorem updFab_defer (s : State) (f : Fabric → Fabric) : (updFab s f).defer = s.defer := rfl
@[simp] theorem updFab_cen (s : State) (f : Fabric → Fabric) : (updFab s f).cen = s.cen := rfl
@[simp] theorem updFab_units (s : State) (f : Fabric → Fabric) : (updFab s f).units = s.units := rfl
@[simp] theorem updFab_ctl (s : State) (f : Fabric → Fabric) : (updFab s f).ctl = s.ctl := rfl
@[simp] theorem updFab_host (s : State) (f : Fabric → Fabric) : (updFab s f).host = s.host := rfl
@[simp] theorem updFab_firm (s : State) (f : Fabric → Fabric) : (updFab s f).firm = s.firm := rfl
@[simp] theorem updFab_pow (s : State) (f : Fabric → Fabric) : (updFab s f).pow = s.pow := rfl
@[simp] theorem updFab_ctlb (s : State) (f : Fabric → Fabric) : (updFab s f).ctlb = s.ctlb := rfl
@[simp] theorem updFab_nextId (s : State) (f : Fabric → Fabric) : (updFab s f).nextId = s.nextId := rfl
@[simp] theorem updFab_fresh (s : State) (f : Fabric → Fabric) : (updFab s f).fresh = s.fresh := rfl
@[simp] theorem updFab_cur (s : State) (f : Fabric → Fabric) : (updFab s f).cur = s.cur := rfl
@[simp] theorem updFab_turn (s : State) (f : Fabric → Fabric) : (updFab s f).turn = s.turn := rfl
@[simp] theorem updFab_agenda (s : State) (f : Fabric → Fabric) : (updFab s f).agenda = s.agenda := rfl

/-! ### updPow -/

@[simp] theorem updPow_clock (s : State) (f : Power → Power) : (updPow s f).clock = s.clock := rfl
@[simp] theorem updPow_mem (s : State) (f : Power → Power) : (updPow s f).mem = s.mem := rfl
@[simp] theorem updPow_work (s : State) (f : Power → Power) : (updPow s f).work = s.work := rfl
@[simp] theorem updPow_defer (s : State) (f : Power → Power) : (updPow s f).defer = s.defer := rfl
@[simp] theorem updPow_cen (s : State) (f : Power → Power) : (updPow s f).cen = s.cen := rfl
@[simp] theorem updPow_units (s : State) (f : Power → Power) : (updPow s f).units = s.units := rfl
@[simp] theorem updPow_ctl (s : State) (f : Power → Power) : (updPow s f).ctl = s.ctl := rfl
@[simp] theorem updPow_host (s : State) (f : Power → Power) : (updPow s f).host = s.host := rfl
@[simp] theorem updPow_firm (s : State) (f : Power → Power) : (updPow s f).firm = s.firm := rfl
@[simp] theorem updPow_fab (s : State) (f : Power → Power) : (updPow s f).fab = s.fab := rfl
@[simp] theorem updPow_ctlb (s : State) (f : Power → Power) : (updPow s f).ctlb = s.ctlb := rfl
@[simp] theorem updPow_nextId (s : State) (f : Power → Power) : (updPow s f).nextId = s.nextId := rfl
@[simp] theorem updPow_fresh (s : State) (f : Power → Power) : (updPow s f).fresh = s.fresh := rfl
@[simp] theorem updPow_cur (s : State) (f : Power → Power) : (updPow s f).cur = s.cur := rfl
@[simp] theorem updPow_turn (s : State) (f : Power → Power) : (updPow s f).turn = s.turn := rfl
@[simp] theorem updPow_agenda (s : State) (f : Power → Power) : (updPow s f).agenda = s.agenda := rfl

/-! ### updStream -/

@[simp] theorem updStream_clock (s : State) (n : Nat) (f : MStream → MStream) : (updStream s n f).clock = s.clock := rfl
@[simp] theorem updStream_mem (s : State) (n : Nat) (f : MStream → MStream) : (updStream s n f).mem = s.mem := rfl
@[simp] theorem updStream_work_cores (s : State) (n : Nat) (f : MStream → MStream) : (updStream s n f).work.cores = s.work.cores := rfl
@[simp] theorem updStream_work_grids (s : State) (n : Nat) (f : MStream → MStream) : (updStream s n f).work.grids = s.work.grids := rfl
@[simp] theorem updStream_work_disp (s : State) (n : Nat) (f : MStream → MStream) : (updStream s n f).work.disp = s.work.disp := rfl
@[simp] theorem updStream_work_ops (s : State) (n : Nat) (f : MStream → MStream) : (updStream s n f).work.ops = s.work.ops := rfl
@[simp] theorem updStream_work_copies (s : State) (n : Nat) (f : MStream → MStream) : (updStream s n f).work.copies = s.work.copies := rfl
@[simp] theorem updStream_work_colls (s : State) (n : Nat) (f : MStream → MStream) : (updStream s n f).work.colls = s.work.colls := rfl
@[simp] theorem updStream_work_nmPosted (s : State) (n : Nat) (f : MStream → MStream) : (updStream s n f).work.nmPosted = s.work.nmPosted := rfl
@[simp] theorem updStream_defer (s : State) (n : Nat) (f : MStream → MStream) : (updStream s n f).defer = s.defer := rfl
@[simp] theorem updStream_cen (s : State) (n : Nat) (f : MStream → MStream) : (updStream s n f).cen = s.cen := rfl
@[simp] theorem updStream_units (s : State) (n : Nat) (f : MStream → MStream) : (updStream s n f).units = s.units := rfl
@[simp] theorem updStream_ctl (s : State) (n : Nat) (f : MStream → MStream) : (updStream s n f).ctl = s.ctl := rfl
@[simp] theorem updStream_host (s : State) (n : Nat) (f : MStream → MStream) : (updStream s n f).host = s.host := rfl
@[simp] theorem updStream_firm (s : State) (n : Nat) (f : MStream → MStream) : (updStream s n f).firm = s.firm := rfl
@[simp] theorem updStream_fab (s : State) (n : Nat) (f : MStream → MStream) : (updStream s n f).fab = s.fab := rfl
@[simp] theorem updStream_pow (s : State) (n : Nat) (f : MStream → MStream) : (updStream s n f).pow = s.pow := rfl
@[simp] theorem updStream_ctlb (s : State) (n : Nat) (f : MStream → MStream) : (updStream s n f).ctlb = s.ctlb := rfl
@[simp] theorem updStream_nextId (s : State) (n : Nat) (f : MStream → MStream) : (updStream s n f).nextId = s.nextId := rfl
@[simp] theorem updStream_fresh (s : State) (n : Nat) (f : MStream → MStream) : (updStream s n f).fresh = s.fresh := rfl
@[simp] theorem updStream_cur (s : State) (n : Nat) (f : MStream → MStream) : (updStream s n f).cur = s.cur := rfl
@[simp] theorem updStream_turn (s : State) (n : Nat) (f : MStream → MStream) : (updStream s n f).turn = s.turn := rfl
@[simp] theorem updStream_agenda (s : State) (n : Nat) (f : MStream → MStream) : (updStream s n f).agenda = s.agenda := rfl

/-! ### updCopy -/

@[simp] theorem updCopy_clock (s : State) (n : Nat) (f : Copy → Copy) : (updCopy s n f).clock = s.clock := rfl
@[simp] theorem updCopy_mem (s : State) (n : Nat) (f : Copy → Copy) : (updCopy s n f).mem = s.mem := rfl
@[simp] theorem updCopy_work_cores (s : State) (n : Nat) (f : Copy → Copy) : (updCopy s n f).work.cores = s.work.cores := rfl
@[simp] theorem updCopy_work_teams (s : State) (n : Nat) (f : Copy → Copy) : (updCopy s n f).work.teams = s.work.teams := rfl
@[simp] theorem updCopy_work_grids (s : State) (n : Nat) (f : Copy → Copy) : (updCopy s n f).work.grids = s.work.grids := rfl
@[simp] theorem updCopy_work_disp (s : State) (n : Nat) (f : Copy → Copy) : (updCopy s n f).work.disp = s.work.disp := rfl
@[simp] theorem updCopy_work_ops (s : State) (n : Nat) (f : Copy → Copy) : (updCopy s n f).work.ops = s.work.ops := rfl
@[simp] theorem updCopy_work_colls (s : State) (n : Nat) (f : Copy → Copy) : (updCopy s n f).work.colls = s.work.colls := rfl
@[simp] theorem updCopy_work_nmPosted (s : State) (n : Nat) (f : Copy → Copy) : (updCopy s n f).work.nmPosted = s.work.nmPosted := rfl
@[simp] theorem updCopy_defer (s : State) (n : Nat) (f : Copy → Copy) : (updCopy s n f).defer = s.defer := rfl
@[simp] theorem updCopy_cen (s : State) (n : Nat) (f : Copy → Copy) : (updCopy s n f).cen = s.cen := rfl
@[simp] theorem updCopy_units (s : State) (n : Nat) (f : Copy → Copy) : (updCopy s n f).units = s.units := rfl
@[simp] theorem updCopy_ctl (s : State) (n : Nat) (f : Copy → Copy) : (updCopy s n f).ctl = s.ctl := rfl
@[simp] theorem updCopy_host (s : State) (n : Nat) (f : Copy → Copy) : (updCopy s n f).host = s.host := rfl
@[simp] theorem updCopy_firm (s : State) (n : Nat) (f : Copy → Copy) : (updCopy s n f).firm = s.firm := rfl
@[simp] theorem updCopy_fab (s : State) (n : Nat) (f : Copy → Copy) : (updCopy s n f).fab = s.fab := rfl
@[simp] theorem updCopy_pow (s : State) (n : Nat) (f : Copy → Copy) : (updCopy s n f).pow = s.pow := rfl
@[simp] theorem updCopy_ctlb (s : State) (n : Nat) (f : Copy → Copy) : (updCopy s n f).ctlb = s.ctlb := rfl
@[simp] theorem updCopy_nextId (s : State) (n : Nat) (f : Copy → Copy) : (updCopy s n f).nextId = s.nextId := rfl
@[simp] theorem updCopy_fresh (s : State) (n : Nat) (f : Copy → Copy) : (updCopy s n f).fresh = s.fresh := rfl
@[simp] theorem updCopy_cur (s : State) (n : Nat) (f : Copy → Copy) : (updCopy s n f).cur = s.cur := rfl
@[simp] theorem updCopy_turn (s : State) (n : Nat) (f : Copy → Copy) : (updCopy s n f).turn = s.turn := rfl
@[simp] theorem updCopy_agenda (s : State) (n : Nat) (f : Copy → Copy) : (updCopy s n f).agenda = s.agenda := rfl

/-! ### setUnit -/

@[simp] theorem setUnit_clock (s : State) (u : Unit') : (setUnit s u).clock = s.clock := rfl
@[simp] theorem setUnit_mem (s : State) (u : Unit') : (setUnit s u).mem = s.mem := rfl
@[simp] theorem setUnit_work (s : State) (u : Unit') : (setUnit s u).work = s.work := rfl
@[simp] theorem setUnit_defer (s : State) (u : Unit') : (setUnit s u).defer = s.defer := rfl
@[simp] theorem setUnit_cen (s : State) (u : Unit') : (setUnit s u).cen = s.cen := rfl
@[simp] theorem setUnit_ctl (s : State) (u : Unit') : (setUnit s u).ctl = s.ctl := rfl
@[simp] theorem setUnit_host (s : State) (u : Unit') : (setUnit s u).host = s.host := rfl
@[simp] theorem setUnit_firm (s : State) (u : Unit') : (setUnit s u).firm = s.firm := rfl
@[simp] theorem setUnit_fab (s : State) (u : Unit') : (setUnit s u).fab = s.fab := rfl
@[simp] theorem setUnit_pow (s : State) (u : Unit') : (setUnit s u).pow = s.pow := rfl
@[simp] theorem setUnit_ctlb (s : State) (u : Unit') : (setUnit s u).ctlb = s.ctlb := rfl
@[simp] theorem setUnit_nextId (s : State) (u : Unit') : (setUnit s u).nextId = s.nextId := rfl
@[simp] theorem setUnit_fresh (s : State) (u : Unit') : (setUnit s u).fresh = s.fresh := rfl
@[simp] theorem setUnit_cur (s : State) (u : Unit') : (setUnit s u).cur = s.cur := rfl
@[simp] theorem setUnit_turn (s : State) (u : Unit') : (setUnit s u).turn = s.turn := rfl
@[simp] theorem setUnit_agenda (s : State) (u : Unit') : (setUnit s u).agenda = s.agenda := rfl

/-! ### reply -/

@[simp] theorem reply_clock (s : State) (k : KdpHdr) (st : BitVec 16) (b : List Byte) : (reply s k st b).clock = s.clock := by
  unfold reply keepReply sendReply; split <;> rfl
@[simp] theorem reply_mem (s : State) (k : KdpHdr) (st : BitVec 16) (b : List Byte) : (reply s k st b).mem = s.mem := by
  unfold reply keepReply sendReply; split <;> rfl
@[simp] theorem reply_work (s : State) (k : KdpHdr) (st : BitVec 16) (b : List Byte) : (reply s k st b).work = s.work := by
  unfold reply keepReply sendReply; split <;> rfl
@[simp] theorem reply_defer (s : State) (k : KdpHdr) (st : BitVec 16) (b : List Byte) : (reply s k st b).defer = s.defer := by
  unfold reply keepReply sendReply; split <;> rfl
@[simp] theorem reply_cen (s : State) (k : KdpHdr) (st : BitVec 16) (b : List Byte) : (reply s k st b).cen = s.cen := by
  unfold reply keepReply sendReply; split <;> rfl
@[simp] theorem reply_units (s : State) (k : KdpHdr) (st : BitVec 16) (b : List Byte) : (reply s k st b).units = s.units := by
  unfold reply keepReply sendReply; split <;> rfl
@[simp] theorem reply_ctl (s : State) (k : KdpHdr) (st : BitVec 16) (b : List Byte) : (reply s k st b).ctl = s.ctl := by
  unfold reply keepReply sendReply; split <;> rfl
@[simp] theorem reply_firm (s : State) (k : KdpHdr) (st : BitVec 16) (b : List Byte) : (reply s k st b).firm = s.firm := by
  unfold reply keepReply sendReply; split <;> rfl
@[simp] theorem reply_fab (s : State) (k : KdpHdr) (st : BitVec 16) (b : List Byte) : (reply s k st b).fab = s.fab := by
  unfold reply keepReply sendReply; split <;> rfl
@[simp] theorem reply_pow (s : State) (k : KdpHdr) (st : BitVec 16) (b : List Byte) : (reply s k st b).pow = s.pow := by
  unfold reply keepReply sendReply; split <;> rfl
@[simp] theorem reply_ctlb (s : State) (k : KdpHdr) (st : BitVec 16) (b : List Byte) : (reply s k st b).ctlb = s.ctlb := by
  unfold reply keepReply sendReply; split <;> rfl
@[simp] theorem reply_nextId (s : State) (k : KdpHdr) (st : BitVec 16) (b : List Byte) : (reply s k st b).nextId = s.nextId := by
  unfold reply keepReply sendReply; split <;> rfl
@[simp] theorem reply_fresh (s : State) (k : KdpHdr) (st : BitVec 16) (b : List Byte) : (reply s k st b).fresh = s.fresh := by
  unfold reply keepReply sendReply; split <;> rfl
@[simp] theorem reply_cur (s : State) (k : KdpHdr) (st : BitVec 16) (b : List Byte) : (reply s k st b).cur = s.cur := by
  unfold reply keepReply sendReply; split <;> rfl
@[simp] theorem reply_turn (s : State) (k : KdpHdr) (st : BitVec 16) (b : List Byte) : (reply s k st b).turn = s.turn := by
  unfold reply keepReply sendReply; split <;> rfl
@[simp] theorem reply_agenda (s : State) (k : KdpHdr) (st : BitVec 16) (b : List Byte) : (reply s k st b).agenda = s.agenda := by
  unfold reply keepReply sendReply; split <;> rfl

/-! ### sendEvent -/

@[simp] theorem sendEvent_clock (s : State) (h : Option (BitVec 32)) (c n : Nat) (b : List Byte) : (sendEvent s h c n b).clock = s.clock := by
  unfold sendEvent sendOut; cases h <;> rfl
@[simp] theorem sendEvent_mem (s : State) (h : Option (BitVec 32)) (c n : Nat) (b : List Byte) : (sendEvent s h c n b).mem = s.mem := by
  unfold sendEvent sendOut; cases h <;> rfl
@[simp] theorem sendEvent_work (s : State) (h : Option (BitVec 32)) (c n : Nat) (b : List Byte) : (sendEvent s h c n b).work = s.work := by
  unfold sendEvent sendOut; cases h <;> rfl
@[simp] theorem sendEvent_defer (s : State) (h : Option (BitVec 32)) (c n : Nat) (b : List Byte) : (sendEvent s h c n b).defer = s.defer := by
  unfold sendEvent sendOut; cases h <;> rfl
@[simp] theorem sendEvent_cen (s : State) (h : Option (BitVec 32)) (c n : Nat) (b : List Byte) : (sendEvent s h c n b).cen = s.cen := by
  unfold sendEvent sendOut; cases h <;> rfl
@[simp] theorem sendEvent_units (s : State) (h : Option (BitVec 32)) (c n : Nat) (b : List Byte) : (sendEvent s h c n b).units = s.units := by
  unfold sendEvent sendOut; cases h <;> rfl
@[simp] theorem sendEvent_ctl (s : State) (h : Option (BitVec 32)) (c n : Nat) (b : List Byte) : (sendEvent s h c n b).ctl = s.ctl := by
  unfold sendEvent sendOut; cases h <;> rfl
@[simp] theorem sendEvent_firm (s : State) (h : Option (BitVec 32)) (c n : Nat) (b : List Byte) : (sendEvent s h c n b).firm = s.firm := by
  unfold sendEvent sendOut; cases h <;> rfl
@[simp] theorem sendEvent_fab (s : State) (h : Option (BitVec 32)) (c n : Nat) (b : List Byte) : (sendEvent s h c n b).fab = s.fab := by
  unfold sendEvent sendOut; cases h <;> rfl
@[simp] theorem sendEvent_pow (s : State) (h : Option (BitVec 32)) (c n : Nat) (b : List Byte) : (sendEvent s h c n b).pow = s.pow := by
  unfold sendEvent sendOut; cases h <;> rfl
@[simp] theorem sendEvent_ctlb (s : State) (h : Option (BitVec 32)) (c n : Nat) (b : List Byte) : (sendEvent s h c n b).ctlb = s.ctlb := by
  unfold sendEvent sendOut; cases h <;> rfl
@[simp] theorem sendEvent_nextId (s : State) (h : Option (BitVec 32)) (c n : Nat) (b : List Byte) : (sendEvent s h c n b).nextId = s.nextId := by
  unfold sendEvent sendOut; cases h <;> rfl
@[simp] theorem sendEvent_fresh (s : State) (h : Option (BitVec 32)) (c n : Nat) (b : List Byte) : (sendEvent s h c n b).fresh = s.fresh := by
  unfold sendEvent sendOut; cases h <;> rfl
@[simp] theorem sendEvent_cur (s : State) (h : Option (BitVec 32)) (c n : Nat) (b : List Byte) : (sendEvent s h c n b).cur = s.cur := by
  unfold sendEvent sendOut; cases h <;> rfl
@[simp] theorem sendEvent_turn (s : State) (h : Option (BitVec 32)) (c n : Nat) (b : List Byte) : (sendEvent s h c n b).turn = s.turn := by
  unfold sendEvent sendOut; cases h <;> rfl
@[simp] theorem sendEvent_agenda (s : State) (h : Option (BitVec 32)) (c n : Nat) (b : List Byte) : (sendEvent s h c n b).agenda = s.agenda := by
  unfold sendEvent sendOut; cases h <;> rfl

/-! ### The fields that an update sets -/

@[simp] theorem updTeam_work_teams (s : State) (n : Nat) (f : Team → Team) :
    (updTeam s n f).work.teams = s.work.teams.map fun t => if t.uid = n then f t else t := rfl
@[simp] theorem updGrid_work_grids (s : State) (n : Nat) (f : Grid → Grid) :
    (updGrid s n f).work.grids = s.work.grids.map fun g => if g.uid = n then f g else g := rfl
@[simp] theorem setCore_work_cores (s : State) (n : Nat) (c : Core) :
    (setCore s n c).work.cores = aSet s.work.cores n c := rfl
@[simp] theorem setOps_work_ops (s : State) (f : List Op → List Op) : (setOps s f).work.ops = f s.work.ops := rfl
@[simp] theorem updCtx_ctl_nodes (s : State) (n : Nat) (f : Ctx → Ctx) : (updCtx s n f).ctl.nodes = s.ctl.nodes := rfl
@[simp] theorem bump_fresh (s : State) : (bump s).fresh = s.fresh + 1 := rfl
@[simp] theorem bumpId_nextId (s : State) : (bumpId s).nextId = s.nextId + 1 := rfl
@[simp] theorem updDefer_defer (s : State) (f : Deferred → Deferred) : (updDefer s f).defer = f s.defer := rfl
@[simp] theorem updHost_host (s : State) (f : HostSt → HostSt) : (updHost s f).host = f s.host := rfl
@[simp] theorem updCen_cen (s : State) (f : CensusSt → CensusSt) : (updCen s f).cen = f s.cen := rfl
@[simp] theorem updFirm_firm (s : State) (f : Firm → Firm) : (updFirm s f).firm = f s.firm := rfl
@[simp] theorem updFab_fab (s : State) (f : Fabric → Fabric) : (updFab s f).fab = f s.fab := rfl
@[simp] theorem updPow_pow (s : State) (f : Power → Power) : (updPow s f).pow = f s.pow := rfl

end Sys2Proof.Machine
end

