-- ==== Sys2Proof/Laws/Parts.lean ====
section
/-!
SUPPORT. Teams, groups and cores read after an update.
-/

namespace Sys2Proof.Machine

/-! ### Lists with keys -/

theorem find?_map_key {α : Type} (key : α → Nat) (f : α → α) (hf : ∀ x, key (f x) = key x) (l : List α) (n : Nat) :
    (l.map fun x => if key x = n then f x else x).find? (fun x => key x == n) = (l.find? fun x => key x == n).map f := by
  induction l with
  | nil => rfl
  | cons a l ih =>
    by_cases h : key a = n
    · simp [h, hf]
    · simp [h, ih]

theorem find?_map_key_ne {α : Type} (key : α → Nat) (f : α → α) (hf : ∀ x, key (f x) = key x) (l : List α) {n m : Nat}
    (hne : m ≠ n) :
    (l.map fun x => if key x = n then f x else x).find? (fun x => key x == m) = l.find? fun x => key x == m := by
  induction l with
  | nil => rfl
  | cons a l ih =>
    by_cases h : key a = n
    · have h1 : (key a == m) = false := by simpa using fun e : key a = m => hne (e.symm.trans h)
      have h2 : (key (f a) == m) = false := by rw [hf]; exact h1
      simp only [List.map_cons, if_pos h, List.find?_cons, h2, h1, ih]
    · simp only [List.map_cons, if_neg h, List.find?_cons, ih]

theorem aGet_aSet {α : Type} (l : List (Nat × α)) (n : Nat) (v : α) : aGet (aSet l n v) n = some v := by
  induction l with
  | nil => simp [aSet, aGet]
  | cons c l ih =>
    obtain ⟨k, w⟩ := c
    unfold aSet
    by_cases h1 : n < k
    · simp [h1, aGet]
    · by_cases h2 : n = k
      · simp [h2, aGet]
      · rw [if_neg h1, if_neg h2, aGet, if_neg fun e : k = n => h2 e.symm, ih]

theorem aGet_aSet_ne {α : Type} (l : List (Nat × α)) {n m : Nat} (v : α) (h : m ≠ n) : aGet (aSet l n v) m = aGet l m := by
  induction l with
  | nil => simp [aSet, aGet, h.symm]
  | cons c l ih =>
    obtain ⟨k, w⟩ := c
    unfold aSet
    by_cases h1 : n < k
    · rw [if_pos h1, aGet, if_neg h.symm]
    · by_cases h2 : n = k
      · subst h2
        rw [if_neg h1, if_pos rfl, aGet, aGet, if_neg h.symm, if_neg h.symm]
      · rw [if_neg h1, if_neg h2, aGet, aGet, ih]

/-! ### Teams and groups -/

theorem teamOf_updTeam (s : State) (n : Nat) (f : Team → Team) (hf : ∀ t, (f t).uid = t.uid) :
    teamOf (updTeam s n f) n = (teamOf s n).map f := find?_map_key Team.uid f hf s.work.teams n

theorem teamOf_updTeam_ne (s : State) {n m : Nat} (f : Team → Team) (hf : ∀ t, (f t).uid = t.uid) (h : m ≠ n) :
    teamOf (updTeam s n f) m = teamOf s m := find?_map_key_ne Team.uid f hf s.work.teams h

@[simp] theorem updGroup_team_uid (t : Team) (k : Nat) (f : Group → Group) : (t.updGroup k f).uid = t.uid := rfl
@[simp] theorem updGroup_team_core (t : Team) (k : Nat) (f : Group → Group) : (t.updGroup k f).core = t.core := rfl
@[simp] theorem updGroup_team_halt (t : Team) (k : Nat) (f : Group → Group) : (t.updGroup k f).halt = t.halt := rfl
@[simp] theorem updGroup_team_ctx (t : Team) (k : Nat) (f : Group → Group) : (t.updGroup k f).ctx = t.ctx := rfl

theorem groupIn_updGroup (t : Team) (k : Nat) (f : Group → Group) (hf : ∀ g, (f g).gid = g.gid) :
    groupIn (t.updGroup k f) k = (groupIn t k).map f := find?_map_key Group.gid f hf t.groups k

theorem groupIn_updGroup_ne (t : Team) {k j : Nat} (f : Group → Group) (hf : ∀ g, (f g).gid = g.gid) (h : j ≠ k) :
    groupIn (t.updGroup k f) j = groupIn t j := find?_map_key_ne Group.gid f hf t.groups h

theorem teamOf_updGroup (s : State) (n k : Nat) (f : Group → Group) :
    teamOf (updGroup s n k f) n = (teamOf s n).map fun t => t.updGroup k f :=
  teamOf_updTeam s n _ fun _ => rfl

theorem teamOf_updGroup_ne (s : State) {n m : Nat} (k : Nat) (f : Group → Group) (h : m ≠ n) :
    teamOf (updGroup s n k f) m = teamOf s m := teamOf_updTeam_ne s _ (fun _ => rfl) h

theorem groupOf_updGroup (s : State) (n k : Nat) (f : Group → Group) (hf : ∀ g, (f g).gid = g.gid) :
    groupOf (updGroup s n k f) n k = (groupOf s n k).map f := by
  unfold groupOf
  rw [teamOf_updGroup]
  cases teamOf s n with
  | none => rfl
  | some t => exact groupIn_updGroup t k f hf

theorem groupOf_updGroup_ne (s : State) {n k m j : Nat} (f : Group → Group) (hf : ∀ g, (f g).gid = g.gid)
    (h : m ≠ n ∨ j ≠ k) : groupOf (updGroup s n k f) m j = groupOf s m j := by
  unfold groupOf
  by_cases hm : m = n
  · subst hm
    have hj : j ≠ k := h.resolve_left fun e => e rfl
    rw [teamOf_updGroup]
    cases teamOf s m with
    | none => rfl
    | some t => exact groupIn_updGroup_ne t f hf hj
  · rw [teamOf_updGroup_ne s k f hm]

/-! ### Cores -/

theorem coreOf_setCore (s : State) (n : Nat) (c : Core) : coreOf (setCore s n c) n = c := by
  simp [coreOf, aGet_aSet]

theorem coreOf_setCore_ne (s : State) {n m : Nat} (c : Core) (h : m ≠ n) : coreOf (setCore s n c) m = coreOf s m := by
  simp [coreOf, aGet_aSet_ne _ c h]

theorem coreOf_updCore (s : State) (n : Nat) (f : Core → Core) : coreOf (updCore s n f) n = f (coreOf s n) :=
  coreOf_setCore s n _

theorem coreOf_updCore_ne (s : State) {n m : Nat} (f : Core → Core) (h : m ≠ n) :
    coreOf (updCore s n f) m = coreOf s m := coreOf_setCore_ne s _ h

/-! ### Register writes -/

theorem applyWr_keeps (g : Group) (w : RegWr) :
    (applyWr g w).gid = g.gid ∧ (applyWr g w).part = g.part ∧ (applyWr g w).bud = g.bud ∧ (applyWr g w).f = g.f ∧
      (applyWr g w).i = g.i ∧ (applyWr g w).e = g.e ∧ (applyWr g w).undo = g.undo ∧ (applyWr g w).ended = g.ended ∧
      (applyWr g w).r.pc = g.r.pc ∧ (applyWr g w).t.inHandler = g.t.inHandler ∧ (applyWr g w).t.replay = g.t.replay ∧
      (applyWr g w).t.pending = g.t.pending ∧ (applyWr g w).t.skid = g.t.skid ∧ (applyWr g w).t.entry = g.t.entry := by
  cases w <;> simp [applyWr]
  split
  · simp
  · split
    · simp
    · split <;> simp

theorem applyWrs_keeps (ws : List RegWr) (g : Group) :
    (applyWrs g ws).gid = g.gid ∧ (applyWrs g ws).part = g.part ∧ (applyWrs g ws).bud = g.bud ∧ (applyWrs g ws).f = g.f ∧
      (applyWrs g ws).i = g.i ∧ (applyWrs g ws).e = g.e ∧ (applyWrs g ws).undo = g.undo ∧ (applyWrs g ws).ended = g.ended ∧
      (applyWrs g ws).r.pc = g.r.pc ∧ (applyWrs g ws).t.inHandler = g.t.inHandler ∧
      (applyWrs g ws).t.replay = g.t.replay ∧ (applyWrs g ws).t.pending = g.t.pending ∧
      (applyWrs g ws).t.skid = g.t.skid ∧ (applyWrs g ws).t.entry = g.t.entry := by
  induction ws generalizing g with
  | nil => simp [applyWrs]
  | cons w ws ih =>
    have h1 := applyWr_keeps g w
    have h2 := ih (applyWr g w)
    have e : applyWrs g (w :: ws) = applyWrs (applyWr g w) ws := rfl
    rw [e]
    simp_all

theorem settleTo_keeps (k : Nat) (g : Group) :
    (settleTo k g).gid = g.gid ∧ (settleTo k g).part = g.part ∧ (settleTo k g).bud = g.bud ∧
      (settleTo k g).f = g.f ∧ (settleTo k g).e = g.e ∧ (settleTo k g).undo = g.undo ∧
      (settleTo k g).ended = g.ended ∧ (settleTo k g).r.pc = g.r.pc ∧ (settleTo k g).t.inHandler = g.t.inHandler ∧
      (settleTo k g).t.replay = g.t.replay ∧ (settleTo k g).t.pending = g.t.pending ∧ (settleTo k g).t.skid = g.t.skid ∧
      (settleTo k g).t.entry = g.t.entry := by
  simp [settleTo, applyWrs_keeps]

theorem settleGroup_keeps (u : Nat) (g : Group) :
    (settleGroup u g).gid = g.gid ∧ (settleGroup u g).part = g.part ∧ (settleGroup u g).bud = g.bud ∧
      (settleGroup u g).f = g.f ∧ (settleGroup u g).e = g.e ∧ (settleGroup u g).undo = g.undo ∧
      (settleGroup u g).ended = g.ended ∧ (settleGroup u g).r.pc = g.r.pc ∧ (settleGroup u g).t.inHandler = g.t.inHandler ∧
      (settleGroup u g).t.replay = g.t.replay ∧ (settleGroup u g).t.pending = g.t.pending ∧ (settleGroup u g).t.skid = g.t.skid ∧
      (settleGroup u g).t.entry = g.t.entry :=
  settleTo_keeps _ g

theorem veil_keeps (k : Nat) (g : Group) :
    (veil k g).gid = g.gid ∧ (veil k g).part = g.part ∧ (veil k g).bud = g.bud ∧
      (veil k g).f = g.f ∧ (veil k g).e = g.e ∧ (veil k g).undo = g.undo ∧
      (veil k g).ended = g.ended ∧ (veil k g).r.pc = g.r.pc ∧ (veil k g).t.inHandler = g.t.inHandler ∧
      (veil k g).t.replay = g.t.replay ∧ (veil k g).t.pending = g.t.pending ∧ (veil k g).t.skid = g.t.skid ∧
      (veil k g).t.entry = g.t.entry := by
  simp [veil, applyWrs_keeps]

@[simp] theorem takeDsts_gid (id : Nat) (f : Option Nat) (ds : List Dst) (g : Group) : (takeDsts id f ds g).gid = g.gid := rfl
@[simp] theorem freeDsts_gid (p : PendDst → Bool) (g : Group) : (freeDsts p g).gid = g.gid := rfl

/-! ### Firmware -/

/-- The image that bring-up starts is verified (R421). -/
theorem verified_goodImage : verified goodImage = true := by simp [verified, goodImage, xmssSig, bytesOfNat, natOfBytes]

end Sys2Proof.Machine
end

