-- ==== Sys2Proof/Laws/Issue.lean ====
section
/-!
SUPPORT. The issue of a group's instruction, said once: with `Ready`, `issue` answers what its body answers at `ctlAt`.
-/

namespace Sys2Proof.Machine

theorem settle_clock_eq (s : State) (x : Turn) (u n k v : Nat) :
    settle { s with clock := u, turn := x } n k v =
      updGroup (bump { s with clock := u, turn := x }) n k (settleGroup v) := rfl

/-- What an instruction reads of its group apart from the registers is what the group holds. -/
theorem settled_keeps (i : Iss) (s : State) (t : Team) (g : Group) :
    (settled i s t g).gid = g.gid ∧ (settled i s t g).part = g.part ∧ (settled i s t g).bud = g.bud ∧
      (settled i s t g).f = g.f ∧ (settled i s t g).r.pc = g.r.pc ∧ (settled i s t g).t.inHandler = g.t.inHandler ∧
      (settled i s t g).t.replay = g.t.replay ∧ (settled i s t g).t.entry = g.t.entry := by
  simp [settled, veil_keeps, settleGroup_keeps]

theorem teamOf_atIssue {i : Iss} {s : State} {t : Team} {g : Group} (h : teamOf s t.uid = some t) :
    teamOf (atIssue i s t g) t.uid = some (ctlAt i s t g).t := by
  unfold atIssue
  rw [settle_clock_eq, teamOf_updGroup]
  have e : teamOf (bump { s with clock := issueU i s t g, turn := turnAt i s t g (issueU i s t g) }) t.uid = teamOf s t.uid := rfl
  rw [e, h]
  rfl

theorem groupIn_atIssue {i : Iss} {s : State} {t : Team} {g : Group} (h : groupIn t g.gid = some g) :
    groupIn (ctlAt i s t g).t g.gid = some (settleGroup (issueU i s t g) g) := by
  show groupIn (t.updGroup g.gid _) g.gid = _
  rw [groupIn_updGroup _ _ _ fun x => (settleGroup_keeps _ x).1, h]
  rfl

/-- Where a group can issue, `prep` brings it to its issue. -/
theorem prep_ready {i : Iss} {s : State} {t : Team} {g : Group} (h : CanIssue i s t g) :
    prep i s = .go { ctlAt i s t g with on := i.lane || g.t.replay.isSome || guardOn (settled i s t g) i.h.guard }
      (atIssue i s t g) := by
  have hk := settled_keeps i s t g
  have hcur : curGroup s = some (t, g) := by simp [curGroup, h.cur, h.team, h.group]
  have hflag : flagOf (settled i s t g) i.h.fs = flagOf g i.h.fs := by simp [flagOf, hk]
  have hregs : i.vs.any (fun n => decide ((settled i s t g).bud ≤ n)) = false := by
    simp only [hk, List.any_eq_false, decide_eq_true_eq]
    exact fun n hn => by have := h.regs n hn; omega
  have hll : (i.ll && i.wr && (flagOf (settled i s t g) i.h.fs).isNone) = false := by
    rw [hflag]
    cases h1 : i.ll <;> cases h2 : i.wr <;> simp
    exact Option.isSome_iff_ne_none.mpr (h.flag h1 h2)
  unfold prep
  have ht : mayIssue t g (issueClock s t g i.h.dist i.unit) = true := h.time
  simp only [hcur, h.may, ht, h.free, Bool.not_true, Bool.or_false, if_false, Bool.false_eq_true]
  have e1 : settle { s with clock := issueClock s t g i.h.dist i.unit
                            turn := turnAt i s t g (issueClock s t g i.h.dist i.unit) } t.uid g.gid
      (issueClock s t g i.h.dist i.unit) = atIssue i s t g := rfl
  have e2 : veil s.fresh (settleGroup (issueU i s t g) g) = settled i s t g := rfl
  have hr : (settled i s t g).t.replay = g.t.replay := by simp [hk]
  simp only [e1, teamOf_atIssue h.team, groupIn_atIssue h.group, e2, hll, hregs, hr, if_false, Bool.false_eq_true]
  have hfull : (i.ll && (i.lane || g.t.replay.isSome || guardOn (settled i s t g) i.h.guard) &&
      flagFull g (flagOf g i.h.fs)) = false := by
    cases hl : i.ll with
    | false => simp
    | true =>
      cases hf : flagOf g i.h.fs with
      | none => simp [flagFull]
      | some k =>
        cases hon : i.lane || g.t.replay.isSome || guardOn (settled i s t g) i.h.guard with
        | false => simp
        | true =>
          have hte : TakesEffect i s t g := by
            simp only [Bool.or_eq_true] at hon
            rcases hon with (h1 | h1) | h1
            · exact .inl h1
            · exact .inr (.inl (Option.isSome_iff_ne_none.mp h1))
            · exact .inr (.inr h1)
          simpa [flagFull] using h.room hl hte k hf
  simp only [hfull, if_false, Bool.false_eq_true]
  refine congrArg₂ Prep.go ?_ rfl
  have hu : (ctlAt i s t g).t.uid = t.uid := rfl
  rw [hu]
  simp only [ctlAt, activeAt, nextAt, hr]
  rfl

/-- With `CanIssue`, `issue` answers what its body answers at `ctlAt`. -/
theorem issue_ready {i : Iss} {s : State} {t : Team} {g : Group} (h : CanIssue i s t g) (hon : TakesEffect i s t g)
    (body : Ctl → State → Body) :
    issue i body s =
      match body (ctlAt i s t g) (atIssue i s t g) with
      | .done s2 => .next (retire i (ctlAt i s t g) s2 (ctlAt i s t g).next 0)
      | .jump s2 pc hold => .next (retire i (ctlAt i s t g) s2 pc hold)
      | .trap r => .next (raisePrecise (atIssue i s t g) t.uid g.gid (ctlAt i s t g).pc r)
      | .stop s2 => .next s2
      | .held => .next s := by
  have e : (i.lane || g.t.replay.isSome || guardOn (settled i s t g) i.h.guard) = true := by
    rcases hon with h1 | h1 | h1
    · simp [h1]
    · cases hr : g.t.replay <;> simp_all
    · simp [h1]
  unfold issue
  rw [prep_ready h]
  simp only [e, if_true]
  rfl

/-- A false uniform guard leaves only the issue (R16). -/
theorem issue_off {i : Iss} {s : State} {t : Team} {g : Group} (h : CanIssue i s t g) (hon : ¬ TakesEffect i s t g)
    (body : Ctl → State → Body) :
    issue i body s = .next (retire i (ctlAt i s t g) (atIssue i s t g) (ctlAt i s t g).next 0) := by
  have e : (i.lane || g.t.replay.isSome || guardOn (settled i s t g) i.h.guard) = false := by
    unfold TakesEffect at hon
    simp only [not_or] at hon
    obtain ⟨h1, h2, h3⟩ := hon
    cases hr : g.t.replay <;> simp_all
  unfold issue
  rw [prep_ready h]
  simp only [e]
  unfold retire dbgStep
  rfl

/-! ### The whole next state -/

theorem updGroup_updGroup (s : State) (n k : Nat) (f f' : Group → Group) (hf : ∀ x, (f x).gid = x.gid) :
    updGroup (updGroup s n k f) n k f' = updGroup s n k fun x => f' (f x) := by
  unfold updGroup updTeam
  simp only [List.map_map]
  congr 2
  apply List.map_congr_left
  intro x _
  by_cases hx : x.uid = n
  · simp only [Function.comp, hx, if_true, Team.updGroup, List.map_map]
    congr 1
    apply List.map_congr_left
    intro y _
    by_cases hy : y.gid = k
    · simp [hy, hf]
    · simp [hy]
  · simp [hx]

/-- The group's part, the cores' part and the operations' part of an issue, together. -/
theorem retireOnly_form {i : Iss} {s : State} {t : Team} {g : Group} (eff : Group → Group)
    (ops : List Op) (hf : ∀ x, (eff x).gid = x.gid) (ho : ∀ o ∈ ops, s.nextId ≤ o.id) (X : State) (pc : Dword) (hold : Nat)
    (hX : X = { updGroup (atIssue i s t g) t.uid g.gid eff with
      nextId := s.nextId + ops.length, fresh := s.fresh + 1
      work := { (updGroup (atIssue i s t g) t.uid g.gid eff).work with ops := s.work.ops ++ ops } }) :
    retireOnly i (ctlAt i s t g) X pc hold = afterIssue i s t g pc hold eff ops := by
  have hk := settleGroup_keeps (issueU i s t g)
  have hkg := settled_keeps i s t g
  have hinh : (settled i s t g).t.inHandler = g.t.inHandler := by simp [hkg]
  have hfid : firstId (settled i s t g) = firstId g := by simp [firstId, hkg]
  have hpart : (settled i s t g).part = g.part := by simp [hkg]
  have hset : ((match (ctlAt i s t g).t.halt with
      | .running => false | .settling _ => true | .service _ => true) && !(ctlAt i s t g).g.t.inHandler) =
      issuesSettling t g := by
    show ((match t.halt with | .running => false | .settling _ => true | .service _ => true) &&
      !(settled i s t g).t.inHandler) = _
    rw [hinh]; rfl
  have hops : ops.map (countAfter t.uid g.gid (firstId g) s.nextId) = ops := by
    conv_rhs => rw [← List.map_id ops]
    apply List.map_congr_left
    intro o hm
    have := ho o hm
    unfold countAfter
    rw [if_neg (by omega)]
    rfl
  subst hX
  unfold retireOnly
  have e1 : (ctlAt i s t g).g = settled i s t g := rfl
  have e2 : (ctlAt i s t g).u = issueU i s t g := rfl
  have e3 : (ctlAt i s t g).tid = t.uid := rfl
  have e4 : (ctlAt i s t g).gid = g.gid := rfl
  have e5 : (ctlAt i s t g).t.core = t.core := rfl
  have e6 : (ctlAt i s t g).id0 = s.nextId := rfl
  rw [e1, e2, e3, e4, e5, e6, hpart, hfid]
  unfold atIssue
  rw [settle_clock_eq, updGroup_updGroup _ _ _ _ _ fun x => (hk x).1]
  unfold afterIssue updGroup updTeam setOps updCore setCore bump coreOf issueCore
  simp only [List.map_map, List.map_append, hops]
  congr 2
  apply List.map_congr_left
  intro x _
  by_cases hx : x.uid = t.uid
  · simp only [Function.comp, hx, if_true, Team.updGroup, List.map_map]
    congr 1
    apply List.map_congr_left
    intro y _
    by_cases hy : y.gid = g.gid
    · simp only [hy, if_true, Function.comp, hf, (hk y).1]
      rw [← hset]
      rfl
    · simp [hy]
  · simp [hx]

/-- The whole of an issue, with the step bit clear. -/
theorem retire_form {i : Iss} {s : State} {t : Team} {g : Group} (h : Ready i s t g) (eff : Group → Group)
    (ops : List Op) (hf : ∀ x, (eff x).gid = x.gid) (ho : ∀ o ∈ ops, s.nextId ≤ o.id) (X : State) (pc : Dword) (hold : Nat)
    (hX : X = { updGroup (atIssue i s t g) t.uid g.gid eff with
      nextId := s.nextId + ops.length, fresh := s.fresh + 1
      work := { (updGroup (atIssue i s t g) t.uid g.gid eff).work with ops := s.work.ops ++ ops } }) :
    retire i (ctlAt i s t g) X pc hold = afterIssue i s t g pc hold eff ops := by
  have hro := retireOnly_form eff ops hf ho X pc hold hX
  unfold retire dbgStep
  have hctx : ((ctxOf (retireOnly i (ctlAt i s t g) X pc hold) (ctlAt i s t g).t.ctx).map fun k => k.stp).getD false =
      false := by
    rw [hro]; exact h.step
  rw [hctx, hro]
  rfl

theorem logWrs_gid (d : Bool) (u : Nat) (pc : Dword) (k : Nat) (ws : List RegWr) (g : Group) :
    (logWrs d u pc k ws g).gid = g.gid := by
  unfold logWrs
  split <;> rfl

theorem incFlag_gid (f : Option Nat) (g : Group) : (incFlag f g).gid = g.gid := by
  cases f <;> rfl

/-- An instruction whose own part only changes its group. -/
theorem done_group {i : Iss} {s : State} {t : Team} {g : Group} (h : Ready i s t g) (eff : Group → Group)
    (hf : ∀ x, (eff x).gid = x.gid) (pc : Dword) (hold : Nat) :
    retire i (ctlAt i s t g) (updGroup (atIssue i s t g) t.uid g.gid eff) pc hold =
      afterIssue i s t g pc hold eff [] :=
  retire_form h eff [] hf (by simp) _ pc hold (by simp only [List.append_nil, List.length_nil, Nat.add_zero]; rfl)

/-- A fixed-latency instruction that is ready writes its results and does nothing else. -/
theorem fixed_ready {i : Iss} {s : State} {t : Team} {g : Group} (h : Ready i s t g) (hon : TakesEffect i s t g)
    (lat : Nat) (f : Ctl → List RegWr) :
    fixed i lat f s = .next (afterFixed i s t g lat (f (ctlAt i s t g))) := by
  unfold fixed
  rw [issue_ready h.toCanIssue hon]
  exact congrArg _ (done_group h _ (fun x => by simp [logWrs_gid]) _ _)

/-- With the step bit set a fixed-latency instruction writes its results and its group traps DBGSTEP (R406). -/
theorem fixed_steps {i : Iss} {s : State} {t : Team} {g : Group} (h : CanIssue i s t g) (hs : stepBit s t = true)
    (hon : TakesEffect i s t g) (lat : Nat) (f : Ctl → List RegWr) :
    fixed i lat f s = .next (raisePrecise (afterFixed i s t g lat (f (ctlAt i s t g))) t.uid g.gid g.r.pc
      { cause := .dbgstep, mask := (ctlAt i s t g).em }) := by
  unfold fixed
  rw [issue_ready h hon]
  refine congrArg Host.Outcome.next ?_
  have e : retireOnly i (ctlAt i s t g) (updGroup (atIssue i s t g) t.uid g.gid
      (writesAt i s t g lat (f (ctlAt i s t g)))) (ctlAt i s t g).next 0 = afterFixed i s t g lat (f (ctlAt i s t g)) :=
    retireOnly_form _ [] (fun x => by simp [writesAt, logWrs_gid]) (by simp) _ _ _
      (by simp only [List.append_nil, List.length_nil, Nat.add_zero]; rfl)
  have hpc : (ctlAt i s t g).pc = g.r.pc := by
    show (settled i s t g).r.pc = _
    simp [settled_keeps i s t g]
  unfold retire dbgStep
  have hctx : ((ctxOf (afterFixed i s t g lat (f (ctlAt i s t g))) (ctlAt i s t g).t.ctx).map fun k => k.stp).getD false =
      true := hs
  have e2 : pendWrs (ctlAt i s t g) lat (f (ctlAt i s t g)) (atIssue i s t g) =
      updGroup (atIssue i s t g) t.uid g.gid (writesAt i s t g lat (f (ctlAt i s t g))) := rfl
  simp only [e2, e, hctx, hpc, if_true]
  rfl

/-- A long-latency instruction that is ready puts its operation in flight and does nothing else. -/
theorem long_ready {i : Iss} {s : State} {t : Team} {g : Group} (h : Ready i s t g) (k : OpKind) (eff : Group → Group)
    (hf : ∀ x, (eff x).gid = x.gid) :
    retire i (ctlAt i s t g) (startOp (ctlAt i s t g) k (updGroup (atIssue i s t g) t.uid g.gid eff))
      (ctlAt i s t g).next 0 = afterLong i s t g k eff := by
  refine retire_form h _ _ (fun x => ?_) (by simp [newOp]) _ _ _ ?_
  · simp [opTaken, incFlag_gid, logWrs_gid, hf]
  · unfold startOp
    have e3 : (ctlAt i s t g).tid = t.uid := rfl
    have e4 : (ctlAt i s t g).gid = g.gid := rfl
    simp only [e3, e4]
    rw [updGroup_updGroup _ _ _ _ _ hf]
    rfl

/-- A uniform instruction whose guard is false only issues (R16). -/
theorem off_ready {i : Iss} {s : State} {t : Team} {g : Group} (h : Ready i s t g) (hon : ¬ TakesEffect i s t g)
    (body : Ctl → State → Body) :
    issue i body s = .next (afterIssue i s t g (ctlAt i s t g).next 0 id []) := by
  rw [issue_off h.toCanIssue hon, ← done_group h id (fun _ => rfl)]
  have e : updGroup (atIssue i s t g) t.uid g.gid id = atIssue i s t g := by
    unfold updGroup updTeam Team.updGroup
    simp
  rw [e]

/-! ### One lemma for each form of claim -/

theorem updGroup_id (s : State) (n k : Nat) : updGroup s n k id = s := by
  unfold updGroup updTeam Team.updGroup
  simp

theorem ctlAt_pc (i : Iss) (s : State) (t : Team) (g : Group) : (ctlAt i s t g).pc = g.r.pc := by
  show (settled i s t g).r.pc = _
  simp [settled_keeps i s t g]

theorem acts_of {i : Iss} {x : Instr} {ok : Ctl → State → Prop} {eff : Ctl → State → State} (body : Ctl → State → Body)
    (hx : ∀ s, exec x s = issue i body s) (hb : ∀ c s, ok c s → body c s = .done (eff c s)) : Acts i x ok eff := by
  intro s t g hr ho hok
  rw [hx, issue_ready hr.toCanIssue ho, hb _ _ hok]

theorem starts_of {i : Iss} {x : Instr} {k : Ctl → OpKind}
    (hx : ∀ s, exec x s = issue i (fun c s1 => .done (startOp c (k c) s1)) s) : Starts i x k := by
  intro s t g hr ho
  rw [hx, issue_ready hr.toCanIssue ho, ← long_ready hr _ id (fun _ => rfl), updGroup_id]

theorem traps_of {i : Iss} {x : Instr} {bad : Ctl → State → Prop} {k : Cause} (body : Ctl → State → Body)
    (hx : ∀ s, exec x s = issue i body s)
    (hb : ∀ c s, bad c s → body c s = .trap { cause := k, mask := if i.lane then c.act else c.em }) :
    TrapsWith i x bad k := by
  intro s t g hr ho hok
  rw [hx, issue_ready hr.toCanIssue ho, hb _ _ hok, ctlAt_pc]

theorem goesTo_of {i : Iss} {x : Instr} {pc : Ctl → Dword} {hold : Ctl → Nat} (take : Ctl → Bool) (tgt : Ctl → Dword)
    (hd : Ctl → Nat)
    (hx : ∀ s, exec x s = issue i (fun c s1 => if take c then .jump s1 (tgt c) (hd c) else .done s1) s)
    (h1 : ∀ c, pc c = if take c then tgt c else c.next) (h2 : ∀ c, hold c = if take c then hd c else 0) :
    GoesTo i x pc hold := by
  intro s t g hr ho
  rw [hx, issue_ready hr.toCanIssue ho, h1, h2, ← done_group hr id (fun _ => rfl), updGroup_id]
  cases take (ctlAt i s t g) <;> rfl

end Sys2Proof.Machine
end

