-- ==== Sys2Proof/Laws/Memory.lean ====
section
/-!
SUPPORT. Memory: a byte read after a write, and that every memory operation keeps the canonical form.
-/

namespace Sys2Proof.Machine

theorem memGet_lt_of_wfFrom {m : Memory} : ∀ {lo a : Nat}, wfFrom lo m = true → a < lo → memGet m a = 0 := by
  induction m with
  | nil => intros; rfl
  | cons c r ih =>
    obtain ⟨k, b⟩ := c
    intro lo a h ha
    simp only [wfFrom, Bool.and_eq_true, decide_eq_true_eq] at h
    have hk : a < k := by omega
    simp [memGet, hk, show k ≠ a by omega]

theorem wfFrom_mono {m : Memory} : ∀ {lo hi : Nat}, wfFrom hi m = true → lo ≤ hi → wfFrom lo m = true := by
  cases m with
  | nil => intros; rfl
  | cons c r =>
    obtain ⟨k, b⟩ := c
    intro lo hi h hle
    simp only [wfFrom, Bool.and_eq_true, decide_eq_true_eq] at h ⊢
    exact ⟨⟨by omega, h.1.2⟩, h.2⟩

/-- Writing a byte keeps the form. -/
theorem wfFrom_memSet {m : Memory} : ∀ {lo a : Nat} {b : Byte}, wfFrom lo m = true → lo ≤ a →
    wfFrom lo (memSet m a b) = true := by
  induction m with
  | nil =>
    intro lo a b _ ha
    by_cases hb : b = 0
    · simp [memSet, hb, wfFrom]
    · simp only [memSet, if_neg hb, wfFrom, Bool.and_eq_true, decide_eq_true_eq]
      exact ⟨⟨ha, by simpa using hb⟩, trivial⟩
  | cons c r ih =>
    obtain ⟨k, x⟩ := c
    intro lo a b h ha
    have h' := h
    simp only [wfFrom, Bool.and_eq_true, decide_eq_true_eq] at h'
    obtain ⟨⟨h1, h2⟩, h3⟩ := h'
    unfold memSet
    by_cases hlt : a < k
    · by_cases hb : b = 0
      · simpa [hlt, hb] using h
      · simp only [hlt, if_true, hb, if_false, wfFrom, Bool.and_eq_true, decide_eq_true_eq]
        refine ⟨⟨ha, by simpa using hb⟩, ⟨by omega, h2⟩, h3⟩
    · by_cases heq : a = k
      · subst heq
        by_cases hb : b = 0
        · simp only [hlt, if_false, if_true, hb]
          exact wfFrom_mono h3 (by omega)
        · simp only [hlt, if_false, if_true, hb, wfFrom, Bool.and_eq_true, decide_eq_true_eq]
          exact ⟨⟨ha, by simpa using hb⟩, h3⟩
      · simp only [hlt, heq, if_false, wfFrom, Bool.and_eq_true, decide_eq_true_eq]
        exact ⟨⟨h1, h2⟩, ih h3 (by omega)⟩

theorem Memory.wf_memSet {m : Memory} {a : Nat} {b : Byte} (h : m.wf = true) : (memSet m a b).wf = true :=
  wfFrom_memSet h (Nat.zero_le a)

theorem Memory.wf_memSetN {m : Memory} {a : Nat} {bs : List Byte} (h : m.wf = true) : (memSetN m a bs).wf = true := by
  induction bs generalizing m a with
  | nil => exact h
  | cons b bs ih => exact ih (Memory.wf_memSet h)

theorem Memory.wf_memSetCells {m : Memory} {cs : List Host.Cell} (h : m.wf = true) : (memSetCells m cs).wf = true := by
  induction cs generalizing m with
  | nil => exact h
  | cons c cs ih => exact ih (Memory.wf_memSet h)

theorem Memory.wf_memPut {m : Memory} {a n v : Nat} (h : m.wf = true) : (memPut m a n v).wf = true :=
  Memory.wf_memSetN h

theorem wfFrom_filter {m : Memory} (p : Host.Cell → Bool) : ∀ {lo : Nat}, wfFrom lo m = true →
    wfFrom lo (m.filter p) = true := by
  induction m with
  | nil => intros; rfl
  | cons c r ih =>
    obtain ⟨k, x⟩ := c
    intro lo h
    simp only [wfFrom, Bool.and_eq_true, decide_eq_true_eq] at h
    obtain ⟨⟨h1, h2⟩, h3⟩ := h
    by_cases hp : p (k, x) = true
    · simp only [List.filter_cons, hp, if_true, wfFrom, Bool.and_eq_true, decide_eq_true_eq]
      exact ⟨⟨h1, h2⟩, ih h3⟩
    · simp only [List.filter_cons, hp]
      exact wfFrom_mono (ih h3) (by omega)

theorem Memory.wf_memClear {m : Memory} {a n : Nat} (h : m.wf = true) : (memClear m a n).wf = true := wfFrom_filter _ h

/-- A byte written is the byte read. -/
theorem memGet_memSet_same {m : Memory} : ∀ {lo a : Nat} {b : Byte}, wfFrom lo m = true → memGet (memSet m a b) a = b := by
  induction m with
  | nil =>
    intro lo a b _
    by_cases hb : b = 0
    · simp [memSet, hb, memGet]
    · simp only [memSet, if_neg hb, memGet, if_true]
  | cons c r ih =>
    obtain ⟨k, x⟩ := c
    intro lo a b h
    simp only [wfFrom, Bool.and_eq_true, decide_eq_true_eq] at h
    unfold memSet
    by_cases hlt : a < k
    · by_cases hb : b = 0
      · simp [hlt, hb, memGet, show k ≠ a by omega]
      · simp only [hlt, if_true, if_neg hb, memGet]
    · by_cases heq : a = k
      · subst heq
        by_cases hb : b = 0
        · simp only [hlt, if_false, if_true, hb]
          exact memGet_lt_of_wfFrom h.2 (by omega)
        · simp only [hlt, if_false, if_true, if_neg hb, memGet]
      · simp only [hlt, heq, if_false, memGet, show k ≠ a from fun e => heq e.symm]
        exact ih h.2

/-- A write leaves every other byte alone. -/
theorem memGet_memSet_other {m : Memory} : ∀ {lo a x : Nat} {b : Byte}, wfFrom lo m = true → x ≠ a →
    memGet (memSet m a b) x = memGet m x := by
  induction m with
  | nil =>
    intro lo a x b _ hx
    by_cases hb : b = 0
    · simp [memSet, hb]
    · simp only [memSet, if_neg hb, memGet, if_neg hx.symm]
      split <;> rfl
  | cons c r ih =>
    obtain ⟨k, y⟩ := c
    intro lo a x b h hx
    simp only [wfFrom, Bool.and_eq_true, decide_eq_true_eq] at h
    unfold memSet
    by_cases hlt : a < k
    · by_cases hb : b = 0
      · simp [hlt, hb]
      · simp only [hlt, if_true, hb, if_false, memGet, hx.symm]
        by_cases h1 : x < a
        · simp [h1, show x < k by omega, show k ≠ x by omega]
        · simp [h1]
    · by_cases heq : a = k
      · subst heq
        by_cases hb : b = 0
        · simp only [hlt, if_false, if_true, hb, memGet, hx.symm]
          by_cases h1 : x < a
          · simp only [h1, if_true]
            exact memGet_lt_of_wfFrom h.2 (by omega)
          · simp [h1]
        · simp only [hlt, if_false, if_true, if_neg hb, memGet, hx.symm]
      · simp only [hlt, heq, if_false, memGet]
        by_cases h1 : k = x
        · simp [h1]
        · by_cases h2 : x < k
          · simp [h1, h2]
          · simp only [h1, h2, if_false]
            exact ih h.2 hx

theorem memGet_set_same {m : Memory} {a : Nat} {b : Byte} (h : m.wf = true) : memGet (memSet m a b) a = b :=
  memGet_memSet_same h

theorem memGet_set_other {m : Memory} {a x : Nat} {b : Byte} (h : m.wf = true) (hx : x ≠ a) :
    memGet (memSet m a b) x = memGet m x := memGet_memSet_other h hx

/-- Bytes outside a run that is written stay. -/
theorem memGet_memSetN_other {m : Memory} {a x : Nat} {bs : List Byte} (h : m.wf = true)
    (hx : x < a ∨ a + bs.length ≤ x) : memGet (memSetN m a bs) x = memGet m x := by
  induction bs generalizing m a with
  | nil => rfl
  | cons b bs ih =>
    simp only [List.length_cons] at hx
    rw [memSetN, ih (Memory.wf_memSet h) (by omega), memGet_set_other h (by omega)]

/-- A run that is written reads back. -/
theorem memGet_memSetN_same {m : Memory} {a i : Nat} {bs : List Byte} (h : m.wf = true) (hi : i < bs.length) :
    memGet (memSetN m a bs) (a + i) = bs[i] := by
  induction bs generalizing m a i with
  | nil => simp at hi
  | cons b bs ih =>
    cases i with
    | zero =>
      rw [memSetN, memGet_memSetN_other (Memory.wf_memSet h) (by omega)]
      exact memGet_set_same h
    | succ j =>
      have e : a + (j + 1) = a + 1 + j := by omega
      rw [memSetN, e]
      simpa using ih (Memory.wf_memSet h) (by simpa using hi)

end Sys2Proof.Machine
end

