-- ==== Sys2Proof/Laws/Rhizoid.lean ====
section
/-!
SUPPORT. The instruction of a Rhizoid thread (R334, R336): what its issue answers, from the answer of its own function.
-/

namespace Sys2Proof.Machine

/-- An instruction whose function answers an effect goes on at the next word, or where it jumps to. -/
theorem zActs_of {arith : Bool} {x : Instr} {row : String} {f : Nat → ZRun → State → ZRes}
    {ok : Nat → ZRun → State → Prop} {eff : Nat → ZRun → State → State × ZRun} {pc : ZRun → Int}
    (hx : ∀ s, exec x s = zIssue row arith f s)
    (h : ∀ s ch z, curZ s = some (ch, arith, z) → ok ch z s →
      (f ch z s = .done (eff ch z s).1 (eff ch z s).2 ∧ pc z = z.pc arith + 4) ∨
        f ch z s = .jump (eff ch z s).1 (eff ch z s).2 (pc z)) : ZActs arith x ok eff pc := by
  intro s ch z hc ho
  rw [hx, zIssue, hc]
  simp only [if_true, zStep]
  rcases h s ch z hc ho with ⟨h1, h2⟩ | h1
  · rw [h1, h2]
  · rw [h1]

/-- An instruction that changes only the threads' registers does so. -/
theorem zSets_of {arith : Bool} {x : Instr} {row : String} {f g : ZRun → ZRun}
    (hx : ∀ s, exec x s = zReg row arith f s) (h : ∀ z, g z = f z) : ZSets arith x g :=
  zActs_of hx fun _ _ z _ _ => .inl ⟨by rw [h], rfl⟩

/-- An instruction whose function answers a cause aborts the command. -/
theorem zAborts_of {arith : Bool} {x : Instr} {row : String} {f : Nat → ZRun → State → ZRes}
    {bad : Nat → ZRun → State → Prop} {k : Cause} {r : ZRun → Nat} (hx : ∀ s, exec x s = zIssue row arith f s)
    (h : ∀ s ch z, curZ s = some (ch, arith, z) → bad ch z s → f ch z s = .stop k (r z)) : ZAborts arith x bad k r := by
  intro s ch z hc ho
  rw [hx, zIssue, hc]
  simp only [if_true, zStep, h s ch z hc ho, pc12]

/-- An instruction whose function waits changes nothing. -/
theorem zWaits_of {arith : Bool} {x : Instr} {row : String} {f : Nat → ZRun → State → ZRes}
    {busy : Nat → ZRun → State → Prop} (hx : ∀ s, exec x s = zIssue row arith f s)
    (h : ∀ s ch z, curZ s = some (ch, arith, z) → busy ch z s → f ch z s = .wait s) : ZWaits arith x busy := by
  intro s ch z hc ho
  rw [hx, zIssue, hc]
  simp only [if_true, zStep, h s ch z hc ho]

end Sys2Proof.Machine
end

