-- ==== Sys2Proof/Laws/Stream.lean ====
section
/-!
SUPPORT. The issue of a stream instruction, said once: with `StreamReady`, `streamIssue` answers what its body answers.
-/

namespace Sys2Proof.Machine

theorem stream_ready {s : State} {t : Team} {m : MStream} (h : StreamReady s t m) (row : String) (len : Nat)
    (unit : State → Team → MStream → Nat) (body : SCtl → State → SBody) :
    streamIssue row len unit body s =
      match body (streamCtl s t m (unit s t m)) (streamAt s m (unit s t m)) with
      | .done s2 hold => .next (updStream s2 t.uid fun k =>
          { k with pc := m.pc + BitVec.ofNat 64 len, hold := max ((streamCtl s t m (unit s t m)).u + 1) hold })
      | .jump s2 pc => .next (updStream s2 t.uid fun k =>
          { k with pc := pc, hold := max ((streamCtl s t m (unit s t m)).u + 1) 0 })
      | .trap c pc addr info => .next (stopTeam (streamAt s m (unit s t m)) t.uid (causeCode c) pc addr info)
      | .wait s2 => .next s2
      | .held => .next s := by
  have hc : curStream s = some (t, m) := by simp [curStream, h.cur, h.team, h.stream]
  unfold streamIssue
  rw [hc]
  simp only [h.may, Bool.not_true]
  rfl

theorem onStream_ready {s : State} {t : Team} {m : MStream} (h : StreamReady s t m) : onStream s = true := by
  simp [onStream, h.cur]

theorem streamActs_of {x : Instr} {row : String} {len : Nat} {unit : State → Team → MStream → Nat}
    {ok : SCtl → State → Prop} {eff : SCtl → State → State} {hold : SCtl → Nat} (body : SCtl → State → SBody)
    (hx : ∀ s t m, StreamReady s t m → exec x s = streamIssue row len unit body s)
    (hb : ∀ c s, ok c s → body c s = .done (eff c s) (hold c)) : StreamActs x len unit ok eff hold := by
  intro s t m hr c s1 hok
  rw [hx s t m hr, stream_ready hr, hb _ _ hok]

theorem streamStops_of {x : Instr} {row : String} {len : Nat} {unit : State → Team → MStream → Nat}
    {bad : SCtl → State → Prop} {k : Cause} {info : BitVec 4} (body : SCtl → State → SBody)
    (hx : ∀ s t m, StreamReady s t m → exec x s = streamIssue row len unit body s)
    (hb : ∀ c s, bad c s → body c s = .trap k c.m.pc 0 info) : StreamStops x unit bad k info := by
  intro s t m hr hok
  rw [hx s t m hr, stream_ready hr, hb _ _ hok]
  rfl

theorem streamWaits_of {x : Instr} {row : String} {len : Nat} {unit : State → Team → MStream → Nat}
    {busy : SCtl → State → Prop} (body : SCtl → State → SBody)
    (hx : ∀ s t m, StreamReady s t m → exec x s = streamIssue row len unit body s)
    (hb : ∀ c s, busy c s → body c s = .held) : StreamWaits x unit busy := by
  intro s t m hr hok
  rw [hx s t m hr, stream_ready hr, hb _ _ hok]

end Sys2Proof.Machine
end

