-- ==== Sys2Proof/Tests/Slice0.lean ====
section
/-!
SUPPORT. The model's own tests: words of the spec against the decoder, terms that WellFormed refuses, one-step tests with
results worked out in the spec or by hand from it, and for every statement with hypotheses a concrete state that meets
them.
-/

namespace Sys2Proof.Tests

open Sys2Proof Sys2Proof.Machine

/-! ### Words (R10, R13, R195, R335) -/

/-- An extended or literal instruction's three words. -/
def long (w0 w1 w2 : Nat) : Option Instr := decodeTableWord 96 (w0 + w1 * 2 ^ 32 + w2 * 2 ^ 64)

def ext (d : Nat) : Hdr := ⟨.ext, d, false, none⟩
def base (d : Nat) : Hdr := ⟨.base, d, false, none⟩

/-- R77: `vfma.d2 v8, v1, v2`, OP 0x31. -/
theorem test_word_vfma : decodeTableWord 32 0x13120108 = some (.vfma (base 2) 8 1 2) := by decide
/-- R116: `red.fadd.f32`, DIST 4, op 8, 64-bit address in `v2`. -/
theorem test_word_red :
    long 0xA4901000 0x00020D00 0 = some (.red (ext 4) .fadd false ⟨0, 0⟩ ⟨.v, 0, .reg 2, 0, 0⟩ (.reg 13)) := by decide
/-- R210: a COPY of mode 0 with `s2`, layout `s3`, coordinates from `s1`, DIST 2, no counter. -/
theorem test_word_copy :
    long 0x96800000 0x02030100 0 = some (.copy (ext 2) 0 2 false ⟨3, 1, none, 0, 0, 0⟩) := by decide
/-- R202: `mma` of tile 1 with slot 2, masks 4, 4, 4. -/
theorem test_word_mma : long 0x85800002 0x01020004 0x444 = some (.mma 1 2 0 4 false true ⟨4, 4, 4⟩) := by decide
/-- R205: `mdrain x14, acc0, x20`. -/
theorem test_word_mdrain : long 0x85900000 0x0E001400 0x400 = some (.mdrain 14 0 20 ⟨0, 0, 4⟩) := by decide
/-- R269: REVM, a TAPESPILL, a SOLICIT, a KNOTSET, an FRGRAD, an NMPOST. -/
theorem test_words_adjoint :
    long 0x8F200000 0 0 = some (.revm (ext 1)) ∧ long 0x8F401000 0x05040000 0 = some (.tapespill (ext 1) 5 4) ∧
    long 0x8F60000B 0x02060000 0 = some (.solicit (ext 1) 3 true 2 (.reg 6)) ∧
    long 0x86200000 0x01060000 0 = some (.knotset 1 6) ∧
    long 0x86400000 0x14020804 0x444 = some (.frgrad 20 2 8 4 ⟨4, 4, 4⟩) ∧
    long 0x8F800006 0x01060000 0 = some (.nmpost (ext 1) 2 (some 1) 6) := by decide
/-- R345, R343: `zdot8.sat e4, e8, e9` and a ZWPAIR. -/
theorem test_words_rhizoid :
    decodeTableWord 32 0xA4884801 = some (.zdot8 true false 4 8 9) ∧
    decodeTableWord 32 0x344321C4 = some (.zwpair 2 3 4 8 0 1 false) := by decide
/-- R94: a guarded VCVT, and the same word with a reserved pair of types (R26). -/
theorem test_word_vcvt :
    long 0x8B410881 0x0AC80000 0 =
      some (.vcvt ⟨.ext, 1, false, some ⟨false, 1⟩⟩ .f16 .f32 .rtz false false 10 200 0 0) ∧
    decodeGroup ⟨0x8B411885, 0x0AC80000, 0, 0⟩ = .error .illop := by decide
/-- R210: COPYM and a guarded COPY. -/
theorem test_words_copym :
    long 0x8E900018 0x03040506 0xD = some (.copym (ext 1) 3 false 0x0D ⟨4, 5, some 6, 2, 0, 0⟩) ∧
    long 0x8E80099A 0x02040506 0 =
      some (.copy ⟨.ext, 1, false, some ⟨false, 3⟩⟩ 2 2 false ⟨4, 5, some 6, 2, 0, 0⟩) := by decide
/-- R37: a word of an unassigned opcode. -/
theorem test_word_unassigned : decodeTableWord 32 0xFFFFFFFF = some (.unassignedOpcode 0xFFFFFFFF) := by decide
/-- R26: NOP with a nonzero reserved field is ILLRSV, and OP 0x00 with LEN 0b10 ILLFLD (R20). -/
theorem test_words_refused :
    decodeGroup ⟨0x08100001, 0, 0, 0⟩ = .error .illrsv ∧ decodeGroup ⟨0x80000000, 0, 0, 0⟩ = .error .illfld := by decide

/-! ### Ill-formed terms (R6 to R20, R39) -/

/-- One term for each check of WellFormed, each refused. -/
theorem test_wf_header :
    (Instr.sadd (ext 1) 0 0 0).wf = false ∧ (Instr.sadd (base 8) 0 0 0).wf = false ∧
    (Instr.sadd ⟨.base, 1, true, none⟩ 0 0 0).wf = false ∧
    (Instr.sadd ⟨.base, 1, false, some ⟨false, 0⟩⟩ 0 0 0).wf = false ∧
    (Instr.emrd ⟨.ext, 1, false, some ⟨false, 8⟩⟩ 0).wf = false ∧ (Instr.emrd (base 1) 0).wf = false := by decide
theorem test_wf_operands :
    (Instr.sadd (base 1) 64 0 0).wf = false ∧ (Instr.saddLong (ext 1) 0 0 (.lit 0)).wf = false ∧
    (Instr.vadd (base 1) 64 0 0).wf = false ∧ (Instr.vmul (ext 1) 0 256 (.reg 0)).wf = false ∧
    (Instr.vmov (ext 1) 256 (.reg 0)).wf = false ∧ (Instr.vaddLong (ext 1) false true 0 0 (.reg 0)).wf = false ∧
    (Instr.pand (ext 1) 8 0 0).wf = false ∧ (Instr.scmp (ext 1) .eq true 0 0 (.lit 0)).wf = false ∧
    (Instr.smovi (base 1) 0 8192).wf = false ∧ (Instr.smoviLong (ext 1) 0 (.reg 1)).wf = false ∧
    (Instr.sbfx (ext 1) true 0 0 60 5).wf = false ∧ (Instr.vbfx (ext 1) true 0 0 31 2).wf = false ∧
    (Instr.bra (base 1) 524288).wf = false ∧ (Instr.trap (ext 1) 16).wf = false ∧
    (Instr.callExt (ext 1) 0 (some 20)).wf = false ∧ (Instr.clauseHeader 0 (some 12) none).wf = false ∧
    (Instr.sreadsr (base 1) 0 0x3FF).wf = false := by decide
theorem test_wf_memory :
    (Instr.ld (base 1) 0 ⟨.v, 0, .reg 1, 0, 0⟩).wf = false ∧ (Instr.ld (base 1) 0 ⟨.v, 0, .reg 0, 0, 2⟩).wf = false ∧
    (Instr.ldLong (ext 1) .b128 ⟨0, 0⟩ 2 ⟨.v, 0, .reg 0, 0, 0⟩).wf = false ∧
    (Instr.stLong (ext 1) .b32 ⟨2, 0⟩ 0 ⟨.v, 0, .reg 0, 0, 0⟩).wf = false ∧
    (Instr.ldLong (ext 1) .b32 ⟨0, 1⟩ 0 ⟨.v, 0, .reg 0, 0, 0⟩).wf = false ∧
    (Instr.lduLong (ext 1) .i16 ⟨0, 0⟩ 0 (.reg 0) 0).wf = false ∧ (Instr.ldc (ext 1) false 0 16 (.reg 0) 0).wf = false ∧
    (Instr.atom (ext 1) .fadd true ⟨0, 0⟩ 0 ⟨.v, 0, .reg 0, 0, 0⟩ (.reg 0) (.reg 0)).wf = false ∧
    (Instr.red (ext 1) .cas false ⟨0, 0⟩ ⟨.v, 0, .reg 0, 0, 0⟩ (.reg 0)).wf = false ∧
    (Instr.bararv (ext 1) 0 34).wf = false ∧ (Instr.commitTeam (ext 1) (some 64)).wf = false := by decide
theorem test_wf_engines :
    (Instr.mma 16 0 0 0 false false ⟨4, 4, 4⟩).wf = false ∧ (Instr.mma 0 0 0 1 false false ⟨4, 4, 4⟩).wf = false ∧
    (Instr.mdrain 0 0 0 ⟨4, 4, 3⟩).wf = false ∧ (Instr.msetm .mk 0 (.count 129)).wf = false ∧
    (Instr.msetm .kk 0 (.reg 2)).wf = false ∧ (Instr.mfmt 0 1 0 0).wf = false ∧ (Instr.munf true 0 8).wf = false ∧
    (Instr.copy (ext 1) 1 0 true ⟨0, 0, none, 0, 0, 0⟩).wf = false ∧
    (Instr.copy (ext 1) 0 0 false ⟨0, 0, some 1, 0, 0, 0⟩).wf = false ∧ (Instr.collAr (ext 1) 0 1 0).wf = false ∧
    (Instr.nmgather (ext 1) 0 0 0 0 0 4097).wf = false ∧ (Instr.solicit (ext 1) 5 false 0 (.reg 0)).wf = false ∧
    (Instr.zpop 1).wf = false ∧ (Instr.zdq 1 4 0 0 0 0).wf = false ∧ (Instr.zimulw 1 0 0).wf = false ∧
    (Instr.zwpair 0 0 0 17 0 0 true).wf = false ∧ (Instr.zaadd 16 0 0).wf = false ∧
    (Instr.vcvt (ext 1) .f32 .f32 .rne false false 0 0 0 0).wf = false := by decide

/-! ### A small machine -/

/-- A group at the code page, with its flags A and B on flag 0. -/
def group0 : Group :=
  let g := Group.start 0 0 0 false 256 0x10000 0 0
  { g with f := { g.f with flagA := some 0, flagB := some 0 } }

/-- Its team: 64 KiB of A-buffer, two tiles, two slots, 64 bytes of tape, a quota of 4 records. -/
def team0 : Team :=
  Team.start 0 0 0 0 0 0 { abase := 0, asize := 65536, tiles := [0, 1], slots := [0, 1], tapeb := 64 } [group0] none
    (TeamDef.start 0 false 4) none

/-- A core whose TLB holds an ordinary page at 0x20000, a deferred one at 0x30000 and a differentiable one at 0x40000. -/
def core0 : Core :=
  { Core.reset with
    tlb := [⟨0, 0x20000, 0, 0x17000F⟩, ⟨0, 0x30000, 0, 0x18008F⟩, ⟨0, 0x40000, 0, 0x19010F + 0x1A * 2 ^ 64⟩] }

/-- The machine with its code page, and changes `f` to the group, `k` to the team and `e` to the rest. -/
def teamOf' (f : Group → Group) (k : Team → Team) : Team := { k team0 with groups := [f group0] }
def world (f : Group → Group) (k : Team → Team) (e : State → State) : State :=
  let s := e (placeCode State.reset (placeBytes 32 0x08100000))
  let cores := if s.work.cores.isEmpty then [(0, core0)] else s.work.cores
  { s with work := { s.work with teams := [teamOf' f k], cores := cores }, cur := some (.group 0 0) }

/-- Whether an instruction takes effect. -/
def takes (i : Iss) (s : State) (t : Team) (g : Group) : Bool :=
  i.lane || g.t.replay.isSome || guardOn (settled i s t g) i.h.guard

theorem takes_iff (i : Iss) (s : State) (t : Team) (g : Group) : takes i s t g = true ↔ TakesEffect i s t g := by
  simp [takes, TakesEffect, Option.isSome_iff_ne_none, or_assoc]

/-- The conditions of `CanIssue` that depend on the instruction. -/
def canGo (i : Iss) (s : State) (t : Team) (g : Group) : Bool :=
  mayIssue t g s.clock && mayIssue t g (issueU i s t g) && !heldByOps s t g i.mem &&
    (!(i.ll && takes i s t g) || (flagOf g i.h.fs).all fun k => decide (vget g.f.cf k < 63)) &&
    (!(i.ll && i.wr) || (flagOf g i.h.fs).isSome) && i.vs.all fun n => decide (n < g.bud)

theorem can_of (i : Iss) (f : Group → Group) (k : Team → Team) (e : State → State) (hu : (k team0).uid = 0)
    (hg : (f group0).gid = 0) (h : canGo i (world f k e) (teamOf' f k) (f group0) = true) :
    CanIssue i (world f k e) (teamOf' f k) (f group0) := by
  have hu' : (teamOf' f k).uid = 0 := hu
  simp only [canGo, Bool.and_eq_true, Bool.not_eq_true', Bool.or_eq_true, Bool.and_eq_false_iff, List.all_eq_true,
    decide_eq_true_eq, Option.all_eq_true] at h
  obtain ⟨⟨⟨⟨⟨h1, h0⟩, h2⟩, h3⟩, h4⟩, h5⟩ := h
  refine ⟨?_, ?_, ?_, h1, h0, h2, ?_, ?_, h5⟩
  · rw [hu', hg]; rfl
  · simp [teamOf, world, hu']
  · simp [groupIn, teamOf']
  · intro hl ht n hn
    have ht := (takes_iff _ _ _ _).2 ht
    rcases h3 with (h3 | h3) | h3
    · simp [hl] at h3
    · simp [ht] at h3
    · exact h3 n hn
  · intro hl hw hn; simp [hl, hw, hn] at h4

/-- Those of `Ready` and `TakesEffect`. -/
def mayGo (i : Iss) (s : State) (t : Team) (g : Group) : Bool := canGo i s t g && !stepBit s t && takes i s t g

theorem ready_of (i : Iss) (f : Group → Group) (k : Team → Team) (e : State → State) (hu : (k team0).uid = 0)
    (hg : (f group0).gid = 0) (h : mayGo i (world f k e) (teamOf' f k) (f group0) = true) :
    Ready i (world f k e) (teamOf' f k) (f group0) ∧ TakesEffect i (world f k e) (teamOf' f k) (f group0) := by
  simp only [mayGo, Bool.and_eq_true, Bool.not_eq_true'] at h
  exact ⟨⟨can_of i f k e hu hg h.1.1, h.1.2⟩, (takes_iff _ _ _ _).1 h.2⟩

/-- An instruction with issue facts `i` is ready, takes effect and finds `ok`, on some state. -/
def Meets (i : Iss) (ok : Ctl → State → Prop) : Prop :=
  ∃ s t g, Ready i s t g ∧ TakesEffect i s t g ∧ ok (ctlAt i s t g) (atIssue i s t g)

theorem meets {i : Iss} {ok : Ctl → State → Prop} (f : Group → Group) (k : Team → Team) (e : State → State)
    (hu : (k team0).uid = 0) (hg : (f group0).gid = 0) (h : mayGo i (world f k e) (teamOf' f k) (f group0) = true)
    (ho : ok (ctlAt i (world f k e) (teamOf' f k) (f group0)) (atIssue i (world f k e) (teamOf' f k) (f group0))) :
    Meets i ok :=
  ⟨_, _, _, (ready_of i f k e hu hg h).1, (ready_of i f k e hu hg h).2, ho⟩

def setS (n : Nat) (x : Dword) (g : Group) : Group := { g with r := { g.r with s := vset g.r.s n x } }

/-- UniformArithmetic, UniformOther, MasksAndPredicates, LaneOperations, VectorArithmetic, VectorSaturation,
VectorBitsAndMoves, VectorPrefix, VectorBooleanMatrix, VectorFloat, SpecialFunctions, Conversions, Fences, and every
clause by `Writes` or `Starts`: any instruction without a guard whose vector registers lie below 256 is ready somewhere.
-/
theorem witness_every_issue (i : Iss) (hv : ∀ n ∈ i.vs, n < 256) (hg : i.h.guard = none) : Meets i fun _ _ => True := by
  refine meets id id id rfl rfl ?_ trivial
  have h1 : i.vs.all (fun n => decide (n < (id group0).bud)) = true := by
    exact List.all_eq_true.2 fun n hn => decide_eq_true (hv n hn)
  have h2 : heldByOps (world id id id) (teamOf' id id) (id group0) i.mem = false := by cases i.mem <;> decide
  have h3 : guardOn (settled i (world id id id) (teamOf' id id) (id group0)) i.h.guard = true := by rw [hg]; rfl
  have h4 : flagOf (id group0) i.h.fs = some 0 := by cases i.h.fs <;> rfl
  have h5 : mayIssue (teamOf' id id) (id group0) (issueU i (world id id id) (teamOf' id id) (id group0)) = true := rfl
  simp only [mayGo, canGo, takes, h1, h2, h3, h4, h5]
  cases i.lane <;> cases i.ll <;> cases i.wr <;> decide

/-! ### Witnesses: group instructions -/

def inHandler (g : Group) : Group := { g with t := { g.t with inHandler := true, tr := { g.t.tr with rpc := 0x10000 } } }

theorem witness_SpecialRegisters :
    Meets { row := "SREADSR", h := base 1 } (fun c _ => handlerOnly 0x30 = true → c.g.t.inHandler = true) ∧
    Meets { row := "SREADSR_EXT", h := ext 1, lane := true, vs := [0] } (fun c _ => handlerOnly 0x10 = true → c.g.t.inHandler = true) ∧
    Meets { row := "SREADSR", h := base 1 } (fun c _ => handlerOnly 0x3F = true ∧ c.g.t.inHandler = false) ∧
    Meets { row := "SWRITESR", h := base 1 } (fun c _ => (handlerOnly 0x21 = true → c.g.t.inHandler = true) ∧
      (c.s 4).toNat < 2 ^ srWidth 0x21 ∧ (0x21 = 0x021 → (c.s 4).toNat % 8 = 0) ∧ 0x21 ≠ 0x01C ∧ 0x21 ≠ 0x01D) ∧
    Meets { row := "SWRITESR", h := base 1 } (fun c _ => 256 ≤ (c.s 4).toNat) ∧
    Meets { row := "SWRITESR", h := base 1 } (fun c _ => (c.s 4).toNat < 256 ∧ (c.s 4).toNat % 8 ≠ 0) :=
  ⟨meets inHandler id id rfl rfl (by decide) (by decide), meets id id id rfl rfl (by decide) (by decide),
   meets id id id rfl rfl (by decide) (by decide), meets (setS 4 248) id id rfl rfl (by decide) (by decide),
   meets (setS 4 256) id id rfl rfl (by decide) (by decide), meets (setS 4 4) id id rfl rfl (by decide) (by decide)⟩

theorem witness_Branches :
    (∃ s t g, let i : Iss := { row := "BRX", h := ext 1 }
      let c := ctlAt i s t g
      Ready i s t g ∧ TakesEffect i s t g ∧ (c.s 4 + BitVec.ofInt 64 (-4)).toNat % 4 = 0 ∧
        (c.s 4 + BitVec.ofInt 64 (-4)).toNat < 2 ^ 56) ∧
    Meets { row := "BRX", h := ext 1 } (fun c _ => (c.s 4 + BitVec.ofInt 64 2).toNat % 4 ≠ 0 ∨
      2 ^ 56 ≤ (c.s 4 + BitVec.ofInt 64 2).toNat) ∧
    Meets { row := "BRX", h := ext 1 } (fun c _ => (c.s 4 + BitVec.ofInt 64 0).toNat % 4 ≠ 0 ∨
      2 ^ 56 ≤ (c.s 4 + BitVec.ofInt 64 0).toNat) :=
  ⟨⟨_, _, _, (ready_of _ (setS 4 0x10004) id id rfl rfl (by decide)).1, (ready_of _ (setS 4 0x10004) id id rfl rfl (by decide)).2,
    by decide, by decide⟩, meets id id id rfl rfl (by decide) (by decide),
   meets (setS 4 0x100000000000000) id id rfl rfl (by decide) (by decide)⟩

def count63 (g : Group) : Group := { g with f := { g.f with cf := vset g.f.cf 0 63 } }
def guarded : Hdr := ⟨.ext, 1, false, some ⟨false, 0⟩⟩

/-- FalseGuardOnlyIssues: `sp0` is 0, and the guard asks for 1; with flag 0 at 63 too, which without a guard holds. -/
theorem witness_FalseGuardOnlyIssues :
    (∀ row ∈ ["SADD_LONG", "SWRITESR_EXT", "BRA_EXT", "BRANY_EXT", "BRALL_EXT", "BRNONE_EXT", "TRAP"],
      ∃ s t g, Ready { row := row, h := guarded } s t g ∧ ¬ TakesEffect { row := row, h := guarded } s t g) ∧
    (∀ wr : Bool, ∃ s t g, Ready (uniFacts "" guarded wr) s t g ∧ ¬ TakesEffect (uniFacts "" guarded wr) s t g ∧
      flagFull g (flagOf g guarded.fs) = true) ∧
    ∀ wr : Bool, ∃ s t g, s.cur = some (.group t.uid g.gid) ∧ teamOf s t.uid = some t ∧ groupIn t g.gid = some g ∧
      TakesEffect (uniFacts "" (ext 1) wr) s t g ∧ flagFull g (flagOf g (ext 1).fs) = true := by
  have no (i : Iss) (f : Group → Group) (hg : (f group0).gid = 0)
      (h : (canGo i (world f id id) (teamOf' f id) (f group0) && !stepBit (world f id id) (teamOf' f id) &&
        !takes i (world f id id) (teamOf' f id) (f group0)) = true) :
      Ready i (world f id id) (teamOf' f id) (f group0) ∧ ¬ TakesEffect i (world f id id) (teamOf' f id) (f group0) := by
    simp only [Bool.and_eq_true, Bool.not_eq_true'] at h
    exact ⟨⟨can_of i f id id rfl hg h.1.1, h.1.2⟩, fun ht => by simp [(takes_iff _ _ _ _).2 ht] at h⟩
  refine ⟨fun row _ => ⟨_, _, _, no _ id rfl rfl⟩, fun wr => ?_, fun wr => ?_⟩
  · have h := no (uniFacts "" guarded wr) count63 rfl (by cases wr <;> decide)
    exact ⟨_, _, _, h.1, h.2, by decide⟩
  · exact ⟨world count63 id id, teamOf' count63 id, count63 group0, rfl, rfl, rfl,
      (takes_iff _ _ _ _).1 (by cases wr <;> decide), by decide⟩

theorem witness_ClauseHeader :
    (∃ s t g, s.cur = some (.group t.uid g.gid) ∧ teamOf s t.uid = some t ∧ groupIn t g.gid = some g ∧
      mayIssue t g s.clock = true ∧ g.f.hdrRun < 8) ∧
    ∃ s t g, s.cur = some (.group t.uid g.gid) ∧ teamOf s t.uid = some t ∧ groupIn t g.gid = some g ∧
      mayIssue t g s.clock = true ∧ 8 ≤ g.f.hdrRun := by
  let k (n : Nat) (g : Group) : Group := { g with f := { g.f with hdrRun := n } }
  have a := can_of { row := "", h := base 1 } (k 7) id id rfl rfl (by decide)
  have b := can_of { row := "", h := base 1 } (k 8) id id rfl rfl (by decide)
  exact ⟨⟨_, _, _, a.cur, a.team, a.group, a.may, by decide⟩, ⟨_, _, _, b.cur, b.team, b.group, b.may, by decide⟩⟩

/-- The context's step bit is set. -/
def stepping (s : State) : State :=
  { s with ctl := { s.ctl with ctxs := s.ctl.ctxs.map fun c => { c with stp := true } } }

/-- With the context's step bit set an instruction can issue and takes effect. -/
theorem witness_StepsOnce :
    ∀ row ∈ ["SADD", "NOP"], let i : Iss := { row := row, h := base 1 }
      ∃ s t g, CanIssue i s t g ∧ stepBit s t = true ∧ TakesEffect i s t g :=
  fun _ _ => ⟨_, _, _, can_of _ id id stepping rfl rfl rfl, rfl, (takes_iff _ _ _ _).1 rfl⟩

/-- A group that has yielded and one, eligible at the same clock, that has not. -/
theorem witness_yielded :
    let y : Group := { group0 with i := { group0.i with yield := some 0, last := some 0 } }
    let x : Group := { group0 with i := { group0.i with ready := 1 } }
    hasYielded y = true ∧ hasYielded x = false ∧ eligibleAt x 1 false = eligibleAt y 1 false := by decide

theorem witness_YieldTrapRte :
    Meets { row := "TRAP", h := ext 1 } (fun _ _ => True) ∧
    Meets { row := "RTE", h := base 1 } (fun c _ => c.g.t.inHandler = true ∧ c.g.t.tr.rpc.toNat % 4 = 0 ∧
      c.g.t.tr.rpc.toNat < 2 ^ 56) ∧
    Meets { row := "RTE", h := base 1 } (fun c _ => c.g.t.inHandler = false) :=
  ⟨meets id id id rfl rfl (by decide) trivial, meets inHandler id id rfl rfl (by decide) (by decide),
   meets id id id rfl rfl (by decide) (by decide)⟩

def flag3 (g : Group) : Group := { g with f := { g.f with cf := vset g.f.cf 3 1 } }

/-- A window with backing store on the ordinary page, one frame of slide 0 below WSP. -/
def deep (g : Group) : Group := { g with w := { g.w with wsp := 0x20010, wslim := 0x21000, fdepth := 1 } }

theorem witness_CallsAndReturns :
    Meets { row := "CALL_EXT", h := ext 1 } (fun c s => 1 < c.g.bud ∧ (c.pc + BitVec.ofInt 64 (4 * 2)).toNat % 4 = 0 ∧
      (c.pc + BitVec.ofInt 64 (4 * 2)).toNat < 2 ^ 56 ∧ c.g.w.wsp.toNat % 16 = 0 ∧
      c.g.w.wsp.toNat + 256 * 1 + 16 ≤ c.g.w.wslim.toNat ∧ flagsClear c.g = true ∧
      groupTouches s c c.g.w.wsp.toNat (256 * 1 + 16) = false ∧
      firstBad s c true (parts c.g.w.wsp.toNat (256 * 1 + 16)) = none) ∧
    Meets { row := "CALLX", h := ext 1 } (fun c _ => c.g.bud ≤ (none : Option Nat).getD c.g.w.frsz.toNat) ∧
    Meets { row := "RET", h := base 1 } (fun c s =>
      let l := parts (c.g.w.wsp - 16).toNat 16
      let r := refill s c l
      let base := c.g.w.wsp - 16 - BitVec.ofNat 64 (256 * (8 * (r.1.getD 8 0).toNat))
      let k := parts base.toNat (256 * (8 * (r.1.getD 8 0).toNat))
      c.g.w.fdepth ≠ 0 ∧ flagsClear c.g = true ∧ groupTouches s c (c.g.w.wsp - 16).toNat 16 = false ∧
      groupTouches s c base.toNat (256 * (8 * (r.1.getD 8 0).toNat)) = false ∧
      (firstBad s c false l = none ∧ partMarked s c l = none ∧ partWaits s c l = false) ∧
      8 * (r.1.getD 8 0).toNat < c.g.bud ∧
      (BitVec.ofNat 64 (natOfBytes (slice r.1 0 8)) : Dword).toNat % 4 = 0 ∧
      (BitVec.ofNat 64 (natOfBytes (slice r.1 0 8)) : Dword).toNat < 2 ^ 56 ∧
      (firstBad s c false k = none ∧ partMarked s c k = none ∧ partWaits s c k = false)) ∧
    Meets { row := "RET", h := base 1 } (fun c _ => c.g.w.fdepth = 0) :=
  ⟨meets deep id id rfl rfl (by decide) (by decide),
   meets (fun g => { g with bud := 8, w := { g.w with frsz := 8 } }) id id rfl rfl (by decide) (by decide),
   meets deep id id rfl rfl (by decide) (by decide), meets id id id rfl rfl (by decide) (by decide)⟩

def bindQ (b : Bound) (t : Team) : Team := { t with queues := vset t.queues 1 ⟨some b, []⟩ }

theorem witness_QueueIssue :
    Meets { row := "QPUSH", h := ext 1, ll := true, wr := false } (fun c _ => (vget c.t.queues 1).bound = none) ∧
    Meets { row := "QPUSH", h := ext 1, ll := true, wr := false } (fun c _ => (vget c.t.queues 1).bound ≠ none) :=
  ⟨meets id id id rfl rfl (by decide) (by decide), meets id (bindQ .nm) id rfl rfl (by decide) (by decide)⟩


/-! ### Witnesses: memory instructions -/

/-- An instruction is ready and takes effect on a state with `P`. -/
def Has (i : Iss) (P : State → Team → Group → Prop) : Prop :=
  ∃ s t g, Ready i s t g ∧ TakesEffect i s t g ∧ P s t g

theorem has {i : Iss} {P : State → Team → Group → Prop} (f : Group → Group) (k : Team → Team) (e : State → State)
    (hu : (k team0).uid = 0) (hg : (f group0).gid = 0) (h : mayGo i (world f k e) (teamOf' f k) (f group0) = true)
    (hp : P (world f k e) (teamOf' f k) (f group0)) : Has i P :=
  ⟨_, _, _, (ready_of i f k e hu hg h).1, (ready_of i f k e hu hg h).2, hp⟩

/-- Core 0 as `f` makes it. -/
def onCore (f : Core → Core) (s : State) : State := { s with work := { s.work with cores := [(0, f core0)] } }

/-- A last group with room for the token, one with a flag set, one with no room, and one that is not its team's last. -/
theorem witness_ExitOfGroup :
    let i : Iss := { row := "EXIT", h := base 1 }
    let ends (s : State) (t : Team) (g : Group) : Bool × Bool :=
      let after := (ctlAt i s t g).t.updGroup (ctlAt i s t g).gid fun k => { k with ended := true }
      (teamEnds (atIssue i s t g) after, endRoom (atIssue i s t g) after)
    Has i (fun s t g => flagsClear g = true ∧ ends s t g = (true, true)) ∧ Has i (fun _ _ g => flagsClear g = false) ∧
    Has i (fun s t g => flagsClear g = true ∧ ends s t g = (true, false)) ∧
    Has i (fun s t g => flagsClear g = true ∧ (ends s t g).1 = false) :=
  ⟨has id id id rfl rfl (by decide) (by decide), has flag3 id id rfl rfl (by decide) (by decide),
   has id id (onCore fun c => { c with spor := List.replicate 4096 (.token 0 0) }) rfl rfl (by decide) (by decide +kernel),
   has id (fun t => { t with stream := some (MStream.start 0 0x10000) }) id rfl rfl (by decide) (by decide)⟩

/-- Lanes 0 and 1 active, `s4` at `x`. -/
def twoAt (x : Dword) (g : Group) : Group := setS 4 x { g with r := { g.r with em := 3 } }
def rev (g : Group) : Group := { g with e := { g.e with rev := true } }
def lanes4 : MemArg := ⟨.sl, 2, .reg 4, 0, 0⟩
def lanes16 : MemArg := ⟨.sl, 4, .reg 4, 0, 0⟩
def memI (row : String) (store : Bool) : Iss :=
  { row := row, h := base 1, lane := true, vs := runRegs 0 1 ++ addrRegs lanes4 false, ll := true, wr := !store, mem := true }
def uniI (row : String) (wr : Bool) : Iss := { row := row, h := base 1, ll := true, wr := wr, mem := true }

/-- Loads and stores of two lanes on the ordinary page, an acquiring load of 8 bytes, and of `s` registers, in both modes.
-/
theorem witness_LoadsAndStores :
    (∀ r : Group → Group, r = id ∨ r = rev →
      Has (memI "LD" false) (fun s t g =>
        let c := ctlAt (memI "LD" false) s t g
        let as := c.addrs lanes4 false 4
        as = [(0, 0x20000), (1, 0x20004)] ∧ Aligned 4 as ∧
          Plain (accsAt c (atIssue (memI "LD" false) s t g) true false (fun l => c.data 0 1 l) as)) ∧
      Has (memI "ST" true) (fun s t g =>
        let c := ctlAt (memI "ST" true) s t g
        let as := c.addrs lanes4 false 4
        (g.e.rev = true → c.flag ≠ none) ∧ Aligned 4 as ∧
          Plain (accsAt c (atIssue (memI "ST" true) s t g) false true (fun l => c.data 0 1 l) as)) ∧
      Has (uniI "LDU" true) (fun s t g =>
        let c := ctlAt (uniI "LDU" true) s t g
        let as := [(0, c.uaddr (.reg 4) 8)]
        as = [(0, 0x20008)] ∧ Aligned 8 as ∧
          Plain (accsAt c (atIssue (uniI "LDU" true) s t g) true false (fun _ => (c.s 0).setWidth 128) as)) ∧
      Has (uniI "STU" false) (fun s t g =>
        let c := ctlAt (uniI "STU" false) s t g
        let as := [(0, c.uaddr (.reg 4) 8)]
        (g.e.rev = true → c.flag ≠ none) ∧ Aligned 8 as ∧
          Plain (accsAt c (atIssue (uniI "STU" false) s t g) false true (fun _ => (c.s 0).setWidth 128) as))) := by
  rintro r (rfl | rfl)
  · exact ⟨has (twoAt 0x20000) id id rfl rfl (by decide) (by unfold Aligned Plain; decide),
      has (twoAt 0x20000) id id rfl rfl (by decide) (by unfold Aligned Plain; decide),
      has (twoAt 0x20000) id id rfl rfl (by decide) (by unfold Aligned Plain; decide),
      has (twoAt 0x20000) id id rfl rfl (by decide) (by unfold Aligned Plain; decide)⟩
  · exact ⟨has (fun g => rev (twoAt 0x20000 g)) id id rfl rfl (by decide) (by unfold Aligned Plain; decide),
      has (fun g => rev (twoAt 0x20000 g)) id id rfl rfl (by decide) (by unfold Aligned Plain; decide),
      has (fun g => rev (twoAt 0x20000 g)) id id rfl rfl (by decide) (by unfold Aligned Plain; decide),
      has (fun g => rev (twoAt 0x20000 g)) id id rfl rfl (by decide) (by unfold Aligned Plain; decide)⟩

def memL (row : String) (z : SizeCode) (store : Bool) : Iss :=
  { row := row, h := ext 1, lane := true, vs := runRegs 0 (sizeRegs z) ++ addrRegs lanes16 false, ll := true, wr := !store, mem := true }

set_option maxRecDepth 4000 in
/-- Every access size: loads of two lanes, 16 bytes apart, and uniform ones, forward on a differentiable page and reverse
on a deferred one; and stores. -/
theorem witness_LoadsAndStores_sizes :
    ∀ z : SizeCode,
      (∀ x ∈ [(false, (0x40000 : Dword)), (true, 0x30000)],
        Has (memL "LD_LONG" z false) (fun s t g =>
          let c := ctlAt (memL "LD_LONG" z false) s t g
          let as := c.addrs lanes16 false (sizeBytes z)
          let ls := accsAt c (atIssue (memL "LD_LONG" z false) s t g) true false (fun l => c.data 0 (sizeRegs z) l) as
          g.e.rev = x.1 ∧ Aligned (sizeBytes z) as ∧ ls.length = 2 ∧ (∀ a ∈ ls, a.x.isG = !x.1 ∧ a.x.isD = x.1)) ∧
        Has (uniFacts "LDU_LONG" (ext 1) true) (fun s t g =>
          let c := ctlAt (uniFacts "LDU_LONG" (ext 1) true) s t g
          let as := [(0, c.uaddr (.reg 4) 0)]
          let ls := accsAt c (atIssue (uniFacts "LDU_LONG" (ext 1) true) s t g) true false (fun _ => (c.s 0).setWidth 128) as
          g.e.rev = x.1 ∧ Aligned (sizeBytes z) as ∧ ∀ a ∈ ls, a.x.isG = !x.1 ∧ a.x.isD = x.1)) ∧
      Has (memL "ST_LONG" z true) (fun s t g =>
        let c := ctlAt (memL "ST_LONG" z true) s t g
        let as := c.addrs lanes16 false (sizeBytes z)
        let ls := accsAt c (atIssue (memL "ST_LONG" z true) s t g) false true (fun l => c.data 0 (sizeRegs z) l) as
        (g.e.rev = true → c.flag ≠ none) ∧ Aligned (sizeBytes z) as ∧ ls.length = 2 ∧ Plain ls) ∧
      Has (uniFacts "STU_LONG" (ext 1) false) (fun s t g =>
        let c := ctlAt (uniFacts "STU_LONG" (ext 1) false) s t g
        let as := [(0, c.uaddr (.reg 4) 0)]
        let ls := accsAt c (atIssue (uniFacts "STU_LONG" (ext 1) false) s t g) false true (fun _ => (c.s 0).setWidth 128) as
        (g.e.rev = true → c.flag ≠ none) ∧ Aligned (sizeBytes z) as ∧ Plain ls) := by
  intro z
  refine ⟨fun x hx => ?_, ?_⟩
  · simp only [List.mem_cons, List.not_mem_nil, or_false] at hx
    obtain rfl | rfl := hx <;> constructor
    · cases z <;> exact has (twoAt 0x40000) id id rfl rfl (by decide) (by unfold Aligned; decide)
    · cases z <;> exact has (twoAt 0x40000) id id rfl rfl (by decide) (by unfold Aligned; decide)
    · cases z <;> exact has (fun g => rev (twoAt 0x30000 g)) id id rfl rfl (by decide) (by unfold Aligned; decide)
    · cases z <;> exact has (fun g => rev (twoAt 0x30000 g)) id id rfl rfl (by decide) (by unfold Aligned; decide)
  · constructor
    · cases z <;> exact has (twoAt 0x20000) id id rfl rfl (by decide) (by unfold Aligned Plain; decide)
    · cases z <;> exact has (twoAt 0x20000) id id rfl rfl (by decide) (by unfold Aligned Plain; decide)

/-- At every access size lanes and a uniform address at 2^56, and an odd one where the size is more than a byte. -/
theorem witness_MisalignedAccess_sizes :
    ∀ z : SizeCode, ∀ x ∈ [(0x100000000000000 : Dword), 0x20001], (x = 0x20001 → sizeBytes z ≠ 1) → ∀ store : Bool,
      (Has (memL "" z store) fun s t g =>
        let c := ctlAt (memL "" z store) s t g
        (store = true → g.e.rev = true → c.flag ≠ none) ∧
          (c.addrs lanes16 false (sizeBytes z)).any (fun p => p.2 % min (sizeBytes z) 16 != 0 || decide (2 ^ 56 ≤ p.2)) = true) ∧
      Has (uniFacts "" (ext 1) (!store)) fun s t g =>
        let c := ctlAt (uniFacts "" (ext 1) (!store)) s t g
        (store = true → g.e.rev = true → c.flag ≠ none) ∧
          (c.uaddr (.reg 4) 0 % min (sizeBytes z) 16 != 0 || decide (2 ^ 56 ≤ c.uaddr (.reg 4) 0)) = true := by
  intro z x hx hz store
  simp only [List.mem_cons, List.not_mem_nil, or_false] at hx
  obtain rfl | rfl := hx
  · constructor <;> cases z <;> cases store <;>
      exact has (twoAt 0x100000000000000) id id rfl rfl (by decide) (by decide)
  · have hz := hz rfl
    constructor <;> cases z <;> first | exact absurd rfl hz | (cases store <;> exact has (twoAt 0x20001) id id rfl rfl (by decide) (by decide))

/-- A misaligned address, and one at 2^56. -/
theorem witness_MisalignedAccess :
    ∀ x ∈ [(0x20002 : Dword), 0x100000000000000], ∀ store : Bool, Has (memI "ST" store) fun s t g =>
      let c := ctlAt (memI "ST" store) s t g
      (store = true → g.e.rev = true → c.flag ≠ none) ∧
        ((c.addrs lanes4 false 4).filterMap fun p =>
          if p.2 % 4 ≠ 0 then some (⟨p.1, causeCode .misaln, p.2⟩ : LaneCause)
          else if 2 ^ 56 ≤ p.2 then some ⟨p.1, causeCode .addrbad, p.2⟩ else none) ≠ [] := by
  intro x hx store
  simp only [List.mem_cons, List.not_mem_nil, or_false] at hx
  obtain rfl | rfl := hx <;> cases store
  · exact has (twoAt 0x20002) id id rfl rfl (by decide) (by decide)
  · exact has (twoAt 0x20002) id id rfl rfl (by decide) (by decide)
  · exact has (twoAt 0x100000000000000) id id rfl rfl (by decide) (by decide)
  · exact has (twoAt 0x100000000000000) id id rfl rfl (by decide) (by decide)

def noQuota (t : Team) : Team := { t with d := { t.d with quota := 1 } }
def noTape (t : Team) : Team := { t with al := { t.al with tapeb := 16 } }

set_option maxRecDepth 4000 in
/-- Two records within a quota of 4 and beyond one of 1; two positions within a tape of 4 and beyond one of 1. -/
theorem witness_DeferredAndTapeStores :
    let i := memI "ST" true
    let ls (s : State) (t : Team) (g : Group) : List LaneAcc :=
      accsAt (ctlAt i s t g) (atIssue i s t g) false true (fun l => (ctlAt i s t g).data 0 1 l)
        ((ctlAt i s t g).addrs lanes4 false 4)
    let dfr (s : State) (t : Team) (g : Group) : Prop :=
      Aligned 4 ((ctlAt i s t g).addrs lanes4 false 4) ∧ g.e.rev = false ∧ (ctlAt i s t g).dbg = false ∧
        (ls s t g).length = 2 ∧ ∀ a ∈ ls s t g, a.x.isD = true ∧ a.x.isG = false
    let dif (s : State) (t : Team) (g : Group) : Prop :=
      Aligned 4 ((ctlAt i s t g).addrs lanes4 false 4) ∧ g.e.rev = false ∧ (ctlAt i s t g).dbg = false ∧
        g.t.replay = none ∧ (ls s t g).length = 2 ∧
        ∀ a ∈ ls s t g, a.x.isD = false ∧ a.x.isG = true ∧ memFault t.d.gridUnit true false .b32 ⟨0, 0⟩ a.x = none
    Has i (fun s t g => dfr s t g ∧ 2 ≤ quotaRoom (atIssue i s t g) (ctlAt i s t g).t ∧
      2 ≤ sporRoom (atIssue i s t g) t.core) ∧
    Has i (fun s t g => dfr s t g ∧ quotaRoom (atIssue i s t g) (ctlAt i s t g).t < 2) ∧
    Has i (fun s t g => dif s t g ∧ t.tape.length + 2 ≤ t.al.tapeb / 16) ∧
    Has i (fun s t g => dif s t g ∧ t.al.tapeb / 16 < t.tape.length + 2) :=
  ⟨has (twoAt 0x30000) id id rfl rfl (by decide) (by unfold Aligned; decide),
   has (twoAt 0x30000) noQuota id rfl rfl (by decide) (by unfold Aligned; decide),
   has (twoAt 0x40000) id id rfl rfl (by decide) (by unfold Aligned; decide),
   has (twoAt 0x40000) noTape id rfl rfl (by decide) (by unfold Aligned; decide)⟩

/-- A page that is mapped deferred and is the shadow of the differentiable one. -/
def shadowed (s : State) : State :=
  { s with mem := memPut s.mem (ownKey s 0x150050) 16 0x1A008F
           ctl := { s.ctl with ctxs := s.ctl.ctxs.map fun c => { c with maps := (0x50000, 0) :: c.maps } } }

/-- What stands on the tape for lanes 0 and 1 of the differentiable page. -/
def recOf0 (l : Nat) : BitVec 128 := BitVec.ofNat 128 (0x190000 + 4 * l)

set_option maxRecDepth 4000 in
/-- A reverse load with a deferred shadow makes two records; a reverse store finds two records on top of three, with a
shadow that is ordinary and one that is deferred; and finds the tape empty. -/
theorem witness_ReverseAccesses :
    let i := memL "LD_LONG" .b32 false
    let j := memI "ST" true
    let ls (i : Iss) (r w : Bool) (m : MemArg) (s : State) (t : Team) (g : Group) : List LaneAcc :=
      accsAt (ctlAt i s t g) (atIssue i s t g) r w (fun l => (ctlAt i s t g).data 0 1 l) ((ctlAt i s t g).addrs m false 4)
    let pops (dfr : Bool) (s : State) (t : Team) (g : Group) : Prop :=
      Aligned 4 ((ctlAt j s t g).addrs lanes4 false 4) ∧ g.e.rev = true ∧ (ctlAt j s t g).flag ≠ none ∧
        (ctlAt j s t g).dbg = false ∧ g.t.replay = none ∧ (ls j false true lanes4 s t g).length = 2 ∧
        (∀ a ∈ ls j false true lanes4 s t g, a.x.isG = true ∧ a.x.shadowDfr = dfr ∧
          memFault t.d.gridUnit true true .b32 ⟨0, 0⟩ a.x = none) ∧ (dfr = true → t.d.open' < 4 ∧ 1 ≤ sporRoom (atIssue j s t g) t.core)
    Has i (fun s t g => Aligned 4 ((ctlAt i s t g).addrs lanes16 false 4) ∧ g.e.rev = true ∧
      (ls i true false lanes16 s t g).length = 2 ∧
      (∀ a ∈ ls i true false lanes16 s t g, a.x.isG = true ∧ a.x.shadowDfr = true ∧
        memFault t.d.gridUnit false true .b32 ⟨0, 0⟩ a.x = none) ∧
      2 ≤ quotaRoom (atIssue i s t g) (ctlAt i s t g).t ∧ 2 ≤ sporRoom (atIssue i s t g) t.core) ∧
    (∀ dfr : Bool, Has j (fun s t g => pops dfr s t g ∧
      t.tape = [.filled 9] ++ (ls j false true lanes4 s t g).map (fun a => .filled (recOf0 a.lane)) ∧
      ∀ a ∈ ls j false true lanes4 s t g, recPa (recOf0 a.lane) = keyPa a.x.key)) ∧
    Has j (fun s t g => pops false s t g ∧ t.tape = []) := by
  refine ⟨has (fun g => rev (twoAt 0x40000 g)) id shadowed rfl rfl (by decide) (by unfold Aligned; decide), ?_,
    has (fun g => rev (twoAt 0x40000 g)) id id rfl rfl (by decide) (by unfold Aligned; decide)⟩
  rintro (_ | _)
  · exact has (fun g => rev (twoAt 0x40000 g)) (fun t => { t with tape := [.filled 9, .filled (recOf0 0), .filled (recOf0 1)] }) id
      rfl rfl (by decide) (by unfold Aligned; decide)
  · exact has (fun g => rev (twoAt 0x40000 g)) (fun t => { t with tape := [.filled 9, .filled (recOf0 0), .filled (recOf0 1)] })
      shadowed rfl rfl (by decide) (by unfold Aligned; decide)

/-- Both lanes inside the allocation of 64 KiB, the second one past it, and an odd address. -/
theorem witness_BufferAccesses :
    let i := memI "LDA" false
    let bad (s : State) (t : Team) (g : Group) : List LaneCause :=
      ((ctlAt i s t g).addrs lanes4 true 4).filterMap fun p =>
        if p.2 % 4 ≠ 0 then some ⟨p.1, causeCode .misaln, p.2⟩
        else if t.al.asize < p.2 + 4 then some ⟨p.1, causeCode .abound, p.2⟩ else none
    Has i (fun s t g => bad s t g = []) ∧
    Has i (fun s t g => bad s t g = [⟨1, causeCode .abound, 65536⟩]) ∧
    Has i (fun s t g => (bad s t g).length = 2) :=
  ⟨has (twoAt 65528) id id rfl rfl (by decide) (by decide), has (twoAt 65532) id id rfl rfl (by decide) (by decide),
   has (twoAt 1) id id rfl rfl (by decide) (by decide)⟩

/-- The last element, the element past it, and a tile that the team does not have. -/
theorem witness_TileAccesses :
    let i : Iss := { row := "LDC", h := base 1, lane := true, vs := [0], ll := true, wr := true, mem := true }
    let out (k : BitVec 32) (s : State) (t : Team) (g : Group) : List (Nat × Nat) :=
      ((lanesOf (ctlAt i s t g).act).map fun l => (l, ((ctlAt i s t g).srcS (.reg 4)).toNat + k.toNat + l)).filter
        fun p => decide (16383 < p.2)
    Has i (fun s t g => 1 < t.al.tiles.length ∧ out 0 s t g = []) ∧
    Has i (fun _ t _ => t.al.tiles.length ≤ 2) ∧
    Has i (fun s t g => 1 < t.al.tiles.length ∧ out 1 s t g = [(1, 16384)]) :=
  ⟨has (twoAt 16382) id id rfl rfl (by decide) (by decide), has (twoAt 0) id id rfl rfl (by decide) (by decide),
   has (twoAt 16382) id id rfl rfl (by decide) (by decide)⟩

theorem witness_Atomics :
    (let i : Iss := { row := "ATOM", h := base 1, lane := true, vs := [0], ll := true, wr := true, mem := true }
     Has i fun s t g => Aligned 4 ((ctlAt i s t g).addrs lanes4 false 4)) ∧
    (let i : Iss := { row := "RED", h := base 1, lane := true, vs := [0], ll := true, wr := false, mem := true }
     Has i fun s t g =>
       let c := ctlAt i s t g
       let s1 := atIssue i s t g
       let ls : List LaneAcc := (c.addrs lanes4 false 4).map fun p =>
         ⟨p.1, p.2, (c.aval false (.reg 0) p.1).setWidth 128, 0, xlate s1 (some c.t.core) c.t.ctx p.2 true true false⟩
       let n := (ls.filter fun a => (atomFault false a.x).isNone && a.x.isD).length
       AOp.fadd ≠ AOp.cas ∧ Aligned 4 (c.addrs lanes4 false 4) ∧ n = 2 ∧ n ≤ quotaRoom s1 c.t ∧ n ≤ sporRoom s1 t.core) :=
  ⟨has (twoAt 0x20000) id id rfl rfl (by decide) (by unfold Aligned; decide),
   has (twoAt 0x30000) id id rfl rfl (by decide) (by unfold Aligned; decide)⟩

/-! ### Witnesses: waits, commits, barriers, copies -/

theorem witness_CountersAndRemoteAtomics :
    Meets (uniFacts "WAITA" (ext 1) true) (fun c _ => AddrOk 8 (c.s 4 + BitVec.ofInt 64 8).toNat) ∧
    Meets (uniFacts "CADD" (ext 1) false) (fun c s => AddrOk 8 (c.s 4).toNat ∧
      (accAt c s (c.s 4).toNat 0 0 true true).x.isD = false) ∧
    Meets (uniFacts "CADD" (ext 1) false) (fun c s => AddrOk 8 (c.s 4).toNat ∧
      (accAt c s (c.s 4).toNat 0 0 true true).x.isD = true) ∧
    Meets (uniFacts "RATOM" (ext 1) false) (fun c _ => AddrOk 8 (c.s 4).toNat ∧
      bindBad .ratom (vget c.t.queues 1) = false ∧ (vget c.t.queues 1).ents.length ≤ 14) ∧
    Meets (uniFacts "RATOM" (ext 1) false) (fun c _ => bindBad .ratom (vget c.t.queues 1) = true) :=
  ⟨meets (setS 4 0x20000) id id rfl rfl (by decide) (by unfold AddrOk; decide),
   meets (setS 4 0x20000) id id rfl rfl (by decide) (by unfold AddrOk; decide),
   meets (setS 4 0x30000) id id rfl rfl (by decide) (by unfold AddrOk; decide),
   meets (setS 4 0x20000) (bindQ .ratom) id rfl rfl (by decide) (by unfold AddrOk; decide),
   meets (setS 4 0x20000) (bindQ .nm) id rfl rfl (by decide) (by decide)⟩

/-- A store of two bytes on its way to the ordinary page. -/
def store0 : WStore := ⟨0, 0, 0, 0, 0x20000, 0x170000, none, false, [1, 2]⟩
def unit (grid : Bool) (n : Nat) (t : Team) : Team := { t with d := { t.d with gridUnit := grid, open' := n } }

theorem witness_Commits :
    Meets (uniFacts "COMMIT_TEAM" (ext 1) false) (fun c s => c.t.resp = none ∧ (CScope.team = .team → c.t.d.gridUnit = false) ∧
      c.t.d.open' < 4 ∧ 0 < sporRoom s c.t.core ∧ ackWaits s c.t.core = false) ∧
    Meets (uniFacts "COMMIT_TEAM" (ext 1) false) (fun c _ => c.t.resp ≠ none ∨ (CScope.team = .team ∧ c.t.d.gridUnit = true)) ∧
    Has (uniFacts "COMMIT_TEAM" (ext 1) false) (fun _ t _ => t.resp = none ∧ t.d.gridUnit = false ∧ 4 ≤ t.d.open') ∧
    Has (uniFacts "COMMIT_GRID" (ext 1) false) (fun _ t _ => t.resp = none ∧ t.d.gridUnit = true ∧ 4 ≤ t.d.open') ∧
    Has (uniFacts "COMMIT_POD" (ext 1) false) (fun s t _ => t.resp = none ∧ t.d.open' < 4 ∧ sporRoom s t.core = 0) ∧
    Has (uniFacts "COMMIT_POD" (ext 1) false) (fun s t _ => t.resp = none ∧ t.d.open' < 4 ∧ ackWaits s t.core = true) :=
  ⟨meets id (unit false 3) id rfl rfl (by decide) (by decide), meets id (unit true 0) id rfl rfl (by decide) (by decide),
   has id (unit false 4) id rfl rfl (by decide) (by decide), has id (unit true 4) id rfl rfl (by decide) (by decide),
   has id id (onCore fun c => { c with spor := List.replicate 4096 (.token 0 0) }) rfl rfl (by decide) (by decide +kernel),
   has id id (onCore fun c => { c with wtq := [{ store0 with acked := true }] }) rfl rfl (by decide) (by decide)⟩

def bar3 (e c : Nat) (t : Team) : Team := { t with bars := vset t.bars 3 ⟨e, c, 0⟩ }

theorem witness_Barriers :
    Meets (uniFacts "BARARV" (ext 1) false) (fun c s => (barArrive (barAfter s c.t 3) 4).2 = false) ∧
    Meets (uniFacts "BARSYNC" (ext 1) false) (fun c s => (barArrive (barAfter s c.t 3) 4).2 = false) ∧
    Meets (uniFacts "BARARV" (ext 1) false) (fun c s => (barArrive (barAfter s c.t 3) 4).2 = true) ∧
    Meets (uniFacts "BARSYNC" (ext 1) false) (fun c s => (barArrive (barAfter s c.t 3) 4).2 = true) :=
  ⟨meets id (bar3 4 1) id rfl rfl (by decide) (by decide), meets id (bar3 4 1) id rfl rfl (by decide) (by decide),
   meets id (bar3 2 1) id rfl rfl (by decide) (by decide), meets id (bar3 2 1) id rfl rfl (by decide) (by decide)⟩

def copy0 : Copy :=
  { id := 9, ctx := 0, owner := some (0, 0), node := none, core := 0, kind := .mem, dst := 0x20000, lay := 0x20000, coord := [0]
    ctr := none, op := none, pc := 0x10000, form := none, started := 0, running := [], total := 0, failed := none, ack := false, adds := false
    done := false, issued := 0 }
def withCopies (l : List Copy) (s : State) : State := { s with work := { s.work with copies := l } }

/-- An active lane with room in the queue, none active, the queue full, and a slot that the team does not have. -/
theorem witness_CopyIssue :
    let i : Iss := { row := "COPY", h := ext 1, lane := true, ll := true, wr := false, mem := true }
    Has i (fun s t g => (ctlAt i s t g).act = 0) ∧
    Has i (fun s t g => (ctlAt i s t g).act ≠ 0 ∧ 1 < t.al.slots.length ∧ copyRoom (atIssue i s t g) t.core = true) ∧
    Has i (fun s t g => (ctlAt i s t g).act ≠ 0 ∧ 1 < t.al.slots.length ∧ copyRoom (atIssue i s t g) t.core = false) ∧
    Has i (fun s t g => (ctlAt i s t g).act ≠ 0 ∧ t.al.slots.length ≤ 2) :=
  ⟨has (fun g => { g with r := { g.r with em := 0 } }) id id rfl rfl (by decide) (by decide),
   has id id id rfl rfl (by decide) (by decide),
   has id id (withCopies (List.replicate 64 copy0)) rfl rfl (by decide) (by decide),
   has id id id rfl rfl (by decide) (by decide)⟩

def window0 (l : List Win) (t : Team) : Team := { t with wins := l }
def s45 (x y : Dword) (g : Group) : Group := setS 4 x (setS 5 y g)

theorem witness_BatchesAndWindows :
    Meets { row := "CBATCH", h := base 1, mem := true } (fun _ _ => True) ∧
    Meets (uniFacts "CWAITB" (base 1) true)
      (fun c _ => (c.s 4).setWidth 32 = 0#32 ∨ newer ((c.s 4).setWidth 32) c.g.e.batch = false) ∧
    Meets (uniFacts "CWAITB" (base 1) true)
      (fun c _ => (c.s 4).setWidth 32 ≠ 0#32 ∧ newer ((c.s 4).setWidth 32) c.g.e.batch = true) ∧
    Meets (uniFacts "AEXPORT" (base 1) true) (fun c s => (c.s 5).toNat ≠ 0 ∧
      (c.s 4).toNat + (c.s 5).toNat ≤ c.t.al.asize ∧ c.t.wins.length < 4 ∧
      (List.range 4).find? (fun j => (windowOf s c.t.core j).isNone) = some 1) ∧
    (∀ n ∈ [(0 : Dword), 65537], Meets (uniFacts "AEXPORT" (base 1) true) (fun c _ => c.s 5 = n ∧ ((c.s 5).toNat = 0 ∨
      c.t.al.asize < (c.s 4).toNat + (c.s 5).toNat ∨ 4 ≤ c.t.wins.length))) ∧
    Meets (uniFacts "AEXPORT_REV" (base 1) false) (fun c s => ∃ k < 4,
      c.s 4 = BitVec.ofNat 64 (s.firm.devNum * 2 ^ 33 + c.t.core * 2 ^ 23 + k * 2 ^ 21) ∧
        s.firm.devNum < 1024 ∧ c.t.core < 1024 ∧ (c.t.wins.any fun w => w.num == k) = true) := by
  refine ⟨meets id id id rfl rfl (by decide) trivial, meets id id id rfl rfl (by decide) (by decide),
    meets (setS 4 1) id id rfl rfl (by decide) (by decide),
    meets (s45 0 65536) (window0 [⟨0, 0, 64⟩]) id rfl rfl (by decide) (by decide), ?_,
    meets (setS 4 0x600000) (window0 [⟨3, 0, 64⟩]) id rfl rfl (by decide) ⟨3, by decide, by decide⟩⟩
  intro n hn
  simp only [List.mem_cons, List.not_mem_nil, or_false] at hn
  obtain rfl | rfl := hn
  · exact meets (s45 0 0) id id rfl rfl (by decide) (by decide)
  · exact meets (s45 0 65537) id id rfl rfl (by decide) (by decide)

def coll0 (n : Nat) : Coll := { newColl State.reset 0 0 1 1 (some (0, 0)) none 0x20000 none 0 0x10000 with id := n }

theorem witness_CollectivesIssue :
    let i := uniFacts "COLL_AR" (ext 1) false
    let comm (c : Ctl) (s : State) : Nat := match collDesc s c.t.ctx (c.s 4) with
      | .ok b => descW b 0x20 % 2 ^ 16
      | .error _ => 0
    Meets i (fun c s => AddrOk 64 (c.s 4 + BitVec.ofInt 64 0).toNat ∧ collsOn s c.t.ctx (comm c s) < 16) ∧
    Has i (fun s t g => AddrOk 64 ((ctlAt i s t g).s 4 + BitVec.ofInt 64 0).toNat ∧
      16 ≤ collsOn (atIssue i s t g) t.ctx (comm (ctlAt i s t g) (atIssue i s t g))) ∧
    Meets (uniFacts "FMTSEL" (ext 1) true) (fun c _ => AddrOk 64 (c.s 4 + BitVec.ofInt 64 0).toNat) :=
  ⟨meets (setS 4 0x20000) id id rfl rfl (by decide) (by unfold AddrOk; decide),
   has (setS 4 0x20000) id (fun s => { s with work := { s.work with colls := (List.range 16).map coll0 } }) rfl rfl (by decide)
     (by unfold AddrOk; decide),
   meets (setS 4 0x20000) id id rfl rfl (by decide) (by unfold AddrOk; decide)⟩

/-! ### Witnesses: the tape, the directory, censuses, Rhizoid commands -/

def tape (l : List TapePos) (t : Team) : Team := { t with tape := l }
def rec1 : TapePos := .filled 5

theorem witness_TapeInstructions :
    Meets (uniFacts "TAPEMARK" (ext 1) true) (fun c _ => topInFlight c.t.tape = false ∧ c.t.tape.length = 2) ∧
    Meets (uniFacts "TAPEMARK_CUT" (ext 1) false) (fun c _ => topInFlight c.t.tape = false ∧ (c.s 4).toNat % 16 = 0 ∧
      (c.s 4).toNat ≤ 16 * (tapeTrim c.t.tape).length ∧
      ((c.t.tape.drop ((c.s 4).toNat / 16)).any fun p => p.isOpen || p.inFlight) = false) ∧
    (∀ n ∈ [(8 : Dword), 48], Meets (uniFacts "TAPEMARK_CUT" (ext 1) false) (fun c _ => topInFlight c.t.tape = false ∧
      ((c.s 4).toNat % 16 ≠ 0 ∨ 16 * (tapeTrim c.t.tape).length < (c.s 4).toNat) ∧ c.s 4 = n)) ∧
    Meets (uniFacts "TAPESPILL" (ext 1) true) (fun c s => (c.t.tape.any fun p => p.isOpen || p.inFlight) = false ∧
      tapeRange s c true (c.s 4).toNat (16 * (tapeRecs c.t.tape).length) = none ∧ (tapeRecs c.t.tape).length = 2) ∧
    Meets (uniFacts "TAPEFILL" (ext 1) false) (fun c s => tapeRange s c false (c.s 4).toNat (c.s 5).toNat = none ∧
      (c.s 5).toNat % 16 = 0 ∧ (tapeTrim c.t.tape).length + (c.s 5).toNat / 16 ≤ c.t.al.tapeb / 16) ∧
    (∀ n ∈ [(24 : Dword), 48], Meets (uniFacts "TAPEFILL" (ext 1) false) (fun c s => c.s 5 = n ∧
      tapeRange s c false (c.s 4).toNat (c.s 5).toNat = none ∧
      ((c.s 5).toNat % 16 ≠ 0 ∨ c.t.al.tapeb / 16 < (tapeTrim c.t.tape).length + (c.s 5).toNat / 16))) := by
  refine ⟨meets id (tape [rec1, rec1]) id rfl rfl (by decide) (by decide),
    meets (setS 4 32) (tape [rec1, rec1]) id rfl rfl (by decide) (by decide), ?_,
    meets (setS 4 0x20000) (tape [rec1, rec1]) id rfl rfl (by decide) (by decide),
    meets (s45 0x20000 32) (tape [rec1, rec1]) id rfl rfl (by decide) (by decide), ?_⟩ <;> intro n hn <;>
    simp only [List.mem_cons, List.not_mem_nil, or_false] at hn <;> obtain rfl | rfl := hn
  · exact meets (setS 4 8) (tape [rec1, rec1]) id rfl rfl (by decide) (by decide)
  · exact meets (setS 4 48) (tape [rec1, rec1]) id rfl rfl (by decide) (by decide)
  · exact meets (s45 0x20000 24) (tape [rec1, rec1]) id rfl rfl (by decide) (by decide)
  · exact meets (s45 0x20000 48) (tape [rec1, rec1]) id rfl rfl (by decide) (by decide)

def census0 : Census :=
  { id := 9, ident := 0, slot := 0, asker := 0, ctx := 0, q := 1, oper := 0, pod := false, op := some 10, key := 0, mask := 0
    entry := 0x10000, arg := 0, bresp := 2, ready := true, visited := [], cores := [], lates := [], late := 0
    total := Sys2Proof.Machine.Part.none 0, reported := [], peers := [], heard := none, done := false, closed := [], peer := none }

/-- Four censuses of the team open, every slot taken, and fifteen entries in the queue. -/
theorem witness_solicit_waits :
    let i := uniFacts "SOLICIT" (ext 1) false
    let may (s : State) (t : Team) (g : Group) : Prop :=
      AddrOk 64 ((ctlAt i s t g).srcS (.reg 4) + BitVec.ofInt 64 0).toNat ∧ bindBad .census (vget t.queues 1) = false
    Has i (fun s t g => may s t g ∧ t.d.opened.length = 4) ∧ Has i (fun s t g => may s t g ∧ freeSlot s = none) ∧
    Has i (fun s t g => may s t g ∧ (vget t.queues 1).ents.length = 15) :=
  ⟨has (setS 4 0x20000) (fun t => { t with d := { t.d with opened := [1, 2, 3, 4] } }) id rfl rfl (by decide)
     (by unfold AddrOk; decide),
   has (setS 4 0x20000) id (fun s => { s with cen := { s.cen with
     open' := (List.range 256).map fun k => { census0 with slot := k } } }) rfl rfl (by decide)
     ⟨by unfold AddrOk; decide, by decide +kernel⟩,
   has (setS 4 0x20000) (fun t => { t with queues := vset t.queues 1 ⟨some .census, List.replicate 15 ⟨some 0, 0⟩⟩ }) id
     rfl rfl (by decide) (by unfold AddrOk; decide)⟩

def resp0 (a : Option Dword) (t : Team) : Team :=
  { t with resp := some { cid := 1, core := 0, ent := 0, asker := 5, answer := a, late := false, faultCause := none, arg := 0 } }

theorem witness_DirectoryCensusRhizoidIssue :
    Meets (uniFacts "DIRMOVE" (ext 1) true) (fun c _ => (c.s 4).toNat < 768) ∧
    Meets (uniFacts "DIRMOVE" (ext 1) true) (fun c _ => 768 ≤ (c.s 4).toNat) ∧
    Meets (uniFacts "SOLICIT" (ext 1) false) (fun c s => AddrOk 64 (c.srcS (.reg 4) + BitVec.ofInt 64 0).toNat ∧
      bindBad .census (vget c.t.queues 1) = false ∧ freeSlot s = some 0 ∧ c.t.d.opened.length < 4 ∧
      (vget c.t.queues 1).ents.length ≤ 14) ∧
    Meets (uniFacts "SOLICIT" (ext 1) false) (fun c _ => bindBad .census (vget c.t.queues 1) = true) ∧
    Meets (uniFacts "RESPOND" (ext 1) false) (fun c _ => ∃ r, c.t.resp = some r ∧ r.answer = none) ∧
    Meets (uniFacts "RESPOND" (ext 1) false) (fun c _ => c.t.resp = none) ∧
    Meets (uniFacts "RESPOND" (ext 1) false) (fun c _ => ∃ r, c.t.resp = some r ∧ r.answer ≠ none) ∧
    Meets (uniFacts "NMPOST" (ext 1) false) (fun c _ => AddrOk 64 (c.s 4 + BitVec.ofInt 64 0).toNat ∧
      bindBad .nm (vget c.t.queues 1) = false ∧ (vget c.t.queues 1).ents.length < 16) ∧
    Meets (uniFacts "NMPOST" (ext 1) false) (fun c _ => bindBad .nm (vget c.t.queues 1) = true) ∧
    Meets (uniFacts "NMGATHER" (ext 1) true) (fun c _ => (c.s 5).toNat % 4 = 0 ∧ (c.s 4).toNat % 2 ^ 3 = 0 ∧
      (c.s 6).toNat % 2 ^ 3 = 0 ∧ (c.s 5).toNat + 4 * 16 ≤ c.t.al.asize ∧ (c.s 6).toNat + 16 * 2 ^ 3 ≤ c.t.al.asize) :=
  ⟨meets (setS 4 767) id id rfl rfl (by decide) (by decide), meets (setS 4 768) id id rfl rfl (by decide) (by decide),
   meets (setS 4 0x20000) id id rfl rfl (by decide) (by unfold AddrOk; decide),
   meets id (bindQ .nm) id rfl rfl (by decide) (by decide),
   meets id (resp0 none) id rfl rfl (by decide) ⟨_, rfl, rfl⟩, meets id id id rfl rfl (by decide) rfl,
   meets id (resp0 (some 1)) id rfl rfl (by decide) ⟨_, rfl, by decide⟩,
   meets (setS 4 0x20000) (bindQ .nm) id rfl rfl (by decide) (by unfold AddrOk; decide),
   meets id (bindQ .census) id rfl rfl (by decide) (by decide),
   meets (fun g => setS 6 65408 (s45 0x20000 65472 g)) id id rfl rfl (by decide) (by decide)⟩

/-! ### Witnesses: the matrix stream -/

/-- Row, column and term 0 selected by mask registers 0; BF16 blocks in `x16`, a frond block in `x18`, a grid of 5
intervals in knot register 0, and an FP32 drain to the A-buffer in `x20`. -/
def stream0 : MStream :=
  let m := MStream.start 0 0x10000
  { m with
    x := vset (vset (vset m.x 16 0x202) 18 0xE02) 20 4
    mkr := vset m.mkr 0 1, nkr := vset m.nkr 0 1, kkr := vset m.kkr 0 1, knr := vset m.knr 0 0x50000000000 }

def sTeam (r : MStream → MStream) (k : Team → Team) : Team := teamOf' id fun t => { k t with stream := some (r stream0) }
def sWorld (r : MStream → MStream) (k : Team → Team) (e : State → State) : State :=
  { world id (fun t => { k t with stream := some (r stream0) }) e with cur := some (.stream 0) }

/-- Stream condition `ok`, with its unit's clock, holds somewhere. -/
def SHas (unit : State → Team → MStream → Nat) (ok : SCtl → State → Prop) : Prop :=
  ∃ s t m, StreamReady s t m ∧ ok (streamCtl s t m (unit s t m)) (streamAt s m (unit s t m))

/-- The same with groups that `f` changes. -/
theorem stream_ready_of (f : Group → Group) (r : MStream → MStream) (k : Team → Team) (e : State → State)
    (hu : (k team0).uid = 0) (hm : mayStream (teamOf' f fun t => { k t with stream := some (r stream0) }) (r stream0) = true) :
    StreamReady { world f (fun t => { k t with stream := some (r stream0) }) e with cur := some (.stream 0) }
      (teamOf' f fun t => { k t with stream := some (r stream0) }) (r stream0) := by
  have hu2 : (teamOf' f fun t => { k t with stream := some (r stream0) }).uid = 0 := hu
  refine ⟨by rw [hu2], ?_, rfl, hm⟩
  rw [hu2]
  simp [teamOf, world, hu2]

theorem stream_ready (r : MStream → MStream) (k : Team → Team) (e : State → State) (hu : (k team0).uid = 0)
    (hm : mayStream (sTeam r k) (r stream0) = true) : StreamReady (sWorld r k e) (sTeam r k) (r stream0) :=
  stream_ready_of id r k e hu hm

theorem shas {unit : State → Team → MStream → Nat} {ok : SCtl → State → Prop} (r : MStream → MStream) (k : Team → Team)
    (e : State → State) (hu : (k team0).uid = 0) (hm : mayStream (sTeam r k) (r stream0) = true)
    (ho : ok (streamCtl (sWorld r k e) (sTeam r k) (r stream0) (unit (sWorld r k e) (sTeam r k) (r stream0)))
      (streamAt (sWorld r k e) (r stream0) (unit (sWorld r k e) (sTeam r k) (r stream0)))) : SHas unit ok :=
  ⟨_, _, _, stream_ready r k e hu hm, ho⟩

def x1 (v : Dword) (m : MStream) : MStream := { m with x := vset m.x 1 v }
/-- An MDRAIN in the queue that reads tile 0 and writes memory, or the A-buffer. -/
def drain0 (mem : Bool) : Drain :=
  { id := 3, pc := 0x10000, acc := 0, dst := 0, pitch := 512, ctl := if mem then 0x8004 else 4, stat := 0, mrow := 1, ncol := 1
    undef := false, resv := [] }

theorem witness_StreamRegisters :
    let inBuf (n : Nat) (c : SCtl) : Prop :=
      (c.x 1 + (0 : BitVec 32).signExtend 64).toNat % n = 0 ∧
        (c.x 1 + (0 : BitVec 32).signExtend 64).toNat + n ≤ c.t.al.asize ∧ drainsToBuf c.m = false
    SHas portAt (fun c _ => inBuf 16 c) ∧ SHas portAt (fun c _ => inBuf 64 c) ∧ SHas noWait (fun _ _ => True) ∧
    SHas noWait (fun c _ => knotOf (c.x 1) ≠ none) ∧ SHas noWait (fun c _ => knotOf (c.x 1) = none) ∧
    SHas portAt (fun c _ => (c.x 1 + (0 : BitVec 32).signExtend 64).toNat % 16 ≠ 0) :=
  ⟨shas (x1 65520) id id rfl rfl (by decide), shas (x1 65472) id id rfl rfl (by decide), shas id id id rfl rfl trivial,
   shas (x1 0x3D0000000000) id id rfl rfl (by decide), shas (x1 0x3E0000000000) id id rfl rfl (by decide),
   shas (x1 8) id id rfl rfl (by decide)⟩

def drains (l : List Drain) (m : MStream) : MStream := { m with drains := l }
/-- A stream whose register `n` was loaded from bytes that nothing had brought to it. -/
def stale (n : Nat) (m : MStream) : MStream := { m with undef := [n] }
def masks0 : Masks := ⟨0, 0, 0⟩

/-- An MMA of one row, column and term whose operand run ends at the end of the allocation; tiles and slots at the team's
counts; and a drain before it. -/
theorem witness_MatrixMultiply :
    let clear (c : SCtl) : Prop := tileLanded c.m 1 = true ∧ tileUndrained c.m 1 = true ∧ drainsToBuf c.m = false
    SHas (engineAt 1) (fun c _ => clear c ∧ 1 < c.t.al.tiles.length ∧ 1 < c.t.al.slots.length ∧
      blockUndef c 16 = false ∧ ∃ f u, blockOf c 16 = some (f, u) ∧ ∀ r ∈ aRuns f u (c.x 1).toNat (onBits 128 (c.rows masks0)) (c.terms masks0) ++
        bRuns f (onBits 128 (c.cols masks0)) (c.terms masks0), r.1 + r.2 ≤ c.t.al.asize) ∧
    SHas (engineAt 1) (fun c _ => clear c ∧ 1 < c.t.al.tiles.length ∧ 1 < c.t.al.slots.length ∧ blockUndef c 16 = true) ∧
    SHas (engineAt 1) (fun c _ => clear c ∧ c.t.al.tiles.length ≤ 2) ∧
    SHas (engineAt 1) (fun c _ => clear c ∧ 1 < c.t.al.tiles.length ∧ c.t.al.slots.length ≤ 2) ∧
    SHas (engineAt 1) (fun c _ => ¬ clear c) :=
  ⟨shas (x1 65534) id id rfl rfl ⟨by decide, by decide, by decide, by decide, ⟨.bf16, .bf16, 64, 0, 0, false, false, false, false, 0, 0, 0, none⟩,
      .pitch 0, by decide, by decide⟩,
   shas (stale 17) id id rfl rfl (by decide), shas id id id rfl rfl (by decide), shas id id id rfl rfl (by decide),
   shas (drains [drain0 false]) id id rfl rfl (by decide)⟩

theorem witness_FillAndCopyTile :
    SHas (engineAt 1) (fun c _ => tileLanded c.m 0 = true ∧ tileUndrained c.m 1 = true ∧ 1 < c.t.al.tiles.length ∧
      0 < c.t.al.tiles.length) ∧
    SHas (engineAt 2) (fun c _ => tileUndrained c.m 2 = true ∧ c.t.al.tiles.length ≤ 2) ∧
    SHas (engineAt 1) (fun c _ => tileLanded c.m 2 = true ∧ tileUndrained c.m 1 = true ∧
      (c.t.al.tiles.length ≤ 1 ∨ c.t.al.tiles.length ≤ 2)) :=
  ⟨shas id id id rfl rfl (by decide), shas id id id rfl rfl (by decide), shas id id id rfl rfl (by decide)⟩

def grid5 : Knot := ⟨false, 5, 0, 0⟩
def frond5 : MForm := ⟨.bf16, .bf16, 64, 0, 0, false, false, false, false, 0, 0, 0, some grid5⟩

def quota0 (t : Team) : Team := { t with d := { t.d with quota := 0 } }

/-- FRDER on one row, with the block and the unfolding defined, with the unfolding or the block undefined; FRGRAD at the
deferred page within the quota of 4 records (term 0 is one basis function of one input), the same with the unfolding
undefined, off 4, on an ordinary page, with no quota, with the block undefined, and of a tile the team does not have; and
FREFINE of the grid of 5 intervals. -/
theorem witness_FrondInstructions :
    let inside (c : SCtl) : Prop := c.unfUndef = false ∧ unfOf c.m frond5 = some (.pitch 0) ∧
      ∀ r ∈ aRuns frond5 (.pitch 0) (c.x 2).toNat (onBits 128 (c.rows masks0)) (c.terms masks0), r.1 + r.2 ≤ c.t.al.asize
    let der (c : SCtl) : Prop := tileLanded c.m 0 = true ∧ tileUndrained c.m 1 = true ∧ drainsToBuf c.m = false ∧
      1 < c.t.al.tiles.length ∧ 0 < c.t.al.tiles.length
    let fine (c : SCtl) : Prop := tileLanded c.m 0 = true ∧ drainsToBuf c.m = false ∧ 0 < c.t.al.tiles.length ∧
      c.pairUndef 18 = false ∧ frondOf c 18 = some (frond5, grid5)
    let keys (c : SCtl) (s : State) : Except Cause (List Nat) := gradKeys (((onBits 128 (c.cols masks0)).flatMap fun n =>
      (gradTerms grid5 (c.terms masks0)).map fun j => (j, n)).map fun p =>
        xlate s (some c.t.core) c.t.ctx (c.x 1 + BitVec.ofNat 64 (256 * p.2 + 4 * p.1)).toNat false true false)
    SHas (engineAt 1) (fun c _ => der c ∧ c.pairUndef 18 = false ∧ frondOf c 18 = some (frond5, grid5) ∧ inside c) ∧
    SHas (engineAt 1) (fun c _ => der c ∧ c.pairUndef 18 = false ∧ frondOf c 18 = some (frond5, grid5) ∧ c.unfUndef = true) ∧
    SHas (engineAt 1) (fun c _ => der c ∧ c.pairUndef 18 = true) ∧
    SHas (engineAt 16) (fun c s => fine c ∧ inside c ∧ (c.x 1).toNat % 4 = 0 ∧ keys c s = .ok [0x180000] ∧
      [0x180000].length ≤ quotaRoom s c.t) ∧
    SHas (engineAt 16) (fun c s => fine c ∧ c.unfUndef = true ∧ (c.x 1).toNat % 4 = 0 ∧ keys c s = .ok [0x180000] ∧
      [0x180000].length ≤ quotaRoom s c.t) ∧
    SHas (engineAt 16) (fun c _ => fine c ∧ inside c ∧ (c.x 1).toNat % 4 ≠ 0) ∧
    SHas (engineAt 16) (fun c s => fine c ∧ inside c ∧ (c.x 1).toNat % 4 = 0 ∧ keys c s = .error .frgnd) ∧
    SHas (engineAt 16) (fun c s => fine c ∧ inside c ∧ (c.x 1).toNat % 4 = 0 ∧ keys c s = .ok [0x180000] ∧
      quotaRoom s c.t < [0x180000].length) ∧
    SHas (engineAt 16) (fun c _ => tileLanded c.m 0 = true ∧ drainsToBuf c.m = false ∧ 0 < c.t.al.tiles.length ∧
      c.pairUndef 18 = true) ∧
    SHas (engineAt 16) (fun c _ => tileLanded c.m 2 = true ∧ drainsToBuf c.m = false ∧ c.t.al.tiles.length ≤ 2) ∧
    SHas (engineAt 1) (fun c _ => tileUndrained c.m 1 = true ∧ 1 < c.t.al.tiles.length ∧ 1 < c.t.al.slots.length ∧
      knotOf (vget c.m.knr 0) = some grid5 ∧ 2 * grid5.g ≤ 61 ∧ -128 ≤ grid5.e - 1 ∧ 1 < grid5.inputs) :=
  ⟨shas id id id rfl rfl (by decide), shas (stale 32) id id rfl rfl (by decide), shas (stale 18) id id rfl rfl (by decide),
   shas (x1 0x30000) id id rfl rfl (by decide), shas (fun m => stale 32 (x1 0x30000 m)) id id rfl rfl (by decide),
   shas (x1 0x30002) id id rfl rfl (by decide), shas (x1 0x20000) id id rfl rfl (by decide),
   shas (x1 0x30000) quota0 id rfl rfl (by decide), shas (stale 18) id id rfl rfl (by decide),
   shas id id id rfl rfl (by decide), shas id id id rfl rfl (by decide)⟩

theorem witness_DrainIssue :
    let room (c : SCtl) : Prop := c.m.drains.length < 4 ∧ 1 < c.t.al.tiles.length
    let undef (c : SCtl) : Bool := c.pairUndef 1 || c.pairUndef 20
    SHas noWait (fun c _ => room c ∧ ∃ d, drainCtl (c.x 20) (c.m.ints.contains 1) = some d) ∧
    SHas noWait (fun c _ => room c ∧ (c.pairUndef 1 || c.pairUndef 1) = false ∧
      drainCtl (c.x 1) (c.m.ints.contains 1) = none) ∧
    SHas noWait (fun c _ => room c ∧ undef c = true ∧ drainCtl (c.x 20) (c.m.ints.contains 1) = none) ∧
    SHas noWait (fun c _ => 4 ≤ c.m.drains.length) :=
  ⟨shas (drains (List.replicate 3 (drain0 true))) id id rfl rfl ⟨by decide, _, rfl⟩,
   shas (x1 0x104) id id rfl rfl (by decide),
   shas (fun m => stale 20 { m with x := vset m.x 20 0x104 }) id id rfl rfl (by decide),
   shas (drains (List.replicate 4 (drain0 true))) id id rfl rfl (by decide)⟩

def loops (l : List Loop) (m : MStream) : MStream := { m with loops := l }
def phase (p : Option Nat) (m : MStream) : MStream := { m with lp := vset m.lp 3 p }

theorem witness_StreamControl :
    SHas noWait (fun c s => c.m.mops = [] ∧ c.m.drains = [] ∧ pendingArrivals s c.tid 3 = [] ∧
      (barArrive (vget c.t.bars 3) 4).2 = false) ∧
    SHas noWait (fun c s => c.m.mops = [] ∧ c.m.drains = [] ∧ pendingArrivals s c.tid 3 = [] ∧
      (barArrive (vget c.t.bars 3) 4).2 = true) ∧
    SHas noWait (fun c _ => ∃ p, vget c.m.lp 3 = some p ∧ p ≠ (vget c.t.bars 3).ph) ∧
    SHas noWait (fun c _ => vget c.m.lp 3 = some (vget c.t.bars 3).ph) ∧
    SHas noWait (fun c _ => vget c.m.lp 3 = none ∧ c.m.loops = [] ∧ c.m.mops = [] ∧ c.m.drains = []) ∧
    SHas noWait (fun c _ => (c.x 1).toNat % 2 ^ 32 ≠ 0 ∧ c.m.loops.length < 4) ∧
    SHas noWait (fun c _ => (c.x 1).toNat % 2 ^ 32 ≠ 0 ∧ 4 ≤ c.m.loops.length) ∧
    SHas noWait (fun c _ => ∃ l r, c.m.loops = l :: r ∧ 1 < l.left) ∧
    SHas noWait (fun c _ => ∃ l r, c.m.loops = l :: r ∧ l.left ≤ 1) ∧
    (∀ x ∈ [(true, true), (false, true), (true, false)], ∃ s t m, StreamReady s t m ∧ m.loops = [] ∧ m.mops = [] ∧
      m.drains = [] ∧ (let after : Team := { t with stream := some { m with ended := true } }
        (teamEnds (streamAt s m 0) after, endRoom (streamAt s m 0) after) = x)) := by
  refine
  ⟨shas id (bar3 4 1) id rfl rfl (by decide), shas id (bar3 2 1) id rfl rfl (by decide),
   shas (phase (some 1)) id id rfl rfl ⟨1, by decide, by decide⟩, shas (phase (some 0)) id id rfl rfl (by decide),
   shas id id id rfl rfl (by decide), shas (fun m => x1 1 (loops (List.replicate 3 ⟨0x10000, 2⟩) m)) id id rfl rfl (by decide),
   shas (fun m => x1 1 (loops (List.replicate 4 ⟨0x10000, 2⟩) m)) id id rfl rfl (by decide),
   shas (loops [⟨0x10000, 2⟩]) id id rfl rfl ⟨_, _, rfl, by decide⟩,
   shas (loops [⟨0x10000, 1⟩]) id id rfl rfl ⟨_, _, rfl, by decide⟩,
   ?_⟩
  intro x hx
  simp only [List.mem_cons, List.not_mem_nil, or_false] at hx
  obtain rfl | rfl | rfl := hx
  · exact ⟨_, _, _, stream_ready_of (fun g => { g with ended := true }) id id id rfl rfl, rfl, rfl, rfl, by decide⟩
  · exact ⟨_, _, _, stream_ready id id id rfl rfl, rfl, rfl, rfl, by decide⟩
  · exact ⟨_, _, _, stream_ready_of (fun g => { g with ended := true }) id id
      (onCore fun c => { c with spor := List.replicate 4096 (.token 0 0) }) rfl rfl, rfl, rfl, rfl,
      by decide +kernel⟩

/-! ### Witnesses: events of cores, grids and the deferred path -/

theorem ex_of {α : Type} {x : Option α} {p : α → Bool} (h : x.any p = true) : ∃ a, x = some a ∧ p a = true := by
  cases x with
  | none => simp at h
  | some a => exact ⟨a, rfl, h⟩

def w0 : State := world id id id
def op7 (k : OpKind) : Op :=
  { id := 7, tid := 0, gid := 0, flag := some 0, pc := 0x10000, next := 0x10004, kind := k, after := 0, issued := 0, uni := none }
def withOp (k : OpKind) : State := { w0 with work := { w0.work with ops := [op7 k] } }
def acc7 (x : Xl) : LaneAcc := ⟨0, 0x20000, 0, 0, x⟩
def good7 : Xl := .at 0x170000 true false none
def load7 (x : Xl) : OpKind := .mem false .b32 ⟨0, 0⟩ false (.v [0]) [acc7 x] 0 [] none
def rat7 (x : Xl) : OpKind := .ratom .add false 1 (acc7 x) 0
def waiting (g : Group) : Group := { g with t := { g.t with pending := some ({ g.t.tr with cause := 5 }, none) } }
def mop7 : MOp := { id := 7, tile := some 1, land := 8, elems := [(0, 1)], recs := [] }

/-- A completing operation without a fault and one with a fault, both replies of a remote atomic, a team that waits for
its handler, a page to walk, a store in the queue, a line, a landing result, a queued drain. -/
theorem witness_Completions :
    (∃ s o, opOf? s 7 = some o ∧ o.kind = .regs []) ∧
    (∃ s o w p, opOf? s 7 = some o ∧ opFaulty s o = false ∧ whoOf s o = some w ∧ accessPerform s o false = some p ∧
      opFaults w.t.d.gridUnit o.kind = [] ∧ p.ue = []) ∧
    (∃ s o w p, opOf? s 7 = some o ∧ whoOf s o = some w ∧ mayReport w.g o = true ∧ accessPerform s o false = some p ∧
      opFaults w.t.d.gridUnit o.kind ++ p.ue ≠ []) ∧
    (∃ s o w k, opOf? s 7 = some o ∧ whoOf s o = some w ∧ o.kind = rat7 (.bad 9 false) ∧
      ratomCause s false (.bad 9 false) = some k) ∧
    (∃ s o w, opOf? s 7 = some o ∧ whoOf s o = some w ∧ o.kind = rat7 good7 ∧ ratomCause s false good7 = none ∧
      homeReady s w o [acc7 good7] 4 = true) ∧
    (∃ s t u g, teamOf s 0 = some t ∧ t.halt = .settling u ∧ firstPending t = some g ∧
      ∀ g ∈ t.groups, g.t.inHandler = false) ∧
    (∃ s c k e, ctxOf s 0 = some c ∧ walkFrom s 0x10000 4 c.root = .leaf k e) ∧
    (∃ s e r, (coreOf s 0).wtq = e :: r ∧ homeWaits s e.key = false ∧ homeWaits s (e.key + (e.bytes.length - 1)) = false) ∧
    (∃ s, 0 < (coreOf s 0).l1.length) ∧
    (∃ s t m o, (streamsOn s 0).find? (fun p => p.2.mops.any fun x => x.id == 7) = some (t, m) ∧
      m.mops.find? (fun x => x.id == 7) = some o ∧ o.recs.length ≤ sporRoom s 0 ∧ ∀ x ∈ m.mops, x.id < 7 → x.tile ≠ o.tile) ∧
    (∃ s t m d c, oldestDrain s 0 = some (t, m, d) ∧ drainCtl d.ctl (m.ints.contains d.acc) = some c ∧
      tileLanded m d.acc = true ∧ (∀ k ∈ drainKeys s c t d, homeWaitsBut s (some d.id) k = false) ∧ (c.stat = true → 0 < sporRoom s 0)) := by
  refine ⟨⟨withOp (.regs []), _, rfl, rfl⟩, ?_, ?_, ⟨withOp (rat7 (.bad 9 false)), _, _, _, rfl, rfl, rfl, rfl⟩,
    ⟨withOp (rat7 good7), _, _, rfl, rfl, rfl, by decide, by decide⟩,
    ⟨world waiting (fun t => { t with halt := .settling 0 }) id, _, _, _, rfl, rfl, rfl, by decide⟩,
    ⟨w0, _, 0, 0x16001F, rfl, by decide⟩,
    ⟨onCore (fun c => { c with wtq := [store0] }) w0, _, _, rfl, by decide, by decide⟩,
    ⟨onCore (fun c => { c with l1 := [⟨0, 0x20000, [], 0x170000, false⟩] }) w0, by decide⟩,
    ⟨sWorld (fun m => { m with mops := [mop7] }) id id, _, _, _, rfl, rfl, by decide, by decide⟩,
    ⟨sWorld (drains [drain0 false]) id id, _, _, _, _, rfl, rfl, by decide, by decide, by decide⟩⟩
  · obtain ⟨p, hp, h⟩ := ex_of (x := accessPerform (withOp (load7 good7)) (op7 (load7 good7)) false)
      (p := fun p => decide (p.ue = [])) (by decide)
    exact ⟨withOp (load7 good7), _, _, p, rfl, by decide, rfl, hp, by decide, of_decide_eq_true h⟩
  · let x : Xl := .bad 9 false
    obtain ⟨p, hp, -⟩ := ex_of (x := accessPerform (withOp (load7 x)) (op7 (load7 x)) false) (p := fun _ => true) (by decide)
    exact ⟨withOp (load7 x), _, _, p, rfl, rfl, by decide, hp, by simp [x, load7, op7, opFaults, memFault, acc7]⟩

def lr0 : LRec :=
  { ngrp := 1, nprod := 0, cores := false, cunit := true, msv := false, prio := 1, bprod := 1, bcons := 1, abytes := 4096
    ctiles := 1, wslots := 1, deferq := 4, tapeb := 0, gx := 2, gy := 1, gz := 1, gentry := 0x10000, mentry := 0, argp := 0
    cplctr := 0x10900, wsbase := 0, wsbytes := 0 }
def grid0 : Grid :=
  { uid := 5, ctx := 0, seq := 95, lr := lr0, recAddr := 0x20000, phase := .dispatch, tag := some 0, made := [], cursor := 0
    again := [], ended := [], podNo := none, cmd := none, node := none, fail := none, reached := [], code := [] }
/-- A machine with a context, its code, and a grid of two teams, but no team. -/
def gWorld (g : Grid) (f : State → State) : State :=
  let s := placeCode State.reset []
  f { s with work := { s.work with grids := [g], cores := [(0, core0)] } }
def queue0 (cl : Nat) (s : State) : State :=
  { s with work := { s.work with disp := { s.work.disp with queues := [(cl, [⟨5, 0, 0, 0⟩])] } } }
def cmd0 (k : QKind) (s : State) : State := { s with host := { s.host with cmds := [⟨0, 0, 1, 9, k, false⟩] } }
def place0 (core : Nat) (n : Nat) : Place :=
  { core := core, pb := 0, abase := 4096 * n, tiles := [n], slots := [n], keep := false }

/-- A grid of a pod of two devices, of which this is the lowest-numbered, with commits `l` and what the other has said. -/
def podWorld (f : Grid → Grid) (l : List Commit) (said : List PodSaid) : State :=
  let s := gWorld (f { grid0 with podNo := some 0 }) id
  { s with
    ctl := { s.ctl with ctxs := s.ctl.ctxs.map fun x => { x with pod := [0, 1] } }
    defer := { s.defer with commits := l, podSaid := said } }

/-- Device 1 of the pod, with a launch to be joined and the outcome that the lowest-numbered one has told it. -/
def joins (n : Nat) : State :=
  let s := podWorld (fun g => { g with phase := .waitPod }) [] [⟨0, 0, 0, .outcome n⟩]
  { s with firm := { s.firm with devNum := 1 } }

/-- A grid that waits for its tag. -/
def waits5 (g : Grid) : State := gWorld g fun s => { s with defer := { s.defer with waiting := [(5, none)] } }

set_option maxRecDepth 8000 in
theorem witness_GridEvents :
    (∃ s c, queueHead s 0 0 = some c ∧ c.kind = .launch 0x10800 0 ∧ c.started = false ∧ lrecWaits s c.ctx 0x10800 = false) ∧
    (∀ nd ∈ [none, some 1], ∃ s w g s1, s.defer.waiting[0]? = some w ∧ gridOf s w.1 = some g ∧ g.node = nd ∧
      (w.2 = none → g.node ≠ none → nodesHeld s g.ctx = false) ∧ takeTag s w.1 w.2 g.lr.deferq = some s1) ∧
    (let out (s : State) (g : Grid) (t : Nat) : Prop := gridOf s 5 = some g ∧ nextTeam s g = some t ∧ g.phase = .dispatch ∧
       g.lr.cores = false ∧ draining s g.ctx = false ∧ (clusterQueue s ((g.seq + t) % 96)).length < 16
     let untagged (s : State) (g : Grid) (t : Nat) : Prop := g.lr.cunit = false ∧ unitTag s 5 (some t) = none ∧
       (5, some t) ∉ s.defer.waiting
     (∃ s g t, out s g t ∧ g.lr.cunit = true) ∧ (∃ s g t, out s g t ∧ g.lr.cunit = false ∧ unitTag s 5 (some t) ≠ none) ∧
     (∃ s g t s1, out s g t ∧ untagged s g t ∧ mapsPeer s g.ctx = false ∧ takeTag s 5 (some t) g.lr.deferq = some s1) ∧
     (∃ s g t, out s g t ∧ untagged s g t ∧ mapsPeer s g.ctx = true) ∧
     (∃ s g t, out s g t ∧ untagged s g t ∧ mapsPeer s g.ctx = false ∧ takeTag s 5 (some t) g.lr.deferq = none)) ∧
    (∃ s e g, queueTop s (clusterQueue s 0) = some e ∧ gridOf s e.grid = some g ∧ draining s g.ctx = false ∧
      chooseCore s (clusterCores 0) (needOf g.lr) = some (place0 0 0).core ∧ placeOk s (needOf g.lr) (place0 0 0) = true ∧
      respFirst s (place0 0 0).core = false ∧ (coreOf s (place0 0 0).core).hot = false) ∧
    (∃ s f l e g, longestQueue s = some (f, l) ∧ queueTop s l = some e ∧ gridOf s e.grid = some g ∧ clusterQueue s 1 = [] ∧
      1 < 96 ∧ f ≠ 1 ∧ chooseCore s (clusterCores 1) (needOf g.lr) ≠ none) ∧
    (∃ s g s1, gridOf s 5 = some g ∧ g.phase = .dispatch ∧ g.lr.cores = true ∧ draining s g.ctx = false ∧
      (∀ p ∈ [place0 0 0, place0 0 1], (coreOf s p.core).hot = false) ∧
      (let ts := (localTeams s g).filter fun t => decide (g.cursor ≤ t)
       ts.length = [place0 0 0, place0 0 1].length ∧ ts ≠ [] ∧ placeAll g (ts.zip [place0 0 0, place0 0 1]) s = some s1)) ∧
    (∀ n ∈ [0, 2], ∃ s g, gridOf s 5 = some g ∧ g.phase = .dispatch ∧ g.ended.length = (localTeams s g).length ∧
      commitsDone s 5 = true ∧ (g.lr.cplctr ≠ 0 → counterWaits s g.ctx g.lr.cplctr = false) ∧ (podOf s g).length = n ∧
      (1 < (podOf s g).length → podHeldBy s g = false ∧ podAgreed s g .ended .allEnded = true)) ∧
    (∀ n ∈ [0, 7], ∃ (s : State) (g : Grid), awaitsPod s 0 0 = some g ∧ podOutcome s g = some n) := by
  refine ⟨⟨gWorld grid0 (cmd0 (.launch 0x10800 0)), _, rfl, rfl, rfl, by decide⟩,
    ?_, ?_,
    ⟨gWorld grid0 (queue0 0), _, _, rfl, rfl, rfl, by decide, by decide, by decide, by decide⟩,
    ⟨gWorld grid0 (queue0 0), _, _, _, _, rfl, rfl, rfl, rfl, by decide, by decide, by decide⟩, ?_,
    ?_, ?_⟩
  · intro nd hn
    simp only [List.mem_cons, List.not_mem_nil, or_false] at hn
    obtain rfl | rfl := hn
    · exact ⟨waits5 grid0, _, _, _, rfl, rfl, rfl, by decide, rfl⟩
    · exact ⟨waits5 { grid0 with node := some 1 }, _, _, _, rfl, rfl, rfl, by decide, rfl⟩
  · let own : Grid := { grid0 with lr := { lr0 with cunit := false } }
    intro out untagged
    exact ⟨⟨gWorld grid0 id, grid0, 0, by decide, rfl⟩,
      ⟨gWorld own fun s => { s with defer := { s.defer with tags := [⟨3, 4, 5, some 0⟩] } }, own, 0, by decide, rfl, by decide⟩,
      ⟨gWorld own id, own, 0, _, by decide, by decide, by decide, rfl⟩,
      ⟨gWorld own fun s => { s with mem := memPut (memPut s.mem 0x150010 4 0x16081F) 0x15001C 2 1 }, own, 0, by decide,
        by decide, by decide +kernel⟩,
      ⟨gWorld own fun s => { s with defer := { s.defer with tags := [⟨0, 557056, 9, none⟩] } }, own, 0,
        by decide, by decide, by decide, by decide +kernel⟩⟩
  rotate_left
  · intro n hn
    simp only [List.mem_cons, List.not_mem_nil, or_false] at hn
    obtain rfl | rfl := hn
    · exact ⟨gWorld { grid0 with ended := [0, 1] } id, _, rfl, rfl, by decide, by decide, by decide, by decide, by decide⟩
    · exact ⟨podWorld (fun g => { g with ended := [0] }) [] [⟨1, 0, 0, .ended⟩], _, rfl, rfl, by decide, by decide, by decide,
        by decide, by decide⟩
  · intro n hn
    simp only [List.mem_cons, List.not_mem_nil, or_false] at hn
    obtain rfl | rfl := hn
    · exact ⟨joins 0, _, rfl, by decide⟩
    · exact ⟨joins 7, _, rfl, by decide⟩
  let g : Grid := { grid0 with lr := { lr0 with cores := true } }
  obtain ⟨s1, h, -⟩ := ex_of (x := placeAll g ([0, 1].zip [place0 0 0, place0 0 1]) (gWorld g id)) (p := fun _ => true)
    (by decide +kernel)
  exact ⟨gWorld g id, g, s1, rfl, rfl, rfl, rfl, by decide, by decide, by decide, h⟩

def rec0 : DRec :=
  { value := 1, dev := 0, pa := 0x180000, opr := .xchg, wide := false, tag := 0, et := 0, eg := 0, ep := 0, census := none
    team := 0, maker := some (0, 0), src := 0, ue := false, wait := none }
def commit0 : Commit :=
  { id := 6, scope := .team, n := 1, ctx := 0, grid := 5, team := 0, tags := [0], census := [], ops := [], ctrs := [], arrived := [0]
    tokens := [0], podGo := false, closed := false, shipped := [], toShip := [], marked := [], applySent := [], acked := []
    podDone := false, poison := false }
def withCommit (c : Commit) (f : Deferred → Deferred) : State :=
  gWorld grid0 fun s => { s with defer := f { s.defer with commits := [c] } }
theorem witness_DeferredEvents :
    (∃ (s : State) (r : DRec) (rest : List Spor), (coreOf s 0).spor = .entry r :: rest) ∧
    (∃ (s : State) (b : Bin), (sorusOf s 0).bins[0]? = some b ∧ b.recs ≠ []) ∧
    (∃ (s : State) (p : Packet), s.defer.packets[1]? = some p ∧ peerHeld s (packetDev p) = false ∧
      ∀ q ∈ s.defer.packets.take 1, packetKey s q ≠ packetKey s p) ∧
    (∃ (s : State) (rest : List Spor), (coreOf s 0).spor = .token 6 0 :: rest) ∧
    (∀ x ∈ [CScope.team, .endTeam, .endGrid], ∃ s c, commitOf s 6 = some c ∧ c.closed = false ∧ c.scope = x ∧
      (∀ t ∈ c.tokens, t ∈ c.arrived) ∧ podCommit s c = false ∧ coordBehind s c (fun k => k.closed) = false) ∧
    (∀ x ∈ [CScope.grid, .pod], ∃ s c g, commitOf s 6 = some c ∧ c.closed = false ∧ c.scope = x ∧ gridOf s c.grid = some g ∧
      allArrived s g c = true ∧ podCommit s c = (x == .pod) ∧ c.podGo = (x == .pod) ∧
      coordBehind s c (fun k => k.closed) = false) ∧
    (∃ s c, commitOf s 6 = some c ∧ 0 ∈ c.toShip ∧ coordBehind s c (fun k => !k.toShip.contains 0) = false) ∧
    (∃ s c, commitOf s 6 = some c ∧ c.closed = true ∧ c.toShip = [] ∧ c.marked ≠ [] ∧ c.applySent = [] ∧
      coordBehind s c (fun k => k.closed && k.toShip.isEmpty && (k.marked.isEmpty || !k.applySent.isEmpty)) = false) ∧
    (∃ s c, commitOf s 6 = some c ∧
      (0, 3, ((thallusOf s (0, 3)).markers.filter fun m => m.2 == 6).length) ∈ c.applySent ∧
      coordBehind s c (fun k => k.acked.contains (0, 3) || !k.applySent.any fun a => (a.1, a.2.1) == (0, 3)) = false ∧
      peerHeld s 0 = false ∧ (0, 3) ∉ c.acked ∧ mayCharge s c.ctx 1 = true ∧ covered s c (thallusOf s (0, 3)) = [rec0] ∧
      (∀ r ∈ covered s c (thallusOf s (0, 3)), rowLocked s (devBase r.dev + r.pa) = false ∧
        bankHeld s (devBase r.dev + r.pa) = false) ∧
      olderLoads s c (covered s c (thallusOf s (0, 3))) = false) ∧
    (∃ s c, commitOf s 6 = some c ∧ allAcked c = true ∧ (podCommit s c = true → c.podDone = true) ∧ ctrsWait s c = false) ∧
    (∃ s c, commitOf s 6 = some c ∧ podCommit s c = true ∧ c.podGo = false ∧ commitReady s c = true ∧ podHeld s c = false ∧
      commitAgreed s c .arrived .go = true) ∧
    (∃ s c, commitOf s 6 = some c ∧ podCommit s c = true ∧ c.podDone = false ∧ allAcked c = true ∧ podHeld s c = false ∧
      commitAgreed s c .applied .complete = true) :=
  let none0 (g : Grid) : Grid := { g with lr := { lr0 with gx := 0 } }
  ⟨⟨onCore (fun c => { c with spor := [.entry rec0, .token 6 0] }) w0, _, _, rfl⟩,
   ⟨withCommit commit0 (fun d => { d with sorus := [(0, ⟨[⟨0, 3, [rec0], 0⟩], []⟩)] }), _, rfl, by decide⟩,
   ⟨withCommit commit0 (fun d => { d with packets := [.marker 0 0 3 6, .marker 0 0 4 6] }), _, rfl, by decide, by decide⟩,
   ⟨onCore (fun c => { c with spor := [.token 6 0] }) w0, _, rfl⟩,
   fun x hx => by
    simp only [List.mem_cons, List.not_mem_nil, or_false] at hx
    obtain rfl | rfl | rfl := hx <;> exact ⟨withCommit { commit0 with scope := _ } id, _, rfl, rfl, rfl, by decide, rfl, by decide⟩,
   fun x hx => by
    simp only [List.mem_cons, List.not_mem_nil, or_false] at hx
    obtain rfl | rfl := hx
    · exact ⟨gWorld { grid0 with ended := [0, 1] } fun s => { s with defer := { s.defer with
        commits := [{ commit0 with scope := .grid }] } }, _, _, rfl, rfl, rfl, rfl, by decide, by decide, rfl,
        by decide⟩
    · exact ⟨podWorld none0 [{ commit0 with scope := .pod, podGo := true }] [], _, _, rfl, rfl, rfl, rfl, by decide, by decide,
        rfl, by decide⟩,
   ⟨withCommit { commit0 with closed := true, toShip := [0] } id, _, rfl, by decide, by decide⟩,
   ⟨withCommit { commit0 with closed := true, marked := [(0, 0, 3)] } id, _, rfl, rfl, rfl, by decide, rfl, by decide⟩,
   ⟨withCommit { commit0 with closed := true, marked := [(0, 0, 3)], applySent := [(0, 3, 1)] }
      (fun d => { d with thallus := [((0, 3), ⟨[rec0], [], [(0, 6)], []⟩)] }), _, rfl, by decide, by decide, by decide, by decide,
      by decide, by decide, by decide, by decide⟩,
   ⟨withCommit { commit0 with closed := true, applySent := [(0, 3, 1)], acked := [(0, 3)] } id, _, rfl, by decide, by decide,
      by decide⟩,
   ⟨podWorld none0 [{ commit0 with scope := .grid }] [⟨1, 0, 0, .arrived false 1⟩], _, rfl, by decide, rfl, by decide, by decide,
      by decide⟩,
   ⟨podWorld none0 [{ commit0 with scope := .grid, closed := true }] [⟨1, 0, 0, .applied false 1⟩], _, rfl, by decide, rfl,
      by decide, by decide, by decide⟩⟩

/-! ### Witnesses: copies, collectives, censuses -/

theorem ok_of {ε α : Type} {x : Except ε α} (h : (match x with | .ok _ => true | .error _ => false) = true) :
    ∃ a, x = .ok a := by
  cases x with
  | ok a => exact ⟨a, rfl⟩
  | error _ => cases h

theorem err_of {ε α : Type} {x : Except ε α} (h : (match x with | .ok _ => false | .error _ => true) = true) :
    ∃ e, x = .error e := by
  cases x with
  | ok a => cases h
  | error e => exact ⟨e, rfl⟩

/-- Four of eight FP32 words at 0x10000; and the same with its record in memory at 0x10800. -/
def lay0 : Layout :=
  { base := 0x10000, rank := 1, esz := 4, oobz := false, ext := [8, 1, 1, 1], str := [4, 0, 0, 0], box := [4, 1, 1, 1], ok := true }
def layMem (s : State) : State :=
  let m := memPut (memPut (memPut s.mem 0x160800 8 0x10000) 0x160808 4 0x21) 0x160810 4 8
  { s with mem := memPut (memPut m 0x160820 4 4) 0x160830 2 4 }
def copy1 : Copy := { copy0 with lay := 0x10800, dst := 0x10100, ctr := some (0x10900, 0) }
def copyS (c : Copy) : State := layMem (withCopies [c] w0)
def formed : Copy := { copy1 with form := some lay0, total := 1 }

/-- Its piece started, with nothing read, and with everything read. -/
def unread : Copy := { formed with started := 1, running := [⟨0, List.replicate 16 .unread⟩] }
def inHand : Copy := { formed with started := 1, running := [⟨0, List.replicate 16 (.got 0)⟩] }

/-- A reduce-scatter over a ring of two, this device at position 0, of two elements a rank. -/
def collR : Coll :=
  { newColl State.reset 0 1 0 1 (some (0, 0)) none 0x10000 none 3 0x10000 with
    id := 9, credit := [0, 1], read := true, src := 0x10000, dsta := 0x10100, cnt := 2, ctr := 0x10900 }
def collS (c : Coll) : State :=
  { w0 with
    work := { w0.work with colls := [c] }
    host := { w0.host with comms := [⟨0, 3, [0, 1]⟩] } }

set_option maxRecDepth 8000 in
theorem witness_CopyAndCollectiveEvents :
    let runs (s : State) (c : Copy) (l : Layout) : Prop :=
      copyOf s 9 = some c ∧ c.form = some l ∧ c.failed = none ∧ c.done = false
    let mine (s : State) (c : Copy) : Option Team := c.owner.bind fun o => teamOf s o.1
    let reads (s : State) (c : Copy) (l : Layout) : Prop := 0 < c.started ∧ 0 ∈ chunkElems c l 0 0 ∧
      ∀ i ∈ chunkElems c l 0 0, ∀ k, srcKey s c l i = some k → homeWaits s k = false
    let writes (s : State) (c : Copy) (l : Layout) (ws : List Nat) : Prop := c.kind ≠ .toh ∧ wordWrite s c l 0 = some ws ∧
      ∀ x ∈ ws, ∀ k, dstKey s c l x = some k → homeWaits s k = false
    (∃ s c key, copyOf s 9 = some c ∧ c.form = none ∧ c.failed = none ∧ c.done = false ∧
      relPending s c.owner c.id = false ∧ ctrCause s c = none ∧
      c.lay.toNat % 64 = 0 ∧ homeKey s c.ctx c.lay.toNat false = .ok key ∧ homeWaits s key = false ∧
      layoutOf (memGetN s.mem key 64) = lay0 ∧ lay0.ok = true ∧ formCause s c lay0 = none) ∧
    (∃ s c, copyOf s 9 = some c ∧ c.form = none ∧ c.failed = none ∧ c.done = false ∧ relPending s c.owner c.id = false ∧
      ctrCause s c = none ∧ c.lay.toNat % 64 ≠ 0) ∧
    (∃ s c l, runs s c l ∧ c.started < c.total ∧ takesPiece s c 0 = true ∧ mayCharge s c.ctx 0 = true ∧ c.onHost = false) ∧
    (∀ k ∈ [CKind.toh, .fromh], ∃ s c l, runs s c l ∧ c.kind = k ∧ c.started < c.total ∧ takesPiece s c 0 = true ∧
      mayCharge s c.ctx 0 = true ∧ mayCharge s c.ctx 5 = true ∧
      (List.replicate 16 (0 : Byte)).length = (pieceElems l c.started).length * l.esz) ∧
    (∃ s c l bs, runs s c l ∧ reads s c l ∧ allOk (readElem s c (mine s c) l) (chunkElems c l 0 0) = .ok bs) ∧
    (∃ s c l e, runs s c l ∧ reads s c l ∧ allOk (readElem s c (mine s c) l) (chunkElems c l 0 0) = .error e) ∧
    (∃ s c l ws s2, runs s c l ∧ writes s c l ws ∧ writeWord s c (mine s c) l 0 ws = .ok s2) ∧
    (∃ s c l ws e, runs s c l ∧ writes s c l ws ∧ writeWord s c (mine s c) l 0 ws = .error e) ∧
    (∃ s c, copyOf s 9 = some c ∧ c.form ≠ none ∧ c.failed = none ∧ c.done = false ∧ c.adds = false ∧
      c.started = c.total ∧ c.running = [] ∧ (c.onHost = true → s.fab.ethUp = true) ∧ copyEndRoom s c = true ∧ addsRemote c = false ∧
      ∀ x, c.ctr = some x → counterWaits s c.ctx x.1 = false) ∧
    (∃ s c, copyOf s 9 = some c ∧ c.form ≠ none ∧ c.failed = none ∧ c.done = false ∧ c.adds = false ∧
      c.started = c.total ∧ c.running = [] ∧ c.onHost = false ∧ copyEndRoom s c = true ∧ addsRemote c = true) ∧
    (∃ s c a m, copyOf s 9 = some c ∧ c.adds = true ∧ c.ctr = some (a, m) ∧ counterWaits s c.ctx a = false) ∧
    (∃ s c k a, copyOf s 9 = some c ∧ c.done = false ∧ copyEndRoom s c = true ∧ c.failed = some (k, a)) ∧
    (∃ s c, copyOf s 9 = some c ∧ c.done = false ∧ c.failed = none ∧ c.ack = true ∧ copyEndRoom s c = true) ∧
    (∃ (s : State) (c : Coll) (i n : Nat), s.work.colls.find? (fun c => c.id == 9) = some c ∧ ringPos s c = some (i, n) ∧
      c.read = true ∧ c.done = false ∧ c.failed = none ∧ 0 ≠ 2 * n ∧ stepExpected c i n 0 = true ∧ ringHeld s c = false ∧
      (let left := stepBytes c n 0 - ((aGet c.staged 0).getD []).length
       left ≠ 0 ∧ [(1 : Byte), 2, 3, 4].length = min 4096 left)) ∧
    (∀ st ∈ [0, 4], ∃ (s : State) (c : Coll) (i n : Nat), s.work.colls.find? (fun c => c.id == 9) = some c ∧
      ringPos s c = some (i, n) ∧ c.read = true ∧ c.done = false ∧ c.failed = none ∧ stepExpected c i n st = true ∧
      st ∉ c.stepsDone ∧ (st = 2 * n ∨ ((aGet c.staged st).getD []).length = stepBytes c n st) ∧ reduceFits s 0 = true ∧
      (coreOf s 0).hot = false ∧ chunkRead c i n st = true ∧ (∀ k ∈ stepHomes s c i n st, homeWaits s k = false) ∧
      (let s' := if st = 2 * n then collStart s c i n
         else if st < n then sumStep s c i n st ((aGet c.staged st).getD [])
         else roundStep s c i n (st % n) ((aGet c.staged st).getD [])
       (∀ k ∈ newSends s' c, k ∈ c.credit) ∧ (newSends s' c ≠ [] → mayCharge s c.ctx 3 = true))) ∧
    (∃ (s : State) (c : Coll) (i n : Nat), s.work.colls.find? (fun c => c.id == 9) = some c ∧ ringPos s c = some (i, n) ∧
      c.read = true ∧ c.done = false ∧ c.failed = none ∧ (∀ x ∈ stepsOf c i n, x ∈ c.stepsDone) ∧
      (∀ x ∈ c.sent, x.1 ∈ c.acked) ∧ counterWaits s c.ctx c.ctr = false ∧ spoilWaits s c i n = false) := by
  intro runs mine reads writes
  have hc : (formed.ctr.all fun x => !counterWaits (copyS { formed with started := 1 }) 0 x.1) = true := by decide
  refine ⟨⟨copyS copy1, _, 0x160800, rfl, rfl, rfl, rfl, by decide, by decide, by decide, by decide, by decide, by decide +kernel,
      by decide, by decide⟩,
    ⟨copyS { copy1 with lay := 0x10804 }, _, rfl, rfl, rfl, rfl, by decide, by decide, by decide⟩,
    ⟨copyS formed, _, lay0, ⟨rfl, rfl, rfl, rfl⟩, by decide, by decide, by decide, rfl⟩, ?_,
    ?_, ?_, ?_, ?_,
    ⟨copyS { formed with started := 1 }, _, rfl, by decide, rfl, rfl, rfl, rfl, rfl, by decide, by decide, rfl, fun x hx => ?_⟩,
    ⟨copyS { formed with started := 1, kind := .pmem false }, _, rfl, by decide, rfl, rfl, rfl, rfl, rfl, rfl, by decide, rfl⟩,
    ⟨copyS { formed with adds := true }, _, _, _, rfl, rfl, rfl, by decide⟩,
    ⟨copyS { formed with failed := some (9, 0) }, _, _, _, rfl, rfl, by decide, rfl⟩,
    ⟨copyS { formed with ack := true }, _, rfl, rfl, rfl, rfl, by decide⟩,
    ⟨collS collR, _, _, _, rfl, rfl, rfl, rfl, rfl, by decide, by decide, by decide, by decide⟩, ?_,
    ⟨collS { collR with stepsDone := [0, 4], sent := [(1, [])], acked := [1] }, _, _, _, rfl, rfl, rfl, rfl, rfl, by decide,
      by decide, by decide, by decide⟩⟩
  · intro k hk
    simp only [List.mem_cons, List.not_mem_nil, or_false] at hk
    obtain rfl | rfl := hk <;>
      exact ⟨copyS { formed with kind := _ }, _, lay0, ⟨rfl, rfl, rfl, rfl⟩, rfl, by decide, by decide, by decide, by decide, by decide⟩
  · obtain ⟨b, h⟩ := ok_of (x := allOk (readElem (copyS unread) unread (teamOf (copyS unread) 0) lay0) (chunkElems unread lay0 0 0))
      (by decide +kernel)
    exact ⟨copyS unread, _, lay0, b, ⟨rfl, rfl, rfl, rfl⟩, ⟨by decide, by decide, fun _ _ _ _ => rfl⟩, h⟩
  · let l : Layout := { lay0 with base := 0x10001 }
    let c : Copy := { unread with form := some l }
    exact ⟨copyS c, c, l, (causeCode .misaln, 0x10001), ⟨rfl, rfl, rfl, rfl⟩, ⟨by decide, by decide, fun _ _ _ _ => rfl⟩, by decide +kernel⟩
  · obtain ⟨s2, h⟩ := ok_of (x := writeWord (copyS inHand) inHand (teamOf (copyS inHand) 0) lay0 0 [0, 1, 2, 3]) (by decide +kernel)
    exact ⟨copyS inHand, _, lay0, [0, 1, 2, 3], s2, ⟨rfl, rfl, rfl, rfl⟩, ⟨by decide, by decide +kernel, fun _ _ _ _ => rfl⟩, h⟩
  · let c : Copy := { inHand with dst := 0x500000 }
    obtain ⟨e, h⟩ := err_of (x := writeWord (copyS c) c (teamOf (copyS c) 0) lay0 0 [0, 1, 2, 3]) (by decide +kernel)
    exact ⟨copyS c, c, lay0, [0, 1, 2, 3], e, ⟨rfl, rfl, rfl, rfl⟩, ⟨by decide, by decide +kernel, fun _ _ _ _ => rfl⟩, h⟩
  · rw [show x = ((0x10900 : Dword), 0) from (Option.some.inj hx).symm]
    decide
  · intro st hst
    simp only [List.mem_cons, List.not_mem_nil, or_false] at hst
    obtain rfl | rfl := hst
    · exact ⟨collS { collR with staged := [(0, [1, 2, 3, 4])] }, _, _, _, rfl, rfl, rfl, rfl, rfl, by decide, by decide,
        by decide, by decide, by decide, by decide, by decide, by decide +kernel⟩
    · exact ⟨collS collR, _, _, _, rfl, rfl, rfl, rfl, rfl, by decide, by decide,
        by decide, by decide, by decide, by decide, by decide, by decide +kernel⟩

/-- Census 9 of team 0, its descriptor read and its responders of 16 registers, and one that is still to read it. -/
def ent0 : DirEnt :=
  { core := 0, ent := 0, v := true, ctx := 0, gen := 1, key := 7, loc := 8, dens := 9, mov := false, run := false, ans := []
    more := [] }
def move0 : DirMove :=
  { id := 7, handle := 0x80000, toCore := 1, toEnt := some 3, loc := 8, ctx := 0, left := false, fromCore := 0, key := 0, dens := 0
    ans := [], more := [], waits := [] }
def cenS (c : Census) (m : DirMove) : State :=
  { w0 with
    work := { w0.work with ops := [op7 (.dirmove 3 7)] }
    cen := { dir := [ent0], moves := [m], open' := [c], slotGen := [], named := [] } }
/-- A census whose descriptor, at 0x10800, asks for responders of 16 registers, or of 8. -/
def askS (b : Nat) : State :=
  let s := cenS { census0 with ready := false, entry := 0x10800 } move0
  { s with mem := memPut (memPut s.mem 0x160810 8 0x10000) 0x160820 8 b }

set_option maxRecDepth 8000 in
theorem witness_CensusEvents :
    (∃ s m o e i, moveOf s 7 = some m ∧ moveOp s 7 = some o ∧ handleEnt s m.ctx m.handle = some e ∧ m.left = false ∧
      m.toEnt = some i ∧ behindDir s o = false ∧ moveHeld s e = false) ∧
    (∃ s m o i, moveOf s 7 = some m ∧ moveOp s 7 = some o ∧ m.left = true ∧ m.toEnt = some i) ∧
    (∃ s c, censusOf s 9 = some c ∧ c.ready = true ∧ c.done = false ∧ 767 ∉ c.visited ∧ 767 < 768 ∧
      (coreOf s 767).census.length < 512) ∧
    (∃ s c c1, censusOf s 9 = some c ∧ c.ready = false ∧ censusDesc s c = .ok (some c1) ∧ c.done = false ∧ 0 ∉ c.visited ∧
      0 < 768 ∧ (coreOf s 0).census.length < 512) ∧
    (∃ s ent late c asker, nextResp s 0 = some (9, ent, late) ∧ censusOf s 9 = some c ∧ (askerOf s c).1 = some asker ∧
      ((heldOn s 0).add (respNeed c.bresp) 7).ok = true ∧ 7 < 8 ∧ (coreOf s 0).hot = false) ∧
    (∃ s ent late c, nextResp s 0 = some (9, ent, late) ∧ censusOf s 9 = some c ∧ c.peer ≠ none ∧ (askerOf s c).1 = none) ∧
    (∃ s t r, teamOf s 0 = some t ∧ t.resp = some r ∧ (t.ended = true ∨ ∃ k, t.halt = .service k) ∧
      (∀ o ∈ s.work.ops, o.tid ≠ 0) ∧ sporHas s t.core 0 = false) ∧
    (∃ s c p, censusOf s 9 = some c ∧ c.done = false ∧ 0 ∉ c.reported ∧ aGet c.cores 0 = some (0, p) ∧
      ∀ m ∈ s.cen.moves, m.fromCore = 0 → 9 ∉ m.waits) ∧
    (∃ s c x, censusOf s 9 = some c ∧ c.done = false ∧ c.lates.find? (fun x => x.1 == 0) = some x ∧
      (0 ∈ c.reported ∨ ∃ m ∈ s.cen.moves, m.fromCore = 0 ∧ 9 ∈ m.waits)) ∧
    (∀ x ∈ [(800000, false), (800001, true)], ∃ s c, s.clock = x.1 ∧ censusOf s 9 = some c ∧ c.done = false ∧ 1 ∈ c.peers ∧
      c.heard = some 0 ∧ tooLate s c 1 = x.2) ∧
    (∃ s c t, censusOf s 9 = some c ∧ c.done = false ∧ 1 ∈ c.peers ∧ 1 ∉ s.fab.lost ∧ c.heard = some t) ∧
    (∃ s c, censusOf s 9 = some c ∧ c.done = false ∧ 1 ∈ c.peers ∧ 1 ∈ s.fab.lost) ∧
    (∃ s c, censusOf s 9 = some c ∧ c.done = false ∧ c.ready = true ∧ c.reported.length = 768 ∧ c.late = 0 ∧ c.peers = []) ∧
    (∃ s c k, censusOf s 9 = some c ∧ c.done = false ∧ c.ready = false ∧ censusDesc s c = .error k) ∧
    (∀ l ∈ [[], List.range 767], ∃ s c, censusOf s 9 = some c ∧ closeSent c = true ∧ c.closed = l ∧ 767 ∉ c.closed ∧ 767 < 768 ∧
      ∀ m ∈ s.cen.moves, m.left = true → m.toCore = 767 → m.ctx ≠ c.ctx) := by
  refine ⟨⟨cenS census0 move0, _, _, ent0, _, rfl, rfl, by decide, rfl, rfl, by decide, by decide⟩,
    ⟨cenS census0 { move0 with left := true }, _, _, _, rfl, rfl, rfl, rfl⟩,
    ⟨cenS census0 move0, _, rfl, rfl, rfl, by decide, by decide, by decide⟩, ?_,
    ⟨onCore (fun c => { c with census := [(9, [])], respQ := [(9, 0, false)] }) (cenS census0 move0), _, _, _, _, rfl, rfl, rfl,
      by decide, by decide, rfl⟩,
    ⟨onCore (fun c => { c with census := [(9, [])], respQ := [(9, 0, false)] }) (cenS { census0 with
       peer := some ⟨1, 99, 0, true, 0, false⟩ } move0), _, _, _, rfl, rfl, by decide, rfl⟩,
    ⟨world id (fun t => { resp0 none t with ended := true }) id, _, _, rfl, rfl, .inl rfl, by decide, by decide⟩,
    ⟨cenS { census0 with cores := [(0, 0, Sys2Proof.Machine.Part.none 0)] } move0, _, _, rfl, rfl, by decide, rfl, by decide⟩,
    ⟨cenS { census0 with reported := [0], late := 1, lates := [(0, Sys2Proof.Machine.Part.none 0)] } move0, _, _, rfl, rfl, rfl,
      .inl (by decide)⟩, ?_,
    ⟨cenS { census0 with peers := [1], heard := some 0 } move0, _, 0, rfl, rfl, by decide, by decide, rfl⟩,
    ⟨let s := cenS { census0 with peers := [1] } move0; { s with fab := { s.fab with lost := [1] } }, _, rfl, rfl, by decide,
      by decide⟩,
    ⟨cenS { census0 with reported := List.range 768 } move0, _, rfl, rfl, rfl, List.length_range, rfl, rfl⟩,
    ⟨askS 1, _, causeCode .censbad, rfl, rfl, rfl, by decide⟩,
    fun l h => ⟨cenS { census0 with done := true, closed := l } move0, _, rfl, rfl, rfl, ?_, by decide, by simp [cenS, move0]⟩⟩
  · exact ⟨askS 2, _, { census0 with entry := 0x10000 }, rfl, rfl, by decide +kernel, rfl, by decide, by decide, by decide⟩
  · intro x hx
    simp only [List.mem_cons, List.not_mem_nil, or_false] at hx
    obtain rfl | rfl := hx <;>
      exact ⟨{ cenS { census0 with peers := [1], heard := some 0 } move0 with clock := _ }, _, rfl, rfl, rfl, by decide, rfl,
        by decide⟩
  · skip
    simp only [List.mem_cons, List.not_mem_nil, or_false] at h
    obtain rfl | rfl := h <;> simp

/-! ### Witnesses: Rhizoid units -/

def desc0 : NmDesc :=
  { img := 0x10000, ilen := 64, aent := 0, eent := 0, ctr := 0, stat := 0, wbase := [0x200000, 0x200000, 0, 0]
    wlen := [16384, 16384, 0, 0], arg := [], ok := true }
def nm0 : NmCmd :=
  { id := 9, ctx := 0, owner := some (0, 0), scope := 2, reply := none, node := none, op := none, descAt := 0x10800, desc := some desc0
    image := bytesOfNat 64 0, winKey := [0x400000, 0x400000, 0, 0], ctrKey := none, statKey := none, ch := 0, gather := none }

/-- A context with an N page at 0x200000 over the frame at 0x400000. -/
def nWorld (f : State → State) : State :=
  let s := placeCode State.reset []
  f { s with
    mem := memPut s.mem 0x140010 16 0x40020F
    ctl := { s.ctl with ctxs := s.ctl.ctxs.map fun c => { c with maps := c.maps ++ [(0x200000, 1)] } } }
/-- The same with a command running on unit 0, changed by `f`. -/
def zS (arith : Bool) (f : ZRun → ZRun) (e : State → State) : State :=
  nWorld fun s => { e (setUnit s { unitOf s 0 with run := some (f (startZ nm0 0)) }) with
    cur := some (if arith then .zarith 0 else .zaddr 0) }
def a1 (x : Word) (z : ZRun) : ZRun := { z with a := vset z.a 1 x }
def locks' (l : List ZLockSt) (z : ZRun) : ZRun := { z with locks := l }
/-- A lock of the row of bank `b` in row 0 of the frame. -/
def lock0 (b : Nat) : ZLockSt := ⟨2 * 2 ^ 11 + b * 2 ^ 7, 0x400000 + 256 * b, [], 0, []⟩
def pendRow (k : Nat) (s : State) : State :=
  { s with defer := { s.defer with thallus := [((0, 0), ⟨[], [], [], [(6, 2 * 2 ^ 11 + k * 2 ^ 7)]⟩)] } }
def mark0 (s : State) : State := { s with pow := { s.pow with marked := [(0, 0x400000)] } }

def dq (n : Nat) (z : ZRun) : ZRun := { z with dq := List.replicate n ⟨0x400100, 0, none⟩ }
def wq (n : Nat) (z : ZRun) : ZRun := { z with wq := List.replicate n (List.replicate 64 0) }

/-- A condition of a thread's instruction holds somewhere. -/
def ZHas (arith : Bool) (ok : Nat → ZRun → State → Prop) : Prop := ∃ s ch z, curZ s = some (ch, arith, z) ∧ ok ch z s

theorem zhas {arith : Bool} {ok : Nat → ZRun → State → Prop} (f : ZRun → ZRun) (e : State → State)
    (hc : curZ (zS arith f e) = some (0, arith, f (startZ nm0 0)))
    (ho : ok 0 (f (startZ nm0 0)) (zS arith f e)) : ZHas arith ok := ⟨_, _, _, hc, ho⟩

/-- Both threads run, and ZAEND finds rows held and none held. -/
theorem witness_RhizoidRegisters :
    ZHas true (fun _ _ _ => True) ∧ ZHas false (fun _ z _ => z.locks = []) ∧ ZHas false (fun _ z _ => z.locks ≠ []) :=
  ⟨zhas id id rfl trivial, zhas id id rfl (by decide), zhas (locks' [lock0 0]) id rfl (by decide)⟩

theorem first_bank (s : State) (key n : Nat) : bankOf s (keyPa key) ∈ keyBanks s key n := by simp [keyBanks]
theorem clear_nil {s : State} {l : List DqEnt} (key n : Nat) (h : l = []) :
    ∀ b ∈ keyBanks s key n, ∀ e ∈ l, e.data = none → b ∉ keyBanks s e.key 64 := by simp [h]
theorem not_clear {s : State} {l : List DqEnt} {key n : Nat} {e : DqEnt} (h : e ∈ l) (hd : e.data = none) (hk : e.key = key) :
    ¬ ∀ b ∈ keyBanks s key n, ∀ e ∈ l, e.data = none → b ∉ keyBanks s e.key 64 :=
  fun h' => h' _ (first_bank s key n) e h hd (hk ▸ first_bank s e.key 64)

theorem unitServed_of {s : State} (hu : (s.units.all fun u => u.served.isEmpty) = true) (ht : s.work.teams = []) (key n : Nat) :
    unitServed s key n = true := by
  have hc (ch : Nat) : (unitOf s ch).served = [] := by
    unfold unitOf
    cases h : s.units.find? fun u => u.ch == ch with
    | none => rfl
    | some u => simpa using List.all_eq_true.1 hu u (List.mem_of_find?_eq_some h)
  simp [unitServed, lineReserved, ht, hc, aGet]
theorem reserved_of {s : State} (ht : s.work.teams = []) (pa : Nat) : rowReserved s pa = false := by
  simp [rowReserved, lineReserved, ht]

/-- A drain of a team's stream has the line at 0x400000 reserved. -/
def reserve0 (s : State) : State :=
  { s with work := { s.work with teams := [{ team0 with
      stream := some { stream0 with drains := [{ drain0 false with resv := [0x400000] }] } }] } }

theorem witness_RhizoidMemory :
    let o (z : ZRun) : Int := (vget z.a 1).toInt + 64 * (0 : BitVec 16).toInt
    let fits (z : ZRun) (w : Nat) (o : Int) (n : Nat) : Prop := z.wlen w ≠ 0 ∧ 0 ≤ o ∧ o + n ≤ z.wlen w
    let at' (z : ZRun) : Nat := z.wkey 0 + (o z).toNat
    let held (s : State) (z : ZRun) (key : Nat) : Prop := ∃ k ∈ z.locks, k.row = rowId s (keyPa key)
    let clear (s : State) (z : ZRun) (key n : Nat) : Prop :=
      ∀ b ∈ keyBanks s key n, ∀ e ∈ z.dq, e.data = none → b ∉ keyBanks s e.key 64
    let free (s : State) (z : ZRun) (key n : Nat) : Prop :=
      rowPending s key = false ∧ rowPending s (key + (n - 1)) = false ∧ clear s z key n ∧ unitServed s key n = true
    let open' (s : State) (z : ZRun) (key : Nat) : Prop :=
      rowPending s key = false ∧ rowReserved s (keyPa key) = false ∧ clear s z key 1 ∧ unitServed s key 1 = true
    let late (s : State) (z : ZRun) : Bool := z.lockWait.any fun x => decide (x.2 + 3200 ≤ s.clock)
    -- ZLD, ZST, ZLOCK, ZUNLK beyond the window, and at an offset that is no multiple of 64
    ZHas false (fun _ z _ => ¬ fits z 0 (o z) 64 ∧ o z % 64 = 0) ∧ ZHas false (fun _ z _ => fits z 0 (o z) 64 ∧ o z % 64 ≠ 0) ∧
    ZHas false (fun _ z _ => ¬ fits z 0 (o z) 1) ∧
    -- ZLD with 15 and with 16 entries
    ZHas false (fun _ z _ => fits z 0 (o z) 64 ∧ o z % 64 = 0 ∧ z.dq.length = 15) ∧
    ZHas false (fun _ z _ => fits z 0 (o z) 64 ∧ o z % 64 = 0 ∧ 16 ≤ z.dq.length) ∧
    -- ZST with an entry, with none, and with an earlier ZLD of its bank unfilled
    ZHas false (fun _ z s => fits z 0 (o z) 64 ∧ o z % 64 = 0 ∧ z.wq.length = 1 ∧ free s z (at' z) 64) ∧
    ZHas false (fun _ z _ => fits z 0 (o z) 64 ∧ o z % 64 = 0 ∧ z.wq = []) ∧
    ZHas false (fun _ z s => fits z 0 (o z) 64 ∧ o z % 64 = 0 ∧ ¬ free s z (at' z) 64) ∧
    -- ZLOCK of a held row, with eight rows held, too late, of a row to lock, of a marked and of a pending one, behind a ZLD
    ZHas false (fun _ z s => fits z 0 (o z) 1 ∧ held s z (at' z)) ∧
    ZHas false (fun _ z s => fits z 0 (o z) 1 ∧ ¬ held s z (at' z) ∧ 8 ≤ z.locks.length) ∧
    ZHas false (fun _ z s => fits z 0 (o z) 1 ∧ ¬ held s z (at' z) ∧ z.locks.length < 8 ∧ late s z = true) ∧
    ZHas false (fun _ z s => fits z 0 (o z) 1 ∧ ¬ held s z (at' z) ∧ z.locks.length = 7 ∧ late s z = false ∧
      open' s z (at' z) ∧ rowMarked s (keyPa (at' z)) = false) ∧
    ZHas false (fun _ z s => fits z 0 (o z) 1 ∧ ¬ held s z (at' z) ∧ z.locks.length < 8 ∧ late s z = false ∧
      open' s z (at' z) ∧ rowMarked s (keyPa (at' z)) = true) ∧
    ZHas false (fun _ z s => fits z 0 (o z) 1 ∧ ¬ held s z (at' z) ∧ z.locks.length < 8 ∧ late s z = false ∧
      rowPending s (at' z) = true ∧ ¬ open' s z (at' z)) ∧
    ZHas false (fun _ z s => fits z 0 (o z) 1 ∧ ¬ held s z (at' z) ∧ z.locks.length < 8 ∧ late s z = false ∧
      rowReserved s (keyPa (at' z)) = true ∧ ¬ open' s z (at' z)) ∧
    ZHas false (fun _ z s => fits z 0 (o z) 1 ∧ ¬ held s z (at' z) ∧ z.locks.length < 8 ∧ late s z = false ∧
      unitServed s (at' z) 1 = false ∧ ¬ open' s z (at' z)) ∧
    ZHas false (fun _ z s => fits z 0 (o z) 1 ∧ ¬ held s z (at' z) ∧ z.locks.length < 8 ∧ late s z = false ∧
      ¬ clear s z (at' z) 1 ∧ ¬ open' s z (at' z)) ∧
    -- ZPOP and ZPUSH
    ZHas true (fun _ z _ => ∃ k pc b r, z.dq = ⟨k, pc, some b⟩ :: r) ∧
    ZHas true (fun _ z _ => z.dq = []) ∧ ZHas true (fun _ z _ => ∃ e r, z.dq = e :: r ∧ e.data = none) ∧
    ZHas true (fun _ z _ => z.wq.length = 15) ∧ ZHas true (fun _ z _ => 16 ≤ z.wq.length) := by
  intro o fits at' held clear free open' late
  have hr : rowReserved (zS false id reserve0) (keyPa (at' (startZ nm0 0))) = true := by decide +kernel
  have hs : unitServed (zS false id reserve0) (at' (startZ nm0 0)) 1 = false := by
    have : lineReserved (zS false id reserve0) none (at' (startZ nm0 0)) = true := by decide +kernel
    simp [unitServed, this]
  refine ⟨zhas (a1 16384) id rfl (by decide), zhas (a1 32) id rfl (by decide), zhas (a1 16384) id rfl (by decide),
    zhas (fun z => a1 16320 (dq 15 z)) id rfl (by decide), zhas (fun z => a1 0 (dq 16 z)) id rfl (by decide),
    zhas (wq 1) id rfl ⟨by decide, by decide, rfl, by decide, by decide, clear_nil _ _ rfl, unitServed_of (by decide) rfl _ _⟩, zhas id id rfl (by decide),
    zhas (fun z => a1 256 (dq 1 z)) id rfl ⟨by decide, by decide, fun h => not_clear (e := ⟨0x400100, 0, none⟩) (.head _) rfl (by decide) h.2.2.1⟩,
    zhas (locks' [lock0 0]) id rfl (by decide), zhas (locks' ((List.range 8).map fun i => lock0 (i + 1))) id rfl (by decide),
    zhas (fun z => { z with lockWait := some (0, 0) }) (fun s => { s with clock := 3200 }) rfl (by decide),
    zhas (locks' ((List.range 7).map fun i => lock0 (i + 1))) id rfl
      ⟨by decide, by decide, rfl, by decide, ⟨by decide, reserved_of rfl _, clear_nil _ _ rfl, unitServed_of (by decide) rfl _ _⟩,
        by decide⟩,
    zhas id mark0 rfl ⟨by decide, by decide, by decide, by decide,
      ⟨by decide, reserved_of rfl _, clear_nil _ _ rfl, unitServed_of (by decide) rfl _ _⟩, by decide⟩,
    zhas id (pendRow 0) rfl ⟨by decide, by decide, by decide, by decide, by decide, fun h => absurd h.1 (by decide)⟩,
    zhas id reserve0 rfl ⟨by decide, by decide, by decide, by decide, hr, fun h => by simpa [hr] using h.2.1⟩,
    zhas id reserve0 rfl ⟨by decide, by decide, by decide, by decide, hs, fun h => by simpa [hs] using h.2.2.2⟩,
    zhas (fun z => a1 256 (dq 1 z)) id rfl ⟨by decide, by decide, by decide, by decide,
      not_clear (e := ⟨0x400100, 0, none⟩) (.head _) rfl (by decide),
      fun h => not_clear (e := ⟨0x400100, 0, none⟩) (.head _) rfl (by decide) h.2.2.1⟩,
    zhas (fun z => { z with dq := [⟨0x400000, 0, some []⟩] }) id rfl ⟨_, _, _, _, rfl⟩, zhas id id rfl rfl,
    zhas (dq 1) id rfl ⟨_, _, rfl, rfl⟩, zhas (wq 15) id rfl rfl, zhas (wq 16) id rfl (by decide)⟩

/-- ZWPAIR of two halfwords: an odd register, a pair past its window, a row not held, both rows held, and `wq` empty. -/
theorem witness_RhizoidPair :
    let fits (z : ZRun) (w : Nat) (o : Int) (n : Nat) : Prop := z.wlen w ≠ 0 ∧ 0 ≤ o ∧ o + n ≤ z.wlen w
    let held (s : State) (z : ZRun) (key : Nat) : Prop := ∃ k ∈ z.locks, k.row = rowId s (keyPa key)
    let pairs (z : ZRun) : List (Nat × Int × Nat) := (List.range 2).flatMap fun j =>
      [(0, (vget z.a 1).toInt + ((j * 2 : Nat) : Int), j * 2),
       (1, (vget z.a 2).toInt + ((j * (vget z.a 3).toNat : Nat) : Int), j * 2)]
    let even (z : ZRun) : Prop := (vget z.a 1).toNat % 2 = 0 ∧ (vget z.a 2).toNat % 2 = 0 ∧ (vget z.a 3).toNat % 2 = 0
    let inside (z : ZRun) : Prop := ∀ p ∈ pairs z, fits z p.1 p.2.1 2
    let key (z : ZRun) (p : Nat × Int × Nat) : Nat := z.wkey p.1 + p.2.1.toNat
    let allHeld (s : State) (z : ZRun) : Prop := ∀ p ∈ pairs z, held s z (key z p) ∧ held s z (key z p + 1)
    let clear (s : State) (z : ZRun) (key n : Nat) : Prop :=
      ∀ b ∈ keyBanks s key n, ∀ e ∈ z.dq, e.data = none → b ∉ keyBanks s e.key 64
    let free (s : State) (z : ZRun) (key n : Nat) : Prop :=
      rowPending s key = false ∧ rowPending s (key + (n - 1)) = false ∧ clear s z key n ∧ unitServed s key n = true
    let ready (z : ZRun) : ZRun := locks' [lock0 0, lock0 1] { z with a := vset (vset z.a 2 256) 3 8 }
    ZHas false (fun _ z _ => ¬ even z) ∧ ZHas false (fun _ z _ => even z ∧ ¬ inside z) ∧
    ZHas false (fun _ z s => even z ∧ inside z ∧ ¬ allHeld s z) ∧
    ZHas false (fun _ z s => even z ∧ inside z ∧ allHeld s z ∧ z.wq.length = 1 ∧ ∀ p ∈ pairs z, free s z (key z p) 2) ∧
    ZHas false (fun _ z s => even z ∧ inside z ∧ allHeld s z ∧ z.wq = []) ∧
    ZHas false (fun _ z s => even z ∧ inside z ∧ allHeld s z ∧ z.wq.length = 1 ∧ ∃ p ∈ pairs z, ¬ free s z (key z p) 2) ∧
    ready (startZ nm0 0) ≠ startZ nm0 0 := by
  intro fits held pairs even inside key allHeld clear free ready
  exact ⟨zhas (a1 1) id rfl (by decide), zhas (a1 16382) id rfl (by decide), zhas id id rfl (by decide),
    zhas (fun z => { ready z with wq := [List.replicate 64 0] }) id rfl
      ⟨by decide, by decide, by decide, rfl, fun _ _ => ⟨rfl, rfl, clear_nil _ _ rfl, unitServed_of (by decide) rfl _ _⟩⟩, zhas ready id rfl (by decide),
    zhas (fun z => dq 1 { ready z with wq := [List.replicate 64 0] }) id rfl
      ⟨by decide, by decide, by decide, rfl, (1, 256, 0), by decide, fun h => not_clear (e := ⟨0x400100, 0, none⟩) (.head _) rfl (by decide) h.2.2.1⟩,
    by decide⟩

/-- A unit with a running command and no thread as the party; posted and queued commands. -/
def uS (f : ZRun → ZRun) : State := { zS true f id with cur := none }
def posted (c : NmCmd) (f : State → State) : State :=
  nWorld fun s => f { s with work := { s.work with nmPosted := [c] } }
/-- A descriptor in memory at 0x10800 as `desc0`, one window. -/
def descMem (s : State) : State :=
  let m := memPut (memPut s.mem 0x160800 8 0x10000) 0x160808 4 64
  { s with mem := memPut (memPut m 0x160820 8 0x200000) 0x160840 4 64 }

set_option maxRecDepth 8000 in
theorem witness_NmCommandCheck :
    ∃ s c ks d l, s.work.nmPosted.find? (fun c => c.id == 9) = some c ∧ relPending s c.owner c.id = false ∧ c.gather = none ∧
      runKeys s c.ctx c.descAt.toNat 128 = .ok ks ∧ d = nmDescOf (runBytes s c.ctx c.descAt.toNat 128) ∧
      (∀ k ∈ ks ++ (if d.ok then (runKeys s c.ctx d.img.toNat d.ilen).toOption.getD [] else []), homeWaits s k = false) ∧
      ((d.wbase.head?).bind fun a => nPage s c.ctx a.toNat) = some l ∧ (unitOf s (channelOf s l.frame)).offline = false ∧
      (unitOf s (channelOf s l.frame)).queue.length < 16 ∧ nmCause s c.ctx d = none := by
  let s := posted { nm0 with desc := none } descMem
  let d : NmDesc := { desc0 with wbase := [0x200000, 0, 0, 0], wlen := [64, 0, 0, 0], arg := List.replicate 8 0 }
  have hd : nmDescOf (runBytes s 0 0x10800 128) = d := by decide +kernel
  have hw : usedWins d = [(0x200000, 64)] := by decide
  have hl : (nPage s 0 0x200000).isSome = true := by decide
  have hc : d.ctr = 0 := rfl
  have ho : d.ok = true := rfl
  obtain ⟨l, hl'⟩ := Option.isSome_iff_exists.1 hl
  obtain ⟨ks, hk⟩ := ok_of (x := runKeys s 0 0x10800 128) (by decide +kernel)
  have hn (k : Nat) : homeWaits s k = false := rfl
  refine ⟨s, _, ks, d, l, rfl, rfl, rfl, hk, hd.symm, fun k _ => hn k, ?_, ?_, ?_, ?_⟩
  · exact hl'
  · show (unitOf s (channelOf s l.frame)).offline = false
    rfl
  · show (unitOf s (channelOf s l.frame)).queue.length < 16
    exact Nat.zero_lt_succ _
  · have hx : nmXlateCause s 0 d = none := by decide +kernel
    have hdf : nmDeferred s 0 d = false := by decide +kernel
    show nmCause s 0 d = none
    clear_value d s
    simp [nmCause, hx, hdf, nmPlaceBad, hw, hl', hc, ho]

theorem bankOf_lt (s : State) (pa : Nat) : bankOf s pa < 32 := by
  have h1 : nBank pa < 16 := Nat.mod_lt _ (by decide)
  have h2 (b : Bool) : bit b ≤ 1 := by cases b <;> decide
  have h3 := h2 (Config.framePseudo (pa / 2 ^ 21))
  unfold bankOf nBankId nPlace
  split
  · simp only; omega
  · exact Nat.mod_lt _ (by decide)

theorem witness_RhizoidEvents :
    (∃ (s : State) (c : NmCmd) (k : BitVec 9), s.work.nmPosted.find? (fun c => c.id == 9) = some c ∧
      relPending s c.owner c.id = false ∧ c.gather = none ∧ runKeys s c.ctx c.descAt.toNat 128 = .error k) ∧
    (∃ s c r, (unitOf s 0).run = none ∧ (unitOf s 0).queue = c :: r ∧ (unitOf s 0).offline = false ∧ mayCharge s c.ctx 2 = true) ∧
    (∃ s z, (unitOf s 0).run = some z ∧ z.cmd.gather = none ∧ z.stop = none ∧ z.endA = true ∧ z.endE = true ∧ z.wq = [] ∧
      endWaits s z.cmd = false) ∧
    (∃ s z, (unitOf s 0).run = some z ∧ z.cmd.gather = none ∧ z.stop = none ∧ z.endA = true ∧ z.endE = true ∧ z.wq ≠ []) ∧
    (∃ s z, liveRun s 0 = some z ∧ zaWaits s 0 z = true ∧ z.endE = true) ∧
    (∃ s z, liveRun s 0 = some z ∧ zeWaits z = true ∧ z.endA = true) ∧
    (∃ s z k r, liveRun s 0 = some z ∧ z.locks = k :: r) ∧
    (∃ s z base since, liveRun s 0 = some z ∧ z.lockWait = some (base, since)) ∧
    (∃ s z row since, (unitOf s 0).run = some z ∧ aGet (unitOf s 0).openRows 3 = some row ∧
      aGet (unitOf s 0).slices 3 = some since ∧ ∀ k ∈ z.locks, k.row ≠ row) ∧
    (∀ b ∈ [false, true], ∃ s z n d, liveRun s 0 = some z ∧
      z.dq.findIdx? (fun d => d.data.isNone && (keyBanks s d.key 64).contains (bankOf s (keyPa 0x400000))) = some n ∧
      bankOf s (keyPa 0x400000) < 32 ∧ z.dq[n]? = some d ∧ rowPending s d.key = false ∧ rowPending s (d.key + 63) = false ∧
      unitServed s d.key 64 = true ∧
      rowMarked s (keyPa d.key) = b ∧ rowMarked s (keyPa (d.key + 63)) = b) :=
  ⟨⟨posted { nm0 with descAt := 0x50000 } id, _, causeCode .dxlate, rfl, rfl, rfl, by decide⟩,
   ⟨nWorld fun s => setUnit s { unitOf s 0 with queue := [nm0] }, _, _, rfl, rfl, rfl, by decide⟩,
   ⟨uS fun z => { z with endA := true, endE := true }, _, rfl, rfl, rfl, rfl, rfl, rfl, by decide⟩,
   ⟨uS fun z => { wq 1 z with endA := true, endE := true }, _, rfl, rfl, rfl, rfl, rfl, by decide⟩,
   ⟨uS fun z => { z with endE := true, cmd := { z.cmd with image := bytesOfNat 64 0x24000000 } }, _, rfl, by decide, rfl⟩,
   ⟨uS fun z => { z with endA := true, cmd := { z.cmd with image := bytesOfNat 64 0x94000000 } }, _, rfl, by decide, rfl⟩,
   ⟨uS (locks' [lock0 0]), _, _, _, rfl, rfl⟩, ⟨uS fun z => { z with lockWait := some (0, 0) }, _, _, _, rfl, rfl⟩,
   ⟨nWorld fun s => setUnit s { unitOf s 0 with run := some (startZ nm0 0), openRows := [(3, 5)], slices := [(3, 0)] }, _, _, _,
     rfl, rfl, rfl, by decide⟩, fun b hb => by
    let z (z : ZRun) : ZRun := { z with dq := [⟨0x400000, 0, none⟩] }
    simp only [List.mem_cons, List.not_mem_nil, or_false] at hb
    obtain rfl | rfl := hb
    · exact ⟨uS z, _, 0, _, rfl, by simp [z, first_bank], bankOf_lt _ _, rfl, by decide, by decide,
        unitServed_of (by decide) rfl _ _, by decide, by decide⟩
    · exact ⟨mark0 (uS z), _, 0, _, rfl, by simp [z, first_bank], bankOf_lt _ _, rfl, by decide, by decide,
        unitServed_of (by decide) rfl _ _, by decide, by decide⟩⟩

/-! ### Witnesses: hosts, queues and the module -/

/-- A device that serves KDP, owned by host 1 with TERM 1, with a context and its code. -/
def hS (e : State → State) : State :=
  let s := placeCode State.reset []
  e { s with
    firm := { s.firm with powered := true, step := 7 }
    fab := { s.fab with ethUp := true }
    host := { s.host with lease := { owner := 1, term := 1, expiry := 2000000000 } } }
def kdp (cmd : BitVec 16) (bytes : Nat) : KdpHdr :=
  { magic := 0x4B44, ver := 1, type := 0, cmd := cmd, len := BitVec.ofNat 16 bytes, host := 1, ctx := 0, queue := 0, zero := 0
    status := 0, term := 1, seq := 9, bytes := bytes }

theorem served_of {s : State} {k : KdpHdr} {code : Nat}
    (h : (portAnswers s && !kdpDropped k 0 && kdpFull s && (keptReply s k.host k.seq).isNone && !seqPending s k.host k.seq &&
      !seqOld s k.host k.seq && k.cmd.toNat == code) = true) : Served s k code := by
  simp only [Bool.and_eq_true, Bool.not_eq_true', Option.isNone_iff_eq_none, beq_iff_eq] at h
  obtain ⟨⟨⟨⟨⟨⟨a, b⟩, c⟩, d⟩, e⟩, f⟩, g⟩ := h
  exact ⟨a, b, c, d, e, f, g⟩

theorem owner_of {s : State} {k : KdpHdr} {code : Nat} (h : Served s k code) (ho : k.host = s.host.lease.owner)
    (ht : k.term = s.host.lease.term) (hc : (ctxOf s k.ctx.toNat).isSome = true) : ServedOwner s k code :=
  ⟨h, ho, ht, hc⟩

/-- Every command of an owner, for a context, of its number of payload bytes. -/
theorem witness_owner_commands :
    ∀ x ∈ [((0x20 : BitVec 16), 8), (0x21, 8), (0x22, 16), (0x23, 4), (0x24, 0), (0x25, 0), (0x11, 0), (0x12, 24), (0x13, 8),
      (0x14, 32), (0x15, 4), (0x16, 8), (0x17, 2), (0x18, 48)],
      ServedOwner (hS id) (kdp x.1 x.2) x.1.toNat := by
  intro x hx
  simp only [List.mem_cons, List.not_mem_nil, or_false] at hx
  obtain rfl | rfl | rfl | rfl | rfl | rfl | rfl | rfl | rfl | rfl | rfl | rfl | rfl | rfl := hx <;>
    exact owner_of (served_of (by decide)) rfl rfl (by decide)

/-- Nodes of context 0: one that waits on a counter at 0x10900, one to run, two that have run. -/
def node0 (n kind : Nat) (st : NState) (r : Option (Option (BitVec 9))) : Node :=
  { ctx := 0, n := n, kind := kind, csc := 0, payload := 0x10000, cpl := 0x10900, waits := [(0x10900, 0, 0)], met := [], bad := false, st := st
    result := r }
def nodes0 (l : List Node) (s : State) : State := { s with ctl := { s.ctl with nodes := l } }
def drain1 (s : State) : State :=
  { s with ctl := { s.ctl with ctxs := s.ctl.ctxs.map fun c => { c with drain := some ⟨0, some 0⟩ } } }
/-- A record of a memory barrier node, of kind 4, in slot 0 at 0x10800 of a context of 2 slots. -/
def armed (s : State) : State :=
  { s with ctl := { s.ctl with ctxs := s.ctl.ctxs.map fun c => { c with nodes := 2, nb := 0x10800 } }
           mem := memPut (memPut s.mem 0x160800 8 0x8004) 0x160810 8 0x10900 }

theorem witness_QueueAndGraphEvents :
    (∃ s c f m slots l, queueHead s 0 0 = some c ∧ c.kind = .arm f m ∧ (ctxOf s c.ctx).map (fun x => x.nodes) = some slots ∧
      f + m ≤ slots ∧ armWaits s c.ctx f m = false ∧
      allNodes ((List.range m).map fun i => armNode s c.ctx (f + i)) = some l) ∧
    (∀ x ∈ [((0 : Dword), false), (1, true)], ∃ s c w t, queueHead s 0 0 = some c ∧ c.kind = .waitc w t ∧
      waitSees s c.ctx w (BitVec.ofNat 64 (t.toNat % 2 ^ 63)) = some x.2) ∧
    (∃ s c d, queueHead s 0 0 = some c ∧ c.kind = .preempt d ∧ c.started = false ∧ draining s c.ctx = false) ∧
    (∃ s c, queueHead s 0 0 = some c ∧ c.kind = .resume ∧ (savedGrids s c.ctx).length = 1 ∧
      ∀ g ∈ savedGrids s c.ctx, lrecWaits s c.ctx g.recAddr = false) ∧
    (∃ s c, queueHead s 0 0 = some c ∧ c.kind = .kill ∧ ((ctxOf s c.ctx).bind fun x => x.drain) = none) ∧
    (∃ s c d, ctxOf s 0 = some c ∧ c.drain = some d ∧ drained s 0 = true ∧ s.clock < d.since + 800 * c.deadline ∧
      savedWaits s 0 (s.work.grids.filter fun g => g.ctx == 0 && unended s g) c.save.toNat = false) ∧
    (∃ s x, nodeOf s 0 1 = some x ∧ x.ctx = 0 ∧ x.st = .waiting ∧ nodesHeld s 0 = false ∧ x.met = [] ∧ x.bad = false ∧
      ∀ w ∈ x.waits, waitSees s 0 w.1 w.2.1 = some false) ∧
    (∃ s x w, nodeOf s 0 1 = some x ∧ x.ctx = 0 ∧ x.st = .waiting ∧ nodesHeld s 0 = false ∧ x.met = [] ∧ w ∈ x.waits ∧
      waitSees s 0 w.1 w.2.1 = some true ∧ recordWaits s x = false) ∧
    (∃ s x, nodeOf s 0 1 = some x ∧ x.st = .ready ∧ x.result = none ∧ x.ctx = 0 ∧ nodesHeld s 0 = false ∧ x.kind = 1) ∧
    (∃ s x r, nodeOf s 0 1 = some x ∧ x.result = some r ∧ x.st = .running ∧ x.kind ≠ 4) ∧
    (∃ s x, nodeOf s 0 1 = some x ∧ x.result = some none ∧ x.st = .running ∧ x.kind = 4 ∧ counterWaits s 0 x.cpl = false) := by
  refine ⟨?_, ?_,
    ⟨hS (cmd0 (.preempt 100)), _, _, rfl, rfl, rfl, by decide⟩, ⟨hS fun s => cmd0 .resume { s with work := { s.work with grids := [{ grid0 with phase := .saved }] } }, _, rfl, rfl, by decide,
      by decide⟩,
    ⟨hS (cmd0 .kill), _, rfl, rfl, by decide⟩, ⟨hS fun s => drain1 { s with work := { s.work with grids := [grid0] } }, _, _, rfl, rfl, by decide,
      by decide, by decide⟩,
    ⟨hS (nodes0 [node0 1 1 .waiting none]), _, rfl, rfl, rfl, by decide, rfl, rfl, by decide⟩, ?_,
    ⟨hS (nodes0 [node0 1 1 .ready none]), _, rfl, rfl, rfl, rfl, by decide, rfl⟩,
    ⟨hS (nodes0 [node0 1 1 .running (some none)]), _, _, rfl, rfl, rfl, by decide⟩,
    ⟨hS (nodes0 [node0 1 4 .running (some none)]), _, rfl, rfl, rfl, rfl, by decide⟩⟩
  · let s := hS fun s => cmd0 (.arm 0 1) (armed s)
    obtain ⟨l, hl, -⟩ := ex_of (x := allNodes ((List.range 1).map fun i => armNode s 0 (0 + i))) (p := fun _ => true)
      (by decide +kernel)
    exact ⟨s, _, _, _, _, l, rfl, rfl, rfl, by decide, by decide, hl⟩
  · intro x hx
    simp only [List.mem_cons, List.not_mem_nil, or_false] at hx
    obtain rfl | rfl := hx
    · exact ⟨hS (cmd0 (.waitc 0x10900 0)), _, _, _, rfl, rfl, by decide⟩
    · exact ⟨hS fun s => cmd0 (.waitc 0x10900 0) { s with mem := memPut s.mem 0x160900 8 (2 ^ 63) }, _, _, _, rfl, rfl, by decide⟩
  · exact ⟨hS fun s => nodes0 [node0 1 1 .waiting none] { s with mem := memPut s.mem 0x160900 8 (2 ^ 63) }, _, _, rfl, rfl, rfl,
      by decide, rfl, .head _, by decide, by decide⟩

def lease (owner : BitVec 32) (term : Dword) (expiry : Nat) (s : State) : State :=
  { s with host := { s.host with lease := { owner := owner, term := term, expiry := expiry } } }

theorem always_of {s : State} {k : KdpHdr} {code : Nat}
    (h : (s.firm.powered && decide (2 ≤ s.firm.step) && s.fab.ethUp && !kdpDropped k 0 && (keptReply s k.host k.seq).isNone &&
      !seqPending s k.host k.seq && !seqOld s k.host k.seq && k.cmd.toNat == code) = true) : ServedAlways s k code := by
  simp only [Bool.and_eq_true, Bool.not_eq_true', Option.isNone_iff_eq_none, beq_iff_eq, decide_eq_true_eq] at h
  obtain ⟨⟨⟨⟨⟨⟨⟨a, b⟩, c⟩, d⟩, e⟩, f⟩, g⟩, k⟩ := h
  exact ⟨⟨a, b, c⟩, d, e, f, g, k⟩

/-- The line at 0x160800, which an access of a host at 0x10800 reaches, is reserved by a drain. -/
def busyLine (s : State) : State :=
  { s with work := { s.work with teams := [{ team0 with
      stream := some { stream0 with drains := [{ drain0 false with resv := [0x160800] }] } }] } }
/-- A host's request of two bytes at 0x10800, of which one has been carried out. -/
def rdma1 (d : Option (List Byte)) (s : State) : State :=
  { s with host := { s.host with rdma := [⟨1, 0, 0x10800, 2, d, 1, []⟩] } }
/-- A reply kept for the owner's SEQ 9. -/
def kept9 (s : State) : State :=
  { s with host := { s.host with replies := [{ host := 1, seq := 9, cmd := 1, ctx := 0, queue := 0, status := 0, payload := [], dest := 1 }] } }
def atStep (n : Nat) (s : State) : State := { s with firm := { s.firm with step := n } }

/-- RDMA by each key and with an unknown one, its first packet, a later one, one that waits and one beyond its pages; the
lease free, expired, held; a stale TERM, before the owner is looked at, a host that is no owner, no context; a device that
does not serve yet, a repetition, a dropped datagram. -/
theorem witness_HostEvents_lease :
    let q (d : Option (List Byte)) : Rdma := ⟨1, 0, 0x10800, 2, d, 0, []⟩
    let m (r : Rdma) : Nat := min packetBytes (2 - r.got)
    let sent (s : State) (d : Option (List Byte)) (c : Ctx) (own rd : Bool) (r : Rdma) : Prop :=
      portAnswers s = true ∧ keyCtx s 1 0 = some (c, own) ∧ (rdmaOf s (q d)).getD (q d) = r ∧
        (rdmaOf s (q d) = none → (rdmaKeys s c.num 0x10800 2 own rd).isSome = true)
    (∀ x ∈ [(some [1, 2], false), (none, true)],
      (∀ f ∈ [id, rdma1 x.1], ∃ c ks r, sent (hS f) x.1 c true x.2 r ∧
        rdmaKeys (hS f) c.num (0x10800 + r.got) (m r) true x.2 = some ks ∧ (∀ x ∈ ks, homeWaits (hS f) x = false) ∧
        mayCharge (hS f) c.num 5 = true) ∧
      (∃ s c ks r, sent s x.1 c true x.2 r ∧ rdmaKeys s c.num (0x10800 + r.got) (m r) true x.2 = some ks ∧
        ∃ x ∈ ks, homeWaits s x = true) ∧
      (∃ s c, portAnswers s = true ∧ keyCtx s 1 0 = some (c, true) ∧ rdmaOf s { q x.1 with va := 0x1FFFF } = none ∧
        rdmaKeys s c.num 0x1FFFF 2 true x.2 = none)) ∧
    (∃ s, portAnswers s = true ∧ ∀ c, keyCtx s 1 5 ≠ some (c, true)) ∧ (∃ s, portAnswers s = true ∧ keyCtx s 1 5 = none) ∧
    (∃ s, Served s (kdp 1 0) 1 ∧ s.host.lease.owner = 0) ∧
    (∃ s, Served s (kdp 1 0) 1 ∧ s.host.lease.owner ≠ 0 ∧ s.host.lease.expiry ≤ nowNs s) ∧
    (∃ s, Served s (kdp 1 0) 1 ∧ s.host.lease.owner ≠ 0 ∧ nowNs s < s.host.lease.expiry) ∧
    (∀ x ∈ [((2 : BitVec 16), 0), (3, 4), (4, 0)], ∃ s, Served s (kdp x.1 x.2) x.1.toNat ∧ leaseHeld s (kdp x.1 x.2) = true) ∧
    (∃ s : State, s.host.lease.owner ≠ 0 ∧ nowNs s < s.host.lease.expiry) ∧
    (∃ s, Served s (kdp 0x11 0) 0x11 ∧ (kdp 0x11 0).host ≠ s.host.lease.owner ∧ (kdp 0x11 0).term ≠ s.host.lease.term) ∧
    (∃ s, Served s (kdp 0x11 0) 0x11 ∧ (kdp 0x11 0).term = s.host.lease.term ∧ (kdp 0x11 0).host ≠ s.host.lease.owner) ∧
    (∃ s, Served s (kdp 0x11 0) 0x11 ∧ (kdp 0x11 0).host = s.host.lease.owner ∧ (kdp 0x11 0).term = s.host.lease.term ∧
      ctxOf s (kdp 0x11 0).ctx.toNat = none) ∧
    (∃ s, portAnswers s = true ∧ kdpDropped (kdp 1 0) 0 = false ∧ kdpFull s = false) ∧
    (∃ s r, portAnswers s = true ∧ kdpDropped (kdp 1 0) 0 = false ∧ kdpFull s = true ∧
      keptReply s (kdp 1 0).host (kdp 1 0).seq = some r) ∧
    (∃ s, portAnswers s = false) ∧ kdpDropped { kdp 1 0 with ver := 2 } 0 = true := by
  intro q m sent
  refine ⟨fun x hx => ?_, ⟨hS id, by decide, fun c => ?_⟩, ⟨hS id, by decide, rfl⟩, ⟨hS (lease 0 0 0), served_of (by decide), rfl⟩,
    ⟨hS (lease 2 1 0), served_of (by decide), by decide, by decide⟩,
    ⟨hS (lease 2 1 5), served_of (by decide), by decide, by decide⟩, ?_, ⟨hS id, by decide, by decide⟩,
    ⟨hS (lease 2 2 5), served_of (by decide), by decide, by decide⟩, ⟨hS (lease 2 1 5), served_of (by decide), rfl, by decide⟩,
    ⟨hS fun s => { s with ctl := { s.ctl with ctxs := [] } }, served_of (by decide), rfl, rfl, rfl⟩,
    ⟨hS (atStep 6), by decide, by decide, by decide⟩, ⟨hS kept9, _, by decide, by decide, by decide, rfl⟩,
    ⟨State.reset, by decide⟩, by decide⟩
  · simp only [List.mem_cons, List.not_mem_nil, or_false] at hx
    obtain rfl | rfl := hx <;>
      exact ⟨fun f hf => by
          simp only [List.mem_cons, List.not_mem_nil, or_false] at hf
          obtain rfl | rfl := hf
          · exact ⟨placeCtx, [0x160800, 0x160801], q _, ⟨by decide, by decide, rfl, fun _ => by decide⟩, by decide, by decide, by decide⟩
          · exact ⟨placeCtx, [0x160801], ⟨1, 0, 0x10800, 2, _, 1, []⟩, ⟨by decide, by decide, rfl, fun _ => by decide⟩, by decide,
              by decide, by decide⟩,
        ⟨hS busyLine, placeCtx, [0x160800, 0x160801], q _, ⟨by decide, by decide, rfl, fun _ => by decide⟩, by decide, 0x160800,
          by decide, by decide⟩, ⟨hS id, placeCtx, by decide, by decide, rfl, by decide⟩⟩
  · rw [show keyCtx (hS id) 1 5 = none from rfl]
    exact Option.some_ne_none _ ∘ Eq.symm
  · intro x hx
    simp only [List.mem_cons, List.not_mem_nil, or_false] at hx
    obtain rfl | rfl | rfl := hx <;> exact ⟨hS id, served_of (by decide), by decide⟩

def map0 : MapPayload := { va := 0x20000, level := 0, attr := 3, pdev := 0, sframe := 0, channel := 0xFFFF }
def choice0 : MapChoice := { frame := 0x170000, tables := [], found := true }
def event0 (born : Nat) : Event := { host := some 1, seq := 9, code := 0x42, ctx := 0, payload := [], born := born, last := 800000000 }
/-- A team of context 0 halted for service firmware, with a store undone that had stood over the bytes 1 and 2 at 0x10800.
-/
def stopped (s : State) : State :=
  { s with work := { s.work with teams := [{ team0 with
      halt := .service 5, srec := some group0.t.tr
      groups := [{ group0 with undo := [⟨0, 0x10000, 3, 0x10800, 2, [1, 2], 0, false⟩] }] }] } }

/-- An event sent again for the last time, and one that is given up. -/
theorem witness_event_resend :
    ∀ x ∈ [(800001, true), (800000, false)], ∃ (s : State) (e : Event),
      s.host.events.find? (fun e => e.seq == 9 && e.host.isSome) = some e ∧ s.firm.tripped = false ∧
        decide (max s.clock (e.last + 800000) < e.born + 800000000) = x.2 := by
  intro x hx
  refine ⟨{ State.reset with host := { State.reset.host with events := [event0 x.1] } }, event0 x.1, rfl, rfl, ?_⟩
  simp only [List.mem_cons, List.not_mem_nil, or_false] at hx
  obtain rfl | rfl := hx <;> simp [event0, State.reset]

set_option maxRecDepth 8000 in
theorem witness_HostEvents_commands :
    (∃ (s : State) (p : CtxPayload) (c : CtxChoice), Served s { kdp 0x10 64 with ctx := 1 } 0x10 ∧ 1 = s.host.lease.owner ∧ 1 = s.host.lease.term ∧
      ctxPayloadOk p = true ∧ ctxOf s 1 = none ∧ c.room = true ∧ slotsUsed s + p.nodes ≤ 65536 ∧ ctxChoiceOk s c = true) ∧
    (∃ s c s2 st b, ServedOwner s (kdp 0x12 24) 0x12 ∧ ctxOf s 0 = some c ∧ mapPayloadOk s map0 = true ∧ choice0.found = true ∧
      unmapWaits s c map0.va.toNat (2 ^ leafBits map0.level) = false ∧ frameOk s map0 c.num choice0.frame = true ∧
      tablesOk s choice0.tables = true ∧ mapLeaf s c map0 choice0 = some (s2, st, b)) ∧
    (∃ s c l a, ServedOwner s (kdp 0x13 8) 0x13 ∧ ctxOf s 0 = some c ∧ (0x10000 : Dword).toNat < 2 ^ 56 ∧
      entryAt s 0x10000 4 c.root = some (l, a) ∧
      unmapWaits s c (0x10000 / 2 ^ leafBits l * 2 ^ leafBits l) (2 ^ leafBits l) = false) ∧
    (∃ s, ServedOwner s (kdp 0x16 8) 0x16 ∧ 1 ≤ [0, 1].length ∧ [0, 1].length ≤ 1024 ∧ (∀ d ∈ [0, 1], d < 1024) ∧
      (let pod := ((ctxOf s 0).map fun c => c.pod).getD []
       pod = [] ∨ ∀ d ∈ [0, 1], d ∈ pod)) ∧
    (∃ s, Served s (kdp 0x19 4) 0x19 ∧ 1 = s.host.lease.owner ∧ 1 = s.host.lease.term ∧ 2000 ≤ 4200 ∧ 4200 ≤ 4200) ∧
    (∃ s, ServedAlways s (kdp 0x30 32) 0x30 ∧ (kdp 0x30 32).bytes = 32 ∧ (List.replicate 32 (0 : Byte)).length = 32 ∧
      s.firm.leaf < 2 ^ 20) ∧
    (∃ s, ServedAlways s (kdp 0x30 32) 0x30 ∧ (kdp 0x30 32).bytes = 32 ∧ (List.replicate 32 (0 : Byte)).length = 32 ∧
      2 ^ 20 ≤ s.firm.leaf) ∧
    (∃ s, ServedAlways s (kdp 0x31 0) 0x31 ∧ s.firm.step = 2 ∧ s.firm.failedParts = []) ∧
    (∃ s, portAnswers s = true ∧ kdpDropped { kdp 0 0 with type := 3 } 3 = false ∧ kdpFull s = true) ∧
    (let called (s : State) : Prop := serviceRuns s = true ∧ (ctxOf s 0).isSome = true ∧ leaseLive s = true
     (∃ s ks, called s ∧ gwWriteOk s 0 0x10800 [1, 2] = true ∧ allSome ((List.range 2).map fun i =>
        match xlate s none 0 (0x10800 + i) false false false with
        | .at k _ _ _ => some k
        | .bad _ _ => none) = some ks ∧ ∀ x ∈ ks, homeWaits s x = false) ∧
     (∃ s, called s ∧ gwWriteOk s 0 0x10800 [1, 3] = false) ∧ ∃ s c, called s ∧ ctxOf s 0 = some c ∧ c.drain = none) ∧
    (∃ s b, serviceRuns s = true ∧ causeCtx s b = some 0) ∧ ∃ s, serviceRuns s = true ∧ causeCtx s [] = none := by
  obtain ⟨x, hx, -⟩ := ex_of (x := mapLeaf (hS id) placeCtx map0 choice0) (p := fun _ => true) (by decide +kernel)
  exact ⟨⟨hS id, ⟨0, 0, 0, 0, 16, []⟩, ⟨0x500000, 7, 8, 0, true⟩, served_of (by decide), rfl, rfl, by decide, rfl, rfl, by decide, by decide⟩,
    ⟨hS id, _, _, _, _, owner_of (served_of (by decide)) rfl rfl (by decide), rfl, by decide, rfl, by decide, by decide, by decide,
      hx⟩,
    ⟨hS id, placeCtx, 0, 0x150010, owner_of (served_of (by decide)) rfl rfl (by decide), rfl, by decide, by decide, by decide⟩,
    ⟨hS id, owner_of (served_of (by decide)) rfl rfl (by decide), by decide, by decide, by decide, .inl rfl⟩,
    ⟨hS id, served_of (by decide), rfl, rfl, by decide, by decide⟩,
    ⟨hS id, always_of (by decide), rfl, List.length_replicate, by decide⟩,
    ⟨hS fun s => { s with firm := { s.firm with leaf := 2 ^ 20 } }, always_of (by decide), rfl, List.length_replicate, by decide⟩,
    ⟨hS fun s => { s with firm := { s.firm with step := 2 } }, always_of (by decide), rfl, rfl⟩,
    ⟨hS id, by decide, by decide, by decide⟩,
    ⟨⟨hS stopped, [0x160800, 0x160801], ⟨by decide, by decide, by decide⟩, by decide, by decide, by decide⟩,
     ⟨hS stopped, ⟨by decide, by decide, by decide⟩, by decide⟩, hS id, _, ⟨by decide, by decide, by decide⟩, rfl, rfl⟩,
    ⟨hS stopped, trapBytes group0.t.tr, by decide, by decide⟩, hS stopped, by decide, by decide⟩

/-- An image that no signature verifies. -/
def badImage : FwImage := { goodImage with sig := [] }
theorem unverified_badImage : verified badImage = false := by simp [verified, badImage, goodImage, xmssSig, bytesOfNat]

theorem mhz_of {p : Power} (h1 : p.points = []) (h2 : p.steps = []) (h3 : 16 ≤ p.lowered) (i : Nat) (hi : i < 768) :
    islandMhz p i ≤ 400 := by
  simp [islandMhz, pointMhz, heatSteps, capSteps, aGet, h1, h2, show i < Config.cores from hi]
  omega

set_option maxRecDepth 4000 in
/-- The conditions of the module's events: heat, power, a debugger's step back, peers' requests, bring-up. -/
theorem witness_ModuleEvents :
    (∃ s : State, s.pow.period ≤ s.clock / 8000) ∧ (∃ s : State, 767 < 768 ∧ s.firm.tripped = false) ∧
    (∃ s : State, 3 ∈ s.pow.stepping ∧ 400 < islandMhz s.pow 3) ∧
    (∃ s : State, heatSteps s.pow 3 ≠ 0 ∧ 3 ∉ s.pow.stepping) ∧
    (∃ s : State, (s.pow.cap * 1 < [4201].sum ∧ s.pow.cap * 1 = [4200].sum ∧ [4199].sum < s.pow.cap * 1) ∧
      (∃ i < 768, 400 < islandMhz s.pow i) ∧ s.pow.loweredMem = 0) ∧
    (∃ s : State, (∀ i < 768, islandMhz s.pow i ≤ 400) ∧ (∃ i < 256, 400 < islandMhz s.pow (768 + i)) ∧ 0 < s.pow.loweredMem) ∧
    (∃ s t g e r, teamOf s 0 = some t ∧ groupOf s 0 0 = some g ∧ lastEntries g.undo = e :: r ∧ t.halt ≠ .running ∧
      g.ended = false ∧ (∀ o ∈ s.work.ops, o.tid = 0 → o.gid ≠ 0) ∧
      (∀ x ∈ (coreOf s t.core).wtq, x.tid = 0 → x.gid ≠ 0) ∧
      ∀ x ∈ e :: r, x.kind = 3 → ∀ k f l m, xlate s (some t.core) t.ctx x.target.toNat false false false = .at k f l m →
        homeWaits s k = false ∧ homeWaits s (k + (x.mask.toNat - 1)) = false) ∧
    (∃ (s : State) (n since : Nat), 5 < 1024 ∧ 5 ≠ s.firm.devNum ∧ 5 ∉ s.fab.lost ∧ s.fab.silent.find? (fun x => x.1 == 5) = some (5, n, since)) ∧
    (∃ s : State, 5 ∈ s.fab.lost) ∧ (∃ s : State, 23 < 24 ∧ 23 ∉ s.fab.portsDown ∧ s.fab.ethUp = true) ∧
    (∀ n ∈ [1, 4, 8, 256], ∃ s : State, s.firm.powered = true ∧ 6 ≤ s.firm.step ∧ s.firm.tripped = false ∧ 5 ≠ s.firm.devNum ∧
      0x160800 % n = 0 ∧ 0x160800 + n ≤ Config.mappable ∧ ∀ i < n, homeWaits s (ownKey s 0x160800 + i) = false) ∧
    (∃ s : State, s.firm.powered = false) ∧ (∃ s : State, s.firm.tripped = true) ∧
    (∃ s : State, s.firm.powered = true ∧ s.firm.tripped = false) ∧ (∀ n ∈ [1, 2, 3, 4, 5, 6], ∃ s, bringUp s n = true) ∧
    verified goodImage = true ∧ verified badImage = false ∧
    (∀ b : Bool, ∃ s, bringUp s 1 = true ∧ s.firm.standby = b) ∧
    (∃ ht : HbmTest, ht.failed = [] ∧ ht.images ≠ [] ∧ ∀ i ∈ ht.images, verified i = true) ∧
    (∃ ht : HbmTest, ht.failed = [] ∧ badStacks ht ≠ []) ∧ ∃ ht : HbmTest, ht.images = [] ∧ badStacks ht ≠ [] := by
  have hw (s : State) (hd : s.defer.thallus = []) (hu : s.units = []) (ht : s.work.teams = []) (k : Nat) : homeWaits s k = false := by
    simp [homeWaits, homeWaitsBut, rowPending, rowLocked, bankHeld, lineReserved, hd, hu, ht]
  refine ⟨⟨State.reset, by decide⟩, ⟨State.reset, by decide, rfl⟩,
    ⟨{ w0 with pow := { w0.pow with stepping := [3] } }, by decide, by decide⟩,
    ⟨{ w0 with pow := { w0.pow with steps := [(3, 1)] } }, by decide, by decide⟩,
    ⟨State.reset, by decide, ⟨767, by decide, by decide⟩, rfl⟩,
    ⟨{ w0 with pow := { w0.pow with lowered := 16, loweredMem := 1 } }, fun i hi => mhz_of rfl rfl (Nat.le_refl _) i hi,
      ⟨255, by decide, by decide⟩, by decide⟩,
    ⟨world (fun g => { g with undo := [⟨0, 0x10000, 3, 0x20000, 4, [0, 0, 0, 0], 0, false⟩] })
      (fun t => { t with halt := .service 5 }) id, _, _, _, _, rfl, rfl, rfl, by decide, rfl, by decide, by decide,
      fun _ _ _ _ _ _ _ _ => ⟨rfl, rfl⟩⟩,
    ⟨hS fun s => { s with fab := { s.fab with silent := [(5, 2, 0)] } }, 2, 0, by decide, by decide, by decide, rfl⟩,
    ⟨hS fun s => { s with fab := { s.fab with lost := [5] } }, by decide⟩, ⟨hS id, by decide, by decide, rfl⟩,
    fun n hn => ⟨hS id, rfl, by decide, rfl, by decide, ?_, ?_, fun i _ => hw _ rfl rfl rfl _⟩, ⟨State.reset, rfl⟩,
    ⟨hS fun s => { s with firm := { s.firm with tripped := true } }, rfl⟩, ⟨hS id, rfl, rfl⟩, fun n hn => ?_,
    verified_goodImage, unverified_badImage,
    fun b => ⟨hS fun s => { s with firm := { s.firm with step := 1, standby := b } }, rfl, rfl⟩,
    ⟨⟨[], [goodImage]⟩, rfl, by decide, by simpa using verified_goodImage⟩,
    ⟨⟨[], [badImage]⟩, rfl, by simp [badStacks, unverified_badImage]⟩, ⟨⟨[3], []⟩, rfl, by decide⟩⟩
  · simp only [List.mem_cons, List.not_mem_nil, or_false] at hn
    obtain rfl | rfl | rfl | rfl := hn <;> decide
  · simp only [List.mem_cons, List.not_mem_nil, or_false] at hn
    obtain rfl | rfl | rfl | rfl := hn <;> decide
  · refine ⟨hS (atStep n), ?_⟩
    simp only [List.mem_cons, List.not_mem_nil, or_false] at hn
    obtain rfl | rfl | rfl | rfl | rfl | rfl := hn <;> decide

/-! ### Witnesses: traps, steps, encodings, memory -/

def raise0 : Raise := { cause := .misaln, mask := 3 }
def handler (s : State) : State :=
  { s with ctl := { s.ctl with ctxs := s.ctl.ctxs.map fun c => { c with thentry := 0x10100 } } }
def twoGroups (t : Team) : Team := { t with groups := [group0, { group0 with gid := 1 }] }

/-- A group that runs, with a handler, alone and with a sibling; one in its handler; and one with no handler. -/
theorem witness_TrapEntry :
    let ok (s : State) (t : Team) (g : Group) : Prop :=
      teamOf s t.uid = some t ∧ groupIn t g.gid = some g ∧ t.resp = none ∧ toHandler raise0.cause = true ∧
        g.t.pending = none
    (∃ s t g, ok s t g ∧ g.t.inHandler = false ∧ thentryOf s t.ctx ≠ 0 ∧ t.halt = .running ∧ t.groups = [g] ∧ t.stream = none ∧
      g.i.pend ≠ []) ∧
    (∃ s t g, ok s t g ∧ g.t.inHandler = false ∧ thentryOf s t.ctx ≠ 0 ∧ t.halt = .running ∧ otherParties t g.gid = true) ∧
    (∃ s t g, ok s t g ∧ g.t.inHandler = true) ∧ (∃ s t g, ok s t g ∧ g.t.inHandler = false ∧ thentryOf s t.ctx = 0) := by
  intro ok
  have h (f : Group → Group) (e : State → State) (hg : (f group0).gid = 0)
      (ht : (f group0).t.pending = none) : ok (world f id e) (teamOf' f id) (f group0) :=
    ⟨rfl, by simp [groupIn, teamOf', hg], rfl, by decide, ht⟩
  exact ⟨⟨_, _, _, h (fun g => { g with i := { g.i with pend := [⟨2, .em 3⟩] } }) handler rfl rfl, rfl, by decide, rfl, rfl, rfl, by decide⟩,
    ⟨{ world id id handler with work := { (world id id handler).work with teams := [twoGroups team0] } }, twoGroups team0, group0,
      ⟨rfl, rfl, rfl, by decide, rfl⟩, rfl, by decide, rfl, by decide⟩,
    ⟨_, _, _, h inHandler id rfl rfl, rfl⟩, ⟨_, _, _, h id id rfl rfl, rfl, by decide⟩⟩

/-- The stream's code: NOP with DIST 0 (R196). -/
def streamNop (s : State) : State := { s with mem := memSetN s.mem 0x160000 [0, 0, 0x10, 0] }

/-- Code whose first word is 0x080000FF, with reserved bits set (R26). -/
def badWord (s : State) : State := { s with mem := memSetN s.mem 0x160000 [0xFF, 0, 0, 8] }

/-- Two groups, the second in partition `p`, one lane active in each, at a VFMA (R77). -/
def pairWorld (p : Nat) : State :=
  let w := world id id fun s => { s with mem := memSetN s.mem 0x160000 (bytesOfNat 4 0x13120108) }
  let g (n p : Nat) (em : Mask) : Group := { group0 with gid := n, part := p, r := { group0.r with em := em } }
  { w with work := { w.work with teams := [{ team0 with groups := [g 0 0 1, g 1 p 2] }] } }

theorem issue_of {i : Intent} {p : Turn → Bool}
    (h : (match i with | .issue x => p x | .none => false | .header => false) = true) : ∃ x, i = .issue x ∧ p x = true := by
  cases i with
  | issue x => exact ⟨x, rfl, h⟩
  | none => cases h
  | header => cases h

/-- Each kind of party, about to fetch a word; a group whose turn has not come, and one with a partner. -/
theorem witness_StepRunsDecoded :
    (∃ (s : State) (i : Item), s.agenda = [i] ∧ s.firm.tripped = true ∧ afterTrip i = false) ∧
    (∃ (s : State) (e : Instr), s.agenda = [.event e] ∧ s.firm.tripped = true ∧ afterTrip (.event e) = true) ∧
    (∃ (s : State) (t : Team) (g : Group) (b : List Byte) (s1 : State) (i : Instr), teamOf s t.uid = some t ∧
      groupOf s t.uid g.gid = some g ∧ mayIssue t g s.clock = true ∧
      fetchIns { s with cur := some (.group t.uid g.gid) } t g.r.pc.toNat = .bytes b s1 ∧ decodeGroup (rawOfBytes b) = .ok i ∧
      s.firm.tripped = false ∧
      ∀ x, intent s t.uid g.gid = .issue x → turnFree s t.uid g.gid x = true ∧ oldest (partners s t g x) = []) ∧
    (∃ (s : State) (t : Team) (g : Group) (b : List Byte) (s1 : State) (e : Reject), teamOf s t.uid = some t ∧
      groupOf s t.uid g.gid = some g ∧ mayIssue t g s.clock = true ∧ s.firm.tripped = false ∧
      fetchIns { s with cur := some (.group t.uid g.gid) } t g.r.pc.toNat = .bytes b s1 ∧ decodeGroup (rawOfBytes b) = .error e) ∧
    (∃ (s : State) (t : Team) (g : Group) (x : Turn), teamOf s t.uid = some t ∧ groupOf s t.uid g.gid = some g ∧
      intent s t.uid g.gid = .issue x ∧ turnFree s t.uid g.gid x = false) ∧
    (∃ (s : State) (t : Team) (g : Group) (x : Turn) (h : Group × Turn) (l : List (Group × Turn)), teamOf s t.uid = some t ∧
      groupOf s t.uid g.gid = some g ∧ intent s t.uid g.gid = .issue x ∧ turnFree s t.uid g.gid x = true ∧
      oldest (partners s t g x) = h :: l) ∧
    (∃ (s : State) (t : Team) (m : MStream) (b : List Byte) (s1 : State) (i : Instr), teamOf s t.uid = some t ∧
      t.stream = some m ∧ mayStream t m = true ∧ engineTurn s t = true ∧
      s.firm.tripped = false ∧
      fetchIns { s with cur := some (.stream t.uid) } t m.pc.toNat = .bytes b s1 ∧ decodeStream (rawOfBytes b) = .ok i) ∧
    (∃ (s : State) (t : Team) (m : MStream) (b : List Byte) (s1 : State) (e : Reject), teamOf s t.uid = some t ∧
      t.stream = some m ∧ mayStream t m = true ∧ engineTurn s t = true ∧ s.firm.tripped = false ∧
      fetchIns { s with cur := some (.stream t.uid) } t m.pc.toNat = .bytes b s1 ∧ decodeStream (rawOfBytes b) = .error e) ∧
    (∃ s z w i, liveRun s 0 = some z ∧ z.endA = false ∧ zWord z false = some w ∧ decodeZaddr w = .ok i) ∧
    (∃ s z w i, liveRun s 0 = some z ∧ z.endE = false ∧ zWord z true = some w ∧ decodeZarith w = .ok i) := by
  have hf {d : Raw → Except Reject Instr} (s : State) (t : Team) (hs : (match fetchIns s t 0x10000 with
      | .bytes b _ => (match d (rawOfBytes b) with | .ok _ => true | .error _ => false)
      | _ => false) = true) : ∃ b s1 i, fetchIns s t 0x10000 = .bytes b s1 ∧ d (rawOfBytes b) = .ok i := by
    revert hs
    cases hx : fetchIns s t 0x10000 with
    | bytes b s1 =>
      cases hg : d (rawOfBytes b) with
      | error e => simp [hg]
      | ok i => exact fun _ => ⟨b, s1, i, rfl, hg⟩
    | _ => intro hs; simp at hs
  have he {d : Raw → Except Reject Instr} (s : State) (t : Team) (hs : (match fetchIns s t 0x10000 with
      | .bytes b _ => (match d (rawOfBytes b) with | .ok _ => false | .error _ => true)
      | _ => false) = true) : ∃ b s1 e, fetchIns s t 0x10000 = .bytes b s1 ∧ d (rawOfBytes b) = .error e := by
    revert hs
    cases hx : fetchIns s t 0x10000 with
    | bytes b s1 =>
      cases hg : d (rawOfBytes b) with
      | error e => exact fun _ => ⟨b, s1, e, rfl, hg⟩
      | ok i => simp [hg]
    | _ => intro hs; simp at hs
  obtain ⟨b, s1, i, h, hi⟩ := hf (d := decodeGroup) { w0 with cur := some (.group 0 0) } (teamOf' id id) (by decide +kernel)
  obtain ⟨b2, s2, i2, h2, hj⟩ := hf (d := decodeStream) { sWorld id id streamNop with cur := some (.stream 0) } (sTeam id id)
    (by decide +kernel)
  obtain ⟨b3, s3, e3, h3, hk⟩ := he (d := decodeGroup) { badWord w0 with cur := some (.group 0 0) } (teamOf' id id) (by decide +kernel)
  obtain ⟨b4, s4, e4, h4, hl⟩ := he (d := decodeStream) { sWorld id id badWord with cur := some (.stream 0) } (sTeam id id)
    (by decide +kernel)
  obtain ⟨x, hx, hp⟩ := issue_of (i := intent w0 0 0)
    (p := fun x => turnFree w0 0 0 x && (oldest (partners w0 (teamOf' id id) group0 x)).isEmpty) (by decide +kernel)
  obtain ⟨y, hy, hq⟩ := issue_of (i := intent (pairWorld 1) 0 1) (p := fun x => !turnFree (pairWorld 1) 0 1 x)
    (by decide +kernel)
  let t1 : Team := (pairWorld 1).work.teams.headD team0
  let tm : Team := (pairWorld 0).work.teams.headD team0
  obtain ⟨z, hz, hr⟩ := issue_of (i := intent (pairWorld 0) 0 0) (p := fun x => turnFree (pairWorld 0) 0 0 x &&
    !(oldest (partners (pairWorld 0) tm (tm.groups.headD group0) x)).isEmpty) (by decide +kernel)
  simp only [Bool.and_eq_true, List.isEmpty_iff] at hp
  simp only [Bool.and_eq_true, Bool.not_eq_true', List.isEmpty_eq_false_iff_exists_mem] at hr
  let tripS (e : Item) : State := { State.reset with agenda := [e], firm := { State.reset.firm with tripped := true } }
  refine ⟨⟨tripS (.party (.group 0 0)), _, rfl, rfl, by decide⟩, ⟨tripS (.event .powerOn), _, rfl, rfl, by decide⟩,
    ⟨w0, teamOf' id id, group0, b, s1, i, rfl, rfl, by decide, h, hi, rfl, fun k hk => ?_⟩,
    ⟨badWord w0, teamOf' id id, group0, b3, s3, e3, rfl, rfl, by decide, rfl, h3, hk⟩,
    ⟨pairWorld 1, t1, t1.groups.getD 1 group0, y, rfl, rfl, hy, Bool.not_eq_true' _ ▸ hq⟩, ?_,
    ⟨sWorld id id streamNop, sTeam id id, stream0, b2, s2, i2, rfl, rfl, by decide, by decide +kernel, rfl, h2, hj⟩,
    ⟨sWorld id id badWord, sTeam id id, stream0, b4, s4, e4, rfl, rfl, by decide, by decide +kernel, rfl, h4, hl⟩,
    ⟨uS fun z => { z with cmd := { z.cmd with image := bytesOfNat 64 0x24000000 } }, _, _, _, rfl, rfl, rfl, rfl⟩,
    ⟨uS fun z => { z with cmd := { z.cmd with image := bytesOfNat 64 0x94000000 } }, _, _, _, rfl, rfl, rfl, rfl⟩⟩
  · cases hx.symm.trans hk
    exact hp
  · cases ho : oldest (partners (pairWorld 0) tm (tm.groups.headD group0) z) with
    | nil =>
      obtain ⟨-, e, he⟩ := hr
      rw [ho] at he
      cases he
    | cons k l => exact ⟨pairWorld 0, tm, tm.groups.headD group0, z, k, l, rfl, rfl, hz, hr.1, ho⟩

/-- RhizoidRoundTrip and StreamRoundTrip: instructions with a word, and words that decode. -/
theorem witness_RoundTrips :
    ((Instr.zdot8 true false 4 8 9).wf = true ∧ encodeZ (.zdot8 true false 4 8 9) = some 0xA4884801) ∧
    (decodeZaddr 0x344321C4 = .ok (.zwpair 2 3 4 8 0 1 false)) ∧
    ((Instr.mma 1 2 0 4 false true ⟨4, 4, 4⟩).wf = true ∧ (encodeStream (.mma 1 2 0 4 false true ⟨4, 4, 4⟩)).isSome = true) := by
  decide

/-- StepKeepsMemory: reset's memory is in order, and a step from it answers a next state. -/
theorem witness_StepKeepsMemory : MemOk State.reset ∧ ∃ s', step State.reset = .next s' :=
  ⟨⟨by decide, by decide⟩, _, rfl⟩

/-- IssueTiming: the group has no destination pending, and several writes of every kind to come, in the order of their
clocks. -/
theorem witness_IssueTiming :
    ∃ (g : Group), g.i.dsts = [] ∧
      g.i.pend = [⟨2, .s 3 7⟩, ⟨2, .em 1⟩, ⟨4, .s 3 8⟩, ⟨4, .sp 2 true⟩, ⟨4, .p 1 3 5⟩, ⟨6, .v 9 1 (vgen fun _ => 4)⟩] ∧
      g.i.pend.Pairwise (fun a b => a.key ≤ b.key) :=
  ⟨{ group0 with i := { group0.i with
      pend := [⟨2, .s 3 7⟩, ⟨2, .em 1⟩, ⟨4, .s 3 8⟩, ⟨4, .sp 2 true⟩, ⟨4, .p 1 3 5⟩, ⟨6, .v 9 1 (vgen fun _ => 4)⟩] } }, rfl, rfl, by decide⟩

/-! ### Values that the spec works out -/

/-- The fixed-latency writes of an instruction on the small machine. -/
def wrote (i : Instr) (f : Group → Group) : Option (List PendWr) :=
  match exec i (world f id id) with
  | .next s => (groupOf s 0 0).map fun g => g.i.pend
  | _ => none
/-- The clock of its first write, and what lane `l` of it holds. -/
def laneWrote (l : Nat) (i : Instr) (f : Group → Group) : Option (Nat × Word) :=
  (wrote i f).bind fun p => p.head?.bind fun w => match w.wr with
    | .v _ _ x => some (w.land, vget x l)
    | _ => none
/-- The group after an instruction, or after an event on a state. -/
def after (i : Instr) (s : State) : Option State := match exec i s with | .next s' => some s' | _ => none
def lanes (em : Mask) (l : List (Nat × List Word)) (g : Group) : Group :=
  { g with r := { g.r with em := em, v := l.foldl (fun v p => vset v p.1 (vgen fun k => p.2.getD k 0)) g.r.v } }

/-- R63: modulo 2^64. -/
theorem test_sadd_wraps :
    wrote (.sadd (base 1) 3 4 5) (fun g => setS 4 0xFFFFFFFFFFFFFFFF (setS 5 2 g)) = some [⟨2, .s 3 1⟩] := by decide
/-- R63: the high half, signed and unsigned; 4 ck (R144). -/
theorem test_smulh :
    wrote (.smulh (ext 1) true 3 4 (.reg 5)) (fun g => setS 4 0xFFFFFFFFFFFFFFFF (setS 5 2 g)) =
      some [⟨4, .s 3 0xFFFFFFFFFFFFFFFF⟩] ∧
    wrote (.smulh (ext 1) false 3 4 (.reg 5)) (fun g => setS 4 0xFFFFFFFFFFFFFFFF (setS 5 2 g)) = some [⟨4, .s 3 1⟩] := by decide
/-- R60: `em` 0xFF with `p1` 0xA5. -/
theorem test_emand :
    wrote (.emand (ext 1) 1) (fun g => { g with r := { g.r with em := 0xFF, p := vset g.r.p 1 0xA5 } }) =
      some [⟨2, .em 0xA5⟩] ∧
    wrote (.emandn (ext 1) 1) (fun g => { g with r := { g.r with em := 0xFF, p := vset g.r.p 1 0xA5 } }) =
      some [⟨2, .em 0x5A⟩] := by decide
/-- R143's example: `v5` is 30 from clock 204 on and 7 before; `vadd v6, v5, v5` at 202 writes 14, and at 204 it writes
60. -/
theorem test_vadd_reads_old :
    let g (u : Nat) (g : Group) : Group :=
      let g := lanes 1 [(5, [7])] g
      { g with i := { g.i with hold := u, pend := [⟨204, .v (physOf g 5) (-1) (vgen fun _ => 30)⟩] } }
    laneWrote 0 (.vadd (base 1) 6 5 5) (g 202) = some (204, 30) ∧
    ((wrote (.vadd (base 1) 6 5 5) (g 202)).bind fun p => p[1]?.bind fun w => match w.wr with
      | .v _ _ x => some (w.land, vget x 0)
      | _ => none) = some (206, 14) ∧
    laneWrote 0 (.vadd (base 1) 6 5 5) (g 204) = some (208, 60) := by decide +kernel
/-- R72's worked reduction. -/
theorem test_lred :
    wrote (.lred (ext 1) .fadd 3 1) (lanes 0xF [(1, [0x3F800000, 0x4B800000, 0x3F800000, 0xCB800000])]) =
      some [⟨7, .s 3 0x3F800000⟩] := by decide +kernel
/-- R85, R86's worked intersection. -/
theorem test_vbmand_visect :
    laneWrote 0 (.vbmand (ext 1) 3 1 1 2) (lanes 1 [(1, [0xB6]), (2, [0x64])]) = some (4, 0x24) ∧
    isect 0xB6 0x64 0x24 = 0x00020001 ∧ isect 0xB6 0x64 0x20 = 0x00050103 ∧ isect 0xB6 0x64 0 = 0xFFFFFFFF := by
  decide +kernel
/-- R94's example: i8 −1 as n32. R96's worked conversion: 1.0 + 2^−9 to BF16. -/
theorem test_convert :
    (convert .n32 .i8 .rne false false false false 0xFF).x = 0xFFFFFFFF ∧
    (convert .n32 .i8 .rne true false false false 0xFF).x = 0 ∧ (convert .n32 .i8 .rne true false false false 0xFF).sati = true ∧
    (convertSr .bf16 false false false 0x3F804000 0x3FFFFFFF).x = 0x3F81 ∧
    (convertSr .bf16 false false false 0x3F804000 0x40000000).x = 0x3F80 := by decide +kernel
/-- R99's worked band: block maxima 3.0, 100, 0.001 and 0. -/
theorem test_scalecalc :
    let r := scaleCalc false 0xF none fun l => [[0x40400000], [0x42C80000], [0x3A83126F], [0]].getD l []
    r.1 = 0x3F80 ∧ (List.range 4).map r.2.1 = [0x40, 0xE2, 0x01, 0x00] ∧ r.2.2 = stSCUF := by decide +kernel
/-- R100's worked quantisation: 2.6 and −0.2, code 0x40, band 1.0. -/
theorem test_vquant :
    (quantise .e2m1 .rne false false 0x40266666 0x40 0x3F80).x = 7 ∧
    (quantise .e2m1 .rtz false false 0x40266666 0x40 0x3F80).x = 6 ∧
    (quantise .e2m1 .rne false false 0xBE4CCCCD 0x40 0x3F80).x = 9 := by decide +kernel
/-- R55's worked call: a slide of 16 in a budget of 64. -/
theorem test_call :
    ((after (.callExt (ext 1) 64 (some 16)) (world (fun g => { deep g with bud := 64, w := { (deep g).w with wslim := 0x22000 } }) id id)).bind
      fun s => (groupOf s 0 0).map fun g =>
        (g.w.wsp.toNat - 0x20010, g.w.wb, g.i.hold, physOf g 4, physOf g 50, g.r.pc)) =
      some (0x1010, 16, 20, 20, 2, 0x10100) := by decide +kernel

/-- R51: MOD 2 of a CALLX is a slide of 16, and bit 5 a slide by FRSZ. -/
theorem test_callx_slide :
    long 0x80800002 0x00040000 0 = some (.callx (ext 0) 4 0 (some 16)) ∧
    long 0x80800020 0x00040000 0 = some (.callx (ext 0) 4 0 none) := by decide

/-- A word of memory at an address of the ordinary page, with an operation of the group in flight. -/
def memOp (k : OpKind) (n v : Nat) : State := { withOp k with mem := memPut w0.mem 0x170000 n v }
def lane7 (l : Nat) (b : BitVec 128) : LaneAcc := ⟨l, 0x20000, b, 0, good7⟩
/-- R116's worked atomics: lanes 0, 1 and 2 add 1, 2 and 4 to a word that holds 10. -/
theorem test_atom :
    ((after (.longLatencyCompletion 7 false)
        (memOp (.atom .add false ⟨0, 0⟩ (.v [3]) [lane7 0 1, lane7 1 2, lane7 2 4] 0) 4 10)).bind fun s =>
      (groupOf s 0 0).map fun g => (memNat s.mem 0x170000 4, (List.range 3).map fun l => vget (vget g.r.v 3) l)) =
      some (17, [10, 11, 13]) := by decide +kernel
/-- R127's worked counter: 6 + 2, its poison, and what a waiter for 8 then finds. -/
theorem test_counter :
    ((after (.longLatencyCompletion 7 false) (memOp (.cadd none false (lane7 0 2)) 8 6)).map fun s => memNat s.mem 0x170000 8) =
      some 8 ∧
    ((after (.longLatencyCompletion 7 false) (memOp (.cadd none true (lane7 0 0)) 8 6)).map fun s => memNat s.mem 0x170000 8) =
      some 0x8000000000000006 ∧
    ((after (.longLatencyCompletion 7 false) (memOp (.cwaitge none 2 (lane7 0 8)) 8 8)).bind fun s =>
      (groupOf s 0 0).map fun g => vget g.r.sp 2) = some false ∧
    ((after (.longLatencyCompletion 7 false) (memOp (.cwaitge none 2 (lane7 0 8)) 8 0x8000000000000006)).bind fun s =>
      (groupOf s 0 0).map fun g => vget g.r.sp 2) = some true := by decide +kernel
/-- R109: a load completes with the bytes of its address, little-endian. -/
theorem test_load :
    ((after (.longLatencyCompletion 7 false) (memOp (load7 good7) 4 0x12345678)).bind fun s =>
      (groupOf s 0 0).map fun g => vget (vget g.r.v 0) 0) = some 0x12345678 := by decide +kernel
/-- R204's worked sum: 2^24 and 1 in one group, 1 in the next. -/
theorem test_mma_sum :
    let f : MForm := ⟨.f16, .f16, 64, 0, 0, false, false, false, false, 0, 0, 0, none⟩
    let rd (a n : Nat) : List Byte := slice (bytesOfNat 2 0x6C00 ++ bytesOfNat 2 0x3C00 ++ bytesOfNat 28 0 ++ bytesOfNat 2 0x3C00) a n
    mmaElem f (.pitch 0) 0 rd rd 0x00010003 false none 0 0 = 0x4B800000 ∧
    mmaElem f (.pitch 0) 0 rd rd 0x00010003 true none 0 0 = 0xCB800000 := by decide +kernel
/-- R279's and R280's example grid: T0 = −2.0, h = 1, G = 4, clamped. -/
theorem test_knot :
    knotOf 0x00000400C0000000 = some ⟨false, 4, 0, 0xC0000000⟩ ∧
    (knotOf 0x00000400C0000000).map (fun k => (k.nb, k.pad, k.inputs)) = some (7, 8, 8) := by decide

/-- A register of the arithmetic thread after its instruction. -/
def zAfter (i : Instr) (l : List (Nat × Word)) (d : Nat) : Option (Word × Bool) :=
  (after i (zS true (fun z => { z with e := l.foldl (fun v p => vset v p.1 p.2) z.e }) id)).bind fun s =>
    (unitOf s 0).run.map fun z => (vget z.e d, z.sati)
/-- R345's and R346's examples. -/
theorem test_zdot8_zdq :
    zAfter (.zdot8 true false 4 8 9) [(8, 0x807F02FF), (9, 0x02030405), (4, 0x7FFFFFF0)] 4 = some (0x7FFFFFFF, true) ∧
    zAfter (.zdot8 false false 4 8 9) [(8, 0x807F02FF), (9, 0x02030405), (4, 0x7FFFFFF0)] 4 = some (0x80000070, false) ∧
    zAfter (.zdq 2 1 5 6 7 8) [(6, 0xB0), (7, 0x3E000000), (8, 0x40400000)] 5 = some (0xBF800000, false) := by decide +kernel
/-- R410, R413's example: host 7 holds term 3 and sends LAUNCH as its command 17 on queue 2 of context 5. -/
theorem test_kdp_header :
    headerOf ([0x44, 0x4B, 1, 0, 0x20, 0, 8, 0, 7, 0, 0, 0, 0x85, 0, 0, 0, 3, 0, 0, 0, 0, 0, 0, 0, 0x11, 0, 0, 0, 0, 0, 0, 0] ++
        List.replicate 8 0) =
      { magic := 0x4B44, ver := 1, type := 0, cmd := 0x20, len := 8, host := 7, ctx := 5, queue := 2, zero := 0, status := 0
        term := 3, seq := 17, bytes := 8 } := by decide +kernel
/-- R414: the first CLAIM takes the lease with TERM 1 for 2 s. -/
theorem test_claim :
    (after (.claim (kdp 1 0)) (hS (lease 0 0 0))).map (fun s => (s.host.lease.owner, s.host.lease.term, s.host.lease.expiry)) =
      some (1, 1, 2000000000) := by decide +kernel

/-- A device with its fabric trained, on which device 1 has a unit with tag 5 admitted, and what a peer sends to it. -/
def podS (f : Deferred → Deferred) : State :=
  { w0 with firm := { w0.firm with powered := true, step := 7 }
            defer := f { w0.defer with foreign := [⟨1, 5, 100, 0, none⟩] } }
def hears (s : State) (m : PeerMsg) : Option State :=
  match step { s with agenda := [.message 1 m] } with
  | .next s' => some s'
  | .fault _ | .refused _ => none
/-- R162, R163: a peer's COMMIT.POD number 1 covers its record of epoch 0, and not one of epoch 1 or of this device. -/
theorem test_peer_apply :
    let r : DRec := { rec0 with tag := 5, src := 1, value := 0x11 }
    (hears (podS fun d => { d with thallus := [((0, 3),
        ⟨[r, { r with ep := 1, value := 0x22 }, { r with src := 0, value := 0x33 }], [], [], []⟩)] })
      (.apply ⟨9, 3, false, 1, [5], [], 0, none⟩ [])).map (fun s =>
        (memNat s.mem 0x180000 4, (thallusOf s (0, 3)).staged.length, (thallusOf s (0, 3)).rows.length)) =
      some (0x11, 2, 1) := by decide +kernel
/-- R167: a peer's unit is admitted up to 557,056 records in all, and no further. -/
theorem test_peer_admit :
    (hears (podS id) (.admission 6 556956 none)).isSome = true ∧ (hears (podS id) (.admission 6 556957 none)).isNone = true := by decide +kernel
/-- R331: a peer's census of a pod grid that runs here is followed under its own identifier, and takes none of this
device's slots. -/
theorem test_peer_census :
    let g := (w0.work.grids ++ [newGrid 5 0 (lrecOf []) 0 none none none none]).map fun g =>
      { g with podNo := some 0, tag := some 0 }
    let s := podS id
    (hears { s with work := { s.work with grids := g }
                    ctl := { s.ctl with ctxs := s.ctl.ctxs.map fun c => { c with pod := [0, 1] } } }
      (.census ⟨0x40101, 0, 0, none, 0, 7, 7, 0x10000, 0, 2⟩)).map (fun s =>
        (s.cen.open'.map (fun c => (c.ident, c.ready, c.peer.isSome)), freeSlot s)) =
      some ([(0x40101, true, true)], some 0) := by decide +kernel

end Sys2Proof.Tests
end

section
/-!
SUPPORT. NOP and the branches (R43, R47 to R49, R56), and the statement about them that stands in the obligations.
-/

namespace Sys2Proof.Proofs.Control

open Sys2Proof Sys2Proof.Machine

/-! ### Issue clocks -/

/-- A group never issues before its hold ends (R49). -/
theorem hold_le_issueU (i : Iss) (s : State) (t : Team) (g : Group) : g.i.hold ≤ issueU i s t g := by
  simp only [issueU, issueClock]
  omega

/-- A group never issues sooner than max(DIST, 1) after its previous issue (R25). -/
theorem dist_le_issueU (i : Iss) (s : State) (t : Team) {g : Group} {l : Nat} (hl : g.i.last = some l) :
    l + max i.h.dist 1 ≤ issueU i s t g := by
  simp only [issueU, issueClock, hl]
  omega

/-! ### An issue that writes nothing -/

@[simp] theorem undoAdd_nil (l : List Undo) : undoAdd l [] = l := rfl

@[simp] theorem logWrs_nil (dbg : Bool) (u : Nat) (pc : Dword) (k : Nat) (g : Group) : logWrs dbg u pc k [] g = g := by
  cases dbg <;> rfl

/-- A fixed-latency instruction with no writes leaves its issue alone, whatever its latency. -/
theorem afterFixed_nil (i : Iss) (s : State) (t : Team) (g : Group) (lat : Nat) :
    afterFixed i s t g lat [] = afterIssue i s t g (ctlAt i s t g).next 0 id [] := by
  have h : writesAt i s t g lat [] = id := by
    funext y
    simp [writesAt]
  rw [afterFixed, h]

/-- A ready group's instruction that does nothing of its own only issues. -/
theorem issue_idle {i : Iss} {s : State} {t : Team} {g : Group} (h : Ready i s t g) (ho : TakesEffect i s t g) :
    issue i (fun _ s1 => .done s1) s = .next (afterIssue i s t g (ctlAt i s t g).next 0 id []) := by
  rw [issue_ready h.toCanIssue ho, ← done_group h id (fun _ => rfl), updGroup_id]

/-- A group that can issue is not a matrix stream. -/
theorem onStream_of_canIssue {i : Iss} {s : State} {t : Team} {g : Group} (h : CanIssue i s t g) :
    onStream s = false := by
  simp [onStream, h.cur]

theorem exec_nop (h : Hdr) (s : State) : exec (.nop h) s = execNop h s := rfl

/-- NOP counts as an issue and does nothing else (R56). -/
theorem nop_writes_nothing (h : Hdr) : Writes (ctlIss "NOP" h) 0 (.nop h) (fun _ => []) := by
  intro s t g hr ho
  rw [exec_nop, execNop, onStream_of_canIssue hr.toCanIssue, afterFixed_nil]
  exact issue_idle hr ho

/-! ### Relative branches -/

/-- R48, R49: `x` is a relative branch with offset `off` that is taken where `take` holds. -/
def Branch (row : String) (h : Hdr) (x : Instr) (off : Int) (take : Ctl → Bool) : Prop :=
  GoesTo (ctlIss row h) x (fun c => if take c then relTgt c.pc off else c.next) (fun c => if take c then c.u + 4 else 0)

theorem branch_goesTo {row : String} {h : Hdr} {x : Instr} {off : Int} {take : Ctl → Bool}
    (hx : ∀ s, exec x s = branch row h off take s) : Branch row h x off take :=
  goesTo_of take (fun c => relTgt c.pc off) (fun c => c.u + 4) hx (fun _ => rfl) (fun _ => rfl)

/-- A mask has no lane outside another exactly where the other leaves it whole. -/
theorem and_not_eq_zero_iff {w : Nat} (m k : BitVec w) : m &&& ~~~k = 0#w ↔ m &&& k = m := by
  simp [BitVec.eq_of_getElem_eq_iff]

/-- BRALL's condition says that the predicate covers the execution mask (R48). -/
theorem takeAll_eq (p : Nat) (neg : Bool) : takeAll p neg = fun c => c.em &&& brPred p neg c == c.em := by
  funext c
  rw [takeAll, Bool.eq_iff_iff, beq_iff_eq, beq_iff_eq]
  exact and_not_eq_zero_iff _ _

theorem brall_goesTo {row : String} {h : Hdr} {x : Instr} {p : Nat} {neg : Bool} {off : Int}
    (hx : ∀ s, exec x s = branch row h off (takeAll p neg) s) :
    Branch row h x off fun c => c.em &&& brPred p neg c == c.em := by
  rw [← takeAll_eq]
  exact branch_goesTo hx

/-! ### BRX -/

/-- The address that BRX goes to (R48). -/
def brxTgt (a : Nat) (off : Int) (c : Ctl) : Dword := c.s a + BitVec.ofInt 64 off

/-- An address that a group may not jump to: no multiple of 4, or not below 2^56 (R48). -/
theorem pcBad_iff (x : Dword) : pcBad x = true ↔ x.toNat % 4 ≠ 0 ∨ 2 ^ 56 ≤ x.toNat := by
  simp [pcBad]

theorem pcBad_eq_false_iff (x : Dword) : pcBad x = false ↔ x.toNat % 4 = 0 ∧ x.toNat < 2 ^ 56 := by
  rw [← Bool.not_eq_true, pcBad_iff, not_or, not_not, not_le]

/-- BRX's own part: it traps where its target is refused, and jumps otherwise. -/
def brxBody (a : Nat) (off : Int) (c : Ctl) (s : State) : Body :=
  if pcBad (brxTgt a off c) then .trap { cause := .pcbad, mask := c.em } else .jump s (brxTgt a off c) (c.u + 6)

theorem exec_brx (h : Hdr) (a : Nat) (off : Int) (s : State) :
    exec (.brx h a off) s = issue (ctlIss "BRX" h) (brxBody a off) s := rfl

/-- To an address that it accepts BRX jumps, and holds the next issue 6 ck (R48, R49). -/
theorem brx_jumps {h : Hdr} {a : Nat} {off : Int} {s : State} {t : Team} {g : Group}
    (hr : Ready (ctlIss "BRX" h) s t g) (ho : TakesEffect (ctlIss "BRX" h) s t g)
    (hok : pcBad (brxTgt a off (ctlAt (ctlIss "BRX" h) s t g)) = false) :
    exec (.brx h a off) s = .next (afterIssue (ctlIss "BRX" h) s t g (brxTgt a off (ctlAt (ctlIss "BRX" h) s t g))
      ((ctlAt (ctlIss "BRX" h) s t g).u + 6) id []) := by
  rw [exec_brx, issue_ready hr.toCanIssue ho, ← done_group hr id (fun _ => rfl), updGroup_id]
  simp [brxBody, hok]

/-- On any other address BRX traps PCBAD before any effect (R48). -/
theorem brx_traps (h : Hdr) (a : Nat) (off : Int) :
    TrapsWith (ctlIss "BRX" h) (.brx h a off) (fun c _ => pcBad (brxTgt a off c) = true) .pcbad :=
  traps_of (brxBody a off) (exec_brx h a off) fun _ _ hbad => if_pos hbad

/-! ### The statement -/

/-- Settles O5: each relative branch is the model's `branch` at its own condition, NOP an issue without writes, BRX a jump
or a trap as `pcBad` says of its target, and the issue clock a maximum over the hold and the DIST. -/
theorem branches : Obligations.Branches := by
  intro h p a neg off
  exact ⟨branch_goesTo fun _ => rfl, branch_goesTo fun _ => rfl, branch_goesTo fun _ => rfl, branch_goesTo fun _ => rfl,
    brall_goesTo fun _ => rfl, brall_goesTo fun _ => rfl, branch_goesTo fun _ => rfl, branch_goesTo fun _ => rfl,
    nop_writes_nothing h,
    fun _ _ _ hr ho halign hlow => brx_jumps hr ho ((pcBad_eq_false_iff _).mpr ⟨halign, hlow⟩),
    fun s t g hr ho hbad => brx_traps h a off s t g hr ho ((pcBad_iff _).mpr hbad),
    fun i s t _ => ⟨hold_le_issueU i s t _, fun _ hl => dist_le_issueU i s t hl⟩, by decide⟩

end Sys2Proof.Proofs.Control
end

section
/-!
SUPPORT. VPRFX and VBMAND (R84, R85): what a lane of a vector and a bit of a predicate hold after a write in the active
lanes, and the two statements about them that stand in the obligations.
-/

namespace Sys2Proof.Proofs.Vector

open Sys2Proof Sys2Proof.Machine

/-- An instruction that is the model's `fixed` with writes `ws` makes those writes and no others. -/
theorem writes_of {i : Iss} {lat : Nat} {x : Instr} {ws : Ctl → List RegWr} (hx : ∀ s, exec x s = fixed i lat ws s) :
    Writes i lat x ws := by
  intro s t g hr ho
  rw [hx, fixed_ready hr ho]

/-! ### Prefix sums over the active lanes -/

/-- R84: `prefixOf` is the sum of the popcounts of the lanes that count for a lane. -/
theorem prefixOf_eq_sum (incl : Bool) (act : Mask) (x : VReg) (l : Nat) :
    prefixOf incl act x l =
      (((lanesOf act).filter fun k => decide (k < l) || (incl && k == l)).map fun k =>
        popcount 32 (vget x k).toNat).sum := by
  rw [prefixOf, List.sum_eq_foldl, List.foldl_map]

/-- A sum modulo 2^32 is the sum of the operand's bits 31:0 and the other as a word. -/
theorem ofNat_low_add (x : Dword) (n : Nat) :
    BitVec.ofNat 32 (x.toNat % 2 ^ 32 + n) = x.setWidth 32 + BitVec.ofNat 32 n := by
  apply BitVec.eq_of_toNat_eq
  simp

/-- Settles O16: VPRFX is the model's vector write of s_b's low word plus `prefixOf`, which is a sum of popcounts. -/
theorem vectorPrefix : Obligations.VectorPrefix := by
  intro h incl d a b
  refine writes_of fun s => ?_
  simp only [ofNat_low_add, Ctl.lane, ← prefixOf_eq_sum]
  rfl

/-! ### Writes in the lanes of a mask -/

theorem vget_vset_same {α : Type} {n : Nat} [NeZero n] (v : Vector α n) (k : Nat) (x : α) : vget (vset v k x) k = x := by
  simp [vget, vset]

theorem vget_vgen {α : Type} {n : Nat} [NeZero n] (f : Nat → α) {l : Nat} (hl : l < n) :
    vget (vgen f : Vector α n) l = f l := by
  simp [vget, vgen, Nat.mod_eq_of_lt hl]

/-- A vector write takes the new word in the lanes of its mask and keeps the old one in the others (R45). -/
theorem vget_mergeV (m : Mask) (old new : VReg) {l : Nat} (hl : l < 64) :
    vget (mergeV m old new) l = if m.getLsbD l then vget new l else vget old l :=
  vget_vgen _ hl

/-- A predicate write takes the new bit in the lanes of its mask and keeps the old one in the others (R45). -/
theorem getLsbD_mergeP (m old new : Mask) {l : Nat} (hl : l < 64) :
    (mergeP m old new).getLsbD l = if m.getLsbD l then new.getLsbD l else old.getLsbD l := by
  rw [mergeP, BitVec.getLsbD_or, BitVec.getLsbD_and, BitVec.getLsbD_and, BitVec.getLsbD_not, decide_eq_true hl]
  cases m.getLsbD l <;> simp

/-- The word that stands for one lane has that lane's bit and no other. -/
theorem getLsbD_laneBit (i : Nat) {l : Nat} (hl : l < 64) : (1#64 <<< i).getLsbD l = decide (l = i) := by
  have hbit : (1#64 <<< i).getLsbD l = (decide (i < 64) && decide (i = l)) := BitVec.getLsbD_twoPow i l
  rw [hbit]
  rcases eq_or_ne l i with rfl | hne
  · simp [hl]
  · simp [hne, hne.symm]

/-- Setting the bits of a list of lanes one by one sets those and keeps the others. -/
theorem getLsbD_foldl_setBit (ls : List Nat) (m : Mask) {l : Nat} (hl : l < 64) :
    (ls.foldl (fun m i => m ||| (1#64 <<< i)) m).getLsbD l = (m.getLsbD l || decide (l ∈ ls)) := by
  induction ls generalizing m with
  | nil => simp
  | cons i ls ih =>
    rw [List.foldl_cons, ih, BitVec.getLsbD_or, getLsbD_laneBit i hl, Bool.or_assoc]
    simp

/-- The mask of a list of lanes has the bits of exactly those lanes. -/
theorem getLsbD_maskOf (ls : List Nat) {l : Nat} (hl : l < 64) : (maskOf ls).getLsbD l = decide (l ∈ ls) := by
  rw [maskOf, getLsbD_foldl_setBit ls 0 hl]
  simp

/-- A lane stands in the mask of nonzero lanes exactly where its word is nonzero (R85). -/
theorem getLsbD_nonzeroLanes (f : Nat → BitVec 32) {l : Nat} (hl : l < 64) :
    (nonzeroLanes f).getLsbD l = (f l != 0) := by
  rw [nonzeroLanes, getLsbD_maskOf _ hl, Bool.eq_iff_iff]
  simp [hl]

/-! ### A vector write and a predicate write together -/

section
variable (y : Group) (n p : Nat) (m q : Mask) (x : VReg)

/-- A predicate write after a vector write leaves the written register as the vector write does. -/
theorem applyWrs_v_p_vector : vget (applyWrs y [.v n m x, .p p m q]).r.v n = mergeV m (vget y.r.v n) x :=
  vget_vset_same _ _ _

/-- A vector write before a predicate write does not meet the predicate. -/
theorem applyWrs_v_p_predicate : vget (applyWrs y [.v n m x, .p p m q]).r.p p = mergeP m (vget y.r.p p) q :=
  vget_vset_same _ _ _

end

/-! ### VBMAND -/

/-- The AND of two registers in a lane (R85). -/
def laneAnd (c : Ctl) (a b l : Nat) : BitVec 32 := c.lane a l &&& c.lane b l

/-- VBMAND's writes: the AND of each lane, and in the predicate whether it is nonzero (R85). -/
def vbmandWrs (d p a b : Nat) (c : Ctl) : List RegWr :=
  [wrV c d (laneAnd c a b), .p p c.act (nonzeroLanes (laneAnd c a b))]

theorem vbmand_writes (h : Hdr) (d p a b : Nat) :
    Writes (vecFacts "VBMAND" h [d, a, b]) 4 (.vbmand h d p a b) (vbmandWrs d p a b) :=
  writes_of fun _ => rfl

/-- VBMAND's writes leave the AND in an active lane, and an inactive lane of v_d as it was. -/
theorem vbmandWrs_vector (d p a b : Nat) (c : Ctl) (y : Group) {l : Nat} (hl : l < 64) :
    vget (vget (applyWrs y (vbmandWrs d p a b c)).r.v (physOf c.g d)) l =
      if c.act.getLsbD l then laneAnd c a b l else vget (vget y.r.v (physOf c.g d)) l := by
  rw [vbmandWrs, wrV, applyWrs_v_p_vector, vget_mergeV _ _ _ hl, vget_vgen _ hl]

/-- VBMAND's writes leave in an active lane's bit of p_c whether the AND is nonzero, and an inactive lane's bit as it
was. -/
theorem vbmandWrs_predicate (d p a b : Nat) (c : Ctl) (y : Group) {l : Nat} (hl : l < 64) :
    (vget (applyWrs y (vbmandWrs d p a b c)).r.p p).getLsbD l =
      if c.act.getLsbD l then laneAnd c a b l != 0 else (vget y.r.p p).getLsbD l := by
  rw [vbmandWrs, wrV, applyWrs_v_p_predicate, getLsbD_mergeP _ _ _ hl, getLsbD_nonzeroLanes _ hl]

/-- Settles O17: a lane instruction always takes effect, so VBMAND makes `vbmandWrs`, whose two writes merge under the
active lanes into v_d and p_c. -/
theorem vectorBooleanMatrix : Obligations.VectorBooleanMatrix := by
  intro h d p a b s t g i c hr
  have heffect : TakesEffect i s t g := .inl rfl
  exact ⟨vbmandWrs d p a b c, vbmand_writes h d p a b s t g hr heffect,
    fun y _ hl => ⟨vbmandWrs_vector d p a b c y hl, vbmandWrs_predicate d p a b c y hl⟩⟩

end Sys2Proof.Proofs.Vector
end

section
/-!
SUPPORT. The words of Rhizoid threads (R335 to R347): the fields of a word in each format, and the round trip between
`encodeZ` and the two decoders.
-/

namespace Sys2Proof.Proofs.RhizoidWords

open Sys2Proof

/-! ### Verdicts -/

theorem judge_eq_ok_iff {rsv fld : Bool} {i j : Instr} : judge rsv fld i = .ok j ↔ rsv = false ∧ fld = false ∧ i = j := by
  cases rsv <;> cases fld <;> simp [judge]

/-! ### The fields of an encoded word -/

theorem zFields_encZR {d a b c fn : Nat} (opc : Nat) (hopc : opc < 64) (hd : d < 32) (ha : a < 32) (hb : b < 32)
    (hc : c < 32) (hfn : fn < 64) :
    zFields (encZR opc d a b c fn) =
      { opc := opc, d := d, a := a, b := b, c := c, fn := fn, imm := b * 2 ^ 11 + c * 2 ^ 6 + fn, w := d / 8, r3 := d % 8,
        r5 := a } := by
  simp only [zFields, encZR, bitsAt, ZF.mk.injEq]
  omega

theorem zFields_encZI {d a : Nat} (opc : Nat) (i : BitVec 16) (hopc : opc < 64) (hd : d < 32) (ha : a < 32) :
    zFields (encZI opc d a i) =
      { opc := opc, d := d, a := a, b := i.toNat / 2 ^ 11, c := i.toNat / 2 ^ 6 % 2 ^ 5, fn := i.toNat % 2 ^ 6,
        imm := i.toNat, w := d / 8, r3 := d % 8, r5 := a } := by
  have hi := i.isLt
  simp only [zFields, encZI, bitsAt, ZF.mk.injEq]
  omega

theorem zFields_encZM {w a : Nat} (opc : Nat) (i : BitVec 16) (hopc : opc < 64) (hw : w < 4) (ha : a < 32) :
    zFields (encZM opc w a i) =
      { opc := opc, d := w * 8, a := a, b := i.toNat / 2 ^ 11, c := i.toNat / 2 ^ 6 % 2 ^ 5, fn := i.toNat % 2 ^ 6,
        imm := i.toNat, w := w, r3 := 0, r5 := a } := by
  have hi := i.isLt
  simp only [zFields, encZM, bitsAt, ZF.mk.injEq]
  omega

/-! ### From the instruction to its word and back -/

/-- A word decodes to an instruction in its own thread's half of the opcodes (R336). -/
def ZDecodes (w : Nat) (i : Instr) : Prop :=
  w < 2 ^ 32 ∧ (if w < 2 ^ 31 then decodeZaddr w else decodeZarith w) = .ok i

theorem zDecodes_of_addr {w : Nat} {i : Instr} (hw : w < 2 ^ 31) (hd : decodeZaddr w = .ok i) : ZDecodes w i :=
  ⟨by omega, by rw [if_pos hw, hd]⟩

theorem zDecodes_of_arith {w : Nat} {i : Instr} (hlo : 2 ^ 31 ≤ w) (hhi : w < 2 ^ 32) (hd : decodeZarith w = .ok i) :
    ZDecodes w i :=
  ⟨hhi, by rw [if_neg (by omega), hd]⟩


theorem encZR_addr {opc d a b c fn : Nat} {i : Instr} (hopc : opc < 32) (hd : d < 32) (ha : a < 32) (hb : b < 32)
    (hc : c < 32) (hfn : fn < 64) (h : decodeZaddr (encZR opc d a b c fn) = .ok i) : ZDecodes (encZR opc d a b c fn) i :=
  zDecodes_of_addr (by simp only [encZR]; omega) h

theorem encZR_arith {opc d a b c fn : Nat} {i : Instr} (hlo : 32 ≤ opc) (hhi : opc < 64) (hd : d < 32) (ha : a < 32)
    (hb : b < 32) (hc : c < 32) (hfn : fn < 64) (h : decodeZarith (encZR opc d a b c fn) = .ok i) :
    ZDecodes (encZR opc d a b c fn) i :=
  zDecodes_of_arith (by simp only [encZR]; omega) (by simp only [encZR]; omega) h

theorem encZI_addr {opc d a : Nat} {c : BitVec 16} {i : Instr} (hopc : opc < 32) (hd : d < 32) (ha : a < 32)
    (h : decodeZaddr (encZI opc d a c) = .ok i) : ZDecodes (encZI opc d a c) i :=
  zDecodes_of_addr (by simp only [encZI]; omega) h

theorem encZI_arith {opc d a : Nat} {c : BitVec 16} {i : Instr} (hlo : 32 ≤ opc) (hhi : opc < 64) (hd : d < 32)
    (ha : a < 32) (h : decodeZarith (encZI opc d a c) = .ok i) : ZDecodes (encZI opc d a c) i :=
  zDecodes_of_arith (by simp only [encZI]; omega) (by simp only [encZI]; omega) h

theorem encZM_addr {opc w a : Nat} {c : BitVec 16} {i : Instr} (hopc : opc < 32) (hw : w < 4) (ha : a < 32)
    (h : decodeZaddr (encZM opc w a c) = .ok i) : ZDecodes (encZM opc w a c) i :=
  zDecodes_of_addr (by simp only [encZM]; omega) h

@[simp] theorem bitAt_bit (x : Bool) : bitAt (bit x) 0 = x := by cases x <;> rfl

@[simp] theorem bitAt_bit_add_zero (x y : Bool) : bitAt (bit x + bit y * 2) 0 = x := by cases x <;> cases y <;> rfl

@[simp] theorem bitAt_bit_add_one (x y : Bool) : bitAt (bit x + bit y * 2) 1 = y := by cases x <;> cases y <;> rfl

theorem bit_lt (x : Bool) : bit x < 2 := by cases x <;> decide

/-- A well-formed instruction's word decodes to it, in the half of the opcodes of its own thread. -/
theorem zDecodes_of_encodeZ {i : Instr} {w : Nat} (hwf : i.wf = true) (he : encodeZ i = some w) : ZDecodes w i := by
  cases i with
  | zaend | zunlkAll | zeend => cases he; exact ⟨by decide, by rfl⟩
  | zabra o =>
    cases he
    refine encZI_addr (by omega) (by omega) (by omega) ?_
    simp (disch := omega) only [decodeZaddr, zFields_encZI]
    simp [judge_eq_ok_iff]
  | zalui | zaaddi | zadbnz =>
    cases he
    delta Instr.wf at hwf
    simp only [lt, Bool.and_eq_true, decide_eq_true_eq] at hwf
    refine encZI_addr (by omega) (by omega) (by omega) ?_
    simp (disch := omega) only [decodeZaddr, zFields_encZI]
    simp [judge_eq_ok_iff]
    omega
  | zaadd d a b =>
    cases he
    delta Instr.wf at hwf
    simp only [lt, Bool.and_eq_true, decide_eq_true_eq] at hwf
    refine encZR_addr (by omega) (by omega) (by omega) (by omega) (by omega) (by omega) ?_
    simp (disch := omega) only [decodeZaddr, zFields_encZR]
    simp [judge_eq_ok_iff]
    omega
  | zld w a | zst w a | zlock w a | zunlk w a =>
    cases he
    delta Instr.wf at hwf
    simp only [lt, Bool.and_eq_true, decide_eq_true_eq] at hwf
    refine encZM_addr (by omega) (by omega) (by omega) ?_
    simp (disch := omega) only [decodeZaddr, zFields_encZM]
    simp [judge_eq_ok_iff]
    omega
  | zwpair ap at' as n wp wt word =>
    cases he
    delta Instr.wf at hwf
    simp only [lt, Bool.and_eq_true, decide_eq_true_eq] at hwf
    obtain ⟨⟨⟨⟨⟨⟨hap, hat⟩, has⟩, hpos⟩, hn⟩, hwp⟩, hwt⟩ := hwf
    have hn32 : n ≤ 32 := hn.trans (by split <;> omega)
    have hb := bit_lt word
    refine encZR_addr (by omega) (by omega) (by omega) (by omega) (by omega) (by omega) ?_
    simp (disch := omega) only [decodeZaddr, zFields_encZR]
    cases word <;> simp [judge_eq_ok_iff, bitAt, bitsAt, bit] at hn ⊢ <;> omega
  | zelui | zeori | zebra | zedbnz =>
    cases he
    delta Instr.wf at hwf
    simp only [lt, Bool.and_eq_true, decide_eq_true_eq] at hwf
    refine encZI_arith (by omega) (by omega) (by omega) (by omega) ?_
    simp (disch := omega) only [decodeZarith, zFields_encZI]
    simp [judge_eq_ok_iff]
  | zpop | zpush =>
    cases he
    delta Instr.wf at hwf
    simp only [Bool.or_eq_true, beq_iff_eq] at hwf
    refine encZR_arith (by omega) (by omega) (by omega) (by omega) (by omega) (by omega) (by omega) ?_
    simp (disch := omega) only [decodeZarith, zFields_encZR]
    simp [judge_eq_ok_iff]
    omega
  | zfadd | zfsub | zfmul | zfma | zfmin | zfmax | zfsqrt | zfrsq | zpack | zimulw =>
    cases he
    delta Instr.wf at hwf
    simp only [lt, Bool.and_eq_true, decide_eq_true_eq, beq_iff_eq] at hwf
    refine encZR_arith (by omega) (by omega) (by omega) (by omega) (by omega) (by omega) (by omega) ?_
    simp (disch := omega) only [decodeZarith, zFields_encZR]
    simp [judge_eq_ok_iff, hwf]
  | ziadd x | zunpk x =>
    cases he
    delta Instr.wf at hwf
    simp only [lt, Bool.and_eq_true, decide_eq_true_eq] at hwf
    have hx := bit_lt x
    refine encZR_arith (by omega) (by omega) (by omega) (by omega) (by omega) (by omega) (by omega) ?_
    simp (disch := omega) only [decodeZarith, zFields_encZR]
    simp [judge_eq_ok_iff, hx]
  | zdot8 x y | zdot4 x y =>
    cases he
    delta Instr.wf at hwf
    simp only [lt, Bool.and_eq_true, decide_eq_true_eq] at hwf
    have hx := bit_lt x
    have hy := bit_lt y
    refine encZR_arith (by omega) (by omega) (by omega) (by omega) (by omega) (by omega) (by omega) ?_
    simp (disch := omega) only [decodeZarith, zFields_encZR]
    simp [judge_eq_ok_iff]
    omega
  | zdq kind k d a b c =>
    cases he
    delta Instr.wf at hwf
    simp only [lt, decide_eq_true_eq, Bool.and_eq_true, Bool.or_eq_true, bne_iff_ne, beq_iff_eq] at hwf
    refine encZR_arith (by omega) (by omega) (by omega) (by omega) (by omega) (by omega) (by omega) ?_
    simp (disch := omega) only [decodeZarith, zFields_encZR]
    have hkind : (kind + k * 4) % 4 = kind := by omega
    have hk : bitsAt (kind + k * 4) 2 3 = k := by simp only [bitsAt]; omega
    have hbit : bitAt (kind + k * 4) 5 = false := by simp only [bitAt, beq_eq_false_iff_ne]; omega
    simp [judge_eq_ok_iff, hkind, hk, hbit]
    omega
  | _ => cases he

/-! ### From the word to its instruction and back -/

/-- A bit that is read comes back as it was. -/
@[simp] theorem bit_mod_two (n : Nat) : bit (n % 2 == 1) = n % 2 := by
  rcases Nat.mod_two_eq_zero_or_one n with h | h <;> simp [h, bit]

/-- A word that the address thread accepts is the word of the instruction it decodes to. -/
theorem encodeZ_of_decodeZaddr {w : Nat} {i : Instr} (hw : w < 2 ^ 32) (h : decodeZaddr w = .ok i) : encodeZ i = some w := by
  simp only [decodeZaddr] at h
  split at h
  case h_13 => cases h
  all_goals
    rename_i hopc
    obtain ⟨hrsv, hfld, rfl⟩ := judge_eq_ok_iff.mp h
    refine congrArg some ?_
    simp [zFields, bitsAt, bitAt, encZI, encZR, encZM] at hopc hrsv hfld ⊢
    omega

/-- A word that the arithmetic thread accepts is the word of the instruction it decodes to. -/
theorem encodeZ_of_decodeZarith {w : Nat} {i : Instr} (hw : w < 2 ^ 32) (h : decodeZarith w = .ok i) : encodeZ i = some w := by
  simp only [decodeZarith] at h
  split at h
  case h_3 hopc =>
    cases h
    refine congrArg some ?_
    simp [zFields, bitsAt, encZI] at hopc ⊢
    omega
  case h_23 => cases h
  all_goals
    rename_i hopc
    obtain ⟨hrsv, hfld, rfl⟩ := judge_eq_ok_iff.mp h
    refine congrArg some ?_
    simp [zFields, bitsAt, bitAt, encZI, encZR] at hopc hrsv hfld ⊢
    omega

/-- Settles O57: the fields that each decoder reads are the operands that `encodeZ` put there, and the fields that an
instruction does not use are zero in a word that decodes. -/
theorem rhizoidRoundTrip : Obligations.RhizoidRoundTrip :=
  ⟨fun _ _ => zDecodes_of_encodeZ, fun _ _ hw h => h.elim (encodeZ_of_decodeZaddr hw) (encodeZ_of_decodeZarith hw)⟩

end Sys2Proof.Proofs.RhizoidWords
end

section
/-!
SUPPORT. Uniform instructions, the execution mask, predicate logic, lane operations and the issue of queue instructions
(R60 to R67, R70 to R74), and the statements about them that stand in the obligations.
-/

namespace Sys2Proof.Proofs.Uniform

open Sys2Proof Sys2Proof.Machine
open Sys2Proof.Proofs.Vector (writes_of getLsbD_laneBit)

/-! ### Writes in another form -/

/-- An instruction that is the model's `fixed` makes its writes in whatever form they are put. -/
theorem writes_of_eq {i : Iss} {lat : Nat} {x : Instr} {ws ws' : Ctl → List RegWr} (hx : ∀ s, exec x s = fixed i lat ws s)
    (he : ∀ c, ws c = ws' c) : Writes i lat x ws' := by
  rw [← funext he]
  exact writes_of hx

/-! ### Comparisons -/

/-- The relation "less than" is the signed or the unsigned order of words (R40). -/
theorem relBv_lt {w : Nat} (sg : Bool) (a b : BitVec w) : relBv .lt sg a b = if sg then a.slt b else a.ult b := by
  cases sg <;> simp [relBv, relInt, BitVec.slt, BitVec.ult]

theorem minMax_min (sg : Bool) (a b : Dword) :
    minMax false sg a b = if (if sg then a.slt b else a.ult b) then a else b := by
  simp [minMax, relBv_lt]

theorem minMax_max (sg : Bool) (a b : Dword) :
    minMax true sg a b = if (if sg then a.slt b else a.ult b) then b else a := by
  rw [minMax, relBv_lt]
  cases (if sg then a.slt b else a.ult b) <;> rfl

/-! ### ELECT -/

/-- The lowest one bit of a number below 2^n stands at `lowestOne`: the bit is set and no bit below it is. -/
theorem testBit_lowestOne {n w : Nat} (hw : w < 2 ^ n) (h0 : w ≠ 0) :
    w.testBit (lowestOne n w) = true ∧ ∀ j < lowestOne n w, w.testBit j = false := by
  induction n generalizing w with
  | zero => omega
  | succ n ih =>
    rw [lowestOne]
    split
    next hodd => exact ⟨by simp [hodd], by omega⟩
    next heven =>
      obtain ⟨hset, hclear⟩ := ih (w := w / 2) (by omega) (by omega)
      rw [Nat.add_comm]
      refine ⟨by rwa [Nat.testBit_succ], fun j hj => ?_⟩
      cases j with
      | zero => simpa using heven
      | succ j => rw [Nat.testBit_succ]; exact hclear j (by omega)

/-- The lowest lane of a mask, as R62 puts it: the mask AND its negation. -/
theorem lowLane_eq {m : Mask} (h : m ≠ 0) : lowLane m = m &&& (0 - m) := by
  obtain ⟨hset, hclear⟩ := testBit_lowestOne m.isLt fun e => h (BitVec.eq_of_toNat_eq e)
  change lowLane m = m &&& (0#64 - m)
  rw [BitVec.zero_sub]
  refine BitVec.eq_of_getLsbD_eq fun l hl => ?_
  rw [lowLane, getLsbD_laneBit _ hl, BitVec.getLsbD_and, BitVec.getLsbD_neg, decide_eq_true hl]
  rcases lt_trichotomy l (lowestOne 64 m.toNat) with hlt | rfl | hgt
  · have hbit : m.getLsbD l = false := hclear l hlt
    simp [hbit, hlt.ne]
  · have hbit : m.getLsbD (lowestOne 64 m.toNat) = true := hset
    have hlow : ¬ ∃ j < lowestOne 64 m.toNat, m.getLsbD j = true := by
      rintro ⟨j, hj, hjt⟩
      exact Bool.false_ne_true ((hclear j hj).symm.trans hjt)
    simp [hbit, hlow]
  · have hbit : ∃ j < l, m.getLsbD j = true := ⟨_, hgt, hset⟩
    simp [hbit, hgt.ne']


/-- Settles O1: each operation is the model's `fixed` with its result; SMIN and SMAX choose by `relBv`, which is the signed or
the unsigned order. -/
theorem uniformArithmetic : Obligations.UniformArithmetic := by
  intro h sg d a n b
  exact ⟨writes_of fun _ => rfl, writes_of fun _ => rfl, writes_of fun _ => rfl, writes_of fun _ => rfl,
    writes_of fun _ => rfl, writes_of fun _ => rfl, writes_of fun _ => rfl, writes_of fun _ => rfl,
    writes_of fun _ => rfl, writes_of fun _ => rfl, writes_of fun _ => rfl, writes_of fun _ => rfl,
    writes_of_eq (fun _ => rfl) fun _ => congrArg (fun r => [RegWr.s d r]) (minMax_min _ _ _),
    writes_of_eq (fun _ => rfl) fun _ => congrArg (fun r => [RegWr.s d r]) (minMax_max _ _ _)⟩

/-- Settles O2: each operation is the model's `fixed` with its result. -/
theorem uniformOther : Obligations.UniformOther := by
  intro h sg rel d a n p pos len sh b k w
  exact ⟨writes_of fun _ => rfl, writes_of fun _ => rfl, writes_of fun _ => rfl, writes_of fun _ => rfl,
    writes_of fun _ => rfl, writes_of fun _ => rfl, writes_of fun _ => rfl, writes_of fun _ => rfl,
    writes_of fun _ => rfl, writes_of fun _ => rfl, writes_of fun _ => rfl, writes_of fun _ => rfl⟩

/-- Settles O4: each operation is the model's `fixed` with its result; ELECT's lowest lane is the mask AND its negation. -/
theorem masksAndPredicates : Obligations.MasksAndPredicates := by
  intro h d a b p
  exact ⟨writes_of fun _ => rfl, writes_of fun _ => rfl, writes_of fun _ => rfl, writes_of fun _ => rfl,
    writes_of fun _ => rfl, writes_of fun _ => rfl,
    writes_of_eq (fun _ => rfl) fun c => ite_congr rfl (fun _ => rfl) fun hne => by rw [lowLane_eq hne],
    writes_of fun _ => rfl, writes_of fun _ => rfl, writes_of fun _ => rfl,
    writes_of fun _ => rfl, writes_of fun _ => rfl, writes_of fun _ => rfl, writes_of fun _ => rfl,
    writes_of fun _ => rfl, writes_of fun _ => rfl, writes_of fun _ => rfl, writes_of fun _ => rfl,
    writes_of fun _ => rfl⟩

/-! ### Lanes and queues -/

/-- The writes of STATUS where INV alone may be set (R68). -/
theorem wrSt_inv (b : Bool) : wrSt (stBits false false b) = if b then [.statusSet 4] else [] := by
  cases b <;> rfl

/-- Settles O11: each operation is the model's `fixed` with its result, and LRED sets of STATUS at most INV. -/
theorem laneOperations : Obligations.LaneOperations := by
  intro h d a b k p x op
  exact ⟨writes_of fun _ => rfl, writes_of fun _ => rfl, writes_of fun _ => rfl, writes_of fun _ => rfl,
    writes_of fun _ => rfl, writes_of fun _ => rfl, writes_of fun _ => rfl,
    writes_of_eq (fun _ => rfl) fun _ => congrArg (RegWr.s d _ :: ·) (wrSt_inv _)⟩

/-- Settles O12: QPUSH starts its operation or traps as its queue is bound or not, and QPOP starts its own. -/
theorem queueIssue : Obligations.QueueIssue := by
  intro h d q x tr
  refine ⟨acts_of _ (fun _ => rfl) ?_, traps_of _ (fun _ => rfl) ?_, starts_of fun _ => rfl⟩
  · intro c s hb
    simp [qBound, hb]
  · intro c s hb
    simp [qBound, Option.isSome_iff_ne_none.mpr hb]

end Sys2Proof.Proofs.Uniform
end

section
/-!
SUPPORT. Vector integer instructions (R80 to R87), and the statements about them that stand in the obligations.
-/

namespace Sys2Proof.Proofs.VectorInt

open Sys2Proof Sys2Proof.Machine
open Sys2Proof.Proofs.Vector (writes_of)
open Sys2Proof.Proofs.Uniform (writes_of_eq relBv_lt)

/-! ### Arithmetic -/

theorem vMinMax_min (sg : Bool) (a b : BitVec 32) :
    vMinMax false sg a b = if (if sg then a.slt b else a.ult b) then a else b := by
  simp [vMinMax, relBv_lt]

theorem vMinMax_max (sg : Bool) (a b : BitVec 32) :
    vMinMax true sg a b = if (if sg then a.slt b else a.ult b) then b else a := by
  rw [vMinMax, relBv_lt]
  cases (if sg then a.slt b else a.ult b) <;> rfl

/-- Settles O13: each operation is the model's `fixed` with its result; VMIN and VMAX choose by `relBv`, which is the signed
or the unsigned order. -/
theorem vectorArithmetic : Obligations.VectorArithmetic := by
  intro h sg d a b x y k
  exact ⟨writes_of fun _ => rfl, writes_of fun _ => rfl, writes_of fun _ => rfl, writes_of fun _ => rfl,
    writes_of fun _ => rfl, writes_of fun _ => rfl, writes_of fun _ => rfl, writes_of fun _ => rfl,
    writes_of fun _ => rfl, writes_of fun _ => rfl, writes_of fun _ => rfl, writes_of fun _ => rfl,
    writes_of_eq (fun _ => rfl) fun c => congrArg (fun f => [wrV c d f]) (funext fun _ => vMinMax_min _ _ _),
    writes_of_eq (fun _ => rfl) fun c => congrArg (fun f => [wrV c d f]) (funext fun _ => vMinMax_max _ _ _),
    writes_of fun _ => rfl, writes_of fun _ => rfl⟩

/-! ### Saturation -/

theorem clampI_fst (lo hi e : Int) : (clampI (lo, hi) e).1 = if e < lo then lo else if hi < e then hi else e := by
  simp only [clampI]
  split
  · rfl
  · split <;> rfl

/-- A value is clamped exactly where it lies outside the range. -/
theorem clampI_snd (lo hi e : Int) : (clampI (lo, hi) e).2 = (decide (e < lo) || decide (hi < e)) := by
  by_cases h1 : e < lo
  · simp [clampI, h1]
  · by_cases h2 : hi < e <;> simp [clampI, h1, h2]

/-- STATUS bits gathered over lanes, where each lane gives either one bit or none. -/
theorem foldl_or_bits (v : BitVec 3) (f : Nat → Bool) (ls : List Nat) (a : BitVec 3) :
    ls.foldl (fun a l => a ||| if f l then v else 0) a = a ||| if ls.any f then v else 0 := by
  induction ls generalizing a with
  | nil => simp
  | cons l ls ih =>
    rw [List.foldl_cons, ih, List.any_cons, BitVec.or_assoc]
    cases f l <;> cases ls.any f <;> simp

theorem laneSt_if (v : BitVec 3) (m : Mask) (f : Nat → Bool) :
    laneSt m (fun l => if f l then v else 0) = if (lanesOf m).any f then v else 0 := by
  rw [laneSt, foldl_or_bits]
  simp

/-- The writes of STATUS where SATI alone may be set: one, where an active lane sets it (R68, R81). -/
theorem wrSt_sati (m : Mask) (f : Nat → Bool) :
    wrSt (laneSt m fun l => stBits false (f l) false) = if (lanesOf m).any f then [.statusSet 2] else [] := by
  have hbits : (fun l => stBits false (f l) false) = fun l => if f l then stSATI else 0 := by
    funext l
    cases f l <;> rfl
  rw [hbits, laneSt_if]
  cases (lanesOf m).any f <;> rfl

/-- A result that may clamp, with SATI where a lane did: the writes of the instructions that have `.sat` (R81). -/
theorem vecSat_writes {row : String} {h : Hdr} {d : Nat} {vs : List Nat} {x : Instr} {ws : Ctl → List RegWr}
    {f : Ctl → Nat → BitVec 32 × Bool} (hx : ∀ s, exec x s = vecSat row h d vs f s)
    (hw : ∀ c, ws c = wrV c d (fun l => (f c l).1) :: if (lanesOf c.act).any fun l => (f c l).2 then [.statusSet 2] else []) :
    Writes (vecFacts row h (d :: vs)) 4 x ws :=
  writes_of_eq hx fun c => by rw [wrSt_sati, hw]

/-- Settles O14: with `.sat` the result is `clampI`'s value and SATI its flag, gathered over the active lanes; without it
nothing clamps. -/
theorem vectorSaturation : Obligations.VectorSaturation := by
  intro h sat n32 d a x
  refine ⟨?_, ?_, ?_, ?_⟩ <;> rintro e rfl <;> refine vecSat_writes (fun _ => rfl) fun c => ?_
  · cases sat
    · simp [addSub]
    · cases n32 <;> simp [addSub, satAdd, clampI_fst, clampI_snd]
  · cases sat
    · simp [addSub]
    · cases n32 <;> simp [addSub, satAdd, clampI_fst, clampI_snd]
  · cases sat <;> simp [satNeg, clampI_fst, clampI_snd]
  · cases sat <;> simp [satNeg, clampI_fst, clampI_snd]

/-! ### Bits and moves -/

/-- Settles O15: each operation is the model's `fixed` with its result. -/
theorem vectorBitsAndMoves : Obligations.VectorBitsAndMoves := by
  intro h sg hi rel d a b k p pos len x n
  exact ⟨writes_of fun _ => rfl, writes_of fun _ => rfl, writes_of fun _ => rfl, writes_of fun _ => rfl,
    writes_of fun _ => rfl, writes_of fun _ => rfl, writes_of fun _ => rfl, writes_of fun _ => rfl,
    writes_of fun _ => rfl, writes_of fun _ => rfl, writes_of fun _ => rfl, writes_of fun _ => rfl⟩

end Sys2Proof.Proofs.VectorInt
end

section
/-!
SUPPORT. Clause headers, YIELD, TRAP, RTE, EXIT, calls and returns (R20, R21, R43, R50 to R59), and the statements about
them that stand in the obligations.
-/

namespace Sys2Proof.Proofs.Flow

open Sys2Proof Sys2Proof.Machine
open Sys2Proof.Proofs.Control (onStream_of_canIssue pcBad_eq_false_iff)

/-! ### What an issue makes of its body's answer -/

section
variable {i : Iss} {s : State} {t : Team} {g : Group} {x : Instr} (body : Ctl → State → Body)

theorem exec_done {s2 : State} (hr : CanIssue i s t g) (ho : TakesEffect i s t g) (hx : exec x s = issue i body s)
    (hb : body (ctlAt i s t g) (atIssue i s t g) = .done s2) :
    exec x s = .next (retire i (ctlAt i s t g) s2 (ctlAt i s t g).next 0) := by
  rw [hx, issue_ready hr ho, hb]

theorem exec_jump {s2 : State} {pc : Dword} {hold : Nat} (hr : CanIssue i s t g) (ho : TakesEffect i s t g)
    (hx : exec x s = issue i body s) (hb : body (ctlAt i s t g) (atIssue i s t g) = .jump s2 pc hold) :
    exec x s = .next (retire i (ctlAt i s t g) s2 pc hold) := by
  rw [hx, issue_ready hr ho, hb]

theorem exec_stop {s2 : State} (hr : CanIssue i s t g) (ho : TakesEffect i s t g) (hx : exec x s = issue i body s)
    (hb : body (ctlAt i s t g) (atIssue i s t g) = .stop s2) : exec x s = .next s2 := by
  rw [hx, issue_ready hr ho, hb]

theorem exec_held (hr : CanIssue i s t g) (ho : TakesEffect i s t g) (hx : exec x s = issue i body s)
    (hb : body (ctlAt i s t g) (atIssue i s t g) = .held) : exec x s = .next s := by
  rw [hx, issue_ready hr ho, hb]

end

/-! ### Headers -/

/-- A party that is a group of a team is what `curGroup` finds. -/
theorem curGroup_of {s : State} {t : Team} {g : Group} (hcur : s.cur = some (.group t.uid g.gid))
    (hteam : teamOf s t.uid = some t) (hgroup : groupIn t g.gid = some g) : curGroup s = some (t, g) := by
  simp [curGroup, hcur, hteam, hgroup]

theorem exec_clauseHeader (wait : BitVec 12) (a b : Option Nat) (s : State) :
    exec (.clauseHeader wait a b) s = execClauseHeader wait a b s := rfl

/-- Settles O7: `execClauseHeader` finds the group, which may issue, and asks only how many headers came before. -/
theorem clauseHeader : Obligations.ClauseHeader := by
  intro wait a b s t g hcur hteam hgroup hmay
  have hparty := curGroup_of hcur hteam hgroup
  rw [exec_clauseHeader]
  refine ⟨fun hfew => ?_, fun hmany => ?_⟩
  · simp only [execClauseHeader, hparty, hmay, if_neg (Nat.not_le.mpr hfew)]
    rfl
  · simp only [execClauseHeader, hparty, hmay, if_pos hmany]
    rfl

/-! ### What leaves the contexts as they are -/

theorem enterNext_ctl (s : State) (tid : Nat) : (enterNext s tid).ctl = s.ctl := by
  unfold enterNext
  split
  · rfl
  · split
    · rfl
    · split
      · rfl
      · rfl
      · split <;> rfl

theorem resumeTeam_ctl (s : State) (tid : Nat) : (resumeTeam s tid).ctl = s.ctl := by
  unfold resumeTeam
  split
  · rfl
  · split
    · exact enterNext_ctl s tid
    · rfl

/-- With the context's step bit clear nothing follows an instruction (R406). -/
theorem dbgStep_clear {c : Ctl} {s s0 : State} {t : Team} (hctl : s.ctl = s0.ctl) (hctx : c.t.ctx = t.ctx)
    (hstep : stepBit s0 t = false) : dbgStep c s = s := by
  have hbit : ((ctxOf s c.t.ctx).map fun k => k.stp).getD false = false := by
    rw [hctx]
    simpa only [stepBit, ctxOf, hctl] using hstep
  simp [dbgStep, hbit]

/-! ### YIELD, TRAP, RTE -/

/-- The age of a group that has yielded is above that of any that has not and is eligible no later (R58, R145). -/
theorem since_lt_of_yield {i j : Iss} {s : State} {t t' : Team} {g g' : Group} {u v : Nat} (hy : hasYielded g = true)
    (hn : hasYielded g' = false) (he : eligibleAt g' j.h.dist j.mem ≤ eligibleAt g i.h.dist i.mem) :
    (turnAt j s t' g' v).since < (turnAt i s t g u).since := by
  simp only [turnAt, hy, hn, bit]
  simp
  omega

theorem retireOnly_idle {i : Iss} {s : State} {t : Team} {g : Group} (pc : Dword) (hold : Nat) :
    retireOnly i (ctlAt i s t g) (atIssue i s t g) pc hold = afterIssue i s t g pc hold id [] :=
  retireOnly_form id [] (fun _ => rfl) (by simp) _ pc hold (by
    simp only [List.append_nil, List.length_nil, Nat.add_zero, updGroup_id]
    rfl)

/-- The group after a YIELD at clock `u` (R58). -/
def yieldedAt (u : Nat) (y : Group) : Group := { y with i := { y.i with yield := some u } }

theorem exec_yield {h : Hdr} {s : State} {t : Team} {g : Group} (hr : Ready (ctlIss "YIELD" h) s t g)
    (ho : TakesEffect (ctlIss "YIELD" h) s t g) :
    exec (.yield h) s = .next (afterIssue (ctlIss "YIELD" h) s t g (ctlAt (ctlIss "YIELD" h) s t g).next 0
      (yieldedAt (issueU (ctlIss "YIELD" h) s t g)) []) := by
  have hx : exec (.yield h) s = execYield h s := rfl
  rw [exec_done _ hr.toCanIssue ho hx rfl]
  exact congrArg _ (done_group hr (yieldedAt (issueU (ctlIss "YIELD" h) s t g)) (fun _ => rfl) _ _)

theorem exec_rte_returns {h : Hdr} {s : State} {t : Team} {g : Group} (hr : Ready (ctlIss "RTE" h) s t g)
    (ho : TakesEffect (ctlIss "RTE" h) s t g) (hin : (settled (ctlIss "RTE" h) s t g).t.inHandler = true)
    (hpc : pcBad (settled (ctlIss "RTE" h) s t g).t.tr.rpc = false) :
    exec (.rte h) s = .next (resumeTeam (updGroup (afterIssue (ctlIss "RTE" h) s t g
      (ctlAt (ctlIss "RTE" h) s t g).next 0 id []) t.uid g.gid returnGroup) t.uid) := by
  have hg : (ctlAt (ctlIss "RTE" h) s t g).g = settled (ctlIss "RTE" h) s t g := rfl
  refine exec_stop _ hr.toCanIssue ho rfl ?_
  simp only [hg, hin, hpc, retireOnly_idle, Bool.not_true, if_false, Bool.false_eq_true]
  exact congrArg _ (dbgStep_clear (resumeTeam_ctl _ _) rfl hr.step)

theorem exec_nop_fixed {h : Hdr} {s : State} (hs : onStream s = false) :
    exec (.nop h) s = fixed (ctlIss "NOP" h) 0 (fun _ => []) s := by
  have hw : ∀ c s1, pendWrs c 0 [] s1 = s1 := fun c s1 => by
    have hid : (fun g : Group => (let g := logWrs c.dbg c.u c.pc (c.u + 0) [] g
        { g with i := { g.i with pend := ([] : List RegWr).foldl (fun l w => pendIns ⟨c.u + 0, w⟩ l) g.i.pend } })) = id := by
      funext g
      simp
    rw [pendWrs, hid, updGroup_id]
  have hx : exec (.nop h) s = execNop h s := rfl
  rw [hx, execNop, hs, fixed]
  simp only [hw]
  rfl

/-- Settles O8: YIELD and RTE by their own lemmas, TRAP and RTE outside the handler as traps of their bodies, and a step of
a fixed-latency instruction by `fixed_steps`. -/
theorem yieldTrapRte : Obligations.YieldTrapRte := by
  intro h d a n s t g
  exact ⟨exec_yield, fun i j t' g' u v => since_lt_of_yield, traps_of _ (fun _ => rfl) fun _ _ _ => rfl,
    fun hr ho hin halign hlow => exec_rte_returns hr ho hin ((pcBad_eq_false_iff _).mpr ⟨halign, hlow⟩),
    traps_of _ (fun _ => rfl) fun c _ hb => by simp [hb], fun s t g hc hs ho => fixed_steps hc hs ho 2 _,
    fun s t g hc hs ho => (exec_nop_fixed (onStream_of_canIssue hc)).trans (fixed_steps hc hs ho 0 _)⟩

/-! ### EXIT -/

/-- What a group reads of its flags at issue is what they hold. -/
theorem flagsClear_settled (i : Iss) (s : State) (t : Team) (g : Group) : flagsClear (settled i s t g) = flagsClear g := by
  simp [flagsClear, settled_keeps i s t g]

/-- The team with one of its groups ended. -/
def withEnded (t : Team) (gid : Nat) : Team := t.updGroup gid fun k => { k with ended := true }

/-- EXIT's own part: it ends the group, or is held (R57). -/
def exitBody (i : Iss) (c : Ctl) (s : State) : Body :=
  if !flagsClear c.g || !exitRoom s (withEnded c.t c.gid) then .held
  else .stop (endGroup (retireOnly i c s c.next 0) c.tid c.g)

section
variable {i : Iss} {x : Instr} {s : State} {t : Team} {g : Group} (hr : Ready i s t g) (ho : TakesEffect i s t g)
  (hx : exec x s = issue i (exitBody i) s)
include hr ho hx

theorem exit_ends (hclear : flagsClear g = true)
    (hroom : exitRoom (atIssue i s t g) (withEnded (ctlAt i s t g).t (ctlAt i s t g).gid) = true) :
    exec x s = .next (endGroup (retireOnly i (ctlAt i s t g) (atIssue i s t g) (ctlAt i s t g).next 0) t.uid
      (settled i s t g)) := by
  have hg : flagsClear (ctlAt i s t g).g = true := (flagsClear_settled i s t g).trans hclear
  refine exec_stop _ hr.toCanIssue ho hx ?_
  simp only [exitBody, hg, hroom]
  rfl

theorem exit_waits (hbusy : flagsClear g = false ∨
    exitRoom (atIssue i s t g) (withEnded (ctlAt i s t g).t (ctlAt i s t g).gid) = false) : exec x s = .next s := by
  have hg : flagsClear (ctlAt i s t g).g = flagsClear g := flagsClear_settled i s t g
  refine exec_held _ hr.toCanIssue ho hx ?_
  rcases hbusy with h | h <;> simp [exitBody, hg, h]

end

theorem exec_exit_group {h : Hdr} {s : State} (hs : onStream s = false) :
    exec (.exit h) s = issue (ctlIss "EXIT" h) (exitBody (ctlIss "EXIT" h)) s := by
  change execExit h s = _
  rw [execExit, hs]
  rfl

theorem exec_exitExt_group {h : Hdr} {s : State} (hs : onStream s = false) :
    exec (.exitExt h) s = issue (ctlIss "EXIT_EXT" h) (exitBody (ctlIss "EXIT_EXT" h)) s := by
  change execExitExt h s = _
  rw [execExitExt, hs]
  rfl

theorem exitRoom_iff (s : State) (p : Team) : exitRoom s p = true ↔ teamEnds s p = false ∨ endRoom s p = true := by
  simp [exitRoom]

theorem exitRoom_eq_false_iff (s : State) (p : Team) :
    exitRoom s p = false ↔ teamEnds s p = true ∧ endRoom s p = false := by
  simp [exitRoom]

/-- Settles O9: both forms of EXIT are `exitBody` on a group, which asks for clear flags and for `exitRoom`. -/
theorem exitOfGroup : Obligations.ExitOfGroup := by
  intro h s t g
  refine ⟨fun hr ho => ?_, fun hr ho => ?_⟩
  · have hx := exec_exit_group (h := h) (onStream_of_canIssue hr.toCanIssue)
    exact ⟨fun hclear hroom => exit_ends hr ho hx hclear ((exitRoom_iff _ _).mpr hroom),
      fun hbusy => exit_waits hr ho hx (hbusy.imp_right (exitRoom_eq_false_iff _ _).mpr)⟩
  · have hx := exec_exitExt_group (h := h) (onStream_of_canIssue hr.toCanIssue)
    exact ⟨fun hclear hroom => exit_ends hr ho hx hclear ((exitRoom_iff _ _).mpr hroom),
      fun hbusy => exit_waits hr ho hx (hbusy.imp_right (exitRoom_eq_false_iff _ _).mpr)⟩

/-! ### Calls -/

theorem settled_bud (i : Iss) (s : State) (t : Team) (g : Group) : (settled i s t g).bud = g.bud := by
  simp [settled_keeps i s t g]

/-- A call whose checks pass spills, slides the window and jumps (R52, R55). -/
theorem call_jumps {i : Iss} {x : Instr} {s : State} {t : Team} {g : Group} {n : Ctl → Nat} {tgt : Ctl → Dword} {chk : Bool}
    (hx : exec x s = issue i (callBody n tgt chk) s) (hr : Ready i s t g) (ho : TakesEffect i s t g) :
    let c := ctlAt i s t g
    let wsp := c.g.w.wsp.toNat
    n c < g.bud → (chk = true → pcBad (tgt c) = false) → wsp % 16 = 0 → wsp + 256 * n c + 16 ≤ c.g.w.wslim.toNat →
    flagsClear g = true → groupTouches (atIssue i s t g) c wsp (256 * n c + 16) = false →
    firstBad (atIssue i s t g) c true (parts wsp (256 * n c + 16)) = none →
    exec x s = .next (retire i c
      (updGroup (spill (atIssue i s t g) c (parts wsp (256 * n c + 16)) wsp (frameBytes c.g (n c) c.next)) t.uid g.gid
        (pushWindow (n c))) (tgt c) (c.u + 4 + n c)) := by
  intro c wsp hbud hpc halign hlim hclear htouch hbad
  have hbud' : ¬ c.g.bud ≤ n c := by
    have hb : c.g.bud = g.bud := settled_bud i s t g
    omega
  have hpc' : (chk && pcBad (tgt c)) = false := by
    cases chk <;> simp_all
  have hstack : ¬ (wsp % 16 ≠ 0 ∨ c.g.w.wslim.toNat < wsp + (256 * n c + 16)) := by omega
  have hclear' : flagsClear c.g = true := (flagsClear_settled i s t g).trans hclear
  refine exec_jump _ hr.toCanIssue ho hx ?_
  change callBody n tgt chk c (atIssue i s t g) = _
  unfold callBody
  simp only [if_neg hbud', hpc', if_neg hstack, hclear', htouch, hbad, wsp]
  rfl

theorem exec_call (h : Hdr) (off : Int) (s : State) : exec (.call h off) s =
    issue (ctlIss "CALL" h) (callBody (slideOf none) (fun c => relTgt c.pc off) false) s := rfl

theorem exec_callExt (h : Hdr) (off : Int) (slide : Option Nat) (s : State) : exec (.callExt h off slide) s =
    issue (ctlIss "CALL_EXT" h) (callBody (slideOf slide) (fun c => relTgt c.pc off) false) s := rfl

theorem exec_callx (h : Hdr) (a : Nat) (off : Int) (slide : Option Nat) (s : State) : exec (.callx h a off slide) s =
    issue (ctlIss "CALLX" h) (callBody (slideOf slide) (fun c => c.s a + BitVec.ofInt 64 off) true) s := rfl

/-! ### Returns -/

/-- A run of bytes that a return may read now: it translates, no word of it is uncorrectable, and no home access waits
(R54, R164, R404). -/
def Fine (s : State) (c : Ctl) (l : List (Nat × Nat)) : Prop :=
  firstBad s c false l = none ∧ partMarked s c l = none ∧ partWaits s c l = false

/-- The slide that a frame record names (R52). -/
def frameSlide (b : List Byte) : Nat := 8 * (b.getD 8 0).toNat

/-- The return address that a frame record names (R52). -/
def frameRa (b : List Byte) : Dword := BitVec.ofNat 64 (natOfBytes (slice b 0 8))

/-- Where the registers of a frame begin (R52). -/
def frameBase (c : Ctl) (slide : Nat) : Dword := c.g.w.wsp - 16 - BitVec.ofNat 64 (256 * slide)

/-- RET whose checks pass reads the frame record and then the registers, and jumps (R53, R55). -/
theorem retBody_jumps {c : Ctl} {s : State} (hdepth : c.g.w.fdepth ≠ 0) (hclear : flagsClear c.g = true)
    (htouch : groupTouches s c (c.g.w.wsp - 16).toNat 16 = false) (hrec : Fine s c (parts (c.g.w.wsp - 16).toNat 16)) :
    let r := refill s c (parts (c.g.w.wsp - 16).toNat 16)
    let base := frameBase c (frameSlide r.1)
    let k := parts base.toNat (256 * frameSlide r.1)
    frameSlide r.1 < c.g.bud → pcBad (frameRa r.1) = false → Fine s c k →
    groupTouches s c base.toNat (256 * frameSlide r.1) = false →
    retBody c s = .jump (updGroup (refill r.2 c k).2 c.tid c.gid fun g =>
      popWindow (frameSlide r.1) base (refill r.2 c k).1
        (logWrs c.dbg c.u c.pc c.u (refillWrs (frameSlide r.1) (refill r.2 c k).1 g) g)) (frameRa r.1) (c.u + 6) := by
  intro r base k hslide hpc hregs htouch'
  obtain ⟨hbad, hmark, hwait⟩ := hrec
  obtain ⟨hbad', hmark', hwait'⟩ := hregs
  have hslide' : ¬ c.g.bud ≤ frameSlide r.1 := by omega
  simp only [r, base, k, frameSlide, frameRa, frameBase] at *
  unfold retBody
  simp only [if_neg hdepth, hclear, htouch, hbad, hmark, hwait, if_neg hslide', hpc, hbad', hmark', hwait', htouch']
  rfl

/-- Settles O10: each call is `callBody` at its own slide and target, and RET is `retBody`. -/
theorem callsAndReturns : Obligations.CallsAndReturns := by
  refine ⟨fun h off slide a s t g => ⟨?_, ?_, ?_, ?_⟩, fun h s t g => ⟨?_, ?_⟩⟩
  · intro hr ho hbud _
    exact call_jumps (exec_call h off s) hr ho hbud (by simp)
  · intro hr ho hbud _
    exact call_jumps (exec_callExt h off slide s) hr ho hbud (by simp)
  · intro hr ho hbud hok
    exact call_jumps (exec_callx h a off slide s) hr ho hbud fun _ => (pcBad_eq_false_iff _).mpr hok
  · exact traps_of _ (exec_callx h a off slide) fun c _ hb => if_pos hb
  · intro hr ho hdepth hclear htouch hrec hslide halign hlow hregs htouch'
    refine exec_jump retBody hr.toCanIssue ho rfl ?_
    exact retBody_jumps hdepth ((flagsClear_settled _ s t g).trans hclear) htouch hrec
      (hslide.trans_eq (settled_bud _ s t g).symm) ((pcBad_eq_false_iff _).mpr ⟨halign, hlow⟩) hregs htouch'
  · exact traps_of _ (fun _ => rfl) fun c _ hb => if_pos hb

end Sys2Proof.Proofs.Flow
end

section
/-!
SUPPORT. Vector floating point, the special functions and conversions (R88 to R100), and the statements about them that
stand in the obligations.
-/

namespace Sys2Proof.Proofs.VectorFp

open Sys2Proof Sys2Proof.Machine
open Sys2Proof.Proofs.Vector (writes_of)
open Sys2Proof.Proofs.Uniform (writes_of_eq)

/-! ### Elements and sign bits -/

/-- Clearing the sign bits of a lane word, class by class (R89). -/
theorem not_signBits (f : FCls) : ~~~signBits f = if f = .f32 then 0x7FFFFFFF else 0x7FFF7FFF := by
  cases f <;> rfl

theorem signBits_eq (f : FCls) : signBits f = if f = .f32 then 0x80000000 else 0x80008000 := by
  cases f <;> rfl

/-- The element that VFCMP compares of a register or a literal (R91). -/
theorem cmpElem_reg (f : FCls) (hi : Bool) (w : BitVec 32) :
    cmpElem f hi false w = if f = .f32 then w.toNat else if hi then w.toNat / 2 ^ 16 else w.toNat % 2 ^ 16 := by
  cases f <;> cases hi <;> rfl

/-- An immediate stands as its low half in a packed class (R91). -/
theorem cmpElem_eq (f : FCls) (hi imm : Bool) (w : BitVec 32) :
    cmpElem f hi imm w = if f ≠ .f32 ∧ imm = true then w.toNat % 2 ^ 16 else cmpElem f hi false w := by
  cases f <;> cases hi <;> cases imm <;> rfl

/-! ### The statements -/

/-- Settles O18: each operation is the model's `fixed` on elements; the masks of VFABS and VFNEG are the sign bits, and
VFCMP's elements are `cmpElem`. -/
theorem vectorFloat : Obligations.VectorFloat := by
  refine ⟨fun h f m d a b x y => ⟨writes_of fun _ => rfl, writes_of fun _ => rfl, writes_of fun _ => rfl,
    writes_of fun _ => rfl, writes_of fun _ => rfl, writes_of fun _ => rfl, ?_, ?_, writes_of fun _ => rfl,
    writes_of fun _ => rfl, writes_of fun _ => rfl, writes_of fun _ => rfl⟩, fun h f rel hi d a x => ?_⟩
  · exact writes_of_eq (fun _ => rfl) fun c => by rw [not_signBits]
  · exact writes_of_eq (fun _ => rfl) fun c => by rw [signBits_eq]
  · refine writes_of_eq (fun _ => rfl) fun c => ?_
    simp only [← cmpElem_reg, ← cmpElem_eq]

/-- Settles O19: each special function is the model's `vsfu`, which puts its results in flight. -/
theorem specialFunctions : Obligations.SpecialFunctions := by
  intro h d a
  exact ⟨starts_of fun _ => rfl, starts_of fun _ => rfl, starts_of fun _ => rfl, starts_of fun _ => rfl,
    starts_of fun _ => rfl, starts_of fun _ => rfl, starts_of fun _ => rfl, starts_of fun _ => rfl,
    starts_of fun _ => rfl, starts_of fun _ => rfl⟩

/-- Settles O20: each conversion is the model's `fixed` with its result, RNGFILL steps the counter at its issue, and SCALECALC
puts its results in flight. -/
theorem conversions : Obligations.Conversions := by
  intro h dt st m sat satf given d a b k sidx didx n
  exact ⟨writes_of fun _ => rfl, writes_of fun _ => rfl, writes_of fun _ => rfl,
    acts_of _ (fun _ => rfl) fun _ _ _ => rfl, starts_of fun _ => rfl⟩

end Sys2Proof.Proofs.VectorFp
end

section
/-!
SUPPORT. The issue of loads, stores, buffer accesses and atomics (R103 to R117), and the statements about them that stand
in the obligations.
-/

namespace Sys2Proof.Proofs.Access

open Sys2Proof Sys2Proof.Machine
open Sys2Proof.Proofs.Flow (exec_done exec_stop)

/-! ### What an instruction reads of its group -/

theorem settled_e (i : Iss) (s : State) (t : Team) (g : Group) : (settled i s t g).e = g.e := by
  simp [settled, veil_keeps, settleGroup_keeps]

theorem ctlAt_rev (i : Iss) (s : State) (t : Team) (g : Group) : (ctlAt i s t g).g.e.rev = g.e.rev :=
  congrArg (fun e => e.rev) (settled_e i s t g)

/-! ### Holds and logs as effects on the group -/

theorem holdMem_eq (c : Ctl) (s : State) : holdMem c s = updGroup s c.tid c.gid (holdsFor s.nextId) := rfl

/-- A condition on an effect is a condition on its group's update. -/
theorem updGroup_ite (p : Prop) [Decidable p] (s : State) (n k : Nat) (f : Group → Group) :
    updGroup s n k (if p then f else id) = if p then updGroup s n k f else s := by
  split
  · rfl
  · exact updGroup_id s n k

/-- The undo log of a store is an effect on its group (R405). -/
theorem updGroup_logsStore (c : Ctl) (s : State) (z : SizeCode) (ls : List LaneAcc) :
    updGroup s c.tid c.gid (logsStore c s z ls) = if c.dbg then updGroup s c.tid c.gid (fun g =>
      { g with undo := undoAdd g.undo (storeUndo s c z ls) }) else s := by
  cases hdbg : c.dbg with
  | false =>
    have hid : logsStore c s z ls = id := by
      funext y
      simp [logsStore, hdbg]
    rw [hid, updGroup_id]
    rfl
  | true =>
    have heff : logsStore c s z ls = fun g => { g with undo := undoAdd g.undo (storeUndo s c z ls) } := by
      funext y
      simp [logsStore, hdbg]
    rw [heff]
    rfl

/-! ### A load that makes no records -/

/-- A load makes no record in forward mode, nor on a page that is not differentiable (R109, R273). -/
theorem laneRecs_load {rev : Bool} {z : SizeCode} {fmode : BitVec 8} {a : LaneAcc} (h : rev = true → a.x.isG = false) :
    laneRecs false rev z fmode a = [] := by
  unfold laneRecs
  rcases hx : a.x with ⟨k, g⟩ | ⟨k, l, d, sh⟩
  · rfl
  · cases rev
    · cases sh <;> simp
    · have hsh : sh = none := by simpa [hx, Xl.isG] using h rfl
      simp [hsh]

/-- Where no lane makes a record, a load goes in flight and does nothing else but hold what it acquires for (R107). -/
theorem memStart_load {c : Ctl} {s : State} {z : SizeCode} {o : Ord} {dst : MDst} {data : Nat → BitVec 128}
    {as : List (Nat × Nat)} (h : c.g.e.rev = true → ∀ a ∈ accsAt c s true false data as, a.x.isG = false) :
    memStart c s false z o dst data as =
      .done (startOp c (.mem false z o c.g.e.rev dst (accsAt c s true false data as) c.g.r.fmode [] none)
        (if o.code = 1 then holdMem c s else s)) := by
  have hrecs : ∀ ls : List LaneAcc, (∀ a ∈ ls, a ∈ accsAt c s true false data as) →
      (ls.map fun a => (a, laneRecs false c.g.e.rev z c.g.r.fmode a)).filter (fun p => !p.2.isEmpty) = [] := by
    intro ls hls
    rw [List.filter_eq_nil_iff]
    intro p hp
    obtain ⟨a, ha, rfl⟩ := List.mem_map.mp hp
    simp [laneRecs_load fun hrev => h hrev a (hls a ha)]
  unfold memStart
  rw [show (as.map fun p : Nat × Nat =>
      (⟨p.1, p.2, data p.1, 0, xlate s (some c.t.core) c.t.ctx p.2 (!false) false false⟩ : LaneAcc)) =
      accsAt c s true false data as from rfl]
  simp only [hrecs _ fun a ha => List.mem_of_mem_filter ha]
  simp [overQuota, bit]

/-! ### The issue of LD, ST, LDU and STU -/

/-- The own part of LD, ST, LDU and STU, at their addresses and data (R106, R107, R274). -/
def accBody (uni store : Bool) (z : SizeCode) (o : Ord) (dst : Ctl → MDst) (data : Ctl → Nat → BitVec 128)
    (as : Ctl → List (Nat × Nat)) (c : Ctl) (s : State) : Body :=
  if store && c.g.e.rev && c.flag.isNone then emTrap c .illfld
  else
    let bad := addrCauses none (sizeBytes z) (as c)
    if !bad.isEmpty then trapLanes c s uni bad
    else memStart c s store z o (if store && !c.g.e.rev then .none else dst c) (data c) (as c)

/-- With good addresses, and the flag that it needs, an access starts. -/
theorem accBody_starts {uni store : Bool} {z : SizeCode} {o : Ord} {dst : Ctl → MDst} {data : Ctl → Nat → BitVec 128}
    {as : Ctl → List (Nat × Nat)} {c : Ctl} (s : State) (hflag : (store && c.g.e.rev && c.flag.isNone) = false)
    (ha : Aligned (sizeBytes z) (as c)) :
    accBody uni store z o dst data as c s =
      memStart c s store z o (if store && !c.g.e.rev then .none else dst c) (data c) (as c) := by
  simp [accBody, hflag, addrCauses_nil ha]

section
variable {i : Iss} {x : Instr} {s : State} {t : Team} {g : Group} {uni store : Bool} {z : SizeCode} {o : Ord}
  {dst : Ctl → MDst} {data : Ctl → Nat → BitVec 128} {as : Ctl → List (Nat × Nat)}

/-- A load whose lanes make no records goes in flight (R107, R108). -/
theorem load_starts (hx : exec x s = issue i (accBody uni false z o dst data as) s) (hr : Ready i s t g)
    (ho : TakesEffect i s t g) :
    let c := ctlAt i s t g
    let ls := accsAt c (atIssue i s t g) true false (data c) (as c)
    Aligned (sizeBytes z) (as c) → (g.e.rev = true → ∀ a ∈ ls, a.x.isG = false) →
      exec x s = .next (afterLong i s t g (.mem false z o g.e.rev (dst c) ls c.g.r.fmode [] none)
        (if o.code = 1 then holdsFor s.nextId else id)) := by
  intro c ls ha hG
  have hrev : c.g.e.rev = g.e.rev := ctlAt_rev i s t g
  rw [← long_ready hr _ _ (by split <;> exact fun _ => rfl), updGroup_ite]
  refine exec_done _ hr.toCanIssue ho hx ((accBody_starts _ rfl ha).trans ?_)
  rw [memStart_load (hrev ▸ hG), hrev]
  rfl

/-- A store has the flag that it needs in reverse mode (R274). -/
theorem flag_missing (hflag : store = true → g.e.rev = true → (ctlAt i s t g).flag ≠ none) :
    (store && (ctlAt i s t g).g.e.rev && (ctlAt i s t g).flag.isNone) = false := by
  rw [ctlAt_rev]
  cases hs : store <;> cases hg : g.e.rev <;> simp
  exact Option.isSome_iff_ne_none.mpr (hflag hs hg)

/-- A store to plain pages goes in flight, and is logged while the debug bit is set (R107, R405). -/
theorem store_starts (hx : exec x s = issue i (accBody uni true z o dst data as) s) (hr : Ready i s t g)
    (ho : TakesEffect i s t g) :
    let c := ctlAt i s t g
    let ls := accsAt c (atIssue i s t g) false true (data c) (as c)
    (g.e.rev = true → c.flag ≠ none) → Aligned (sizeBytes z) (as c) → Plain ls →
      exec x s = .next (afterLong i s t g
        (.mem true z o g.e.rev (if g.e.rev then dst c else .none) ls c.g.r.fmode [] none)
        (logsStore c (atIssue i s t g) z (ls.filter fun a => (memFault t.d.gridUnit true g.e.rev z o a.x).isNone))) := by
  intro c ls hflag ha hp
  have hrev : c.g.e.rev = g.e.rev := ctlAt_rev i s t g
  have hguard := flag_missing (store := true) fun _ => hflag
  rw [← long_ready hr _ _ (by intro y; unfold logsStore; split <;> rfl)]
  refine exec_done _ hr.toCanIssue ho hx ((accBody_starts _ hguard ha).trans ?_)
  rw [memStart_plain _ _ true z o _ _ _ hp, hrev]
  have hlog := updGroup_logsStore c (atIssue i s t g) z
    (ls.filter fun a => (memFault t.d.gridUnit true g.e.rev z o a.x).isNone)
  change _ = Body.done (startOp c _ (updGroup _ c.tid c.gid _))
  rw [hlog]
  cases g.e.rev <;> simp only [Bool.and_true] <;> rfl

/-- The lanes whose address is misaligned or too high, with their causes (R106, R432). -/
def badAddrs (size : Nat) (as : List (Nat × Nat)) : List LaneCause :=
  as.filterMap fun p => if p.2 % min size 16 ≠ 0 then some ⟨p.1, causeCode .misaln, p.2⟩
    else if 2 ^ 56 ≤ p.2 then some ⟨p.1, causeCode .addrbad, p.2⟩ else none

theorem addrCauses_device (size : Nat) (as : List (Nat × Nat)) : addrCauses none size as = badAddrs size as := by
  rw [addrCauses, badAddrs]
  congr 1
  funext p
  simp only [addrCause, bne_iff_ne]
  split
  · rfl
  · split <;> rfl

/-- An access with a bad address traps before any effect (R106, R393). -/
theorem access_traps (hx : exec x s = issue i (accBody uni store z o dst data as) s) (hr : Ready i s t g)
    (ho : TakesEffect i s t g) :
    let c := ctlAt i s t g
    let bad := badAddrs (sizeBytes z) (as c)
    (store = true → g.e.rev = true → c.flag ≠ none) → bad ≠ [] →
      exec x s = .next (raiseRec (atIssue i s t g) t.uid g.gid true
        (wonRec c.g c.pc (winner (if uni then some c.em else none) bad)) none) := by
  intro c bad hflag hbad
  have hsome : bad.isEmpty = false := by simpa using hbad
  refine exec_stop _ hr.toCanIssue ho hx ?_
  simp only [accBody, flag_missing hflag, addrCauses_device, Bool.false_eq_true, if_false]
  change (if (!bad.isEmpty) = true then _ else _) = _
  rw [hsome]
  rfl

end

/-! ### The statements about loads and stores -/

/-- The addresses of one uniform access (R115). -/
def uniAddr (x : Src) (off : Int) (c : Ctl) : List (Nat × Nat) := [(0, c.uaddr x off)]

section
variable (h : Hdr) (z : SizeCode) (o : Ord) (d a : Nat) (m : MemArg) (x : Src) (off : Int) (s : State)

/-- The facts of LD and ST (R18, R107). -/
def laneIss (row : String) (h : Hdr) (wr : Bool) (z : SizeCode) (d : Nat) (m : MemArg) : Iss :=
  { row := row, h := h, lane := true, vs := runRegs d (sizeRegs z) ++ addrRegs m false, ll := true, wr := wr, mem := true }

theorem exec_ld : exec (.ld h d m) s = issue (laneIss "LD" h true .b32 d m) (accBody false false .b32 ⟨0, 0⟩
    (fun c => vecDst c d 1) (fun c l => c.data d 1 l) (fun c => c.addrs m false 4)) s := rfl

theorem exec_ldLong : exec (.ldLong h z o d m) s = issue (laneIss "LD_LONG" h true z d m) (accBody false false z o
    (fun c => vecDst c d (sizeRegs z)) (fun c l => c.data d (sizeRegs z) l) (fun c => c.addrs m false (sizeBytes z))) s := rfl

theorem exec_st : exec (.st h d m) s = issue (laneIss "ST" h false .b32 d m) (accBody false true .b32 ⟨0, 0⟩
    (fun c => vecDst c d 1) (fun c l => c.data d 1 l) (fun c => c.addrs m false 4)) s := rfl

theorem exec_stLong : exec (.stLong h z o d m) s = issue (laneIss "ST_LONG" h false z d m) (accBody false true z o
    (fun c => vecDst c d (sizeRegs z)) (fun c l => c.data d (sizeRegs z) l) (fun c => c.addrs m false (sizeBytes z))) s := rfl

theorem exec_ldu : exec (.ldu h d a off) s = issue (uniFacts "LDU" h true) (accBody true false .b64 ⟨0, 0⟩
    (fun _ => .s d) (fun c _ => (c.s d).setWidth 128) (uniAddr (.reg a) off)) s := rfl

theorem exec_lduLong : exec (.lduLong h z o d x off) s = issue (uniFacts "LDU_LONG" h true) (accBody true false z o
    (fun _ => .s d) (fun c _ => (c.s d).setWidth 128) (uniAddr x off)) s := rfl

theorem exec_stu : exec (.stu h d a off) s = issue (uniFacts "STU" h false) (accBody true true .b64 ⟨0, 0⟩
    (fun _ => .s d) (fun c _ => (c.s d).setWidth 128) (uniAddr (.reg a) off)) s := rfl

theorem exec_stuLong : exec (.stuLong h z o d x off) s = issue (uniFacts "STU_LONG" h false) (accBody true true z o
    (fun _ => .s d) (fun c _ => (c.s d).setWidth 128) (uniAddr x off)) s := rfl

end

/-- Settles O21: each form is `accBody` at its own addresses, whose loads and stores go in flight. -/
theorem loadsAndStores : Obligations.LoadsAndStores := by
  intro h z o d a m x off s t g
  exact ⟨fun hr => load_starts (exec_ld h d m s) hr (.inl rfl),
    fun hr => load_starts (exec_ldLong h z o d m s) hr (.inl rfl),
    fun hr => store_starts (exec_st h d m s) hr (.inl rfl),
    fun hr => store_starts (exec_stLong h z o d m s) hr (.inl rfl),
    load_starts (exec_ldu h d a off s), load_starts (exec_lduLong h z o d x off s),
    store_starts (exec_stu h d a off s), store_starts (exec_stuLong h z o d x off s)⟩

/-- Settles O22: each form is `accBody`, which traps on a bad address before it starts. -/
theorem misalignedAccess : Obligations.MisalignedAccess := by
  intro h z o d a m x off s t g
  exact ⟨fun hr ho hf => access_traps (exec_ld h d m s) hr ho nofun,
    fun hr ho hf => access_traps (exec_ldLong h z o d m s) hr ho nofun,
    fun hr ho hf => access_traps (exec_st h d m s) hr ho fun _ => hf rfl,
    fun hr ho hf => access_traps (exec_stLong h z o d m s) hr ho fun _ => hf rfl,
    fun hr ho hf => access_traps (exec_ldu h d a off s) hr ho nofun,
    fun hr ho hf => access_traps (exec_lduLong h z o d x off s) hr ho nofun,
    fun hr ho hf => access_traps (exec_stu h d a off s) hr ho fun _ => hf rfl,
    fun hr ho hf => access_traps (exec_stuLong h z o d x off s) hr ho fun _ => hf rfl⟩

end Sys2Proof.Proofs.Access
end

section
/-!
SUPPORT. The issue of buffer accesses and atomics (R112, R113, R116, R117, R148), and the statements about them that stand
in the obligations.
-/

namespace Sys2Proof.Proofs.Buffers

open Sys2Proof Sys2Proof.Machine
open Sys2Proof.Proofs.Flow (exec_done exec_stop)
open Sys2Proof.Proofs.Access (updGroup_ite)

/-! ### LDA and STA -/

/-- The lanes whose access is misaligned or does not lie inside the allocation, with their causes (R112, R148). -/
def badOffsets (n size : Nat) (as : List (Nat × Nat)) : List LaneCause :=
  as.filterMap fun p => if p.2 % min size 16 ≠ 0 then some ⟨p.1, causeCode .misaln, p.2⟩
    else if n < p.2 + size then some ⟨p.1, causeCode .abound, p.2⟩ else none

theorem addrCauses_buffer (n size : Nat) (as : List (Nat × Nat)) : addrCauses (some n) size as = badOffsets n size as := by
  rw [addrCauses, badOffsets]
  congr 1
  funext p
  simp only [addrCause, bne_iff_ne]
  split
  · rfl
  · split <;> rfl

/-- The own part of LDA and STA. -/
def abufBody (store : Bool) (z : SizeCode) (o : Ord) (d : Nat) (m : MemArg) (c : Ctl) (s : State) : Body :=
  let as := c.addrs m true (sizeBytes z)
  let bad := addrCauses (some c.t.al.asize) (sizeBytes z) as
  if !bad.isEmpty then trapLanes c s false bad
  else .done (startOp c (.abuf store z o (if store then .none else vecDst c d (sizeRegs z))
    (as.map fun p => bufAcc p.1 p.2 (c.data d (sizeRegs z) p.1))) (if !store && o.code == 1 then holdMem c s else s))

section
variable {c : Ctl} {s : State} {store : Bool} {z : SizeCode} {o : Ord} {d : Nat} {m : MemArg}

theorem abufBody_starts (h : badOffsets c.t.al.asize (sizeBytes z) (c.addrs m true (sizeBytes z)) = []) :
    abufBody store z o d m c s = .done (startOp c (.abuf store z o (if store then .none else vecDst c d (sizeRegs z))
      ((c.addrs m true (sizeBytes z)).map fun p => bufAcc p.1 p.2 (c.data d (sizeRegs z) p.1)))
      (if !store && o.code == 1 then holdMem c s else s)) := by
  simp only [abufBody, addrCauses_buffer, h]
  rfl

theorem abufBody_traps (h : badOffsets c.t.al.asize (sizeBytes z) (c.addrs m true (sizeBytes z)) ≠ []) :
    abufBody store z o d m c s =
      trapLanes c s false (badOffsets c.t.al.asize (sizeBytes z) (c.addrs m true (sizeBytes z))) := by
  simp [abufBody, addrCauses_buffer, h]

end

section
variable {i : Iss} {x : Instr} {s : State} {t : Team} {g : Group} {store : Bool} {z : SizeCode} {o : Ord} {d : Nat}
  {m : MemArg} (hx : exec x s = issue i (abufBody store z o d m) s) (hr : Ready i s t g) (ho : TakesEffect i s t g)
include hx hr ho

theorem abuf_starts :
    let c := ctlAt i s t g
    let as := c.addrs m true (sizeBytes z)
    badOffsets t.al.asize (sizeBytes z) as = [] →
      exec x s = .next (afterLong i s t g (.abuf store z o (if store then .none else vecDst c d (sizeRegs z))
        (as.map fun p => bufAcc p.1 p.2 (c.data d (sizeRegs z) p.1)))
        (if !store && o.code == 1 then holdsFor s.nextId else id)) := by
  intro c as hbad
  rw [← long_ready hr _ _ (by split <;> exact fun _ => rfl), updGroup_ite]
  exact exec_done _ hr.toCanIssue ho hx (abufBody_starts hbad)

theorem abuf_traps :
    let c := ctlAt i s t g
    let bad := badOffsets t.al.asize (sizeBytes z) (c.addrs m true (sizeBytes z))
    bad ≠ [] → exec x s = .next (raiseRec (atIssue i s t g) t.uid g.gid true
      (wonRec c.g c.pc (winner none bad)) none) :=
  fun hbad => exec_stop _ hr.toCanIssue ho hx (abufBody_traps hbad)

end

/-- Settles O24: each form is `abufBody`, which goes in flight where no offset is bad and traps otherwise. -/
theorem bufferAccesses : Obligations.BufferAccesses := by
  intro h z o d m s t g
  exact ⟨fun hr => ⟨abuf_starts rfl hr (.inl rfl), abuf_traps rfl hr (.inl rfl)⟩,
    fun hr => ⟨abuf_starts rfl hr (.inl rfl), abuf_traps rfl hr (.inl rfl)⟩,
    fun hr => ⟨abuf_starts rfl hr (.inl rfl), abuf_traps rfl hr (.inl rfl)⟩,
    fun hr => ⟨abuf_starts rfl hr (.inl rfl), abuf_traps rfl hr (.inl rfl)⟩⟩

/-! ### LDC and STC -/

/-- The elements that the active lanes reach (R113). -/
def tileElems (col : Bool) (b : Src) (k : BitVec 32) (c : Ctl) : List (Nat × Nat) :=
  (lanesOf c.act).map fun l => (l, (c.srcS b).toNat + k.toNat + (if col then 128 * l else l))

/-- The own part of LDC and STC. -/
def cbufBody (store col : Bool) (d acc : Nat) (b : Src) (k : BitVec 32) (c : Ctl) (s : State) : Body :=
  let out := (tileElems col b k c).filter fun p => decide (16383 < p.2)
  if c.t.al.tiles.length ≤ acc then emTrap c .ctile
  else if !out.isEmpty then trapLanes c s false (out.map fun p => ⟨p.1, causeCode .cbound, 0⟩)
  else .done (startOp c (.cbuf store acc (if store then .none else vecDst c d 1)
    ((tileElems col b k c).map fun p => bufAcc p.1 p.2 ((c.lane d p.1).setWidth 128))) s)

theorem cbufIssue_eq (row : String) (h : Hdr) (store col : Bool) (d acc : Nat) (b : Src) (k : BitVec 32) (s : State) :
    cbufIssue row h store col d acc b k s =
      issue { row := row, h := h, lane := true, vs := [d], ll := true, wr := !store, mem := true }
        (cbufBody store col d acc b k) s := by
  have helem : ∀ c : Ctl, (fun l => (l, if col then (c.srcS b).toNat + k.toNat + 128 * l else (c.srcS b).toNat + k.toNat + l)) =
      fun l => (l, (c.srcS b).toNat + k.toNat + (if col then 128 * l else l)) := by
    intro c
    cases col <;> rfl
  unfold cbufIssue
  simp only [helem]
  rfl

section
variable {i : Iss} {x : Instr} {s : State} {t : Team} {g : Group} {store col : Bool} {d acc : Nat} {b : Src}
  {k : BitVec 32} (hx : exec x s = issue i (cbufBody store col d acc b k) s) (hr : Ready i s t g) (ho : TakesEffect i s t g)
include hx hr ho

theorem cbuf_starts :
    let c := ctlAt i s t g
    acc < t.al.tiles.length → ((tileElems col b k c).filter fun p => decide (16383 < p.2)) = [] →
      exec x s = .next (afterLong i s t g (.cbuf store acc (if store then .none else vecDst c d 1)
        ((tileElems col b k c).map fun p => bufAcc p.1 p.2 ((c.lane d p.1).setWidth 128)))) := by
  intro c hacc hout
  have htile : ¬ c.t.al.tiles.length ≤ acc := Nat.not_le.mpr hacc
  rw [← long_ready hr _ id (fun _ => rfl), updGroup_id]
  refine exec_done _ hr.toCanIssue ho hx ?_
  change cbufBody store col d acc b k c (atIssue i s t g) = _
  simp only [cbufBody, if_neg htile, hout]
  rfl

theorem cbuf_no_tile (hacc : t.al.tiles.length ≤ acc) :
    exec x s = .next (raisePrecise (atIssue i s t g) t.uid g.gid g.r.pc { cause := .ctile, mask := (ctlAt i s t g).em }) := by
  have htile : (ctlAt i s t g).t.al.tiles.length ≤ acc := hacc
  rw [hx, issue_ready hr.toCanIssue ho, cbufBody, if_pos htile, emTrap, ctlAt_pc]

theorem cbuf_out :
    let c := ctlAt i s t g
    let out := (tileElems col b k c).filter fun p => decide (16383 < p.2)
    acc < t.al.tiles.length → out ≠ [] →
      exec x s = .next (raiseRec (atIssue i s t g) t.uid g.gid true (wonRec c.g c.pc
        (winner none (out.map fun p => ⟨p.1, causeCode .cbound, 0⟩))) none) := by
  intro c out hacc hout
  have htile : ¬ c.t.al.tiles.length ≤ acc := Nat.not_le.mpr hacc
  have hempty : (!out.isEmpty) = true := by simpa using hout
  exact exec_stop _ hr.toCanIssue ho hx ((if_neg htile).trans (if_pos hempty))

end

/-- Settles O25: both forms are `cbufBody`, which asks first for the tile and then for the elements. -/
theorem tileAccesses : Obligations.TileAccesses := by
  intro h col d acc b k s t g
  have hl := cbufIssue_eq "LDC" h false col d acc b k s
  have hs := cbufIssue_eq "STC" h true col d acc b k s
  exact ⟨fun hr => ⟨cbuf_starts hl hr (.inl rfl), cbuf_no_tile hl hr (.inl rfl), cbuf_out hl hr (.inl rfl)⟩,
    fun hr => ⟨cbuf_starts hs hr (.inl rfl), cbuf_no_tile hs hr (.inl rfl), cbuf_out hs hr (.inl rfl)⟩⟩

end Sys2Proof.Proofs.Buffers
end

section
/-!
SUPPORT. The issue of atomics (R116, R117), and the statement about them that stands in the obligations.
-/

namespace Sys2Proof.Proofs.AtomicIssue

open Sys2Proof Sys2Proof.Machine
open Sys2Proof.Proofs.Flow (exec_done)

/-! ### Quotas -/

/-- Where all the records fit the quota, no lane exceeds it (R109). -/
theorem overQuota_of_fits {room : Nat} {l : List (LaneAcc × List NewRec)} (h : (l.flatMap fun p => p.2).length ≤ room) :
    overQuota room l = [] := by
  induction l generalizing room with
  | nil => rfl
  | cons p r ih =>
    obtain ⟨a, rs⟩ := p
    replace h : rs.length + (r.flatMap fun p => p.2).length ≤ room := by simpa using h
    rw [overQuota, if_neg (by omega), ih (by omega)]

/-! ### The own part of an atomic -/

/-- The accesses of an atomic: each active lane's address, value and comparand, translated for reading and writing (R116).
-/
def atomAccs (op : AOp) (wide : Bool) (m : MemArg) (b k : Src) (c : Ctl) (s : State) : List LaneAcc :=
  (c.addrs m false (4 * if wide then 2 else 1)).map fun p =>
    ⟨p.1, p.2, (c.aval wide b p.1).setWidth 128, if op = .cas then c.aval wide k p.1 else 0,
      xlate s (some c.t.core) c.t.ctx p.2 true true false⟩

/-- The record that a lane of a RED makes (R117). -/
def redRec (op : AOp) (wide : Bool) (c : Ctl) (a : LaneAcc) : NewRec :=
  ⟨op, wide, a.x.key, recValue c.g.r.fmode op (a.b.setWidth 64)⟩

/-- The lanes of a RED that make records (R117). -/
def redLanes (ls : List LaneAcc) : List LaneAcc := ls.filter fun a => (atomFault false a.x).isNone && a.x.isD

/-- An atomic whose addresses are good: the lanes `rl` make records, the lines are dropped, and it goes in flight. -/
def atomGo (op : AOp) (wide : Bool) (o : Ord) (dst : MDst) (rl ls : List LaneAcc) (c : Ctl) (s : State) : Body :=
  let recs := rl.map fun a => (a, [redRec op wide c a])
  let all := recs.flatMap fun p => p.2
  let excess := overQuota (quotaRoom s c.t) recs
  if !excess.isEmpty then lanesTrap c s .defquota excess
  else if sporRoom s c.t.core < all.length then .held
  else
    let s2 := dropLines (if all.isEmpty then s else makeRecs s c.tid c.gid none all) c.t.core c.t.ctx ls
    .done (startOp c (.atom op wide o dst ls c.g.r.fmode) (if ordAcq o then holdMem c s2 else s2))

/-- With its records, an atomic drops the lines, holds what it acquires for, and goes in flight (R116, R177). -/
def atomDone (op : AOp) (wide : Bool) (o : Ord) (dst : MDst) (recs : List NewRec) (ls : List LaneAcc) (c : Ctl)
    (s : State) : State :=
  startOp c (.atom op wide o dst ls c.g.r.fmode)
    (let s2 := dropLines (if recs = [] then s else makeRecs s c.tid c.gid none recs) c.t.core c.t.ctx ls
     if o.code = 1 ∨ o.code = 3 then holdMem c s2 else s2)

theorem atomGo_done {op : AOp} {wide : Bool} {o : Ord} {dst : MDst} {rl : List LaneAcc} (ls : List LaneAcc) {c : Ctl}
    {s : State} (hquota : rl.length ≤ quotaRoom s c.t) (hroom : rl.length ≤ sporRoom s c.t.core) :
    atomGo op wide o dst rl ls c s = .done (atomDone op wide o dst (rl.map (redRec op wide c)) ls c s) := by
  have hall : (rl.map fun a => (a, [redRec op wide c a])).flatMap (fun p => p.2) = rl.map (redRec op wide c) := by
    rw [List.flatMap_map, List.map_eq_flatMap]
  have hexcess : overQuota (quotaRoom s c.t) (rl.map fun a => (a, [redRec op wide c a])) = [] :=
    overQuota_of_fits (by rwa [hall, List.length_map])
  have hheld : ¬ sporRoom s c.t.core < (rl.map (redRec op wide c)).length := by
    rw [List.length_map]
    omega
  have hacq : (ordAcq o = true) = (o.code = 1 ∨ o.code = 3) := by simp [ordAcq]
  unfold atomGo
  simp only [hall, hexcess, if_neg hheld, hacq, List.isEmpty_iff]
  rfl

/-- The own part of ATOM and RED. -/
def atomBody (op : AOp) (wide : Bool) (o : Ord) (dst : Ctl → MDst) (m : MemArg) (b k : Src)
    (lanes : List LaneAcc → List LaneAcc) (c : Ctl) (s : State) : Body :=
  let bad := addrCauses none (4 * if wide then 2 else 1) (c.addrs m false (4 * if wide then 2 else 1))
  if !bad.isEmpty then trapLanes c s false bad
  else atomGo op wide o (dst c) (lanes (atomAccs op wide m b k c s)) (atomAccs op wide m b k c s) c s

theorem atomBody_go {op : AOp} {wide : Bool} {o : Ord} {dst : Ctl → MDst} {m : MemArg} {b k : Src}
    {lanes : List LaneAcc → List LaneAcc} {c : Ctl} (s : State)
    (ha : Aligned (4 * if wide then 2 else 1) (c.addrs m false (4 * if wide then 2 else 1))) :
    atomBody op wide o dst m b k lanes c s =
      atomGo op wide o (dst c) (lanes (atomAccs op wide m b k c s)) (atomAccs op wide m b k c s) c s := by
  simp only [atomBody, addrCauses_nil ha]
  rfl

/-! ### ATOM and RED -/

/-- The facts of ATOM. -/
def atomIss (h : Hdr) (op : AOp) (wide : Bool) (d : Nat) (m : MemArg) (b k : Src) : Iss :=
  { row := "ATOM", h := h, lane := true
    vs := runRegs d (if wide then 2 else 1) ++ addrRegs m false ++ avalRegs wide b ++ (if op = .cas then avalRegs wide k else [])
    ll := true, wr := true, mem := true }

/-- The facts of RED. -/
def redIss (h : Hdr) (wide : Bool) (m : MemArg) (b : Src) : Iss :=
  { row := "RED", h := h, lane := true, vs := addrRegs m false ++ avalRegs wide b, ll := true, wr := false, mem := true }

theorem exec_atom (h : Hdr) (op : AOp) (wide : Bool) (o : Ord) (d : Nat) (m : MemArg) (b k : Src) (s : State) :
    exec (.atom h op wide o d m b k) s = issue (atomIss h op wide d m b k)
      (atomBody op wide o (fun c => vecDst c d (if wide then 2 else 1)) m b k fun _ => []) s := rfl

/-- But for CAS an atomic does not look at its comparand (R116). -/
theorem atomBody_comparand {op : AOp} (hop : op ≠ .cas) (wide : Bool) (o : Ord) (dst : Ctl → MDst) (m : MemArg)
    (b k k' : Src) (lanes : List LaneAcc → List LaneAcc) :
    atomBody op wide o dst m b k lanes = atomBody op wide o dst m b k' lanes := by
  funext c s
  simp only [atomBody, atomAccs, if_neg hop]

theorem exec_red {op : AOp} (hop : op ≠ .cas) (h : Hdr) (wide : Bool) (o : Ord) (m : MemArg) (b k : Src) (s : State) :
    exec (.red h op wide o m b) s =
      issue (redIss h wide m b) (atomBody op wide o (fun _ => .none) m b k redLanes) s := by
  have hvs : [] ++ addrRegs m false ++ avalRegs wide b ++ (if op = .cas then avalRegs wide (.imm 0) else []) =
      addrRegs m false ++ avalRegs wide b := by simp [hop]
  have hx : exec (.red h op wide o m b) s = issue { row := "RED", h := h, lane := true, vs := _, ll := true, wr := false, mem := true }
      (atomBody op wide o (fun _ => .none) m b (.imm 0) redLanes) s := rfl
  rw [hx, hvs, atomBody_comparand hop wide o _ m b _ k]
  rfl

/-- Settles O26: both are `atomBody`; ATOM makes no records, and RED those of its lanes on deferred pages. -/
theorem atomics : Obligations.Atomics := by
  intro h op wide o d m b k s t g
  refine ⟨fun hr ha => ?_, fun hr hop ha hquota hroom => ?_⟩
  · refine exec_done _ hr.toCanIssue (.inl rfl) (exec_atom h op wide o d m b k s) ((atomBody_go _ ha).trans ?_)
    exact atomGo_done _ (Nat.zero_le _) (Nat.zero_le _)
  · refine exec_done _ hr.toCanIssue (.inl rfl) (exec_red hop h wide o m b k s) ((atomBody_go _ ha).trans ?_)
    rw [List.length_map] at hquota hroom
    exact atomGo_done _ hquota hroom

end Sys2Proof.Proofs.AtomicIssue
end

section
/-!
SUPPORT. Waits, counters, remote atomics, fences, commits and barriers at issue (R118 to R128), and the statements about
them that stand in the obligations.
-/

namespace Sys2Proof.Proofs.SyncIssue

open Sys2Proof Sys2Proof.Machine
open Sys2Proof.Proofs.Flow (exec_held exec_stop)

/-! ### One checked address -/

theorem uniCheck_nil {size a : Nat} (h : AddrOk size a) : uniCheck size a = [] := by
  obtain ⟨hal, hlow⟩ := h
  rw [uniCheck, if_neg (by simp [hal]), if_neg (Nat.not_le.mpr hlow)]

section
variable {row : String} {h : Hdr} {wr : Bool} {size : Nat} {a : Src} {off : Int} {x : Instr} {bad : Ctl → Bool}
  {body : Ctl → State → Body} {ok : Ctl → State → Prop} {eff : Ctl → State → State}

/-- With its address good, a uniform memory instruction does what its own part says. -/
theorem uniOp_acts (hx : ∀ s, exec x s = uniOp row h wr size a off body s)
    (ha : ∀ c s, ok c s → AddrOk size (c.uaddr a off)) (hb : ∀ c s, ok c s → body c s = .done (eff c s)) :
    Acts (uniFacts row h wr) x ok eff :=
  acts_of _ hx fun c s hok => by
    simp only [uniCheck_nil (ha c s hok)]
    exact hb c s hok

/-- The same of one that binds a queue, with its queue free for it. -/
theorem uniBind_acts (hx : ∀ s, exec x s = uniBind row h size a off bad body s)
    (hq : ∀ c s, ok c s → bad c = false) (ha : ∀ c s, ok c s → AddrOk size (c.uaddr a off))
    (hb : ∀ c s, ok c s → body c s = .done (eff c s)) : Acts (uniFacts row h false) x ok eff :=
  acts_of _ hx fun c s hok => by
    simp only [uniCheck_nil (ha c s hok), hq c s hok]
    exact hb c s hok

/-- A queue bound by another kind of operation traps before the address is looked at (R76, R393). -/
theorem uniBind_traps (hx : ∀ s, exec x s = uniBind row h size a off bad body s) :
    TrapsWith (uniFacts row h false) x (fun c _ => bad c = true) .qbound :=
  traps_of _ hx fun _ _ hbad => if_pos hbad

end

/-- Settles O27: each form checks its address, and then does what it does; CADD asks for a deferred page, and RATOM for
its queue. -/
theorem countersAndRemoteAtomics : Obligations.CountersAndRemoteAtomics := by
  intro h rel n b64 acq crel poison wide op scope d a q b k off va
  refine ⟨uniOp_acts (fun _ => rfl) (fun _ _ hok => hok) fun _ _ _ => rfl,
    uniOp_acts (fun _ => rfl) (fun _ _ hok => hok) fun _ _ _ => rfl,
    uniOp_acts (fun _ => rfl) (fun _ _ hok => hok.1) fun _ _ hok => if_neg (ne_true_of_eq_false hok.2),
    ?_,
    uniBind_acts (fun _ => rfl) (fun _ _ hok => hok.2.1) (fun _ _ hok => hok.1)
      fun _ _ hok => if_neg (Nat.not_lt.mpr hok.2.2),
    uniBind_traps fun _ => rfl⟩
  intro s t g i c hr ho ha hD
  have hx : exec (.cadd h crel poison scope a b off) s = uniOp "CADD" h false 8 (.reg a) off _ s := rfl
  refine exec_stop _ hr.toCanIssue ho hx ?_
  have hgood : uniCheck 8 (c.uaddr (.reg a) off) = [] := uniCheck_nil ha
  change (if (!(uniCheck 8 (c.uaddr (.reg a) off)).isEmpty) = true then _ else _) = _
  rw [hgood]
  exact if_pos hD

/-- Settles O28: each goes in flight with no condition. -/
theorem fences : Obligations.Fences := by
  intro h scope f
  exact ⟨acts_of _ (fun _ => rfl) fun _ _ _ => rfl, acts_of _ (fun _ => rfl) fun _ _ _ => rfl,
    acts_of _ (fun _ => rfl) fun _ _ _ => rfl, acts_of _ (fun _ => rfl) fun _ _ _ => rfl,
    acts_of _ (fun _ => rfl) fun _ _ _ => rfl, acts_of _ (fun _ => rfl) fun _ _ _ => rfl,
    acts_of _ (fun _ => rfl) fun _ _ _ => rfl⟩

/-! ### COMMIT -/

/-- A COMMIT at a scope is refused to responders, and at team scope to teams whose unit is the grid (R154, R291). -/
def refusedCommit (sc : CScope) (t : Team) : Prop := t.resp ≠ none ∨ (sc = .team ∧ t.d.gridUnit = true)

theorem refusedCommit_iff (sc : CScope) (t : Team) :
    (t.resp.isSome || (sc == .team && t.d.gridUnit)) = true ↔ refusedCommit sc t := by
  simp [refusedCommit, Option.isSome_iff_ne_none]

/-- A COMMIT waits behind four, for room in the log, and behind acknowledged stores (R122, R153). -/
theorem commitWaits_iff (t : Team) (s : State) (core : Nat) :
    (4 ≤ t.d.open' || sporRoom s core = 0 || ackWaits s core) = true ↔
      (4 ≤ t.d.open' ∨ sporRoom s core = 0 ∨ ackWaits s core = true) := by
  simp [or_assoc]

/-- The own part of COMMIT at a scope whose number is `k`. -/
def commitBody (sc : CScope) (k : Nat) (ctr : Option Nat) (c : Ctl) (s : State) : Body :=
  if c.t.resp.isSome || (sc == .team && c.t.d.gridUnit) then emTrap c .commitscope
  else if 4 ≤ c.t.d.open' || sporRoom s c.t.core = 0 || ackWaits s c.t.core then .held
  else
    let p := placeCommit s c.tid sc (some (s.nextId + 1)) (ctr.map fun a => ((c.s a).toNat, c.t.ctx, k))
    .done (startOp c (.commit p.2) p.1)

section
variable {sc : CScope} {k : Nat} {ctr : Option Nat} {c : Ctl} {s : State}

theorem commitBody_refused (h : refusedCommit sc c.t) : commitBody sc k ctr c s = emTrap c .commitscope :=
  if_pos ((refusedCommit_iff sc c.t).mpr h)

theorem commitBody_held (hok : ¬ refusedCommit sc c.t)
    (hw : 4 ≤ c.t.d.open' ∨ sporRoom s c.t.core = 0 ∨ ackWaits s c.t.core = true) :
    commitBody sc k ctr c s = .held :=
  (if_neg fun h => hok ((refusedCommit_iff sc c.t).mp h)).trans
    (if_pos ((commitWaits_iff c.t s c.t.core).mpr hw))

theorem commitBody_placed (hok : ¬ refusedCommit sc c.t)
    (hw : ¬ (4 ≤ c.t.d.open' ∨ sporRoom s c.t.core = 0 ∨ ackWaits s c.t.core = true)) :
    commitBody sc k ctr c s =
      let p := placeCommit s c.tid sc (some (s.nextId + 1)) (ctr.map fun a => ((c.s a).toNat, c.t.ctx, k))
      .done (startOp c (.commit p.2) p.1) :=
  (if_neg fun h => hok ((refusedCommit_iff sc c.t).mp h)).trans
    (if_neg fun h => hw ((commitWaits_iff c.t s c.t.core).mp h))

theorem not_refused (hresp : c.t.resp = none) (hunit : sc = .team → c.t.d.gridUnit = false) :
    ¬ refusedCommit sc c.t := by
  rintro (hr | ⟨hsc, hg⟩)
  · exact hr hresp
  · simp [hunit hsc] at hg

end

/-- A COMMIT of one scope places its commit, traps, or waits, by `commitBody`. -/
theorem commit_at {row : String} {h : Hdr} {sc : CScope} {k : Nat} {ctr : Option Nat} {x : Instr}
    (hx : ∀ s, exec x s = issue (uniFacts row h false) (commitBody sc k ctr) s) :
    Acts (uniFacts row h false) x
        (fun c s => c.t.resp = none ∧ (sc = .team → c.t.d.gridUnit = false) ∧ c.t.d.open' < 4 ∧ 0 < sporRoom s c.t.core ∧
          ackWaits s c.t.core = false)
        (fun c s =>
          let p := placeCommit s c.tid sc (some (s.nextId + 1)) (ctr.map fun a => ((c.s a).toNat, c.t.ctx, k))
          startOp c (.commit p.2) p.1) ∧
      TrapsWith (uniFacts row h false) x
        (fun c _ => c.t.resp ≠ none ∨ (sc = .team ∧ c.t.d.gridUnit = true)) .commitscope ∧
      (∀ s t g, Ready (uniFacts row h false) s t g → TakesEffect (uniFacts row h false) s t g → t.resp = none →
        (sc = .team → t.d.gridUnit = false) → (4 ≤ t.d.open' ∨ sporRoom s t.core = 0 ∨ ackWaits s t.core = true) →
        exec x s = .next s) := by
  refine ⟨acts_of _ hx fun c s hok => ?_, traps_of _ hx fun _ _ hbad => commitBody_refused hbad,
    fun s t g hr ho hresp hunit hw => exec_held _ hr.toCanIssue ho (hx s) (commitBody_held (not_refused hresp hunit) hw)⟩
  obtain ⟨hresp, hunit, hfew, hroom, hack⟩ := hok
  refine commitBody_placed (not_refused hresp hunit) ?_
  rintro (h4 | h0 | ha)
  · omega
  · omega
  · simp [hack] at ha

/-- Settles O29: the three scopes are `commitBody`. -/
theorem commits : Obligations.Commits := by
  intro h ctr go
  exact ⟨commit_at fun _ => rfl, commit_at fun _ => rfl, commit_at fun _ => rfl⟩

/-- Settles O30: BARARV and BARSYNC ask whether the counts differ; BARWT asks nothing. -/
theorem barriers : Obligations.Barriers := by
  intro h b n
  exact ⟨acts_of _ (fun _ => rfl) fun _ _ hsame => if_neg (ne_true_of_eq_false hsame), acts_of _ (fun _ => rfl) fun _ _ _ => rfl,
    acts_of _ (fun _ => rfl) fun _ _ hsame => if_neg (ne_true_of_eq_false hsame), traps_of _ (fun _ => rfl) fun _ _ hdiff => if_pos hdiff,
    traps_of _ (fun _ => rfl) fun _ _ hdiff => if_pos hdiff⟩

end Sys2Proof.Proofs.SyncIssue
end

section
/-!
SUPPORT. Stores that make records and stores on the tape (R109, R272 to R274, R301), and the statement about them that
stands in the obligations.
-/

namespace Sys2Proof.Proofs.TapeStores

open Sys2Proof Sys2Proof.Machine
open Sys2Proof.Proofs.Flow (exec_done exec_stop)
open Sys2Proof.Proofs.Access (accBody accBody_starts ctlAt_rev laneIss exec_st exec_ldLong flag_missing)
open Sys2Proof.Proofs.AtomicIssue (overQuota_of_fits)

/-! ### The parts of a store none of whose lanes faults -/

/-- The records of the lanes, those without any left out (R109, R273). -/
def recsOf (c : Ctl) (store : Bool) (z : SizeCode) (ls : List LaneAcc) : List (LaneAcc × List NewRec) :=
  (ls.map fun a => (a, laneRecs store c.g.e.rev z c.g.r.fmode a)).filter fun p => !p.2.isEmpty

/-- The lanes that take tape positions (R272, R274). -/
def tapeLanes (store : Bool) (z : SizeCode) (ls : List LaneAcc) : List LaneAcc :=
  if store then ls.filter fun a => a.x.isG && decide (4 ≤ sizeBytes z) else []

/-- What the access does to the tape (R301). -/
def planOf (c : Ctl) (store : Bool) (z : SizeCode) (o : Ord) (gl : List LaneAcc) : TapePlan :=
  let bad (a : LaneAcc) : Bool := (memFault c.t.d.gridUnit store c.g.e.rev z o a.x).isSome
  let own := (c.replay.map fun r => r.tape).getD []
  if gl.isEmpty then .go [] c.t.tape
  else if c.g.e.rev then planPop c.t.tape (sizeWords z) own gl bad
  else planPush c.t.tape (c.t.al.tapeb / 16) (sizeWords z) own gl bad

/-- Whether a reverse store commits (R274, R304). -/
def commitsAt (c : Ctl) (store : Bool) (ls : List LaneAcc) : Bool :=
  store && c.g.e.rev && !c.t.d.gridUnit && ls.any fun a => a.x.shadowDfr

/-- An access with its records, its plan and its commit (R109, R154). -/
def memGo (c : Ctl) (s : State) (store : Bool) (z : SizeCode) (o : Ord) (dst : MDst) (ls : List LaneAcc)
    (recs : List (LaneAcc × List NewRec)) (gl : List LaneAcc) (plan : TapePlan) (commit : Bool) : Body :=
  let all := recs.flatMap fun p => p.2
  let excess := overQuota (quotaRoom s c.t) recs
  if !excess.isEmpty then lanesTrap c s .defquota excess
  else match plan with
    | .wait => .held
    | .trap k l => if l.isEmpty then emTrap c k else lanesTrap c s k l
    | .go pos tape =>
      if sporRoom s c.t.core < all.length + bit commit ∨ (commit ∧ 4 ≤ c.t.d.open') then .held
      else
        let p := if commit then placeCommit s c.tid .team none none else (s, 0)
        let s := if all.isEmpty then p.1 else makeRecs p.1 c.tid c.gid none all
        let s := if gl.isEmpty then s else updTeam s c.tid fun t => { t with tape := tape }
        .done (startOp c (.mem store z o c.g.e.rev dst ls c.g.r.fmode pos (if commit then some p.2 else none)) s)

/-- Where no lane faults, nothing is logged and nothing is acquired, an access is its parts. -/
theorem memStart_parts {c : Ctl} {s : State} {store : Bool} {z : SizeCode} {o : Ord} {dst : MDst}
    {data : Nat → BitVec 128} {as : List (Nat × Nat)}
    (hgood : ∀ a ∈ accsAt c s (!store) store data as, memFault c.t.d.gridUnit store c.g.e.rev z o a.x = none)
    (hdbg : (c.dbg && store) = false) (hord : (!store && o.code == 1) = false) :
    memStart c s store z o dst data as =
      let ls := accsAt c s (!store) store data as
      memGo c s store z o dst ls (recsOf c store z ls) (tapeLanes store z ls) (planOf c store z o (tapeLanes store z ls))
        (commitsAt c store ls) := by
  unfold memStart
  rw [show (as.map fun p : Nat × Nat =>
      (⟨p.1, p.2, data p.1, 0, xlate s (some c.t.core) c.t.ctx p.2 (!store) store false⟩ : LaneAcc)) =
      accsAt c s (!store) store data as from rfl]
  generalize accsAt c s (!store) store data as = ls at *
  have hall : (ls.filter fun a => !(memFault c.t.d.gridUnit store c.g.e.rev z o a.x).isSome) = ls := by
    rw [List.filter_eq_self]
    intro a ha
    simp [hgood a ha]
  simp only [hall, hdbg, hord]
  rfl

/-! ### Records -/

section
variable {c : Ctl} {s : State} {store : Bool} {z : SizeCode} {o : Ord} {dst : MDst} {ls gl : List LaneAcc}
  {recs : List (LaneAcc × List NewRec)} {commit : Bool}

theorem recsOf_nil (h : ∀ a ∈ ls, laneRecs store c.g.e.rev z c.g.r.fmode a = []) : recsOf c store z ls = [] := by
  rw [recsOf, List.filter_eq_nil_iff]
  intro p hp
  obtain ⟨a, ha, rfl⟩ := List.mem_map.mp hp
  simp [h a ha]

theorem recsOf_all {f : LaneAcc → List NewRec}
    (h : ∀ a ∈ ls, laneRecs store c.g.e.rev z c.g.r.fmode a = f a ∧ f a ≠ []) :
    recsOf c store z ls = ls.map fun a => (a, f a) := by
  have hmap : (ls.map fun a => (a, laneRecs store c.g.e.rev z c.g.r.fmode a)) = ls.map fun a => (a, f a) :=
    List.map_congr_left fun a ha => by rw [(h a ha).1]
  rw [recsOf, hmap, List.filter_eq_self]
  intro p hp
  obtain ⟨a, ha, rfl⟩ := List.mem_map.mp hp
  simpa using (h a ha).2

/-- With one record a lane, the lanes beyond the room exceed the quota (R109). -/
theorem overQuota_singles (f : LaneAcc → NewRec) : ∀ (room : Nat) (ls : List LaneAcc),
    overQuota room (ls.map fun a => (a, [f a])) = ls.drop room
  | _, [] => by simp [overQuota]
  | 0, a :: r => by simp [overQuota, Function.comp_def]
  | room + 1, a :: r => by
    simp only [List.map_cons, overQuota, List.length_singleton, List.drop_succ_cons]
    rw [if_neg (by omega), Nat.add_sub_cancel, overQuota_singles f room r]

/-- Records that the quota and the Sporangium have room for are made (R109). -/
theorem memGo_records (hq : (recs.flatMap fun p => p.2).length ≤ quotaRoom s c.t)
    (hs : (recs.flatMap fun p => p.2).length ≤ sporRoom s c.t.core) (hne : (recs.flatMap fun p => p.2) ≠ [])
    (tape : List TapePos) :
    memGo c s store z o dst ls recs [] (.go [] tape) false =
      .done (startOp c (.mem store z o c.g.e.rev dst ls c.g.r.fmode [] none)
        (makeRecs s c.tid c.gid none (recs.flatMap fun p => p.2))) := by
  unfold memGo
  simp only [overQuota_of_fits hq]
  generalize (recs.flatMap fun p => p.2) = all at hs hne
  simp [bit, Nat.not_lt.mpr hs, hne]

theorem memGo_excess {plan : TapePlan} (h : overQuota (quotaRoom s c.t) recs ≠ []) :
    memGo c s store z o dst ls recs gl plan commit = lanesTrap c s .defquota (overQuota (quotaRoom s c.t) recs) :=
  if_pos (by simpa using h)

/-! ### Tape positions -/

theorem memGo_go {pos : List (Nat × Nat × Nat)} {tape : List TapePos} (hgl : gl ≠ [])
    (hroom : bit commit ≤ sporRoom s c.t.core) (hopen : commit = true → c.t.d.open' < 4) :
    memGo c s store z o dst ls [] gl (.go pos tape) commit =
      let p := if commit then placeCommit s c.tid .team none none else (s, 0)
      .done (startOp c (.mem store z o c.g.e.rev dst ls c.g.r.fmode pos (if commit then some p.2 else none))
        (updTeam p.1 c.tid fun t => { t with tape := tape })) := by
  have hfree : ¬ (sporRoom s c.t.core < 0 + bit commit ∨ (commit = true ∧ 4 ≤ c.t.d.open')) := by
    rintro (h | ⟨hc, h⟩)
    · omega
    · exact absurd (hopen hc) (Nat.not_lt.mpr h)
  have hgl' : gl.isEmpty = false := by simpa using hgl
  simp only [memGo, overQuota, List.isEmpty_nil, Bool.not_true, Bool.false_eq_true, if_false, List.flatMap_nil,
    List.length_nil, if_neg hfree, if_true, hgl']

theorem memGo_trap {k : Cause} :
    memGo c s store z o dst ls [] gl (.trap k []) commit = emTrap c k := rfl

theorem tapeLanes_all (h4 : 4 ≤ sizeBytes z) (h : ∀ a ∈ ls, a.x.isG = true) : tapeLanes true z ls = ls := by
  rw [tapeLanes, if_pos rfl, List.filter_eq_self]
  intro a ha
  simp [h a ha, h4]

theorem tapeLanes_none (h : store = true → ∀ a ∈ ls, a.x.isG = false) : tapeLanes store z ls = [] := by
  unfold tapeLanes
  split
  · rw [List.filter_eq_nil_iff]
    intro a ha
    simp [h ‹_› a ha]
  · rfl

end

/-- The words of an access of 32 bits, in push order (R272). -/
theorem pushOrder_one (ls : List LaneAcc) : pushOrder ls 1 = ls.map fun a => (a.lane, 0) := by
  rw [List.map_eq_flatMap]
  rfl

theorem posOf_nil (lane j : Nat) : posOf [] lane j = none := rfl

/-- Without a replay every lane takes positions of its own (R301). -/
theorem freshLanes (ls : List LaneAcc) : (ls.filter fun a => (posOf [] a.lane 0).isNone) = ls := by
  simp [posOf_nil]

section
variable {tape : List TapePos} {cap : Nat} {ls : List LaneAcc} {bad : LaneAcc → Bool}

theorem planPush_full (h : cap < tape.length + ls.length) : planPush tape cap 1 [] ls bad = .trap .tapefull [] := by
  simp only [planPush, freshLanes, pushOrder_one, List.length_map, if_pos h]

/-- The position that the lane numbered `k` of a push takes (R301). -/
theorem pushed_at (ls : List LaneAcc) (k : Nat) :
    ((ls.map fun a => (a.lane, 0)).getD k (0, 0)).1 = (ls.map fun a => a.lane).getD k 0 ∧
      ((ls.map fun a => (a.lane, 0)).getD k (0, 0)).2 = 0 := by
  simp only [List.getD_eq_getElem?_getD, List.getElem?_map]
  cases ls[k]? <;> simp

/-- Each lane takes the next position above the highest in use (R272, R301). -/
theorem planPush_go (hgood : ∀ a ∈ ls, bad a = false) (h : tape.length + ls.length ≤ cap) :
    planPush tape cap 1 [] ls bad =
      .go ((List.range ls.length).map fun k => ((ls.map fun a => a.lane).getD k 0, 0, tape.length + k))
        (tape ++ List.replicate ls.length .taken) := by
  have hkind : ∀ lane : Nat, ((ls.find? fun a => a.lane == lane).map fun a =>
      if bad a then TapePos.hole else .taken).getD .taken = .taken := by
    intro lane
    cases hf : ls.find? fun a => a.lane == lane with
    | none => rfl
    | some a => simp [hgood a (List.mem_of_find?_eq_some hf)]
  simp only [planPush, freshLanes, pushOrder_one, List.length_map, if_neg (Nat.not_lt.mpr h), List.foldl_nil,
    List.nil_append, hkind, List.map_map, pushed_at]
  congr 2
  exact List.map_const' ..

end

/-! ### Taking positions back -/

/-- On a tape that ends in filled positions the top ones are those, the last first (R301). -/
theorem topPositions_filled (low : List TapePos) (rs : List (BitVec 128)) :
    topPositions (low ++ rs.map TapePos.filled) rs.length =
      (List.range rs.length).reverse.map fun i => (low.length + i, .take (rs.getD i 0)) := by
  have hat : ∀ i ∈ (List.range rs.length).reverse, popAt ((low ++ rs.map TapePos.filled).getD (low.length + i) .free) =
      .take (rs.getD i 0) := by
    intro i hi
    have hlt : i < rs.length := by simpa using hi
    simp [List.getD_eq_getElem?_getD, hlt, popAt]
  have htop : (((List.range rs.length).map (low.length + ·)).reverse.map fun i =>
      (i, popAt ((low ++ rs.map TapePos.filled).getD i .free))) =
      (List.range rs.length).reverse.map fun i => (low.length + i, .take (rs.getD i 0)) := by
    rw [← List.map_reverse, List.map_map]
    exact List.map_congr_left fun i hi => by simp only [Function.comp_apply, hat i hi]
  rw [topPositions, List.length_append, List.length_map, List.range_add, List.reverse_append, List.map_append,
    List.filter_append, htop, List.filter_eq_self.mpr, List.take_left']
  · simp
  · intro p hp
    obtain ⟨i, -, rfl⟩ := List.mem_map.mp hp
    rfl

/-- The positions of a reverse store of 32-bit words above `b`: the highest for the highest lane (R274). -/
def popPos (b : Nat) (ls : List LaneAcc) : List (Nat × Nat × Nat) :=
  (List.range ls.length).map fun k => ((ls.map fun a => a.lane).getD (ls.length - 1 - k) 0, 0, b + ls.length - 1 - k)

/-- The one element that satisfies a predicate is the one found. -/
theorem find?_eq_of_unique {α : Type} {p : α → Bool} {l : List α} {x : α} (hx : x ∈ l) (hp : p x = true)
    (hu : ∀ y ∈ l, p y = true → y = x) : l.find? p = some x := by
  cases hf : l.find? p with
  | none => exact absurd hp (by simpa using List.find?_eq_none.mp hf x hx)
  | some y => rw [hu y (List.mem_of_find?_eq_some hf) (List.find?_some hf)]

/-- A lane's word takes the position that its place among the lanes gives. -/
theorem posOf_popPos {ls : List LaneAcc} (b : Nat) (hnd : (ls.map fun a => a.lane).Nodup) {k : Nat} {a : LaneAcc}
    (hk : ls[k]? = some a) : posOf (popPos b ls) a.lane 0 = some (b + k) := by
  obtain ⟨hlt, hak⟩ := List.getElem?_eq_some_iff.mp hk
  have hlane : ∀ j, j < ls.length → (ls.map fun a => a.lane).getD j 0 = a.lane → j = k := by
    intro j hj he
    have hge : (ls.map fun a => a.lane)[j]'(by simpa using hj) = (ls.map fun a => a.lane)[k]'(by simpa using hlt) := by
      rw [List.getD_eq_getElem?_getD, List.getElem?_eq_getElem (by simpa using hj)] at he
      simpa [hak] using he
    exact (List.Nodup.getElem_inj_iff hnd).mp hge
  have hfind : (popPos b ls).find? (fun p => p.1 == a.lane && p.2.1 == 0) = some (a.lane, 0, b + k) := by
    refine find?_eq_of_unique (List.mem_map.mpr ⟨ls.length - 1 - k, by simp; omega, ?_⟩) (by simp) ?_
    · have hback : ls.length - 1 - (ls.length - 1 - k) = k := by omega
      rw [hback]
      simp [List.getD_eq_getElem?_getD, hk]
      omega
    · intro y hy hp
      obtain ⟨j, hj, rfl⟩ := List.mem_map.mp hy
      have hj' : j < ls.length := by simpa using hj
      have hl : (ls.map fun a => a.lane).getD (ls.length - 1 - j) 0 = a.lane := by simpa using hp
      have hjk := hlane (ls.length - 1 - j) (by omega) hl
      rw [hl]
      congr 2
      omega
  rw [posOf, hfind]
  rfl

/-- Replacing each lane's position, one after the other, replaces them all. -/
theorem foldl_tapePut {low : List TapePos} {ls : List LaneAcc} (f g : LaneAcc → TapePos) (at' : LaneAcc → Option Nat)
    (hat : ∀ k a, ls[k]? = some a → at' a = some (low.length + k)) (done rest : List LaneAcc) (h : ls = done ++ rest) :
    rest.foldl (fun l a => match at' a with | some i => tapePut l i (g a) | none => l) (low ++ done.map g ++ rest.map f) =
      low ++ ls.map g := by
  induction rest generalizing done with
  | nil => simp [h]
  | cons a r ih =>
    have hk : at' a = some (low.length + done.length) := hat done.length a (by simp [h])
    have hset : tapePut (low ++ done.map g ++ (a :: r).map f) (low.length + done.length) (g a) =
        low ++ (done ++ [a]).map g ++ r.map f := by
      rw [tapePut, List.set_append_right _ _ (by simp)]
      simp
    rw [List.foldl_cons, hk]
    simp only [hset]
    exact ih (done ++ [a]) (by simp [h])

theorem planPop_empty {ls : List LaneAcc} (hne : ls ≠ []) (bad : LaneAcc → Bool) :
    planPop [] 1 [] ls bad = .trap .tapeempty [] := by
  have hpos : 0 < ls.length := List.length_pos_iff.mpr hne
  simp [planPop, freshLanes, pushOrder_one, topPositions, hpos]

/-- The records that stand on top of the tape are taken, the highest for the highest lane (R274, R301). -/
theorem planPop_go {low : List TapePos} {ls : List LaneAcc} {bad : LaneAcc → Bool} {recOf : Nat → BitVec 128}
    (hgood : ∀ a ∈ ls, bad a = false) (hnd : (ls.map fun a => a.lane).Nodup)
    (hpa : ∀ a ∈ ls, recPa (recOf a.lane) = keyPa a.x.key) :
    planPop (low ++ ls.map fun a => .filled (recOf a.lane)) 1 [] ls bad =
      .go (popPos low.length ls) (low ++ ls.map fun a => .popping (recOf a.lane)) := by
  have htop : topPositions (low ++ ls.map fun a => .filled (recOf a.lane)) ls.length =
      (List.range ls.length).reverse.map fun i =>
        (low.length + i, .take ((ls.map fun a => recOf a.lane).getD i 0)) := by
    have h := topPositions_filled low (ls.map fun a => recOf a.lane)
    simpa [Function.comp_def] using h
  have hpos : ((List.range ls.length).map fun i =>
      ((((ls.map fun a => (a.lane, 0)).reverse).getD i (0, 0)).1, (((ls.map fun a => (a.lane, 0)).reverse).getD i (0, 0)).2,
        (((List.range ls.length).reverse.map fun i =>
          (low.length + i, PopAt.take ((ls.map fun a => recOf a.lane).getD i 0))).getD i (0, .skip)).1)) =
      popPos low.length ls := by
    refine List.map_congr_left fun i hi => ?_
    have hlt : i < ls.length := List.mem_range.mp hi
    have hlt' : ls.length - 1 - i < ls.length := by omega
    simp [List.getD_eq_getElem?_getD, hlt, hlt']
    omega
  have hrec : ∀ k a, ls[k]? = some a → (low ++ ls.map fun a => TapePos.filled (recOf a.lane)).getD (low.length + k) .free =
      .filled (recOf a.lane) := by
    intro k a hk
    rw [List.getD_eq_getElem?_getD, List.getElem?_append_right (Nat.le_add_right ..)]
    simp [hk]
  have hown : ∀ a ∈ ls, ∃ k, ls[k]? = some a := fun a ha => List.mem_iff_getElem?.mp ha
  simp only [planPop, freshLanes, pushOrder_one, List.length_reverse, List.length_map, htop]
  simp only [List.length_range, List.nil_append, hpos]
  rw [if_neg (Nat.lt_irrefl _), if_neg (by simp), if_neg (by simp)]
  refine (if_pos ?_).trans (congrArg _ ?_)
  · rw [List.isEmpty_iff, List.filter_eq_nil_iff]
    intro a ha
    obtain ⟨k, hk⟩ := hown a ha
    simp only [List.range_one, List.any_cons, List.any_nil, posOf_popPos low.length hnd hk, hrec k a hk]
    simp [hpa a ha]
  · refine (List.foldl_ext _ (fun l a => match posOf (popPos low.length ls) a.lane 0 with
      | some i => tapePut l i (.popping (recOf a.lane))
      | none => l) _ fun l a ha => ?_).trans ?_
    · obtain ⟨k, hk⟩ := hown a ha
      simp only [List.range_one, List.foldl_cons, List.foldl_nil, posOf_popPos low.length hnd hk, hrec k a hk,
        hgood a ha, Bool.false_eq_true, if_false]
    · have h := foldl_tapePut (low := low) (fun a => .filled (recOf a.lane)) (fun a => .popping (recOf a.lane))
        (fun a => posOf (popPos low.length ls) a.lane 0) (fun k a hk => posOf_popPos low.length hnd hk) [] ls rfl
      simpa using h

/-! ### What the pages of a lane say -/

theorem memFault_deferred {x : Xl} (gridU store rev : Bool) (o : Ord) (h : x.isD = true ∧ x.isG = false) :
    memFault gridU store rev .b32 o x = none := by
  obtain ⟨hD, hG⟩ := h
  rcases x with ⟨k, g⟩ | ⟨k, l, d, sh⟩
  · cases hD
  · cases sh with
    | none => simp [memFault, sizeBytes]
    | some p => cases hG

/-- A store of 32 bits to a deferred page makes one record (R109, R149). -/
theorem laneRecs_store_word {rev : Bool} {fmode : BitVec 8} {a : LaneAcc} (h : a.x.isD = true ∧ a.x.isG = false) :
    laneRecs true rev .b32 fmode a = [⟨.xchg, false, a.x.key, BitVec.ofNat 64 (a.b.toNat % 2 ^ 32)⟩] := by
  obtain ⟨hD, hG⟩ := h
  unfold laneRecs
  rcases hx : a.x with ⟨k, g⟩ | ⟨k, l, d, sh⟩
  · simp [hx, Xl.isD] at hD
  · simp only [hx, Xl.isD] at hD
    have hsh : sh = none := by simpa [hx, Xl.isG] using hG
    subst hD hsh
    rfl

/-- A store to a differentiable page makes no record (R109). -/
theorem laneRecs_store_tape {rev : Bool} {z : SizeCode} {fmode : BitVec 8} {a : LaneAcc} (h : a.x.isG = true) :
    laneRecs true rev z fmode a = [] := by
  unfold laneRecs
  rcases hx : a.x with ⟨k, g⟩ | ⟨k, l, d, sh⟩
  · rfl
  · cases sh with
    | none => simp [hx, Xl.isG] at h
    | some p => simp

/-- The records of a lane of a reverse-mode load: one a word, the add of its adjoint (R273). -/
def adjointRecs (fmode : BitVec 8) (z : SizeCode) (a : LaneAcc) : List NewRec :=
  (List.range (sizeBytes z / 4)).map fun j =>
    ⟨.fadd, false, ((a.x.shadow j).map fun p => p.1).getD 0, recValue fmode .fadd ((wordAt a.b j).setWidth 64)⟩

theorem laneRecs_reverse_load {gridU : Bool} {z : SizeCode} {o : Ord} {fmode : BitVec 8} {a : LaneAcc}
    (h : a.x.isG = true ∧ a.x.shadowDfr = true ∧ memFault gridU false true z o a.x = none) :
    laneRecs false true z fmode a = adjointRecs fmode z a ∧ adjointRecs fmode z a ≠ [] := by
  obtain ⟨hG, hS, hF⟩ := h
  rcases hx : a.x with ⟨k, g⟩ | ⟨k, l, d, sh⟩
  · simp [hx, memFault] at hF
  · obtain - | ⟨sk, sd⟩ := sh
    · simp [hx, Xl.isG] at hG
    · have hsd : sd = true := by simpa [hx, Xl.shadowDfr] using hS
      subst hsd
      have hsize : ¬ sizeBytes z < 4 := by
        intro hlt
        simp [hx, memFault, hlt] at hF
      have hword : sizeBytes z / 4 ≠ 0 := by omega
      refine ⟨?_, by simp [adjointRecs, hword]⟩
      simp [laneRecs, adjointRecs, hx, sizeWords, Xl.shadow]

/-! ### The four accesses -/

section
variable {c : Ctl} {s : State} {o : Ord} {dst : MDst} {data : Nat → BitVec 128} {as : List (Nat × Nat)}

/-- The record of a lane's word on a deferred page (R109, R149). -/
def wordRec (a : LaneAcc) : NewRec := ⟨.xchg, false, a.x.key, BitVec.ofNat 64 (a.b.toNat % 2 ^ 32)⟩

/-- A forward store of words to deferred pages, in its parts. -/
theorem memStart_deferred (hrev : c.g.e.rev = false) (hdbg : c.dbg = false)
    (hD : ∀ a ∈ accsAt c s false true data as, a.x.isD = true ∧ a.x.isG = false) :
    memStart c s true .b32 o dst data as =
      let ls := accsAt c s false true data as
      memGo c s true .b32 o dst ls (ls.map fun a => (a, [wordRec a])) [] (.go [] c.t.tape) false := by
  have hparts := memStart_parts (c := c) (s := s) (store := true) (z := .b32) (o := o) (dst := dst) (data := data) (as := as)
    (fun a ha => memFault_deferred _ _ _ _ (hD a ha)) (by simp [hdbg]) rfl
  rw [hparts]
  simp only [Bool.not_true]
  rw [tapeLanes_none fun _ a ha => (hD a ha).2, recsOf_all fun a ha =>
    ⟨laneRecs_store_word (hD a ha), List.cons_ne_nil _ _⟩]
  simp only [commitsAt, hrev, planOf]
  rfl

/-- A reverse load of words whose adjoints are deferred, in its parts. -/
theorem memStart_adjoint {z : SizeCode} (hrev : c.g.e.rev = true) (hord : o.code ≠ 1)
    (hG : ∀ a ∈ accsAt c s true false data as,
      a.x.isG = true ∧ a.x.shadowDfr = true ∧ memFault c.t.d.gridUnit false true z o a.x = none) :
    memStart c s false z o dst data as =
      let ls := accsAt c s true false data as
      memGo c s false z o dst ls (ls.map fun a => (a, adjointRecs c.g.r.fmode z a)) [] (.go [] c.t.tape) false := by
  have hparts := memStart_parts (c := c) (s := s) (store := false) (z := z) (o := o) (dst := dst) (data := data) (as := as)
    (fun a ha => hrev ▸ (hG a ha).2.2) (by simp) (by simpa using hord)
  rw [hparts]
  simp only [Bool.not_false]
  rw [tapeLanes_none (by simp), recsOf_all fun a ha => hrev ▸ laneRecs_reverse_load (hG a ha)]
  rfl

/-- A store of words to differentiable pages, in its parts. -/
theorem memStart_tape (hdbg : c.dbg = false) (hG : ∀ a ∈ accsAt c s false true data as,
      a.x.isG = true ∧ memFault c.t.d.gridUnit true c.g.e.rev .b32 o a.x = none) :
    memStart c s true .b32 o dst data as =
      let ls := accsAt c s false true data as
      memGo c s true .b32 o dst ls [] ls (planOf c true .b32 o ls) (commitsAt c true ls) := by
  have hparts := memStart_parts (c := c) (s := s) (store := true) (z := .b32) (o := o) (dst := dst) (data := data) (as := as)
    (fun a ha => (hG a ha).2) (by simp [hdbg]) rfl
  rw [hparts]
  simp only [Bool.not_true]
  rw [tapeLanes_all (by decide) fun a ha => (hG a ha).1, recsOf_nil fun a ha => laneRecs_store_tape (hG a ha).1]

end

theorem flatMap_singles (f : LaneAcc → NewRec) (ls : List LaneAcc) :
    ((ls.map fun a => (a, [f a])).flatMap fun p => p.2) = ls.map f := by
  rw [List.flatMap_map, List.map_eq_flatMap]

/-- An instruction has each lane once. -/
theorem accsAt_lanes_nodup (c : Ctl) (s : State) (r w : Bool) (data : Nat → BitVec 128) (m : MemArg) (abuf : Bool)
    (size : Nat) : ((accsAt c s r w data (c.addrs m abuf size)).map fun a => a.lane).Nodup := by
  have hlanes : ((accsAt c s r w data (c.addrs m abuf size)).map fun a => a.lane) = lanesOf c.act := by
    simp [accsAt, Ctl.addrs, Function.comp_def]
  rw [hlanes]
  exact List.nodup_range.filter _

/-- An instruction whose own part traps on `em` raises its cause at its address (R392). -/
theorem exec_emTrap {i : Iss} {x : Instr} {s : State} {t : Team} {g : Group} {k : Cause} (body : Ctl → State → Body)
    (h : CanIssue i s t g) (ho : TakesEffect i s t g) (hx : exec x s = issue i body s)
    (hb : body (ctlAt i s t g) (atIssue i s t g) = emTrap (ctlAt i s t g) k) :
    exec x s = .next (raisePrecise (atIssue i s t g) t.uid g.gid g.r.pc { cause := k, mask := (ctlAt i s t g).em }) := by
  rw [hx, issue_ready h ho, hb, emTrap, ctlAt_pc]

/-! ### The statement -/

/-- The first part of O23: stores to deferred pages. -/
theorem deferredStore (h : Hdr) (d : Nat) (m : MemArg) (s : State) (t : Team) (g : Group) :
    let f := laneIss "ST" h false .b32 d m
    let c := ctlAt f s t g
    let s1 := atIssue f s t g
    let as := c.addrs m false 4
    let ls := accsAt c s1 false true (fun l => c.data d 1 l) as
    Ready f s t g → Aligned 4 as → g.e.rev = false → c.dbg = false → ls ≠ [] →
      (∀ a ∈ ls, a.x.isD = true ∧ a.x.isG = false) →
      ((ls.map wordRec).length ≤ quotaRoom s1 c.t → (ls.map wordRec).length ≤ sporRoom s1 t.core →
        exec (.st h d m) s = .next (retire f c
          (startOp c (.mem true .b32 ⟨0, 0⟩ false .none ls c.g.r.fmode [] none)
            (makeRecs s1 t.uid g.gid none (ls.map wordRec))) c.next 0)) ∧
      (quotaRoom s1 c.t < (ls.map wordRec).length →
        exec (.st h d m) s = .next (raiseRec s1 t.uid g.gid true (wonRec c.g c.pc (winner none
          ((ls.drop (quotaRoom s1 c.t)).map fun a => ⟨a.lane, causeCode .defquota, a.va⟩))) none)) := by
  intro f c s1 as ls hr ha hrev hdbg hne hD
  have hrev' : c.g.e.rev = false := (ctlAt_rev f s t g).trans hrev
  have hbody := (accBody_starts (uni := false) (store := true) (z := .b32) (o := ⟨0, 0⟩) (dst := fun c => vecDst c d 1)
    (data := fun c l => c.data d 1 l) (as := fun c => c.addrs m false 4) (c := c) s1 (by simp [hrev']) ha).trans
    (memStart_deferred hrev' hdbg hD)
  refine ⟨fun hq hs => ?_, fun hover => ?_⟩
  · refine exec_done _ hr.toCanIssue (.inl rfl) (exec_st h d m s) (hbody.trans ?_)
    refine (memGo_records ?_ ?_ ?_ _).trans ?_
    · rwa [flatMap_singles]
    · rwa [flatMap_singles]
    · rw [flatMap_singles]
      simpa using hne
    · rw [flatMap_singles, hrev']
      rfl
  · refine exec_stop _ hr.toCanIssue (.inl rfl) (exec_st h d m s) (hbody.trans ?_)
    have hdrop := overQuota_singles wordRec (quotaRoom s1 c.t) ls
    have hsome : ls.drop (quotaRoom s1 c.t) ≠ [] := by simpa using hover
    refine (memGo_excess (by rwa [hdrop])).trans ?_
    rw [hdrop]
    rfl

/-- The second part of O23: forward stores to differentiable pages. -/
theorem pushStore (h : Hdr) (d : Nat) (m : MemArg) (s : State) (t : Team) (g : Group) :
    let f := laneIss "ST" h false .b32 d m
    let c := ctlAt f s t g
    let s1 := atIssue f s t g
    let as := c.addrs m false 4
    let ls := accsAt c s1 false true (fun l => c.data d 1 l) as
    Ready f s t g → Aligned 4 as → g.e.rev = false → c.dbg = false → g.t.replay = none → ls ≠ [] →
      (∀ a ∈ ls, a.x.isD = false ∧ a.x.isG = true ∧ memFault t.d.gridUnit true false .b32 ⟨0, 0⟩ a.x = none) →
      (t.tape.length + ls.length ≤ t.al.tapeb / 16 →
        exec (.st h d m) s = .next (retire f c
          (startOp c (.mem true .b32 ⟨0, 0⟩ false .none ls c.g.r.fmode
              ((List.range ls.length).map fun k => ((ls.map fun a => a.lane).getD k 0, 0, t.tape.length + k)) none)
            (updTeam s1 t.uid fun x => { x with tape := t.tape ++ List.replicate ls.length .taken })) c.next 0)) ∧
      (t.al.tapeb / 16 < t.tape.length + ls.length →
        exec (.st h d m) s = .next (raisePrecise s1 t.uid g.gid g.r.pc { cause := .tapefull, mask := c.em })) := by
  intro f c s1 as ls hr ha hrev hdbg hreplay hne hG
  have hrev' : c.g.e.rev = false := (ctlAt_rev f s t g).trans hrev
  have hown : c.replay = none := (settled_keeps f s t g).2.2.2.2.2.2.1.trans hreplay
  have hgood : ∀ a ∈ ls, memFault c.t.d.gridUnit true c.g.e.rev .b32 ⟨0, 0⟩ a.x = none := fun a hm =>
    hrev' ▸ (hG a hm).2.2
  have hcommit : commitsAt c true ls = false := by simp [commitsAt, hrev']
  have hplan : planOf c true .b32 ⟨0, 0⟩ ls = planPush t.tape (t.al.tapeb / 16) 1 [] ls
      fun a => (memFault c.t.d.gridUnit true c.g.e.rev .b32 ⟨0, 0⟩ a.x).isSome := by
    rw [planOf, if_neg (by simpa using hne), hrev', hown]
    rfl
  have hbody := (accBody_starts (uni := false) (store := true) (z := .b32) (o := ⟨0, 0⟩) (dst := fun c => vecDst c d 1)
    (data := fun c l => c.data d 1 l) (as := fun c => c.addrs m false 4) (c := c) s1 (by simp [hrev']) ha).trans
    (memStart_tape hdbg fun a hm => ⟨(hG a hm).2.1, hgood a hm⟩)
  refine ⟨fun hroom => ?_, fun hfull => ?_⟩
  · refine exec_done _ hr.toCanIssue (.inl rfl) (exec_st h d m s) (hbody.trans ?_)
    have hgo := (hplan.trans (planPush_go (fun a hm => by simp [hgood a hm]) hroom))
    change memGo c s1 true .b32 _ _ ls [] ls (planOf c true .b32 ⟨0, 0⟩ ls) (commitsAt c true ls) = _
    rw [hgo, hcommit]
    refine (memGo_go hne (Nat.zero_le _) (by simp)).trans ?_
    rw [hrev']
    rfl
  · have htrap : planOf c true .b32 ⟨0, 0⟩ ls = .trap .tapefull [] := hplan.trans (planPush_full hfull)
    have hx : accBody false true .b32 ⟨0, 0⟩ (fun c => vecDst c d 1) (fun c l => c.data d 1 l)
        (fun c => c.addrs m false 4) c s1 = emTrap c .tapefull := by
      refine hbody.trans ?_
      change memGo c s1 true .b32 _ _ ls [] ls (planOf c true .b32 ⟨0, 0⟩ ls) (commitsAt c true ls) = _
      rw [htrap]
      exact memGo_trap
    exact exec_emTrap _ hr.toCanIssue (.inl rfl) (exec_st h d m s) hx

/-- The third part of O23: reverse loads of words whose adjoints are deferred. -/
theorem adjointLoad (h : Hdr) (z : SizeCode) (o : Ord) (d : Nat) (m : MemArg) (s : State) (t : Team) (g : Group) :
    let f := laneIss "LD_LONG" h true z d m
    let c := ctlAt f s t g
    let s1 := atIssue f s t g
    let as := c.addrs m false (sizeBytes z)
    let ls := accsAt c s1 true false (fun l => c.data d (sizeRegs z) l) as
    let recs := ls.flatMap (adjointRecs c.g.r.fmode z)
    Ready f s t g → Aligned (sizeBytes z) as → g.e.rev = true → o.code ≠ 1 → ls ≠ [] →
      (∀ a ∈ ls, a.x.isG = true ∧ a.x.shadowDfr = true ∧ memFault t.d.gridUnit false true z o a.x = none) →
      recs.length ≤ quotaRoom s1 c.t → recs.length ≤ sporRoom s1 t.core →
      exec (.ldLong h z o d m) s = .next (retire f c
        (startOp c (.mem false z o true (vecDst c d (sizeRegs z)) ls c.g.r.fmode [] none)
          (makeRecs s1 t.uid g.gid none recs)) c.next 0) := by
  intro f c s1 as ls recs hr ha hrev hord hne hG hq hs
  have hrev' : c.g.e.rev = true := (ctlAt_rev f s t g).trans hrev
  have hbody := (accBody_starts (uni := false) (store := false) (z := z) (o := o)
    (dst := fun c => vecDst c d (sizeRegs z)) (data := fun c l => c.data d (sizeRegs z) l)
    (as := fun c => c.addrs m false (sizeBytes z)) (c := c) s1 rfl ha).trans (memStart_adjoint hrev' hord hG)
  have hflat : ((ls.map fun a => (a, adjointRecs c.g.r.fmode z a)).flatMap fun p => p.2) = recs := by
    rw [List.flatMap_map]
  have hsome : recs ≠ [] := by
    obtain ⟨a, ha'⟩ := List.exists_mem_of_ne_nil ls hne
    intro hnil
    exact (laneRecs_reverse_load (hG a ha')).2 (List.flatMap_eq_nil_iff.mp hnil a ha')
  refine exec_done _ hr.toCanIssue (.inl rfl) (exec_ldLong h z o d m s) (hbody.trans ?_)
  refine (memGo_records ?_ ?_ ?_ _).trans ?_
  · rwa [hflat]
  · rwa [hflat]
  · rwa [hflat]
  · rw [hflat, hrev']
    rfl

/-- The fourth part of O23: reverse stores to differentiable pages. -/
theorem popStore (h : Hdr) (d : Nat) (m : MemArg) (low : List TapePos) (recOf : Nat → BitVec 128) (s : State) (t : Team)
    (g : Group) :
    let f := laneIss "ST" h false .b32 d m
    let c := ctlAt f s t g
    let s1 := atIssue f s t g
    let as := c.addrs m false 4
    let ls := accsAt c s1 false true (fun l => c.data d 1 l) as
    let n := ls.length
    let commits := !t.d.gridUnit && ls.any fun a => a.x.shadowDfr
    let p := if commits then placeCommit s1 t.uid .team none none else (s1, 0)
    Ready f s t g → Aligned 4 as → g.e.rev = true → c.flag ≠ none → c.dbg = false → g.t.replay = none → ls ≠ [] →
      (∀ a ∈ ls, a.x.isG = true ∧ memFault t.d.gridUnit true true .b32 ⟨0, 0⟩ a.x = none) →
      (t.tape = low ++ ls.map (fun a => .filled (recOf a.lane)) → (∀ a ∈ ls, recPa (recOf a.lane) = keyPa a.x.key) →
        (commits = true → t.d.open' < 4 ∧ 1 ≤ sporRoom s1 t.core) →
        exec (.st h d m) s = .next (retire f c
          (startOp c (.mem true .b32 ⟨0, 0⟩ true (vecDst c d 1) ls c.g.r.fmode
              ((List.range n).map fun k => ((ls.map fun a => a.lane).getD (n - 1 - k) 0, 0, t.tape.length - 1 - k))
              (if commits then some p.2 else none))
            (updTeam p.1 t.uid fun x => { x with tape := low ++ ls.map fun a => .popping (recOf a.lane) })) c.next 0)) ∧
      (t.tape = [] →
        exec (.st h d m) s = .next (raisePrecise s1 t.uid g.gid g.r.pc { cause := .tapeempty, mask := c.em })) := by
  intro f c s1 as ls n commits p hr ha hrev hflag hdbg hreplay hne hG
  have hrev' : c.g.e.rev = true := (ctlAt_rev f s t g).trans hrev
  have hown : c.replay = none := (settled_keeps f s t g).2.2.2.2.2.2.1.trans hreplay
  have hgood : ∀ a ∈ ls, memFault c.t.d.gridUnit true c.g.e.rev .b32 ⟨0, 0⟩ a.x = none := fun a hm =>
    hrev' ▸ (hG a hm).2
  have hcommit : commitsAt c true ls = commits := by
    rw [commitsAt, hrev']
    rfl
  have hplan : planOf c true .b32 ⟨0, 0⟩ ls = planPop t.tape 1 [] ls
      fun a => (memFault c.t.d.gridUnit true c.g.e.rev .b32 ⟨0, 0⟩ a.x).isSome := by
    rw [planOf, if_neg (by simpa using hne), if_pos hrev', hown]
    rfl
  have hbody := (accBody_starts (uni := false) (store := true) (z := .b32) (o := ⟨0, 0⟩) (dst := fun c => vecDst c d 1)
    (data := fun c l => c.data d 1 l) (as := fun c => c.addrs m false 4) (c := c) s1
    (flag_missing fun _ _ => hflag) ha).trans (memStart_tape hdbg fun a hm => ⟨(hG a hm).1, hgood a hm⟩)
  refine ⟨fun htape hpa hroom => ?_, fun hempty => ?_⟩
  · have hlen : t.tape.length = low.length + ls.length := by simp [htape]
    have hgo : planOf c true .b32 ⟨0, 0⟩ ls = .go (popPos low.length ls) (low ++ ls.map fun a => .popping (recOf a.lane)) := by
      rw [hplan, htape]
      exact planPop_go (fun a hm => by simp [hgood a hm]) (accsAt_lanes_nodup ..) hpa
    refine exec_done _ hr.toCanIssue (.inl rfl) (exec_st h d m s) (hbody.trans ?_)
    change memGo c s1 true .b32 _ _ ls [] ls (planOf c true .b32 ⟨0, 0⟩ ls) (commitsAt c true ls) = _
    rw [hgo, hcommit, hlen]
    refine (memGo_go hne ?_ fun h => (hroom h).1).trans ?_
    · cases hc : commits with
      | false => exact Nat.zero_le _
      | true => exact (hroom hc).2
    · rw [hrev']
      rfl
  · have htrap : planOf c true .b32 ⟨0, 0⟩ ls = .trap .tapeempty [] := by
      rw [hplan, hempty]
      exact planPop_empty hne _
    refine exec_emTrap _ hr.toCanIssue (.inl rfl) (exec_st h d m s) (hbody.trans ?_)
    change memGo c s1 true .b32 _ _ ls [] ls (planOf c true .b32 ⟨0, 0⟩ ls) (commitsAt c true ls) = _
    rw [htrap]
    exact memGo_trap

/-- Settles O23: stores to deferred pages, stores to differentiable ones in either mode, and reverse loads. -/
theorem deferredAndTapeStores : Obligations.DeferredAndTapeStores :=
  ⟨deferredStore, pushStore, adjointLoad, popStore⟩

end Sys2Proof.Proofs.TapeStores
end

section
/-!
SUPPORT. Copies, batches, windows, collectives and format selection at issue (R210 to R217), and the statements about them
that stand in the obligations.
-/

namespace Sys2Proof.Proofs.EngineIssue

open Sys2Proof Sys2Proof.Machine
open Sys2Proof.Proofs.Flow (exec_done exec_held)
open Sys2Proof.Proofs.SyncIssue (uniOp_acts uniCheck_nil)
open Sys2Proof.Proofs.TapeStores (exec_emTrap)

/-! ### Copies -/

/-- The command that a copy instruction puts in its core's queue (R210). -/
def copyCmd (x : CopyArg) (dst : Ctl → Dword) (kind : Ctl → State → CKind) (c : Ctl) (s : State) : Copy :=
  { id := s.nextId, ctx := c.t.ctx, owner := some (c.tid, c.gid), node := none, core := c.t.core, kind := kind c s
    dst := dst c, lay := c.s x.lay, coord := copyCoord c x, ctr := x.ctr.map fun n => (c.s n, x.scope)
    op := some (s.nextId + 1), pc := c.pc, form := none, started := 0, running := [], total := 0, failed := none
    ack := false, adds := false, done := false, issued := c.u }

/-- The state with a command queued, in the group's open batch (R210, R213). -/
def copyQueued (k : Copy) (c : Ctl) (s : State) : State :=
  bringTo (updGroup (bumpId { s with work := { s.work with copies := s.work.copies ++ [k] } }) c.tid c.gid
    fun y => { y with e := { y.e with pendCopies := y.e.pendCopies ++ [s.nextId] } }) c.tid c.gid s.nextId (.copy s.nextId)

/-- The own part of a copy instruction. -/
def copyBody (x : CopyArg) (dst : Ctl → Dword) (slot : Option Nat) (kind : Ctl → State → CKind) (c : Ctl) (s : State) :
    Body :=
  if c.act = 0 then .done s
  else if slot.any fun w => decide (c.t.al.slots.length ≤ w) then emTrap c .wslot
  else if !copyRoom s c.t.core then .held
  else .done (startOp c (.copy s.nextId) (copyQueued (copyCmd x dst kind c s) c s))

/-- The facts of a copy instruction. -/
def copyIss (row : String) (h : Hdr) : Iss := { row := row, h := h, lane := true, ll := true, wr := false, mem := true }

section
variable {x : CopyArg} {dst : Ctl → Dword} {slot : Option Nat} {kind : Ctl → State → CKind} {c : Ctl} {s : State}

theorem copyBody_idle (h : c.act = 0) : copyBody x dst slot kind c s = .done s := if_pos h

/-- The slot of a copy is the team's where the check for it fails (R210). -/
theorem slot_beyond_eq_false (h : ∀ w, slot = some w → w < c.t.al.slots.length) :
    (slot.any fun w => decide (c.t.al.slots.length ≤ w)) = false := by
  cases slot with
  | none => rfl
  | some w => exact decide_eq_false (Nat.not_le.mpr (h w rfl))

theorem copyBody_queues (hact : c.act ≠ 0) (hslot : ∀ w, slot = some w → w < c.t.al.slots.length)
    (hroom : copyRoom s c.t.core = true) :
    copyBody x dst slot kind c s = .done (startOp c (.copy s.nextId) (copyQueued (copyCmd x dst kind c s) c s)) := by
  exact (if_neg hact).trans ((if_neg (ne_true_of_eq_false (slot_beyond_eq_false hslot))).trans (if_neg (by simp [hroom])))

theorem copyBody_held (hact : c.act ≠ 0) (hslot : ∀ w, slot = some w → w < c.t.al.slots.length)
    (hroom : copyRoom s c.t.core = false) : copyBody x dst slot kind c s = .held := by
  exact (if_neg hact).trans ((if_neg (ne_true_of_eq_false (slot_beyond_eq_false hslot))).trans (if_pos (by simp [hroom])))

theorem copyBody_traps {w : Nat} (hact : c.act ≠ 0) (hslot : slot = some w) (hbad : c.t.al.slots.length ≤ w) :
    copyBody x dst slot kind c s = emTrap c .wslot := by
  subst hslot
  exact (if_neg hact).trans (if_pos (decide_eq_true hbad))

end

/-- A copy instruction, by `copyBody`. -/
theorem copy_at {row : String} {h : Hdr} {i : Instr} {x : CopyArg} {dst : Ctl → Dword} {slot : Option Nat}
    {kind : Ctl → State → CKind} {s : State} (hx : exec i s = issue (copyIss row h) (copyBody x dst slot kind) s)
    (t : Team) (g : Group) :
    let f := copyIss row h
    let c := ctlAt f s t g
    let s1 := atIssue f s t g
    Ready f s t g →
      (c.act = 0 → exec i s = .next (afterIssue f s t g c.next 0 id [])) ∧
      (c.act ≠ 0 → (∀ w, slot = some w → w < t.al.slots.length) → copyRoom s1 t.core = true →
        ∃ k : Copy, k.id = s.nextId ∧ k.ctx = t.ctx ∧ k.owner = some (t.uid, g.gid) ∧ k.started = 0 ∧ k.running = [] ∧
          k.core = t.core ∧ k.kind = kind c s1 ∧ k.dst = dst c ∧
          k.lay = c.s x.lay ∧ k.coord = copyCoord c x ∧ k.ctr = x.ctr.map (fun n => (c.s n, x.scope)) ∧ k.done = false ∧
          k.form = none ∧ k.failed = none ∧ k.op = some (s.nextId + 1) ∧
          exec i s = .next (retire f c (startOp c (.copy s.nextId) (copyQueued k c s1)) c.next 0)) ∧
      (c.act ≠ 0 → (∀ w, slot = some w → w < t.al.slots.length) → copyRoom s1 t.core = false → exec i s = .next s) ∧
      (∀ w, c.act ≠ 0 → slot = some w → t.al.slots.length ≤ w →
        exec i s = .next (raisePrecise s1 t.uid g.gid g.r.pc { cause := .wslot, mask := c.em })) := by
  intro f c s1 hr
  refine ⟨fun hact => ?_, fun hact hslot hroom => ?_, fun hact hslot hroom => ?_, fun w hact hslot hbad => ?_⟩
  · rw [← done_group hr id fun _ => rfl, updGroup_id]
    exact exec_done _ hr.toCanIssue (.inl rfl) hx (copyBody_idle hact)
  · exact ⟨copyCmd x dst kind c s1, rfl, rfl, rfl, rfl, rfl, rfl, rfl, rfl, rfl, rfl, rfl, rfl, rfl, rfl, rfl,
      exec_done _ hr.toCanIssue (.inl rfl) hx (copyBody_queues hact hslot hroom)⟩
  · exact exec_held _ hr.toCanIssue (.inl rfl) hx (copyBody_held hact hslot hroom)
  · exact exec_emTrap _ hr.toCanIssue (.inl rfl) hx (copyBody_traps hact hslot hbad)

/-- Settles O31: every form is `copyBody`. -/
theorem copyIssue : Obligations.CopyIssue := by
  intro h mode d ws side srca m x s t g go
  have hgo : ∀ row i slot dst kind, exec i s = issue (copyIss row h) (copyBody x dst slot kind) s →
      go row i slot dst kind := fun _ _ _ _ _ hx => copy_at hx t g
  exact ⟨hgo _ _ none (fun c => c.s d) (fun _ _ => .toa) rfl, hgo _ _ none (fun c => c.s d) (fun _ _ => .froma) rfl,
    hgo _ _ (some d) (fun _ => BitVec.ofNat 64 d) (fun _ _ => .tows side) rfl,
    hgo _ _ none (fun c => c.s d) (fun _ _ => .mem) rfl,
    hgo _ _ (some ws) (fun _ => BitVec.ofNat 64 ws) (fun c s => .multicast side (castTargets s c.t ws m)) rfl,
    hgo _ _ none (fun c => c.s d) (fun _ _ => if mode = 0 then .pmem srca else .pwin srca) rfl,
    hgo _ _ none (fun c => c.s d) (fun _ _ => if mode = 0 then .toh else .fromh) rfl⟩

/-! ### Batches and windows -/

/-- The handle of a window gives back its device, core and number (R214). -/
theorem handleParts_window {dev core k : Nat} (hdev : dev < 1024) (hcore : core < 1024) (hk : k < 4) :
    handleParts (dev * 2 ^ 33 + core * 2 ^ 23 + k * 2 ^ 21) = some (dev, core, k) := by
  have htop : bitsAt (dev * 2 ^ 33 + core * 2 ^ 23 + k * 2 ^ 21) 43 21 = 0 := by
    unfold bitsAt
    omega
  have hd : bitsAt (dev * 2 ^ 33 + core * 2 ^ 23 + k * 2 ^ 21) 33 10 = dev := by
    unfold bitsAt
    omega
  have hc : bitsAt (dev * 2 ^ 33 + core * 2 ^ 23 + k * 2 ^ 21) 23 10 = core := by
    unfold bitsAt
    omega
  have hn : bitsAt (dev * 2 ^ 33 + core * 2 ^ 23 + k * 2 ^ 21) 21 2 = k := by
    unfold bitsAt
    omega
  rw [handleParts, htop, hd, hc, hn]
  rfl

/-- The value of a window's handle, which fits in 64 bits. -/
theorem handle_toNat {dev core k : Nat} (hdev : dev < 1024) (hcore : core < 1024) (hk : k < 4) :
    (BitVec.ofNat 64 (dev * 2 ^ 33 + core * 2 ^ 23 + k * 2 ^ 21)).toNat = dev * 2 ^ 33 + core * 2 ^ 23 + k * 2 ^ 21 := by
  rw [BitVec.toNat_ofNat]
  omega

/-- Settles O32: each form asks for what its condition says. -/
theorem batchesAndWindows : Obligations.BatchesAndWindows := by
  intro h d a b n
  refine ⟨acts_of _ (fun _ => rfl) fun _ _ _ => rfl, acts_of _ (fun _ => rfl) fun c s hok => if_neg ?_,
    traps_of _ (fun _ => rfl) fun c s hbad => if_pos ?_, fun k => acts_of _ (fun _ => rfl) fun c s hok => ?_,
    traps_of _ (fun _ => rfl) fun c s hbad => if_pos ?_, acts_of _ (fun _ => rfl) fun c s hok => ?_⟩
  · rcases hok with h0 | hnew
    · simp [h0]
    · simp [hnew]
  · simpa using hbad
  · obtain ⟨hn, hin, hfew, hfree⟩ := hok
    refine (if_neg ?_).trans ?_
    · simp [hn, Nat.not_lt.mpr hin, Nat.not_le.mpr hfew]
    · simp only [hfree]
  · simpa [or_assoc] using hbad
  · obtain ⟨k, hk, hv, hdev, hcore, hmine⟩ := hok
    have hnat : (c.s a).toNat = s.firm.devNum * 2 ^ 33 + c.t.core * 2 ^ 23 + k * 2 ^ 21 := by
      rw [hv, handle_toNat hdev hcore hk]
    refine (if_neg ?_).trans rfl
    rw [hnat, handleParts_window hdev hcore hk]
    simp [hmine]
    omega

/-! ### Collectives and format selection -/

/-- The communicator that a descriptor names (R216). -/
def commAt (a : Nat) (c : Ctl) (s : State) : Nat :=
  match collDesc s c.t.ctx (c.s a) with
  | .ok b => descW b 0x20 % 2 ^ 16
  | .error _ => 0

/-- The own part of a collective, once its address has passed. -/
def collBody (oper ty scope a : Nat) (c : Ctl) (s : State) : Body :=
  if 16 ≤ collsOn s c.t.ctx (commAt a c s) then .held
  else .done (startOp c (.coll s.nextId) (bumpId { s with work := { s.work with
    colls := s.work.colls ++ [newColl s c.t.ctx oper ty scope (some (c.tid, c.gid)) none (c.s a)
      (some (s.nextId + 1)) (commAt a c s) c.pc] } }))

theorem coll_at {row : String} {h : Hdr} {oper ty scope a : Nat} {x : Instr}
    (hx : ∀ s, exec x s = uniOp row h false 64 (.reg a) 0 (collBody oper ty scope a) s) :
    Acts (uniFacts row h false) x
        (fun c s => AddrOk 64 (c.s a + BitVec.ofInt 64 0).toNat ∧ collsOn s c.t.ctx (commAt a c s) < 16)
        (fun c s => startOp c (.coll s.nextId) (bumpId { s with work := { s.work with
          colls := s.work.colls ++ [newColl s c.t.ctx oper ty scope (some (c.tid, c.gid)) none (c.s a)
            (some (s.nextId + 1)) (commAt a c s) c.pc] } })) ∧
      (∀ s t g, let i := uniFacts row h false
        let c := ctlAt i s t g
        Ready i s t g → TakesEffect i s t g → AddrOk 64 (c.s a + BitVec.ofInt 64 0).toNat →
          16 ≤ collsOn (atIssue i s t g) t.ctx (commAt a c (atIssue i s t g)) → exec x s = .next s) := by
  refine ⟨uniOp_acts hx (fun _ _ hok => hok.1) fun _ _ hok => if_neg (Nat.not_le.mpr hok.2), ?_⟩
  intro s t g i c hr ho ha hfull
  refine exec_held _ hr.toCanIssue ho (hx s) ?_
  have hgood : uniCheck 64 (c.uaddr (.reg a) 0) = [] := uniCheck_nil ha
  change (if (!(uniCheck 64 (c.uaddr (.reg a) 0)).isEmpty) = true then _ else _) = _
  rw [hgood]
  exact if_pos hfull

/-- Settles O33: every collective is `collBody`; FMTSEL asks for its address alone. -/
theorem collectivesIssue : Obligations.CollectivesIssue := by
  intro h ty scope d a b opB go
  exact ⟨coll_at fun _ => rfl, coll_at fun _ => rfl, coll_at fun _ => rfl, coll_at fun _ => rfl,
    uniOp_acts (fun _ => rfl) (fun _ _ hok => hok) fun _ _ _ => rfl⟩

end Sys2Proof.Proofs.EngineIssue
end

section
/-!
SUPPORT. Tape, directory, census and near-memory instructions at issue (R276, R277, R287 to R291, R353 to R355), and the
statements about them that stand in the obligations.
-/

namespace Sys2Proof.Proofs.NetworkIssue

open Sys2Proof Sys2Proof.Machine
open Sys2Proof.Proofs.Flow (exec_held)
open Sys2Proof.Proofs.SyncIssue (uniOp_acts uniBind_acts uniBind_traps uniCheck_nil)

/-! ### The tape -/

/-- Where no position is open or in flight, none is open, and none is in flight. -/
theorem settled_positions {l : List TapePos} (h : (l.any fun p => p.isOpen || p.inFlight) = false) :
    l.any TapePos.isOpen = false ∧ l.any TapePos.inFlight = false := by
  simp only [List.any_eq_false, Bool.or_eq_true, not_or] at h ⊢
  exact ⟨fun p hp => (h p hp).1, fun p hp => (h p hp).2⟩

/-- Settles O34: each form asks for what its condition says. -/
theorem tapeInstructions : Obligations.TapeInstructions := by
  intro h d a b
  refine ⟨acts_of _ (fun _ => rfl) fun c s hok => if_neg (ne_true_of_eq_false hok), acts_of _ (fun _ => rfl) fun c s hok => ?_,
    traps_of _ (fun _ => rfl) fun c s hbad => ?_, acts_of _ (fun _ => rfl) fun c s hok => ?_,
    acts_of _ (fun _ => rfl) fun c s hok => ?_, traps_of _ (fun _ => rfl) fun c s hbad => ?_⟩
  · obtain ⟨htop, hmul, hfit, hgone⟩ := hok
    obtain ⟨hopen, hflight⟩ := settled_positions hgone
    have hkeep : ¬ ((c.s a).toNat % 16 != 0 || tapeUsed c.t.tape < (c.s a).toNat) = true := by
      simp [hmul, tapeUsed, Nat.not_lt.mpr hfit]
    exact (if_neg (ne_true_of_eq_false htop)).trans ((if_neg hkeep).trans
      ((if_neg (ne_true_of_eq_false hopen)).trans (if_neg (ne_true_of_eq_false hflight))))
  · obtain ⟨htop, hcount⟩ := hbad
    have hover : ((c.s a).toNat % 16 != 0 || tapeUsed c.t.tape < (c.s a).toNat) = true := by
      rw [Bool.or_eq_true, bne_iff_ne, decide_eq_true_eq]
      exact hcount
    exact (if_neg (ne_true_of_eq_false htop)).trans (if_pos hover)
  · obtain ⟨htape, hrange⟩ := hok
    obtain ⟨hopen, hflight⟩ := settled_positions htape
    refine (if_neg (ne_true_of_eq_false hflight)).trans ?_
    simp only [hrange, hopen]
    rfl
  · obtain ⟨hrange, hmul, hfit⟩ := hok
    have hkeep : ¬ ((c.s b).toNat % 16 != 0 ||
        c.t.al.tapeb / 16 < (tapeTrim c.t.tape).length + (c.s b).toNat / 16) = true := by
      simp [hmul, hfit]
    simp only [hrange]
    exact if_neg hkeep
  · obtain ⟨hrange, hfull⟩ := hbad
    have hover : ((c.s b).toNat % 16 != 0 ||
        c.t.al.tapeb / 16 < (tapeTrim c.t.tape).length + (c.s b).toNat / 16) = true := by
      simpa using hfull
    simp only [hrange]
    exact if_pos hover

/-! ### The directory, censuses and near-memory commands -/

/-- The census that a SOLICIT opens in a slot (R289, R290, R324). -/
def newCensus (op q slot : Nat) (pod : Bool) (x : Src) (c : Ctl) (s : State) : Census :=
  { id := s.nextId, ident := censusIdent s slot, slot := slot, asker := c.tid, ctx := c.t.ctx
    q := q, oper := op, pod := pod, op := some (s.nextId + 1), key := 0, mask := 0, entry := c.srcS x, arg := 0
    bresp := 0, ready := false, visited := [], cores := [], lates := [], late := 0, total := Machine.Part.none op
    reported := [], peers := [], heard := none, done := false, closed := [], peer := none }

/-- A SOLICIT with its slot: its census is open and its queue's entries are reserved (R290, R324). -/
def solicited (op q slot : Nat) (pod : Bool) (x : Src) (c : Ctl) (s : State) : State :=
  startOp c (.solicit s.nextId) (bumpId (updCen (updTeam s c.tid fun y =>
    { y with queues := vset y.queues q (reserve2 .census s.nextId (vget c.t.queues q))
             d := { y.d with opened := s.nextId :: y.d.opened, asked := y.d.asked ++ [(s.nextId, pod)] } })
    fun z => { z with open' := z.open' ++ [newCensus op q slot pod x c s] }))

/-- The own part of SOLICIT, once its queue and address have passed. -/
def solicitBody (op q : Nat) (pod : Bool) (x : Src) (c : Ctl) (s : State) : Body :=
  match freeSlot s with
  | none => .held
  | some slot =>
    if 4 ≤ c.t.d.opened.length || decide (14 < (vget c.t.queues q).ents.length) then .held
    else .done (solicited op q slot pod x c s)

theorem exec_solicit (h : Hdr) (op q : Nat) (pod : Bool) (x : Src) (s : State) :
    exec (.solicit h op pod q x) s =
      uniBind "SOLICIT" h 64 x 0 (fun c => bindBad .census (vget c.t.queues q)) (solicitBody op q pod x) s := rfl

section
variable {op q : Nat} {pod : Bool} {x : Src} {c : Ctl} {s : State}

theorem solicitBody_opens {slot : Nat} (hslot : freeSlot s = some slot) (hfew : c.t.d.opened.length < 4)
    (hroom : (vget c.t.queues q).ents.length ≤ 14) : solicitBody op q pod x c s = .done (solicited op q slot pod x c s) := by
  unfold solicitBody
  rw [hslot]
  exact if_neg (by simp [Nat.not_le.mpr hfew, hroom])

theorem solicitBody_held
    (hbusy : 4 ≤ c.t.d.opened.length ∨ freeSlot s = none ∨ 14 < (vget c.t.queues q).ents.length) :
    solicitBody op q pod x c s = .held := by
  unfold solicitBody
  cases hslot : freeSlot s with
  | none => rfl
  | some slot =>
    refine if_pos ?_
    rcases hbusy with h4 | hnone | hfull
    · simp [h4]
    · simp [hslot] at hnone
    · simp [hfull]

end

/-- Where the queue and the address pass, SOLICIT waits while it finds no room. -/
theorem solicit_waits (h : Hdr) (op q : Nat) (pod : Bool) (x : Src) (s : State) (t : Team) (g : Group) :
    let i := uniFacts "SOLICIT" h false
    let c := ctlAt i s t g
    Ready i s t g → TakesEffect i s t g → AddrOk 64 (c.srcS x + BitVec.ofInt 64 0).toNat →
      bindBad .census (vget t.queues q) = false →
      (4 ≤ t.d.opened.length ∨ freeSlot s = none ∨ 14 < (vget t.queues q).ents.length) →
      exec (.solicit h op pod q x) s = .next s := by
  intro i c hr ho ha hq hbusy
  refine exec_held _ hr.toCanIssue ho (exec_solicit h op q pod x s) ?_
  have hgood : uniCheck 64 (c.uaddr x 0) = [] := uniCheck_nil ha
  have hfree : bindBad .census (vget c.t.queues q) = false := hq
  change (if bindBad .census (vget c.t.queues q) = true then _
    else if (!(uniCheck 64 (c.uaddr x 0)).isEmpty) = true then _ else _) = _
  rw [hgood, hfree]
  exact solicitBody_held hbusy

/-- RESPOND answers once, for a responder (R291). -/
theorem respond (h : Hdr) (a : Nat) :
    Acts (uniFacts "RESPOND" h false) (.respond h a) (fun c _ => ∃ r, c.t.resp = some r ∧ r.answer = none)
        (fun c s => startOp c (.regs []) (updTeam s c.tid fun y =>
          { y with resp := y.resp.map fun r => { r with answer := some (c.s a) } })) ∧
      TrapsWith (uniFacts "RESPOND" h false) (.respond h a)
        (fun c _ => c.t.resp = none ∨ ∃ r, c.t.resp = some r ∧ r.answer ≠ none) .respbad := by
  refine ⟨acts_of _ (fun _ => rfl) fun c s hok => ?_, traps_of _ (fun _ => rfl) fun c s hbad => ?_⟩
  · obtain ⟨r, hr, hnone⟩ := hok
    simp only [hr, hnone]
    rfl
  · rcases hbad with hnone | ⟨r, hr, hsome⟩
    · simp only [hnone]
      rfl
    · simp only [hr, Option.isSome_iff_ne_none.mpr hsome]
      rfl

/-- NMPOST asks for its queue, its address and room; NMGATHER for its three addresses (R353 to R355). -/
theorem nearMemory (h : Hdr) (scope q esz d a b e n : Nat) :
    Acts (uniFacts "NMPOST" h false) (.nmpost h scope none a) (fun c _ => AddrOk 64 (c.s a + BitVec.ofInt 64 0).toNat)
        (fun c s => startOp c (.nmpost s.nextId)
          (postNm s (newNm s.nextId c.t.ctx scope (some (c.tid, c.gid)) none none (some s.nextId) (c.s a)))) ∧
      Acts (uniFacts "NMPOST" h false) (.nmpost h scope (some q) a)
        (fun c _ => AddrOk 64 (c.s a + BitVec.ofInt 64 0).toNat ∧ bindBad .nm (vget c.t.queues q) = false ∧
          (vget c.t.queues q).ents.length < 16)
        (fun c s => startOp c (.nmpost s.nextId)
          (postNm (setQueue s c.tid q (reserve1 s.nextId (vget c.t.queues q)))
            (newNm s.nextId c.t.ctx scope (some (c.tid, c.gid)) (some (c.tid, q)) none (some s.nextId) (c.s a)))) ∧
      TrapsWith (uniFacts "NMPOST" h false) (.nmpost h scope (some q) a)
        (fun c _ => bindBad .nm (vget c.t.queues q) = true) .qbound ∧
      Acts (uniFacts "NMGATHER" h true) (.nmgather h esz d a b e n)
        (fun c _ => (c.s b).toNat % 4 = 0 ∧ (c.s a).toNat % 2 ^ esz = 0 ∧ (c.s e).toNat % 2 ^ esz = 0 ∧
          (c.s b).toNat + 4 * n ≤ c.t.al.asize ∧ (c.s e).toNat + n * 2 ^ esz ≤ c.t.al.asize)
        (fun c s => startOp c (.nmgather s.nextId d (c.s b).toNat (c.s e).toNat n (2 ^ esz) false false)
          (postNm (bringTo s c.tid c.gid s.nextId (.copy s.nextId)) { newNm s.nextId c.t.ctx 1 (some (c.tid, c.gid)) none none
            (some s.nextId) (c.s a) with
            gather := some ⟨c.tid, c.gid, c.s a, (c.s b).toNat, (c.s e).toNat, n, 2 ^ esz⟩ })) := by
  refine ⟨uniOp_acts (fun _ => rfl) (fun _ _ hok => hok) fun _ _ _ => rfl,
    uniBind_acts (fun _ => rfl) (fun _ _ hok => hok.2.1) (fun _ _ hok => hok.1)
      fun _ _ hok => if_neg (Nat.not_le.mpr hok.2.2),
    uniBind_traps fun _ => rfl, acts_of _ (fun _ => rfl) fun c s hok => ?_⟩
  obtain ⟨hb, ha, he, hlist, hdst⟩ := hok
  refine if_neg ?_
  simp [hb, ha, he, Nat.not_lt.mpr hlist, Nat.not_lt.mpr hdst]

/-- Settles O35: the directory, the censuses, and the commands of Rhizoid units. -/
theorem directoryCensusRhizoidIssue : Obligations.DirectoryCensusRhizoidIssue := by
  refine ⟨fun h mode d key a core x y dens => ⟨starts_of fun _ => rfl, starts_of fun _ => rfl, starts_of fun _ => rfl,
    acts_of _ (fun _ => rfl) fun c s hok => ?_, traps_of _ (fun _ => rfl) fun c s hbad => ?_⟩,
    fun h op q slot a pod x => ?_, nearMemory⟩
  · have hcore : ¬ Config.cores ≤ (c.s core).toNat := Nat.not_le.mpr hok
    refine (if_neg hcore).trans ?_
    generalize freeEnt s (c.s core).toNat = ent
    cases ent <;> rfl
  · have hcore : Config.cores ≤ (c.s core).toNat := hbad
    exact if_pos hcore
  · obtain ⟨hgo, htrap⟩ := respond h a
    exact ⟨uniBind_acts (exec_solicit h op q pod x) (fun _ _ hok => hok.2.1) (fun _ _ hok => hok.1)
        fun _ _ hok => solicitBody_opens hok.2.2.1 hok.2.2.2.1 hok.2.2.2.2,
      solicit_waits h op q pod x, uniBind_traps (exec_solicit h op q pod x), hgo, htrap⟩

end Sys2Proof.Proofs.NetworkIssue
end

section
/-!
SUPPORT. Stream instructions (R195 to R206, R279 to R285): registers, the engine and drains, and the statements about them
that stand in the obligations.
-/

namespace Sys2Proof.Proofs.StreamEngine

open Sys2Proof Sys2Proof.Machine

/-! ### Checks that pass -/

theorem tileBad_eq_false {t : Team} {n : Nat} (h : n < t.al.tiles.length) : tileBad t n = false :=
  decide_eq_false (Nat.not_le.mpr h)

theorem tileBad_eq_true {t : Team} {n : Nat} (h : t.al.tiles.length ≤ n) : tileBad t n = true := decide_eq_true h

theorem slotBad_eq_false {t : Team} {n : Nat} (h : n < t.al.slots.length) : slotBad t n = false :=
  decide_eq_false (Nat.not_le.mpr h)

theorem slotBad_eq_true {t : Team} {n : Nat} (h : t.al.slots.length ≤ n) : slotBad t n = true := decide_eq_true h

theorem runsBad_eq_false {t : Team} {l : List Run} (h : ∀ r ∈ l, r.1 + r.2 ≤ t.al.asize) : runsBad t l = false := by
  rw [runsBad, List.any_eq_false]
  exact fun r hr => by simpa using h r hr

/-! ### The registers of a stream -/

/-- A read of the A-buffer that is aligned, inside the allocation and behind no drain, is taken (R199, R245). -/
theorem bufRead_takes {c : SCtl} {s : State} {o : Dword} {n : Nat} {k : Bool → List Byte → MStream → MStream}
    (h : o.toNat % n = 0 ∧ o.toNat + n ≤ c.t.al.asize ∧ drainsToBuf c.m = false) :
    bufRead c s o n k = .done (bufTaken c s o.toNat n k) (c.u + 6) := by
  obtain ⟨hal, hin, hdr⟩ := h
  simp [bufRead, hal, Nat.not_lt.mpr hin, hdr]

theorem bufRead_misaligned {c : SCtl} {s : State} {o : Dword} {n : Nat} {k : Bool → List Byte → MStream → MStream}
    (h : o.toNat % n ≠ 0) : bufRead c s o n k = c.trap .misaln :=
  if_pos (by simpa using h)

/-- The length of an MSETM is that of its source (R200). -/
theorem msetmLen_eq (src : MaskSrc) :
    msetmLen src = match src with | .count _ => 12 | .countLit _ _ => 20 | .reg _ => 12 | .lit _ => 20 := by
  cases src <;> rfl

/-- Settles O36: loads are `bufRead`; the other forms write their register. -/
theorem streamRegisters : Obligations.StreamRegisters := by
  intro d a w src inBuf len
  have hlen : msetmLen src = len := msetmLen_eq src
  have hload : ∀ s t m, StreamReady s t m → exec (.mfmt 0 d a w) s = execMfmt 0 d a w s := fun _ _ _ _ => rfl
  have hknot : ∀ s t m, StreamReady s t m → exec (.knotset d a) s = execKnotset d a s := fun _ _ _ _ => rfl
  refine ⟨streamActs_of _ (fun _ _ _ _ => rfl) fun c s hok => bufRead_takes hok,
    streamActs_of _ (fun _ _ _ _ => rfl) fun _ _ _ => rfl, streamActs_of _ (fun _ _ _ _ => rfl) fun _ _ _ => rfl,
    streamActs_of _ (fun _ _ _ _ => rfl) fun _ _ _ => rfl,
    streamActs_of _ (fun _ _ _ _ => rfl) fun c s hok => bufRead_takes hok,
    hlen ▸ streamActs_of _ (fun _ _ _ _ => rfl) fun _ _ _ => rfl,
    hlen ▸ streamActs_of _ (fun _ _ _ _ => rfl) fun _ _ _ => rfl,
    hlen ▸ streamActs_of _ (fun _ _ _ _ => rfl) fun _ _ _ => rfl,
    streamActs_of _ hknot fun c s hok => if_neg (by simpa using hok),
    streamStops_of _ hknot fun c s hbad => if_pos (by simpa using hbad),
    streamStops_of _ hload fun c s hbad => bufRead_misaligned hbad⟩

/-! ### MMA -/

/-- MMA may start: its tile has landed and is not drained, and no drain to the A-buffer is queued (R244, R245). -/
def mmaClear (acc : Nat) (nacc : Bool) (c : SCtl) : Prop :=
  (nacc = false → tileLanded c.m acc = true) ∧ tileUndrained c.m acc = true ∧ drainsToBuf c.m = false

theorem mmaClear_iff (acc : Nat) (nacc : Bool) (c : SCtl) :
    ((!nacc && !tileLanded c.m acc) || !tileUndrained c.m acc || drainsToBuf c.m) = false ↔ mmaClear acc nacc c := by
  cases nacc <;> simp [mmaClear, and_assoc]

/-- Settles O37: MMA asks in turn for the engine, its tile, its slot, its block and its runs. -/
theorem matrixMultiply : Obligations.MatrixMultiply := by
  intro acc xa ws xf neg nacc k clear runs
  have hx : ∀ s t m, StreamReady s t m → exec (.mma acc xa ws xf neg nacc k) s = execMma acc xa ws xf neg nacc k s :=
    fun _ _ _ _ => rfl
  refine ⟨fun f u => streamActs_of _ hx fun c s hok => ?_,
    streamActs_of _ hx fun c s hok => ?_, streamStops_of _ hx fun c s hbad => ?_,
    streamStops_of _ hx fun c s hbad => ?_, streamWaits_of _ hx fun c s hbusy => ?_⟩
  · obtain ⟨hclear, htile, hslot, hdef, hblock, hin⟩ := hok
    have hruns : runsBad c.t (aRuns f u (c.x xa).toNat (onBits 128 (c.rows k)) (c.terms k) ++
        bRuns f (onBits 128 (c.cols k)) (c.terms k)) = false := runsBad_eq_false hin
    simp only [(mmaClear_iff acc nacc c).mpr hclear, tileBad_eq_false htile, slotBad_eq_false hslot, hdef, hblock, hruns]
    rfl
  · obtain ⟨hclear, htile, hslot, hundef⟩ := hok
    simp only [(mmaClear_iff acc nacc c).mpr hclear, tileBad_eq_false htile, slotBad_eq_false hslot, hundef]
    rfl
  · obtain ⟨hclear, htile⟩ := hbad
    simp only [(mmaClear_iff acc nacc c).mpr hclear, tileBad_eq_true htile]
    rfl
  · obtain ⟨hclear, htile, hslot⟩ := hbad
    simp only [(mmaClear_iff acc nacc c).mpr hclear, tileBad_eq_false htile, slotBad_eq_true hslot]
    rfl
  · exact if_pos (by rw [← Bool.not_eq_false, mmaClear_iff]; exact hbusy)

/-! ### MACCST -/

/-- Settles O38: MACCST asks for the engine and then for its tiles. -/
theorem fillAndCopyTile : Obligations.FillAndCopyTile := by
  intro acc src k
  have hx : ∀ mov s t m, StreamReady s t m → exec (.maccst acc src mov k) s = execMaccst acc src mov k s :=
    fun _ _ _ _ _ => rfl
  refine ⟨streamActs_of _ (hx _) fun c s hok => ?_, streamActs_of _ (hx _) fun c s hok => ?_,
    streamStops_of _ (hx _) fun c s hbad => ?_, streamStops_of _ (hx _) fun c s hbad => ?_⟩
  · obtain ⟨hfree, htile⟩ := hok
    simp only [hfree, tileBad_eq_false htile]
    rfl
  · obtain ⟨hland, hfree, htile, hsrc⟩ := hok
    simp only [hland, hfree, tileBad_eq_false htile, tileBad_eq_false hsrc]
    rfl
  · obtain ⟨hfree, htile⟩ := hbad
    simp only [hfree, tileBad_eq_true htile]
    rfl
  · obtain ⟨hland, hfree, hbad⟩ := hbad
    have hout : (tileBad c.t acc || tileBad c.t src) = true := by
      rcases hbad with h | h <;> simp [tileBad_eq_true h]
    simp only [hland, hfree, Bool.true_and, hout]
    rfl

/-! ### FRDER, FRGRAD and FREFINE -/

/-- The terms and columns of FRGRAD (R283). -/
def gradElems (c : SCtl) (g : Knot) (k : Masks) : List (Nat × Nat) :=
  (onBits 128 (c.cols k)).flatMap fun n => (gradTerms g (c.terms k)).map fun j => (j, n)

/-- Their gradient words, translated for writing (R283). -/
def gradWords (c : SCtl) (s : State) (g : Knot) (k : Masks) (base : Dword) : List Xl :=
  (gradElems c g k).map fun p =>
    xlate s (some c.t.core) c.t.ctx (base + BitVec.ofNat 64 (256 * p.2 + 4 * p.1)).toNat false true false

section
variable {c : SCtl} {s : State} {g : Knot} {base : Dword} {acca : Nat} {k : Masks} {l : List Run}
  {val : Option (Nat × Nat → Word)} {keys : List Nat}

theorem frgradGo_misaligned (h : base.toNat % 4 ≠ 0) : frgradGo c s g base acca k l val = c.gtrap .misaln :=
  if_pos (by simpa using h)

/-- With its address aligned and its runs inside, FRGRAD looks at its gradient words (R283). -/
theorem frgradGo_words (hal : base.toNat % 4 = 0) (hl : runsBad c.t l = false) :
    frgradGo c s g base acca k l val =
      match gradKeys (gradWords c s g k base) with
      | .error e => c.gtrap e
      | .ok keys =>
        if quotaRoom s c.t < keys.length then c.gtrap .defquota
        else startEngine c (if val.isNone then bump s else s)
          { rd := abRegs l ++ [.tile acca], tile := none, rows := 0, cols := 0, elems := [], int := none
            recs := keys.zip ((gradElems c g k).map (val.getD fun p => freeWord s.fresh (128 * p.1 + p.2)))
            occ := 64, lands := 0 } := by
  unfold frgradGo
  rw [if_neg (by simp [hal]), if_neg (ne_true_of_eq_false hl)]
  rfl

theorem frgradGo_error {e : Cause} (hal : base.toNat % 4 = 0) (hl : runsBad c.t l = false)
    (hk : gradKeys (gradWords c s g k base) = .error e) : frgradGo c s g base acca k l val = c.gtrap e := by
  rw [frgradGo_words hal hl, hk]

theorem frgradGo_quota (hal : base.toNat % 4 = 0) (hl : runsBad c.t l = false)
    (hk : gradKeys (gradWords c s g k base) = .ok keys) (hq : quotaRoom s c.t < keys.length) :
    frgradGo c s g base acca k l val = c.gtrap .defquota := by
  rw [frgradGo_words hal hl, hk]
  exact if_pos hq

theorem frgradGo_starts (hal : base.toNat % 4 = 0) (hl : runsBad c.t l = false)
    (hk : gradKeys (gradWords c s g k base) = .ok keys) (hq : keys.length ≤ quotaRoom s c.t) :
    frgradGo c s g base acca k l val = startEngine c (if val.isNone then bump s else s)
      { rd := abRegs l ++ [.tile acca], tile := none, rows := 0, cols := 0, elems := [], int := none
        recs := keys.zip ((gradElems c g k).map (val.getD fun p => freeWord s.fresh (128 * p.1 + p.2)))
        occ := 64, lands := 0 } := by
  rw [frgradGo_words hal hl, hk]
  exact if_neg (Nat.not_lt.mpr hq)

end

/-- The runs of FRGRAD's A operand; none where the unfolding is undefined (R221, R283). -/
def gradRuns (c : SCtl) (f : MForm) (xa : Nat) (k : Masks) : Option Unf → List Run
  | some u => aRuns f u (c.x xa).toNat (onBits 128 (c.rows k)) (c.terms k)
  | none => []

/-- FRGRAD's gradients; none where the unfolding is undefined. -/
def gradVals (c : SCtl) (s : State) (f : MForm) (g : Knot) (acca xa : Nat) (k : Masks) (v : Option Unf) :
    Option (Nat × Nat → Word) :=
  v.map fun u => gradVal c s f g u acca (c.x xa).toNat k

/-- The unfolding in force is `v`, `none` where it is undefined, and the operand's runs lie in the allocation (R221). -/
def unfIs (c : SCtl) (f : MForm) (xa : Nat) (k : Masks) (v : Option Unf) : Prop :=
  match v with
  | some u => c.unfUndef = false ∧ unfOf c.m f = some u ∧ ∀ r ∈ gradRuns c f xa k (some u), r.1 + r.2 ≤ c.t.al.asize
  | none => c.unfUndef = true

theorem gradRuns_inside {c : SCtl} {f : MForm} {xa : Nat} {k : Masks} {v : Option Unf} (h : unfIs c f xa k v) :
    runsBad c.t (gradRuns c f xa k v) = false := by
  cases v with
  | none => rfl
  | some u => exact runsBad_eq_false h.2.2

/-- The own part of FRGRAD. -/
def frgradBody (xd acca xa xf : Nat) (k : Masks) (c : SCtl) (s : State) : SBody :=
  if !tileLanded c.m acca || drainsToBuf c.m then .held
  else if tileBad c.t acca then c.gtrap .ctile
  else if c.pairUndef xf then startUndef c s [.tile acca] none 0 0 0
  else match frondOf c xf with
    | none => c.gtrap .mfmtbad
    | some (f, g) =>
      if c.unfUndef then frgradGo c s g (c.x xd) acca k [] none
      else match unfOf c.m f with
        | none => c.gtrap .mfmtbad
        | some u => frgradGo c s g (c.x xd) acca k (gradRuns c f xa k (some u)) (gradVals c s f g acca xa k (some u))

/-- With its tile, its block and its unfolding, FRGRAD goes on with its gradient words (R283). -/
theorem frgradBody_go {xd acca xa xf : Nat} {k : Masks} {c : SCtl} (s : State) {f : MForm} {g : Knot} {v : Option Unf}
    (hgrad : tileLanded c.m acca = true ∧ drainsToBuf c.m = false) (ha : acca < c.t.al.tiles.length)
    (hdef : c.pairUndef xf = false) (hblock : frondOf c xf = some (f, g)) (hu : unfIs c f xa k v) :
    frgradBody xd acca xa xf k c s =
      frgradGo c s g (c.x xd) acca k (gradRuns c f xa k v) (gradVals c s f g acca xa k v) := by
  obtain ⟨hland, hdr⟩ := hgrad
  cases v with
  | none =>
    have hundef : c.unfUndef = true := hu
    simp only [frgradBody, hland, hdr, tileBad_eq_false ha, hdef, hblock, hundef]
    rfl
  | some u =>
    obtain ⟨hudef, hunf, -⟩ := hu
    simp only [frgradBody, hland, hdr, tileBad_eq_false ha, hdef, hblock, hudef, hunf]
    rfl

theorem exec_frgrad (xd acca xa xf : Nat) (k : Masks) (s : State) :
    exec (.frgrad xd acca xa xf k) s = streamIssue "FRGRAD" 12 (engineAt 16) (frgradBody xd acca xa xf k) s := rfl

/-- Settles O39: each instruction asks in turn for the engine, its tiles, its block and its unfolding. -/
theorem frondInstructions : Obligations.FrondInstructions := by
  intro accd acca xd xa xf ws kna knd i0 btr k runs inside unf der grad
  have hder : ∀ s t m, StreamReady s t m → exec (.frder accd acca xa xf k) s = execFrder accd acca xa xf k s :=
    fun _ _ _ _ => rfl
  have hgrad : ∀ s t m, StreamReady s t m → exec (.frgrad xd acca xa xf k) s = execFrgrad xd acca xa xf k s :=
    fun _ _ _ _ => rfl
  have hfine : ∀ s t m, StreamReady s t m → exec (.frefine accd ws kna knd i0 btr) s = execFrefine accd ws kna knd i0 btr s :=
    fun _ _ _ _ => rfl
  refine ⟨fun f u g => streamActs_of _ hder fun c s hok => ?_,
    fun f g => streamActs_of _ hder fun c s hok => ?_,
    streamActs_of _ hder fun c s hok => ?_, fun f u g keys => ?_,
    streamActs_of _ hgrad fun c s hok => ?_, streamStops_of _ hgrad fun c s hbad => ?_,
    fun g => streamActs_of _ hfine fun c s hok => ?_⟩
  · obtain ⟨⟨hland, hfree, hdr, hd, ha⟩, hdef, hblock, hudef, hunf, hin⟩ := hok
    have hruns : runsBad c.t (aRuns f u (c.x xa).toNat (onBits 128 (c.rows k)) (c.terms k)) = false := runsBad_eq_false hin
    simp only [hland, hfree, hdr, tileBad_eq_false hd, tileBad_eq_false ha, hdef, hblock, hudef, hunf, hruns]
    rfl
  · obtain ⟨⟨hland, hfree, hdr, hd, ha⟩, hdef, hblock, hudef⟩ := hok
    simp only [hland, hfree, hdr, tileBad_eq_false hd, tileBad_eq_false ha, hdef, hblock, show c.unfUndef = true from hudef]
    rfl
  · obtain ⟨⟨hland, hfree, hdr, hd, ha⟩, hundef⟩ := hok
    simp only [hland, hfree, hdr, tileBad_eq_false hd, tileBad_eq_false ha, hundef]
    rfl
  · have hx : ∀ s t m, StreamReady s t m → exec (.frgrad xd acca xa xf k) s = _ := fun s _ _ _ =>
      exec_frgrad xd acca xa xf k s
    refine ⟨streamActs_of _ hx fun c s hok => ?_, streamActs_of _ hx fun c s hok => ?_,
      fun v => streamStops_of _ hx fun c s hbad => ?_, fun v e => streamStops_of _ hx fun c s hbad => ?_,
      fun v => streamStops_of _ hx fun c s hbad => ?_⟩
    · obtain ⟨⟨hgo, ha, hdef, hblock⟩, hu, hal, hk, hq⟩ := hok
      exact (frgradBody_go (v := some u) s hgo ha hdef hblock hu).trans
        (frgradGo_starts hal (gradRuns_inside (v := some u) hu) hk hq)
    · obtain ⟨⟨hgo, ha, hdef, hblock⟩, hu, hal, hk, hq⟩ := hok
      exact (frgradBody_go (v := none) s hgo ha hdef hblock hu).trans (frgradGo_starts hal rfl hk hq)
    · obtain ⟨⟨hgo, ha, hdef, hblock⟩, hu, hal⟩ := hbad
      exact (frgradBody_go (v := v) s hgo ha hdef hblock hu).trans (frgradGo_misaligned hal)
    · obtain ⟨⟨hgo, ha, hdef, hblock⟩, hu, hal, hk⟩ := hbad
      exact (frgradBody_go (v := v) s hgo ha hdef hblock hu).trans (frgradGo_error hal (gradRuns_inside hu) hk)
    · obtain ⟨⟨hgo, ha, hdef, hblock⟩, hu, hal, hk, hq⟩ := hbad
      exact (frgradBody_go (v := v) s hgo ha hdef hblock hu).trans (frgradGo_quota hal (gradRuns_inside hu) hk hq)
  · obtain ⟨⟨hland, hdr⟩, ha, hundef⟩ := hok
    simp only [hland, hdr, tileBad_eq_false ha, hundef]
    rfl
  · obtain ⟨⟨hland, hdr⟩, ha⟩ := hbad
    simp only [hland, hdr, tileBad_eq_true ha]
    rfl
  · obtain ⟨hfree, hd, hs, hknot, hgrid, hexp, hi0⟩ := hok
    have hfits : (decide (61 < 2 * g.g) || decide (g.e - 1 < -128)) = false := by
      simp only [Bool.or_eq_false_iff, decide_eq_false_iff_not]
      omega
    simp only [hfree, tileBad_eq_false hd, slotBad_eq_false hs, hknot, hfits, if_neg (Nat.not_le.mpr hi0)]
    rfl

/-! ### MDRAIN -/

/-- Settles O40: MDRAIN asks for room, for its tile, and then for its control word. -/
theorem drainIssue : Obligations.DrainIssue := by
  intro xd acc xc k room undef
  have hx : ∀ s t m, StreamReady s t m → exec (.mdrain xd acc xc k) s = execMdrain xd acc xc k s := fun _ _ _ _ => rfl
  refine ⟨fun dc => streamActs_of _ hx fun c s hok => ?_, streamStops_of _ hx fun c s hbad => ?_,
    streamActs_of _ hx fun c s hok => ?_, streamWaits_of _ hx fun c s hbusy => if_pos hbusy⟩
  · obtain ⟨⟨hfew, htile⟩, hctl⟩ := hok
    simp only [if_neg (Nat.not_le.mpr hfew), tileBad_eq_false htile, hctl]
    rfl
  · obtain ⟨⟨hfew, htile⟩, hdef, hctl⟩ := hbad
    have hdef' : (c.pairUndef xd || c.pairUndef xc) = false := hdef
    simp only [if_neg (Nat.not_le.mpr hfew), tileBad_eq_false htile, hctl, hdef']
    rfl
  · obtain ⟨⟨hfew, htile⟩, hundef, hctl⟩ := hok
    have hundef' : (c.pairUndef xd || c.pairUndef xc) = true := hundef
    simp only [if_neg (Nat.not_le.mpr hfew), tileBad_eq_false htile, hctl, hundef']
    rfl

end Sys2Proof.Proofs.StreamEngine
end

section
/-!
SUPPORT. The control instructions of a matrix stream (R56, R57, R124, R207, R208), and the statement about them that stands
in the obligations.
-/

namespace Sys2Proof.Proofs.StreamControl

open Sys2Proof Sys2Proof.Machine

/-! ### EXIT of a stream -/

/-- A stream that leaves no loop open and no work behind ends, or waits for the token of its team's commit (R57, R154). -/
theorem streamExit_ready {s : State} {t : Team} {m : MStream} (h : StreamReady s t m) (hloops : m.loops = [])
    (hmops : m.mops = []) (hdrains : m.drains = []) (row : String) (len : Nat) :
    streamExit row len s =
      if exitRoom (streamAt s m 0) { t with stream := some { m with ended := true } } then
        .next (partyEnded (updStream (streamAt s m 0) t.uid fun y =>
          { y with ended := true, pc := y.pc + BitVec.ofNat 64 len }) t.uid)
      else .next s := by
  have hl : m.loops.isEmpty = true := by simp [hloops]
  have hm : m.mops.isEmpty = true := by simp [hmops]
  have hd : m.drains.isEmpty = true := by simp [hdrains]
  rw [streamExit, stream_ready h]
  cases hroom : exitRoom (streamAt s m 0) { t with stream := some { m with ended := true } }
  all_goals
    simp only [streamCtl, noWait, hl, hm, hd, hroom, Bool.not_true, Bool.not_false, Bool.or_self, Bool.or_true,
      Bool.false_eq_true, if_true, if_false]

theorem streamExit_open {s : State} {t : Team} {m : MStream} (h : StreamReady s t m) (hloops : m.loops ≠ [])
    (row : String) (len : Nat) :
    streamExit row len s = .next (stopTeam (streamAt s m 0) t.uid (causeCode .mloopbad) m.pc 0 1) := by
  have hopen : (!m.loops.isEmpty) = true := by simpa using hloops
  rw [streamExit, stream_ready h]
  simp only [streamCtl, noWait, hopen, if_true]
  rfl

theorem exec_exit_stream {s : State} {t : Team} {m : MStream} (hr : StreamReady s t m) (h : Hdr) :
    exec (.exit h) s = streamExit "EXIT" 4 s := by
  have hx : exec (.exit h) s = execExit h s := rfl
  rw [hx, execExit, onStream_ready hr]
  rfl

theorem exec_exitExt_stream {s : State} {t : Team} {m : MStream} (hr : StreamReady s t m) (h : Hdr) :
    exec (.exitExt h) s = streamExit "EXIT_EXT" 12 s := by
  have hx : exec (.exitExt h) s = execExitExt h s := rfl
  rw [hx, execExitExt, onStream_ready hr]
  rfl

theorem exec_nop_stream {s : State} {t : Team} {m : MStream} (hr : StreamReady s t m) (h : Hdr) :
    exec (.nop h) s = streamIssue "NOP" 4 noWait (fun _ s1 => .done s1 0) s := by
  have hx : exec (.nop h) s = execNop h s := rfl
  rw [hx, execNop, onStream_ready hr]
  rfl

/-! ### MSIG, MWAIT and the loops -/

theorem exec_msig (b n : Nat) (s : State) : exec (.msig b n) s = execMsig b n s := rfl

theorem exec_mwait (b : Nat) (s : State) : exec (.mwait b) s = execMwait b s := rfl

theorem exec_mloop (x : Bool) (a : Nat) (w : BitVec 32) (s : State) : exec (.mloop x a w) s = execMloop x a w s := rfl

theorem exec_mend (s : State) : exec .mend s = execMend s := rfl

/-- The passes of a loop are the low 32 bits of a register, or a literal (R208). -/
theorem loopCount_eq (x : Bool) (v : Dword) (w : BitVec 32) :
    (if x then bitsAt v.toNat 0 32 else w.toNat) = if x then v.toNat % 2 ^ 32 else w.toNat := by
  rw [bitsAt, Nat.pow_zero, Nat.div_one]

/-- Regions that no phase has released take the phase of an MSIG (R198). -/
theorem signed_eq (b ph : Nat) (e : Busy) :
    (if e.sig.isNone then { e with sig := some (b, ph) } else e) = if e.sig = none then { e with sig := some (b, ph) } else e := by
  cases e.sig <;> rfl

/-- Settles O41: each form asks for what its condition says; EXIT is `streamExit`. -/
theorem streamControl : Obligations.StreamControl := by
  intro b n a x w h cnt
  refine ⟨streamActs_of _ (fun s _ _ _ => exec_msig b n s) fun c s hok => ?_,
    streamStops_of _ (fun s _ _ _ => exec_msig b n s) fun c s hbad => ?_,
    streamActs_of _ (fun s _ _ _ => exec_mwait b s) fun c s hok => ?_,
    streamWaits_of _ (fun s _ _ _ => exec_mwait b s) fun c s hbusy => ?_, fun s t m hr hnone => ?_,
    streamActs_of _ (fun s _ _ _ => exec_mloop x a w s) fun c s hok => ?_,
    streamStops_of _ (fun s _ _ _ => exec_mloop x a w s) fun c s hbad => ?_, fun s t m l r hr hloops hleft => ?_,
    streamActs_of _ (fun s _ _ _ => exec_mend s) fun c s hok => ?_,
    streamStops_of _ (fun s _ _ _ => exec_mend s) fun c s hbad => ?_,
    streamActs_of _ (fun s _ _ hr => exec_nop_stream hr h) fun _ _ _ => rfl, fun s t m hr hloops hmops hdrains => ?_,
    fun s t m hr hloops => (exec_exit_stream hr h).trans (streamExit_open hr hloops "EXIT" 4)⟩
  · obtain ⟨hmops, hdrains, hpending, hsame⟩ := hok
    simp only [hmops, hdrains, hpending, hsame, signed_eq]
    rfl
  · obtain ⟨hmops, hdrains, hpending, hdiff⟩ := hbad
    simp only [hmops, hdrains, hpending, hdiff]
    rfl
  · obtain ⟨p, hp, hne⟩ := hok
    simp only [hp, if_neg hne.symm]
  · simp only [show vget c.m.lp b = some (vget c.t.bars b).ph from hbusy]
    rfl
  · rw [exec_mwait, execMwait, stream_ready hr]
    simp only [streamCtl, hnone]
    rfl
  · obtain ⟨hpos, hfew⟩ := hok
    have hcnt : (if x then bitsAt (c.x a).toNat 0 32 else w.toNat) = cnt c := loopCount_eq x (c.x a) w
    simp only [hcnt, if_neg hpos, if_neg (Nat.not_le.mpr hfew)]
  · obtain ⟨hpos, hfull⟩ := hbad
    have hcnt : (if x then bitsAt (c.x a).toNat 0 32 else w.toNat) = cnt c := loopCount_eq x (c.x a) w
    simp only [hcnt, if_neg hpos, if_pos hfull]
    rfl
  · rw [exec_mend, execMend, stream_ready hr]
    simp only [streamCtl, noWait, hloops, if_pos hleft, Nat.max_zero]
  · obtain ⟨l, r, hloops, hlast⟩ := hok
    simp only [hloops, if_neg (Nat.not_lt.mpr hlast), List.tail_cons]
  · simp only [show c.m.loops = [] from hbad]
    rfl
  · intro after
    rw [exec_exit_stream hr h, exec_exitExt_stream hr h, streamExit_ready hr hloops hmops hdrains,
      streamExit_ready hr hloops hmops hdrains]
    refine ⟨fun hroom => ?_, fun hends hfull => ?_⟩
    · have hmay : exitRoom (streamAt s m 0) after = true := by
        rcases hroom with hgo | hgo <;> simp [exitRoom, hgo]
      exact ⟨if_pos hmay, if_pos hmay⟩
    · have hnot : ¬ exitRoom (streamAt s m 0) after = true := by simp [exitRoom, hends, hfull]
      exact ⟨if_neg hnot, if_neg hnot⟩

end Sys2Proof.Proofs.StreamControl
end

section
/-!
SUPPORT. The register instructions of a Rhizoid unit's threads, their branches and ends (R340, R344 to R348), and the
statement about them that stands in the obligations.
-/

namespace Sys2Proof.Proofs.RhizoidRegs

open Sys2Proof Sys2Proof.Machine

/-! ### Sums and dot products -/

/-- A sum that is clamped where it saturates, and wrapped otherwise; a clamp sets SATI (R344, R345). -/
theorem setSat_eq (z : ZRun) (sat : Bool) (d : Nat) (t : Int) :
    z.setSat sat d t =
      { z with
        e := vset z.e d (BitVec.ofInt 32 (if sat then max (-2 ^ 31) (min t (2 ^ 31 - 1)) else t))
        sati := z.sati || (sat && decide (t < -2 ^ 31 ∨ 2 ^ 31 ≤ t)) } := by
  cases sat with
  | false => simp [ZRun.setSat, ZRun.setE]
  | true =>
    have hclamp : clampI (-2 ^ 31, 2 ^ 31 - 1) t = (max (-2 ^ 31) (min t (2 ^ 31 - 1)), decide (t < -2 ^ 31 ∨ 2 ^ 31 ≤ t)) := by
      unfold clampI
      split
      · rw [Prod.mk.injEq]
        exact ⟨by omega, by simp; omega⟩
      · split
        · rw [Prod.mk.injEq]
          exact ⟨by omega, by simp; omega⟩
        · rw [Prod.mk.injEq]
          exact ⟨by omega, by simp; omega⟩
    simp only [ZRun.setSat, hclamp, if_true, Bool.true_and]
    rfl

/-- The dot product is the sum of its elements' products (R345). -/
theorem zdot_eq (w : Nat) (uns : Bool) (a b : Word) :
    zdot w uns a b = ((List.range (32 / w)).map fun j =>
      let y := b.toNat / 2 ^ (w * j) % 2 ^ w
      sextNat w (a.toNat / 2 ^ (w * j) % 2 ^ w) * (if uns then (y : Int) else sextNat w y)).foldl (· + ·) 0 := by
  rw [List.foldl_map]
  rfl

/-- The signed element of ZDQ, by its kind (R346). -/
theorem zdqElem_eq (kind k : Nat) (a : Word) :
    zdqElem kind k a = match kind with
      | 0 => a.toInt
      | 1 => sextNat 8 (a.toNat / 2 ^ (8 * k) % 2 ^ 8)
      | _ => sextNat 4 (a.toNat / 2 ^ (4 * k) % 2 ^ 4) := by
  match kind with
  | 0 => rfl
  | 1 => rfl
  | _ + 2 => rfl

/-! ### Branches that count down -/

/-- A branch jumps. -/
theorem branch_acts {arith : Bool} {x : Instr} {row : String} {off : BitVec 16}
    (hx : ∀ s, exec x s = zIssue row arith (fun _ z s => .jump s z (zTarget z arith off)) s) :
    ZActs arith x (fun _ _ _ => True) (fun _ z s => (s, z)) (fun z => z.pc arith + 4 * off.toInt) :=
  zActs_of hx fun _ _ _ _ _ => .inr rfl

/-- A branch that counts down goes on at the next word where the count reaches 0, and jumps otherwise (R340). -/
theorem countdown_acts {arith : Bool} {x : Instr} {row : String} {off : BitVec 16} {cnt : ZRun → Word}
    {set : ZRun → Word → ZRun}
    (hx : ∀ s, exec x s = zIssue row arith (fun _ z s =>
      if cnt z - 1 = 0 then .done s (set z (cnt z - 1)) else .jump s (set z (cnt z - 1)) (zTarget z arith off)) s) :
    ZActs arith x (fun _ _ _ => True) (fun _ z s => (s, set z (cnt z - 1)))
      (fun z => if cnt z - 1 = 0 then z.pc arith + 4 else z.pc arith + 4 * off.toInt) := by
  refine zActs_of hx fun s ch z _ _ => ?_
  by_cases hzero : cnt z - 1 = 0
  · exact .inl ⟨if_pos hzero, if_pos hzero⟩
  · refine .inr ((if_neg hzero).trans ?_)
    rw [if_neg hzero]
    rfl

/-! ### The statement -/

/-- Settles O42: every form is its own function on the command's registers. -/
theorem rhizoidRegisters : Obligations.RhizoidRegisters := by
  intro d a b c kind k i off sat uns hi fl e sums dot two target
  refine ⟨zSets_of (fun _ => rfl) fun _ => rfl, zSets_of (fun _ => rfl) fun _ => rfl, zSets_of (fun _ => rfl) fun _ => rfl,
    zSets_of (fun _ => rfl) fun _ => rfl, zSets_of (fun _ => rfl) fun _ => rfl,
    zSets_of (fun _ => rfl) fun z => (setSat_eq z sat d _).symm, zSets_of (fun _ => rfl) fun _ => rfl,
    zSets_of (fun _ => rfl) fun z => ?_, zSets_of (fun _ => rfl) fun z => ?_, zSets_of (fun _ => rfl) fun z => ?_,
    zSets_of (fun _ => rfl) fun _ => rfl, zSets_of (fun _ => rfl) fun _ => rfl, zSets_of (fun _ => rfl) fun _ => rfl,
    zSets_of (fun _ => rfl) fun _ => rfl, zSets_of (fun _ => rfl) fun _ => rfl, zSets_of (fun _ => rfl) fun _ => rfl,
    zSets_of (fun _ => rfl) fun _ => rfl, zSets_of (fun _ => rfl) fun _ => rfl, zSets_of (fun _ => rfl) fun _ => rfl,
    zSets_of (fun _ => rfl) fun _ => rfl, branch_acts fun _ => rfl, branch_acts fun _ => rfl,
    countdown_acts (set := fun z => z.setA a) fun _ => rfl, countdown_acts (set := fun z => z.setE a) fun _ => rfl,
    zActs_of (row := "ZAEND") (fun _ => rfl) fun _ _ z _ hok => .inl ⟨if_pos (by simpa using hok), rfl⟩,
    zAborts_of (row := "ZAEND") (fun _ => rfl) fun _ _ z _ hbad => if_neg (by simpa using hbad),
    zSets_of (row := "ZEEND") (fun _ => rfl) fun _ => rfl⟩
  · rw [setSat_eq, zdot_eq]
    rfl
  · rw [setSat_eq, zdot_eq]
    rfl
  · rw [zdqElem_eq]
    rfl

end Sys2Proof.Proofs.RhizoidRegs
end

section
/-!
SUPPORT. The memory, lock, pair and queue instructions of a Rhizoid unit's threads (R339, R341 to R344, R364 to R367), and
the statement about them that stands in the obligations.
-/

namespace Sys2Proof.Proofs.RhizoidAccess

open Sys2Proof Sys2Proof.Machine

/-! ### What the checks of a thread's access ask -/

/-- Bytes at an offset fit in a window (R339). -/
def Fits (z : ZRun) (w : Nat) (o : Int) (n : Nat) : Prop := z.wlen w ≠ 0 ∧ 0 ≤ o ∧ o + n ≤ z.wlen w

theorem inWin_iff (z : ZRun) (w : Nat) (o : Int) (n : Nat) : z.inWin w o n = true ↔ Fits z w o n := by
  simp [ZRun.inWin, Fits]

theorem inWin_eq_false {z : ZRun} {w : Nat} {o : Int} {n : Nat} (h : ¬ Fits z w o n) : z.inWin w o n = false := by
  rwa [← Bool.not_eq_true, inWin_iff]

/-- The row of a memory key is held (R342). -/
def Held (s : State) (z : ZRun) (key : Nat) : Prop := ∃ k ∈ z.locks, k.row = rowId s (keyPa key)

theorem holds_iff (s : State) (z : ZRun) (key : Nat) : z.holds s key = true ↔ Held s z key := by
  simp [ZRun.holds, Held]

theorem holds_eq_false {s : State} {z : ZRun} {key : Nat} (h : ¬ Held s z key) : z.holds s key = false := by
  rwa [← Bool.not_eq_true, holds_iff]

/-- No ZLD of the banks of some bytes is still to be filled (R341, R365). -/
def Clear (s : State) (z : ZRun) (key n : Nat) : Prop :=
  ∀ b ∈ keyBanks s key n, ∀ e ∈ z.dq, e.data = none → b ∉ keyBanks s e.key 64

theorem bankFree_iff (s : State) (z : ZRun) (key n : Nat) : z.bankFree s key n = true ↔ Clear s z key n := by
  simp [ZRun.bankFree, ZRun.loads, Clear]

/-- The controller serves a write of some bytes now (R164, R341, R365). -/
def Free (s : State) (z : ZRun) (key n : Nat) : Prop :=
  rowPending s key = false ∧ rowPending s (key + (n - 1)) = false ∧ Clear s z key n ∧ unitServed s key n = true

theorem writable_iff (s : State) (z : ZRun) (key n : Nat) : z.writable s key n = true ↔ Free s z key n := by
  simp [ZRun.writable, Free, ← bankFree_iff, and_assoc]

/-- A row can be locked now (R342, R365 to R367). -/
def Open (s : State) (z : ZRun) (key : Nat) : Prop :=
  rowPending s key = false ∧ rowReserved s (keyPa key) = false ∧ Clear s z key 1 ∧ unitServed s key 1 = true

theorem open_iff (s : State) (z : ZRun) (key : Nat) :
    (rowPending s key || rowReserved s (keyPa key) || !z.bankFree s key 1 || !unitServed s key 1) = false ↔
      Open s z key := by
  simp [Open, ← bankFree_iff, and_assoc]

/-- A ZLOCK has waited too long (R367). -/
def Late (s : State) (z : ZRun) : Prop := ∃ x, z.lockWait = some x ∧ x.2 + 3200 ≤ s.clock

theorem late_iff (s : State) (z : ZRun) :
    (z.lockWait.any fun x => decide (x.2 + 3200 ≤ s.clock)) = true ↔ Late s z := by
  simp [Late, Option.any_eq_true]

/-! ### ZLD and ZST -/

section
variable {w a : Nat} {off : BitVec 16} {z : ZRun} {s : State} {ch : Nat}

theorem burst_outside (h : ¬ Fits z w (z.off a off) 64) : z.burst w a off = some .zwin := by
  simp [ZRun.burst, inWin_eq_false h]

theorem burst_misaligned (h : Fits z w (z.off a off) 64 ∧ z.off a off % 64 ≠ 0) : z.burst w a off = some .zmisaln := by
  simp [ZRun.burst, (inWin_iff ..).mpr h.1, h.2]

theorem burst_good (h : Fits z w (z.off a off) 64) (hal : z.off a off % 64 = 0) : z.burst w a off = none := by
  simp [ZRun.burst, (inWin_iff ..).mpr h, hal]

theorem zldF_stops {k : Cause} (h : z.burst w a off = some k) : zldF w a off ch z s = .stop k 0 := by
  simp only [zldF, h]

theorem zstF_stops {k : Cause} (h : z.burst w a off = some k) : zstF w a off ch z s = .stop k 0 := by
  simp only [zstF, h]

theorem zldF_go (h : z.burst w a off = none) :
    zldF w a off ch z s =
      if 16 ≤ z.dq.length then .wait s
      else .done (holdRows s ch (z.key w (z.off a off)) 64) { z with dq := z.dq ++ [⟨z.key w (z.off a off), z.pcA, none⟩] } := by
  simp only [zldF, h]

theorem zstF_writes {b : List Byte} {r : List (List Byte)} (h : z.burst w a off = none) (hq : z.wq = b :: r)
    (hfree : Free s z (z.key w (z.off a off)) 64) :
    zstF w a off ch z s = .done (engineStore s (z.key w (z.off a off)) b) { z with wq := r } := by
  simp only [zstF, h, hq, (writable_iff ..).mpr hfree, if_true]

theorem zstF_waits (h : z.burst w a off = none) (hbusy : z.wq = [] ∨ ¬ Free s z (z.key w (z.off a off)) 64) :
    zstF w a off ch z s = .wait s := by
  simp only [zstF, h]
  cases hq : z.wq with
  | nil => rfl
  | cons e r =>
    have hno : ¬ z.writable s (z.key w (z.off a off)) 64 = true := by
      rw [writable_iff]
      exact hbusy.resolve_left (by simp [hq])
    exact if_neg hno

/-! ### ZLOCK and ZUNLK -/

theorem zlockF_outside (h : ¬ Fits z w (z.off a off) 1) : zlockF w a off ch z s = .stop .zwin 0 := by
  simp [zlockF, inWin_eq_false h]

theorem zunlkF_outside (h : ¬ Fits z w (z.off a off) 1) : zunlkF w a off ch z s = .stop .zwin 0 := by
  simp [zunlkF, inWin_eq_false h]

theorem zunlkF_done (h : Fits z w (z.off a off) 1) :
    zunlkF w a off ch z s =
      .done s { z with locks := z.locks.filter fun k => k.row != rowId s (keyPa (z.key w (z.off a off))) } := by
  simp only [zunlkF, (inWin_iff ..).mpr h]
  rfl

theorem zlockF_held (h : Fits z w (z.off a off) 1) (hheld : Held s z (z.key w (z.off a off))) :
    zlockF w a off ch z s = .done s { z with lockWait := none } := by
  simp only [zlockF, (inWin_iff ..).mpr h, (holds_iff ..).mpr hheld]
  rfl

theorem zlockF_full (h : Fits z w (z.off a off) 1) (hheld : ¬ Held s z (z.key w (z.off a off))) (h8 : 8 ≤ z.locks.length) :
    zlockF w a off ch z s = .stop .zlkmax (rowBase (keyPa (z.key w (z.off a off)))) := by
  simp only [zlockF, (inWin_iff ..).mpr h, holds_eq_false hheld, if_pos h8]
  rfl

theorem zlockF_late (h : Fits z w (z.off a off) 1) (hheld : ¬ Held s z (z.key w (z.off a off))) (h8 : z.locks.length < 8)
    (hlate : Late s z) : zlockF w a off ch z s = .stop .zlktime (rowBase (keyPa (z.key w (z.off a off)))) := by
  simp only [zlockF, (inWin_iff ..).mpr h, holds_eq_false hheld, if_neg (Nat.not_le.mpr h8), (late_iff ..).mpr hlate]
  rfl

/-- With room for its row, and in time, ZLOCK asks whether the row can be locked now (R342). -/
theorem zlockF_asks (h : Fits z w (z.off a off) 1) (hheld : ¬ Held s z (z.key w (z.off a off))) (h8 : z.locks.length < 8)
    (hlate : ¬ Late s z) :
    zlockF w a off ch z s =
      let pa := keyPa (z.key w (z.off a off))
      if rowPending s (z.key w (z.off a off)) || rowReserved s pa || !z.bankFree s (z.key w (z.off a off)) 1 ||
          !unitServed s (z.key w (z.off a off)) 1 then
        .wait (setRun s ch { z with lockWait := some (z.lockWait.getD (rowBase pa, s.clock)) })
      else if rowMarked s pa then .stop .zparity (rowBase pa)
      else .done s { z with locks := z.locks ++ [⟨rowId s pa, rowBase pa, rowBytes s pa, s.clock, []⟩], lockWait := none } := by
  have hintime : (z.lockWait.any fun x => decide (x.2 + 3200 ≤ s.clock)) = false := by
    rwa [← Bool.not_eq_true, late_iff]
  simp only [zlockF, (inWin_iff ..).mpr h, holds_eq_false hheld, if_neg (Nat.not_le.mpr h8), hintime]
  rfl

end

/-! ### ZWPAIR -/

section
variable {ap tp sp n wp wt : Nat} {word : Bool} {z : ZRun} {s : State} {ch : Nat}

/-- The bytes of an element (R343). -/
def elemSize (word : Bool) : Nat := if word then 4 else 2

/-- The element writes of a ZWPAIR (R343). -/
def writesOf (z : ZRun) (ap tp sp n wp wt : Nat) (word : Bool) : List (Nat × Int × Nat) :=
  pairWrites z ap tp sp n wp wt (elemSize word)

/-- The memory key of an element write. -/
def writeKey (z : ZRun) (p : Nat × Int × Nat) : Nat := z.key p.1 p.2.1

/-- A ZWPAIR's addresses and its step are multiples of the element's size (R343). -/
def Even (z : ZRun) (ap tp sp : Nat) (word : Bool) : Prop :=
  (z.ra ap).toNat % elemSize word = 0 ∧ (z.ra tp).toNat % elemSize word = 0 ∧ (z.ra sp).toNat % elemSize word = 0

theorem even_iff :
    ((z.ra ap).toNat % elemSize word != 0 || (z.ra tp).toNat % elemSize word != 0 || (z.ra sp).toNat % elemSize word != 0)
      = false ↔ Even z ap tp sp word := by
  simp [Even, and_assoc]

/-- Every element write lies in its window (R343). -/
def Inside (z : ZRun) (l : List (Nat × Int × Nat)) (word : Bool) : Prop := ∀ p ∈ l, Fits z p.1 p.2.1 (elemSize word)

theorem inside_iff (l : List (Nat × Int × Nat)) :
    (l.any fun x => !z.inWin x.1 x.2.1 (elemSize word)) = false ↔ Inside z l word := by
  simp [Inside, ← inWin_iff]

/-- Every row that an element write reaches is held (R343). -/
def AllHeld (s : State) (z : ZRun) (l : List (Nat × Int × Nat)) (word : Bool) : Prop :=
  ∀ p ∈ l, Held s z (writeKey z p) ∧ Held s z (writeKey z p + (elemSize word - 1))

/-- The first row that a ZWPAIR reaches and does not hold (R343). -/
def unheld (s : State) (z : ZRun) (l : List (Nat × Int × Nat)) (word : Bool) : Option Nat :=
  ((l.map (writeKey z)).flatMap fun k => [k, k + (elemSize word - 1)]).find? fun k => !z.holds s k

theorem unheld_eq_none {l : List (Nat × Int × Nat)} (h : AllHeld s z l word) : unheld s z l word = none := by
  rw [unheld, List.find?_eq_none]
  intro k hk
  obtain ⟨_, hm, hk⟩ := List.mem_flatMap.mp hk
  obtain ⟨p, hp, rfl⟩ := List.mem_map.mp hm
  obtain ⟨hlow, hhigh⟩ := h p hp
  have hcases : k = writeKey z p ∨ k = writeKey z p + (elemSize word - 1) := by simpa using hk
  rcases hcases with rfl | rfl
  · simp [(holds_iff ..).mpr hlow]
  · simp [(holds_iff ..).mpr hhigh]

theorem unheld_eq_some {l : List (Nat × Int × Nat)} (h : ¬ AllHeld s z l word) :
    ∃ p ∈ l, ∃ b ≤ elemSize word - 1, ¬ Held s z (writeKey z p + b) ∧ unheld s z l word = some (writeKey z p + b) := by
  cases hf : unheld s z l word with
  | none =>
    refine absurd (fun p hp => ?_) h
    have hall := List.find?_eq_none.mp hf
    have hmem : ∀ k ∈ [writeKey z p, writeKey z p + (elemSize word - 1)], Held s z k := by
      intro k hk
      have hno := hall k (List.mem_flatMap.mpr ⟨writeKey z p, List.mem_map.mpr ⟨p, hp, rfl⟩, hk⟩)
      rw [← holds_iff]
      simpa using hno
    exact ⟨hmem _ (by simp), hmem _ (by simp)⟩
  | some k =>
    obtain ⟨_, hm, hk⟩ := List.mem_flatMap.mp (List.mem_of_find?_eq_some hf)
    obtain ⟨p, hp, rfl⟩ := List.mem_map.mp hm
    have hfree : ¬ Held s z k := by
      rw [← holds_iff]
      simpa using List.find?_some hf
    have hcases : k = writeKey z p ∨ k = writeKey z p + (elemSize word - 1) := by simpa using hk
    rcases hcases with rfl | rfl
    · exact ⟨p, hp, 0, Nat.zero_le _, hfree, rfl⟩
    · exact ⟨p, hp, elemSize word - 1, Nat.le_refl _, hfree, rfl⟩

/-- A ZWPAIR, from its checks on (R343). -/
theorem zwpairF_eq : zwpairF ap tp sp n wp wt word ch z s =
    if (z.ra ap).toNat % elemSize word != 0 || (z.ra tp).toNat % elemSize word != 0 || (z.ra sp).toNat % elemSize word != 0
    then .stop .zmisaln 0
    else if (writesOf z ap tp sp n wp wt word).any fun x => !z.inWin x.1 x.2.1 (elemSize word) then .stop .zwin 0
    else
      match unheld s z (writesOf z ap tp sp n wp wt word) word with
      | some k => .stop .znolock (rowBase (keyPa k))
      | none =>
        match z.wq with
        | [] => .wait s
        | e :: r =>
          if ((writesOf z ap tp sp n wp wt word).map (writeKey z)).all fun k => z.writable s k (elemSize word) then
            .done ((writesOf z ap tp sp n wp wt word).foldl
              (fun s x => engineStore s (writeKey z x) (slice e x.2.2 (elemSize word))) s) { z with wq := r }
          else .wait s := rfl

theorem zwpairF_odd (h : ¬ Even z ap tp sp word) : zwpairF ap tp sp n wp wt word ch z s = .stop .zmisaln 0 := by
  rw [zwpairF_eq]
  exact if_pos (by rwa [← Bool.not_eq_false, even_iff])

theorem zwpairF_outside (he : Even z ap tp sp word) (h : ¬ Inside z (writesOf z ap tp sp n wp wt word) word) :
    zwpairF ap tp sp n wp wt word ch z s = .stop .zwin 0 := by
  rw [zwpairF_eq, if_neg (ne_true_of_eq_false (even_iff.mpr he))]
  exact if_pos (by rwa [← Bool.not_eq_false, inside_iff])

theorem zwpairF_unheld {k : Nat} (he : Even z ap tp sp word) (hi : Inside z (writesOf z ap tp sp n wp wt word) word)
    (hk : unheld s z (writesOf z ap tp sp n wp wt word) word = some k) :
    zwpairF ap tp sp n wp wt word ch z s = .stop .znolock (rowBase (keyPa k)) := by
  rw [zwpairF_eq, if_neg (ne_true_of_eq_false (even_iff.mpr he)),
    if_neg (ne_true_of_eq_false ((inside_iff _).mpr hi)), hk]

/-- With its rows held, ZWPAIR asks for an entry and for the controller (R343). -/
theorem zwpairF_asks (he : Even z ap tp sp word) (hi : Inside z (writesOf z ap tp sp n wp wt word) word)
    (hh : AllHeld s z (writesOf z ap tp sp n wp wt word) word) :
    zwpairF ap tp sp n wp wt word ch z s =
      match z.wq with
      | [] => .wait s
      | e :: r =>
        if ((writesOf z ap tp sp n wp wt word).map (writeKey z)).all fun k => z.writable s k (elemSize word) then
          .done ((writesOf z ap tp sp n wp wt word).foldl
            (fun s x => engineStore s (writeKey z x) (slice e x.2.2 (elemSize word))) s) { z with wq := r }
        else .wait s := by
  rw [zwpairF_eq, if_neg (ne_true_of_eq_false (even_iff.mpr he)),
    if_neg (ne_true_of_eq_false ((inside_iff _).mpr hi)), unheld_eq_none hh]

theorem allWritable_iff (l : List (Nat × Int × Nat)) (m : Nat) :
    ((l.map (writeKey z)).all fun k => z.writable s k m) = true ↔ ∀ p ∈ l, Free s z (writeKey z p) m := by
  simp [writable_iff]

theorem zwpairF_writes {e : List Byte} {r : List (List Byte)} (he : Even z ap tp sp word)
    (hi : Inside z (writesOf z ap tp sp n wp wt word) word) (hh : AllHeld s z (writesOf z ap tp sp n wp wt word) word)
    (hq : z.wq = e :: r) (hf : ∀ p ∈ writesOf z ap tp sp n wp wt word, Free s z (writeKey z p) (elemSize word)) :
    zwpairF ap tp sp n wp wt word ch z s = .done ((writesOf z ap tp sp n wp wt word).foldl
      (fun s x => engineStore s (writeKey z x) (slice e x.2.2 (elemSize word))) s) { z with wq := r } := by
  rw [zwpairF_asks he hi hh, hq]
  exact if_pos ((allWritable_iff _ _).mpr hf)

theorem zwpairF_waits (he : Even z ap tp sp word) (hi : Inside z (writesOf z ap tp sp n wp wt word) word)
    (hh : AllHeld s z (writesOf z ap tp sp n wp wt word) word)
    (hbusy : z.wq = [] ∨ ∃ p ∈ writesOf z ap tp sp n wp wt word, ¬ Free s z (writeKey z p) (elemSize word)) :
    zwpairF ap tp sp n wp wt word ch z s = .wait s := by
  rw [zwpairF_asks he hi hh]
  cases hq : z.wq with
  | nil => rfl
  | cons e r =>
    obtain ⟨p, hp, hno⟩ := hbusy.resolve_left (by simp [hq])
    refine if_neg fun hall => hno ?_
    exact (allWritable_iff _ _).mp hall p hp

end

/-! ### ZPOP and ZPUSH -/

/-- Writing registers one after the other leaves the rest of the command as it is. -/
theorem foldl_setE (f : Nat → Word) (d : Nat) (l : List Nat) (z : ZRun) :
    l.foldl (fun z j => z.setE (d + j) (f j)) z = { z with e := l.foldl (fun e j => vset e (d + j) (f j)) z.e } := by
  induction l generalizing z with
  | nil => rfl
  | cons j l ih => exact ih _

theorem zpopF_takes {d ch : Nat} {z : ZRun} {s : State} {k : Nat} {pc : Int} {b : List Byte} {r : List DqEnt}
    (h : z.dq = ⟨k, pc, some b⟩ :: r) :
    zpopF d ch z s = .done s { z with
      dq := r
      e := (List.range 16).foldl (fun e j => vset e (d + j) (BitVec.ofNat 32 (natOfBytes (slice b (4 * j) 4)))) z.e } := by
  simp only [zpopF, h]
  rw [foldl_setE fun j => BitVec.ofNat 32 (natOfBytes (slice b (4 * j) 4))]

theorem zpopF_waits {d ch : Nat} {z : ZRun} {s : State} (h : z.dq = [] ∨ ∃ e r, z.dq = e :: r ∧ e.data = none) :
    zpopF d ch z s = .wait s := by
  rcases h with h | ⟨⟨k, pc, data⟩, r, h, hnone⟩
  · simp only [zpopF, h]
  · subst hnone
    simp only [zpopF, h]

/-! ### The statement -/

/-- Settles O43: each form is its own function, by its checks. -/
theorem rhizoidMemory : Obligations.RhizoidMemory := by
  intro w a d n wp wt as off word o fits at' held clear free open' late sz pairs even inside key allHeld
  have hzld : ∀ s, exec (.zld w a off) s = zIssue "ZLD" false (zldF w a off) s := fun _ => rfl
  have hzst : ∀ s, exec (.zst w a off) s = zIssue "ZST" false (zstF w a off) s := fun _ => rfl
  have hzlock : ∀ s, exec (.zlock w a off) s = zIssue "ZLOCK" false (zlockF w a off) s := fun _ => rfl
  have hzunlk : ∀ s, exec (.zunlk w a off) s = zIssue "ZUNLK" false (zunlkF w a off) s := fun _ => rfl
  have hpair : ∀ s, exec (.zwpair a d as n wp wt word) s = zIssue "ZWPAIR" false (zwpairF a d as n wp wt word) s :=
    fun _ => rfl
  refine ⟨fun x hx => ?_, fun x hx => ?_, zActs_of hzld fun s ch z _ hok => ?_, zWaits_of hzld fun s ch z _ hbusy => ?_,
    fun b r => zActs_of hzst fun s ch z _ hok => ?_, zWaits_of hzst fun s ch z _ hbusy => ?_,
    zActs_of hzlock fun s ch z _ hok => ?_, zAborts_of hzlock fun s ch z _ hbad => ?_,
    zAborts_of hzlock fun s ch z _ hbad => ?_, zActs_of hzlock fun s ch z _ hok => ?_,
    zAborts_of hzlock fun s ch z _ hbad => ?_, fun s ch z hz hfit hheld hfew hlate hopen => ?_,
    zActs_of hzunlk fun s ch z _ hok => .inl ⟨zunlkF_done hok, rfl⟩, zSets_of (fun _ => rfl) fun _ => rfl,
    ⟨zAborts_of hpair fun s ch z _ hbad => zwpairF_odd hbad,
      zAborts_of hpair fun s ch z _ hbad => zwpairF_outside hbad.1 hbad.2, fun s ch z hz heven hinside hrows => ?_,
      fun e r => zActs_of hpair fun s ch z _ hok => ?_, zWaits_of hpair fun s ch z _ hbusy => ?_⟩,
    fun k pc b r => zActs_of (row := "ZPOP") (f := zpopF d) (fun _ => rfl) fun s ch z _ hok => .inl ⟨zpopF_takes hok, rfl⟩,
    zWaits_of (row := "ZPOP") (f := zpopF d) (fun _ => rfl) fun s ch z _ hbusy => zpopF_waits hbusy,
    zActs_of (row := "ZPUSH") (f := zpushF a) (fun _ => rfl) fun s ch z _ hok => .inl ⟨if_neg (Nat.not_le.mpr hok), rfl⟩,
    zWaits_of (row := "ZPUSH") (f := zpushF a) (fun _ => rfl) fun s ch z _ hbusy => if_pos hbusy⟩
  · have hor : x = .zld w a off ∨ x = .zst w a off := by simpa using hx
    rcases hor with rfl | rfl
    · exact ⟨zAborts_of hzld fun s ch z _ hbad => zldF_stops (burst_outside hbad),
        zAborts_of hzld fun s ch z _ hbad => zldF_stops (burst_misaligned hbad)⟩
    · exact ⟨zAborts_of hzst fun s ch z _ hbad => zstF_stops (burst_outside hbad),
        zAborts_of hzst fun s ch z _ hbad => zstF_stops (burst_misaligned hbad)⟩
  · have hor : x = .zlock w a off ∨ x = .zunlk w a off := by simpa using hx
    rcases hor with rfl | rfl
    · exact zAborts_of hzlock fun s ch z _ hbad => zlockF_outside hbad
    · exact zAborts_of hzunlk fun s ch z _ hbad => zunlkF_outside hbad
  · obtain ⟨hfit, hal, hroom⟩ := hok
    exact .inl ⟨(zldF_go (burst_good hfit hal)).trans (if_neg (Nat.not_le.mpr hroom)), rfl⟩
  · obtain ⟨hfit, hal, hfull⟩ := hbusy
    exact (zldF_go (burst_good hfit hal)).trans (if_pos hfull)
  · obtain ⟨hfit, hal, hq, hfree⟩ := hok
    exact .inl ⟨zstF_writes (burst_good hfit hal) hq hfree, rfl⟩
  · obtain ⟨hfit, hal, hno⟩ := hbusy
    exact zstF_waits (burst_good hfit hal) hno
  · exact .inl ⟨zlockF_held hok.1 hok.2, rfl⟩
  · obtain ⟨hfit, hheld, h8⟩ := hbad
    exact zlockF_full hfit hheld h8
  · obtain ⟨hfit, hheld, hfew, hlate⟩ := hbad
    exact zlockF_late hfit hheld hfew hlate
  · obtain ⟨hfit, hheld, hfew, hlate, hopen, hgood⟩ := hok
    refine .inl ⟨(zlockF_asks hfit hheld hfew hlate).trans ((if_neg ?_).trans (if_neg ?_)), rfl⟩
    · exact ne_true_of_eq_false ((open_iff ..).mpr hopen)
    · exact ne_true_of_eq_false hgood
  · obtain ⟨hfit, hheld, hfew, hlate, hopen, hmarked⟩ := hbad
    exact (zlockF_asks hfit hheld hfew hlate).trans
      ((if_neg (ne_true_of_eq_false ((open_iff ..).mpr hopen))).trans (if_pos hmarked))
  · have hbusy : (rowPending s (at' z) || rowReserved s (keyPa (at' z)) || !z.bankFree s (at' z) 1 ||
        !unitServed s (at' z) 1) = true := by
      rw [← Bool.not_eq_false, open_iff]
      exact hopen
    have hwait := (zlockF_asks (off := off) (ch := ch) hfit hheld hfew hlate).trans (if_pos hbusy)
    rw [hzlock, zIssue, hz]
    simp only [if_true, zStep, hwait]
    rfl
  · obtain ⟨p, hp, b, hb, hfree, hk⟩ := unheld_eq_some (l := writesOf z a d as n wp wt word) (word := word) hrows
    refine ⟨p, hp, b, hb, hfree, ?_⟩
    have hstop := zwpairF_unheld (ch := ch) (n := n) (wp := wp) (wt := wt) heven hinside hk
    rw [hpair, zIssue, hz]
    simp only [if_true, zStep, hstop]
    rfl
  · obtain ⟨heven, hinside, hrows, hq, hfree⟩ := hok
    exact .inl ⟨zwpairF_writes heven hinside hrows hq hfree, rfl⟩
  · obtain ⟨heven, hinside, hrows, hno⟩ := hbusy
    exact zwpairF_waits heven hinside hrows hno

end Sys2Proof.Proofs.RhizoidAccess
end

section
/-!
SUPPORT. The events that end what groups and engines have in flight (R22, R110, R128, R177, R243, R249, R391, R402), and
the statement about them that stands in the obligations.
-/

namespace Sys2Proof.Proofs.Completion

open Sys2Proof Sys2Proof.Machine

/-! ### The completion of an operation -/

/-- An operation that is not faulty completes as its kind does. -/
theorem completion_next {id : Nat} {l1 : Bool} {s s' : State} {o : Op} (hop : opOf? s id = some o)
    (hsound : opFaulty s o = false) (hfin : finishOp s o l1 = some s') :
    exec (.longLatencyCompletion id l1) s = .next s' := by
  have hx : exec (.longLatencyCompletion id l1) s = execLongLatencyCompletion id l1 s := rfl
  simp only [hx, execLongLatencyCompletion, hop, hsound, hfin, Bool.false_eq_true, if_false]

/-- What only writes registers meets no cause. -/
theorem opFaulty_regs {s : State} {o : Op} {ws : List RegWr} (hkind : o.kind = .regs ws) : opFaulty s o = false := by
  unfold opFaulty
  cases teamOf s o.tid with
  | none => rfl
  | some t => simp [uniCauses, hkind, opFaults, uniMarked]

/-- An access that can be performed, without a cause, completes. -/
theorem finishOp_access {s : State} {o : Op} {l1 : Bool} {w : Who} {p : Perf} (hwho : whoOf s o = some w)
    (hperf : accessPerform s o l1 = some p) (hsound : opFaults w.t.d.gridUnit o.kind = []) (hue : p.ue = []) :
    finishOp s o l1 = some (endOp (accessWrite o w p) o) := by
  have hacc : accessFinish s o l1 = some (endOp (accessWrite o w p) o) := by
    simp [accessFinish, hwho, hperf, hsound, hue]
  simp only [accessPerform, hwho] at hperf
  cases hkind : o.kind with
  | mem | abuf | cbuf | atom => simpa only [finishOp, hkind] using hacc
  | _ => simp only [hkind, reduceCtorEq] at hperf

/-! ### The oldest drain of a core -/

theorem drainHeld_eq_false {s : State} {c : DCtl} {t : Team} {d : Drain}
    (h : ∀ k ∈ drainKeys s c t d, homeWaitsBut s (some d.id) k = false) : drainHeld s c t d = false := by
  simpa [drainHeld] using h

/-- A statistics record waits for no room, where there is some or it asks for none. -/
theorem statWaits_eq_false {b : Bool} {n : Nat} (h : b = true → 0 < n) : (b && n == 0) = false := by
  cases b with
  | false => rfl
  | true => simp [Nat.pos_iff_ne_zero.mp (h rfl)]

/-- Settles O44: each event's function, under the conditions at which it is served. -/
theorem completions : Obligations.Completions := by
  intro id core ctx page tid l1 inst
  refine ⟨fun o ws s ⟨hop, hkind⟩ => ?regs, fun o w p s ⟨hop, hsound, hwho, hperf, hnone, hue⟩ => ?access,
    fun o w p s ⟨hop, hwho, hmay, hperf, hbad⟩ => ?fault, fun o w op wide q a fm k s ⟨hop, hwho, hkind, hcause⟩ => ?cause,
    fun o w op wide q a fm s ⟨hop, hwho, hkind, hcause, hready⟩ => ?reply, fun t u g s ⟨ht, hhalt, hfirst, hout⟩ => ?entry,
    fun c k e s ⟨hctx, hwalk⟩ => ?walk, fun e r s ⟨hq, hfirst, hlast⟩ => ?store, fun s hlt => ?line,
    fun t m o s ⟨hstream, hop, hroom, hold⟩ => ?landing, fun t m d c s ⟨hold, hctl, hlanded, hfree, hstat⟩ => ?drain⟩
  case regs =>
    exact completion_next hop (opFaulty_regs hkind) (by simp only [finishOp, hkind])
  case access =>
    exact completion_next hop hsound (finishOp_access hwho hperf hnone hue)
  case fault =>
    have hx : exec (.afterIssueFault id l1) s = execAfterIssueFault id l1 s := rfl
    simp only [hx, execAfterIssueFault, hop, hwho, hmay, hperf, Bool.not_true, Bool.false_eq_true, if_false,
      List.isEmpty_iff, hbad]
  case cause =>
    have hx : exec (.ratomReply id) s = execRatomReply id s := rfl
    simp only [hx, execRatomReply, hop, hwho, hkind, hcause]
  case reply =>
    have hx : exec (.ratomReply id) s = execRatomReply id s := rfl
    simp only [hx, execRatomReply, hop, hwho, hkind, hcause, hready, if_true]
  case entry =>
    have hx : exec (.trapHandlerEntry tid) s = execTrapHandlerEntry tid s := rfl
    have hnone : (t.groups.any fun g => g.t.inHandler) = false := by simpa using hout
    simp only [hx, execTrapHandlerEntry, ht, hhalt, hfirst, hnone, Bool.false_eq_true, if_false]
  case walk =>
    have hx : exec (.tlbWalkComplete core ctx page) s = execTlbWalkComplete core ctx page s := rfl
    simp only [hx, execTlbWalkComplete, hctx, hwalk]
  case store =>
    have hx : exec (.writeThroughDrain core) s = execWriteThroughDrain core s := rfl
    have hmem : (publish s e.tid e.rel.isSome 2).mem = s.mem := by unfold publish; split <;> rfl
    simp only [hx, execWriteThroughDrain, hq, hfirst, hlast, hmem, Bool.or_self, Bool.false_eq_true, if_false]
  case line =>
    have hx : exec (.l1LineReplacement core id inst) s = execL1LineReplacement core id inst s := rfl
    exact hx.trans (if_neg (Nat.not_le.mpr hlt))
  case landing =>
    have hx : exec (.mmaLanding core id) s = execMmaLanding core id s := rfl
    have hid : o.id = id := by simpa using List.find?_some hop
    have hfirst : (m.mops.any fun x => decide (x.id < id) && x.tile == o.tile) = false := by simpa using hold
    have hroom' : o.recs.length ≤ sporRoom { s with clock := max s.clock o.land } core := hroom
    simp only [hx, execMmaLanding, hstream, hop, List.take_of_length_le hroom', List.drop_of_length_le hroom',
      List.isEmpty_nil, Bool.not_true, Bool.and_false, Bool.false_eq_true, if_false, if_true, hid]
    exact if_neg (ne_true_of_eq_false hfirst)
  case drain =>
    have hx : exec (.drainExecute core) s = execDrainExecute core s := rfl
    simp only [hx, execDrainExecute, hold, hctl]
    exact if_neg (by simp [hlanded, drainHeld_eq_false hfree, statWaits_eq_false hstat])

end Sys2Proof.Proofs.Completion
end

section
/-!
SUPPORT. The clock at which an instruction issues and the register writes that it sees then (R25, R49, R69, R143, R145),
and the statement about them that stands in the obligations.
-/

namespace Sys2Proof.Proofs.Timing

open Sys2Proof Sys2Proof.Machine Sys2Proof.Proofs.Control

/-! ### Issue clocks -/

/-- A partition issues no sooner than the clock after the last issue of it and of those above it (R145). -/
theorem lt_slotFree {c : Core} {part q l : Nat} (hq : q < 8) (hpart : part ≤ q) (hl : vget c.partLast q = some l) :
    l + 1 ≤ slotFree c part := by
  have hstep : ∀ (qs : List Nat) (n : Nat),
      n ≤ qs.foldl (fun n q => if q < part then n else max n ((vget c.partLast q).elim 0 fun l => l + 1)) n ∧
      (q ∈ qs → l + 1 ≤
        qs.foldl (fun n q => if q < part then n else max n ((vget c.partLast q).elim 0 fun l => l + 1)) n) := by
    intro qs
    induction qs with
    | nil => exact fun n => ⟨le_rfl, fun h => absurd h List.not_mem_nil⟩
    | cons p ps ih =>
      intro n
      obtain ⟨hle, hmem⟩ := ih (if p < part then n else max n ((vget c.partLast p).elim 0 fun l => l + 1))
      refine ⟨le_trans ?_ hle, fun h => ?_⟩
      · split <;> omega
      · obtain rfl | h := List.mem_cons.mp h
        · refine le_trans ?_ hle
          simp [Nat.not_lt.mpr hpart, hl]
        · exact hmem h
  exact (hstep _ 0).2 (List.mem_range.mpr hq)

theorem clock_le_issueU (i : Iss) (s : State) (t : Team) (g : Group) : s.clock ≤ issueU i s t g := by
  simp only [issueU, issueClock]
  omega

theorem slotFree_le_issueU (i : Iss) (s : State) (t : Team) (g : Group) :
    slotFree (coreOf s t.core) g.part ≤ issueU i s t g := by
  simp only [issueU, issueClock]
  omega

/-! ### What a list of writes leaves of a value -/

theorem lastOf_nil {α : Type} (f : RegWr → Option α) (old : α) : lastOf [] f old = old := rfl

theorem lastOf_cons {α : Type} (w : RegWr) (ws : List RegWr) (f : RegWr → Option α) (old : α) :
    lastOf (w :: ws) f old = lastOf ws f ((f w).getD old) := by
  simp only [lastOf, List.reverse_cons, List.findSome?_append, List.findSome?_singleton]
  cases ws.reverse.findSome? f <;> rfl

/-- A value of the group that each write gives by `f`, where it gives one, is what the last such write leaves. -/
theorem applyWrs_eq_lastOf {α : Type} (val : Group → α) (f : RegWr → Option α)
    (hone : ∀ g w, val (applyWr g w) = (f w).getD (val g)) (ws : List RegWr) (g : Group) :
    val (applyWrs g ws) = lastOf ws f (val g) := by
  induction ws generalizing g with
  | nil => rfl
  | cons w ws ih => rw [lastOf_cons, ← hone]; exact ih (applyWr g w)

theorem vget_vset {α : Type} {n : Nat} [NeZero n] (v : Vector α n) (k d : Nat) (x : α) (hd : d < n) :
    vget (vset v k x) d = if k % n = d then x else vget v d := by
  simp [vget, vset, Vector.getElem_set, Nat.mod_eq_of_lt hd]

theorem vget_mod {α : Type} {n : Nat} [NeZero n] (v : Vector α n) (k : Nat) : vget v (k % n) = vget v k := by
  simp [vget]

theorem applyWr_s (g : Group) (w : RegWr) {d : Nat} (hd : d < 64) :
    vget (applyWr g w).r.s d =
      Option.getD (match w with | .s n x => if n % 64 = d then some x else none | _ => none) (vget g.r.s d) := by
  cases w with
  | s n x =>
    by_cases h : n % 64 = d <;> simp [applyWr, vget_vset _ _ _ _ hd, h]
  | _ => rfl

theorem applyWr_v (g : Group) (w : RegWr) {d l : Nat} (hd : d < 256) (hl : l < 64) :
    vget (vget (applyWr g w).r.v d) l =
      Option.getD (match w with
        | .v n m x => if n % 256 = d ∧ laneOn m l = true then some (vget x l) else none
        | _ => none) (vget (vget g.r.v d) l) := by
  cases w with
  | v n m x =>
    by_cases h : n % 256 = d
    · subst h
      simp only [applyWr, vget_vset _ _ _ _ hd, vget_mod, laneOn, Proofs.Vector.vget_mergeV _ _ _ hl, if_true,
        true_and]
      split <;> rfl
    · simp [applyWr, vget_vset _ _ _ _ hd, h]
  | _ => rfl

theorem applyWr_p (g : Group) (w : RegWr) {d l : Nat} (hd : d < 8) (hl : l < 64) :
    laneOn (vget (applyWr g w).r.p d) l =
      Option.getD (match w with
        | .p n m x => if n % 8 = d ∧ laneOn m l = true then some (laneOn x l) else none
        | _ => none) (laneOn (vget g.r.p d) l) := by
  cases w with
  | p n m x =>
    by_cases h : n % 8 = d
    · subst h
      simp only [applyWr, vget_vset _ _ _ _ hd, vget_mod, laneOn, Proofs.Vector.getLsbD_mergeP _ _ _ hl, if_true,
        true_and]
      split <;> rfl
    · simp [applyWr, vget_vset _ _ _ _ hd, h]
  | _ => rfl

theorem applyWr_sp (g : Group) (w : RegWr) {d : Nat} (hd : d < 8) :
    vget (applyWr g w).r.sp d =
      Option.getD (match w with | .sp n b => if n % 8 = d then some b else none | _ => none) (vget g.r.sp d) := by
  cases w with
  | sp n b =>
    by_cases h : n % 8 = d <;> simp [applyWr, vget_vset _ _ _ _ hd, h]
  | _ => rfl

theorem applyWr_em (g : Group) (w : RegWr) :
    (applyWr g w).r.em = Option.getD (match w with | .em x => some x | _ => none) g.r.em := by
  cases w <;> rfl

/-! ### Pending writes in the order of their clocks -/

/-- A write is due by clock `u` where its order lies below that of the writes of the next clock (R69, R143). -/
theorem key_lt_iff (w : PendWr) (u : Nat) : w.key < 2 * u + 2 ↔ w.land ≤ u := by
  unfold PendWr.key
  split <;> omega

/-- What is in order lies before a bound exactly in its first part. -/
theorem takeWhile_due {l : List PendWr} (u : Nat) (h : l.Pairwise fun a b => a.key ≤ b.key) :
    (l.takeWhile fun w => decide (w.land ≤ u)) = l.filter fun w => decide (w.land ≤ u) := by
  induction l with
  | nil => rfl
  | cons w l ih =>
    obtain ⟨hw, hl⟩ := List.pairwise_cons.mp h
    by_cases hdue : w.land ≤ u
    · simp [hdue, ih hl]
    · have hlate : ∀ x ∈ l, ¬ x.land ≤ u := fun x hx hle => hdue <| by
        rw [← key_lt_iff] at hle ⊢
        exact lt_of_le_of_lt (hw x hx) hle
      have hnone : (l.filter fun w => decide (w.land ≤ u)) = [] := by simpa using hlate
      simp [hdue, hnone]

theorem mem_pendIns (w x : PendWr) (l : List PendWr) : x ∈ pendIns w l ↔ x = w ∨ x ∈ l := by
  induction l with
  | nil => simp [pendIns]
  | cons y l ih =>
    unfold pendIns
    split
    · simp
    · simp only [List.mem_cons, ih]
      exact or_left_comm

theorem pairwise_pendIns (w : PendWr) {l : List PendWr} (h : l.Pairwise fun a b => a.key ≤ b.key) :
    (pendIns w l).Pairwise fun a b => a.key ≤ b.key := by
  induction l with
  | nil => exact List.pairwise_singleton ..
  | cons y l ih =>
    obtain ⟨hy, hl⟩ := List.pairwise_cons.mp h
    unfold pendIns
    split
    · next hlt =>
      refine List.pairwise_cons.mpr ⟨fun x hx => ?_, h⟩
      obtain rfl | hx := List.mem_cons.mp hx
      · exact hlt.le
      · exact hlt.le.trans (hy x hx)
    · next hle =>
      refine List.pairwise_cons.mpr ⟨fun x hx => ?_, ih hl⟩
      obtain rfl | hx := (mem_pendIns ..).mp hx
      · exact Nat.not_lt.mp hle
      · exact hy x hx

/-! ### What an instruction reads -/

/-- With nothing of a long-latency operation pending, an instruction reads the registers with the writes due by its clock
made (R143). -/
theorem settled_r (i : Iss) (s : State) (t : Team) {g : Group} (h : g.i.dsts = []) :
    (settled i s t g).r =
      (applyWrs g ((g.i.pend.takeWhile fun w => decide (w.land ≤ issueU i s t g)).map fun w => w.wr)).r := by
  have hdsts : ∀ (ws : List RegWr) (g : Group), (applyWrs g ws).i = g.i := by
    intro ws
    induction ws with
    | nil => exact fun _ => rfl
    | cons w ws ih => exact fun g => (ih (applyWr g w)).trans (by cases w <;> rfl)
  simp only [settled, veil, settleGroup, settleTo, key_lt_iff, hdsts, h]
  rfl

/-- Settles O53: each register's value is what the last due write leaves of it, and the pending writes stay in order. -/
theorem issueTiming : Obligations.IssueTiming := by
  intro i s t g u h due
  refine ⟨clock_le_issueU i s t g, hold_le_issueU i s t g, fun l hl => dist_le_issueU i s t hl,
    fun q hq hpart l hl => (lt_slotFree hq hpart hl).trans (slotFree_le_issueU i s t g), fun hnone => ?_, fun hsorted => ?_⟩
  · have hr : h = (applyWrs g due).r := settled_r i s t hnone
    rw [hr]
    exact ⟨fun d hd => applyWrs_eq_lastOf (fun y => vget y.r.s d) _ (fun y w => applyWr_s y w hd) due g,
      fun d hd l hl => applyWrs_eq_lastOf (fun y => vget (vget y.r.v d) l) _ (fun y w => applyWr_v y w hd hl) due g,
      fun d hd l hl => applyWrs_eq_lastOf (fun y => laneOn (vget y.r.p d) l) _ (fun y w => applyWr_p y w hd hl) due g,
      fun d hd => applyWrs_eq_lastOf (fun y => vget y.r.sp d) _ (fun y w => applyWr_sp y w hd) due g,
      applyWrs_eq_lastOf (fun y => y.r.em) _ applyWr_em due g⟩
  · exact ⟨congrArg _ (takeWhile_due u hsorted),
      fun w => ⟨pairwise_pendIns w hsorted, fun x => mem_pendIns w x g.i.pend⟩⟩

end Sys2Proof.Proofs.Timing
end

section
/-!
SUPPORT. Entering the trap handler, halting and stopping for a precise cause (R37, R43, R390 to R398), and the statement
about them that stands in the obligations.
-/

namespace Sys2Proof.Proofs.Traps

open Sys2Proof Sys2Proof.Machine
open Sys2Proof.Proofs.Control (onStream_of_canIssue)

/-! ### A word of an unassigned opcode -/

theorem exec_unassigned_stream {s : State} {t : Team} {m : MStream} (hr : StreamReady s t m) (w : BitVec 32) :
    exec (.unassignedOpcode w) s = streamIssue "UNASSIGNED_OPCODE" 4 noWait (fun c _ => c.trap .illop) s := by
  have hx : exec (.unassignedOpcode w) s = execUnassignedOpcode w s := rfl
  rw [hx, execUnassignedOpcode, onStream_ready hr]
  rfl

theorem exec_unassigned_group {s : State} (h : onStream s = false) (w : BitVec 32) :
    exec (.unassignedOpcode w) s =
      issue { row := "UNASSIGNED_OPCODE", h := ⟨formOf w.toNat, distOf w.toNat, false, none⟩ }
        (fun c _ => .trap { cause := .illop, mask := c.em }) s := by
  have hx : exec (.unassignedOpcode w) s = execUnassignedOpcode w s := rfl
  rw [hx, execUnassignedOpcode, h]
  rfl

theorem unassigned_traps (w : BitVec 32) :
    TrapsWith { row := "UNASSIGNED_OPCODE", h := ⟨formOf w.toNat, distOf w.toNat, false, none⟩ } (.unassignedOpcode w)
      (fun _ _ => True) .illop := by
  intro s t g hr ho _
  rw [exec_unassigned_group (onStream_of_canIssue hr.toCanIssue), issue_ready hr.toCanIssue ho, ctlAt_pc]
  rfl

/-! ### The cause's code and its route -/

/-- Of the codes, HDRRUN's alone is HDRRUN's (R389). -/
theorem causeCode_eq_hdrrun_iff (k : Cause) : causeCode k = causeCode .hdrrun ↔ k = .hdrrun := by
  refine ⟨fun h => ?_, fun h => h ▸ rfl⟩
  have hnat := congrArg BitVec.toNat h
  cases k with
  | hdrrun => rfl
  | swt n =>
    simp only [causeCode, causeNat, BitVec.toNat_ofNat] at hnat
    omega
  | _ => simp [causeCode, causeNat] at hnat

section
variable {s : State} {t : Team} {g : Group}

theorem groupOf_eq (ht : teamOf s t.uid = some t) (hg : groupIn t g.gid = some g) : groupOf s t.uid g.gid = some g := by
  rw [groupOf, ht]
  exact hg

/-! ### Halting for service firmware -/

/-- A team as service firmware finds it (R390). -/
def serviceHalted (code : BitVec 9) (t : Team) : Team := { t with halt := .service code }

/-- A group with the record that service firmware reads. -/
def recorded (rec : TrapRec) (g : Group) : Group := { g with t := { g.t with tr := rec, pending := none } }

theorem teamOf_haltService {tid : Nat} (gid : Nat) (code : BitVec 9) (rec : TrapRec) (h : teamOf s tid = some t) :
    teamOf (haltService s tid gid code rec) tid = some ((serviceHalted code t).updGroup gid (recorded rec)) := by
  have hteam := teamOf_updGroup (updTeam s tid (serviceHalted code)) tid gid (recorded rec)
  rw [teamOf_updTeam s tid (serviceHalted code) fun _ => rfl, h] at hteam
  exact hteam

theorem groupOf_haltService {tid gid : Nat} (code : BitVec 9) (rec : TrapRec) (ht : teamOf s tid = some t)
    (hg : groupIn t gid = some g) : groupOf (haltService s tid gid code rec) tid gid = some (recorded rec g) := by
  have hgroup := groupIn_updGroup (serviceHalted code t) gid (recorded rec) fun _ => rfl
  rw [groupOf, teamOf_haltService gid code rec ht]
  exact hgroup.trans (congrArg _ hg)

/-! ### A cause raised -/

/-- The state in which a cause of a group waits for its team's halt to settle (R392). -/
def raised (s : State) (tid gid : Nat) (rec : TrapRec) : State :=
  updTeam (updGroup s tid gid fun g => { g with t := { g.t with pending := some (rec, none) } }) tid fun t =>
    match t.halt with
    | .running => { t with halt := .settling s.clock }
    | .settling _ | .service _ => t

/-- The record of a precise cause as its raising leaves it (R394). -/
def raisedRec (s : State) (g : Group) (r : Raise) : TrapRec :=
  { preciseRec g g.r.pc r with em := (settleGroup (s.clock + 8) g).r.em }

variable {r : Raise} (ht : teamOf s t.uid = some t) (hg : groupIn t g.gid = some g) (hresp : t.resp = none)
include ht hg hresp

theorem raise_in_handler (hin : g.t.inHandler = true) :
    raisePrecise s t.uid g.gid g.r.pc r =
      haltService s t.uid g.gid (causeCode .dblflt) { g.t.tr with scause := causeCode r.cause } := by
  simp only [raisePrecise, groupOf_eq ht hg, raiseRec, ht, hresp, hin, Option.isSome_none, Bool.false_and,
    Bool.false_eq_true, if_false, if_true, preciseRec]

theorem raise_without_handler (hout : g.t.inHandler = false) (hno : thentryOf s t.ctx = 0) :
    raisePrecise s t.uid g.gid g.r.pc r =
      haltService s t.uid g.gid (causeCode r.cause) (raisedRec s g r) := by
  simp only [raisePrecise, groupOf_eq ht hg, raiseRec, ht, hresp, hout, hno, Option.isSome_none, Bool.false_and,
    Bool.false_eq_true, if_false, decide_true, Bool.or_true, if_true, raisedRec, preciseRec]

theorem raise_to_handler (hroute : toHandler r.cause = true) (hout : g.t.inHandler = false)
    (hentry : thentryOf s t.ctx ≠ 0) :
    raisePrecise s t.uid g.gid g.r.pc r =
      if otherParties t g.gid then raised s t.uid g.gid (raisedRec s g r)
      else enterNext (raised s t.uid g.gid (raisedRec s g r)) t.uid := by
  simp only [raisePrecise, groupOf_eq ht hg, raiseRec, ht, hresp, hout, hentry, hroute, Option.isSome_none,
    Bool.false_and, Bool.not_true, decide_false, Bool.or_self, Bool.false_eq_true, if_false]
  rfl

omit hg hresp

/-- The raised cause stands in the group, and its team's halt begins to settle. -/
theorem teamOf_raised (rec : TrapRec) (hrun : t.halt = .running) :
    teamOf (raised s t.uid g.gid rec) t.uid =
      some { t.updGroup g.gid fun g => { g with t := { g.t with pending := some (rec, none) } } with
        halt := .settling s.clock } := by
  have hpend := teamOf_updGroup s t.uid g.gid fun g => { g with t := { g.t with pending := some (rec, none) } }
  rw [ht] at hpend
  rw [raised, teamOf_updTeam, hpend]
  · simp [hrun]
  · intro x
    split <;> rfl

include hg

theorem groupOf_raised (rec : TrapRec) (hrun : t.halt = .running) :
    groupOf (raised s t.uid g.gid rec) t.uid g.gid = some { g with t := { g.t with pending := some (rec, none) } } := by
  have hin := groupIn_updGroup t g.gid (fun g => { g with t := { g.t with pending := some (rec, none) } }) fun _ => rfl
  rw [hg] at hin
  rw [groupOf, teamOf_raised ht rec hrun]
  exact hin

/-- The group enters its handler where it is its team's only one. -/
theorem groupOf_entered (rec : TrapRec) (hrun : t.halt = .running) (hout : g.t.inHandler = false)
    (honly : t.groups = [g]) :
    groupOf (enterNext (raised s t.uid g.gid rec) t.uid) t.uid g.gid =
      some (enterGroup s.clock s.nextId (thentryOf s t.ctx) rec none
        { g with t := { g.t with pending := some (rec, none) } }) := by
  have henter : enterNext (raised s t.uid g.gid rec) t.uid =
      updGroup (raised s t.uid g.gid rec) t.uid g.gid (enterGroup s.clock s.nextId (thentryOf s t.ctx) rec none) := by
    unfold enterNext
    rw [teamOf_raised ht rec hrun]
    simp only [Team.updGroup, honly, List.map_cons, List.map_nil, if_true, List.any_cons, List.any_nil, hout,
      Bool.or_false, Bool.false_eq_true, if_false, firstPending, List.foldl_cons, List.foldl_nil]
    rfl
  rw [henter, groupOf_updGroup _ t.uid g.gid (enterGroup s.clock s.nextId (thentryOf s t.ctx) rec none) fun _ => rfl,
    groupOf_raised ht hg rec hrun]
  rfl

end

/-- A group that is alone in a team without a stream has no other parties beside it. -/
theorem otherParties_alone {t : Team} {g : Group} (honly : t.groups = [g]) (hno : t.stream = none) :
    otherParties t g.gid = false := by
  simp [otherParties, honly, hno]

/-- Settles O54: an unassigned word's trap, and where a precise cause takes its group. -/
theorem trapEntry : Obligations.TrapEntry := by
  refine ⟨fun w => ⟨unassigned_traps w, streamStops_of _ (fun _ _ _ hr => exec_unassigned_stream hr w) fun _ _ _ => rfl⟩, ?_⟩
  intro s t g r ht hg hresp hroute hpend s' tr entered
  have hrec : raisedRec s g r = tr := rfl
  refine ⟨fun hout hentry hrun honly hstream => ?_, fun hout hentry hrun hother => ?_, fun hin => ?_,
    fun hout hno => ?_⟩
  · have hs : s' = enterNext (raised s t.uid g.gid tr) t.uid := by
      rw [← hrec]
      exact (raise_to_handler ht hg hresp hroute hout hentry).trans
        (if_neg (by simp [otherParties_alone honly hstream]))
    rw [hs, groupOf_entered ht hg tr hrun hout honly]
    simp only [enterGroup, decFlag, tr, causeCode_eq_hdrrun_iff]
    rfl
  · have hs : s' = raised s t.uid g.gid tr := by
      rw [← hrec]
      exact (raise_to_handler ht hg hresp hroute hout hentry).trans (if_pos hother)
    rw [hs]
    exact ⟨⟨_, teamOf_raised ht tr hrun, rfl⟩, groupOf_raised ht hg tr hrun⟩
  · have hs : s' = haltService s t.uid g.gid (causeCode .dblflt) { g.t.tr with scause := causeCode r.cause } :=
      raise_in_handler ht hg hresp hin
    rw [hs]
    refine ⟨⟨_, teamOf_haltService _ _ _ ht, rfl⟩, (groupOf_haltService _ _ ht hg).trans ?_⟩
    simp only [recorded, hpend]
  · have hs : s' = haltService s t.uid g.gid (causeCode r.cause) tr := raise_without_handler ht hg hresp hout hno
    rw [hs]
    refine ⟨⟨_, teamOf_haltService _ _ _ ht, rfl⟩, (groupOf_haltService _ _ ht hg).trans ?_⟩
    simp only [recorded, hpend]

end Sys2Proof.Proofs.Traps
end

section
/-!
SUPPORT. The events that launch grids, let in their units, hand out and place their teams, and end them (R141, R147, R153,
R167, R379 to R381, R419), and the statement about them that stands in the obligations.
-/

namespace Sys2Proof.Proofs.Grids

open Sys2Proof Sys2Proof.Machine

/-! ### Launch and admission -/

theorem launch_starts {ctx q no : Nat} {a lr : BitVec 64} {s : State} {c : QCmd} (hhead : queueHead s ctx q = some c)
    (hkind : c.kind = .launch a no) (hnew : c.started = false) (hready : lrecWaits s c.ctx a = false) :
    exec (.launch (.start ctx q) lr) s =
      .next (launchGrid (updCmd s c fun x => { x with started := true }) c.ctx a
        (if isPodCtx s c.ctx then some no else none) (some (c.host, c.seq)) none) := by
  have hx : exec (.launch (.start ctx q) lr) s = execLaunch (.start ctx q) lr s := rfl
  simp only [hx, execLaunch, queuedCmd, hhead, launchGo, hkind, hnew, hready, Bool.or_self, Bool.false_eq_true, if_false]

/-- A unit is admitted where it takes its tag and its node does not keep its state. -/
theorem admitUnit_some {s s1 : State} {w : Nat × Option Nat} {g : Grid} (hgrid : gridOf s w.1 = some g)
    (hnode : w.2 = none → g.node ≠ none → nodesHeld s g.ctx = false)
    (htag : takeTag s w.1 w.2 g.lr.deferq = some s1) : admitUnit s w = some (unitAdmitted s1 w.1 w.2) := by
  have hfree : ¬ (w.2.isNone && g.node.isSome && nodesHeld s g.ctx) = true := by
    simp only [Bool.and_eq_true, Option.isNone_iff_eq_none, Option.isSome_iff_ne_none]
    rintro ⟨⟨hgridUnit, hown⟩, hheld⟩
    simp [hnode hgridUnit hown] at hheld
  simp only [admitUnit, hgrid, if_neg hfree, htag, Option.map_some]

/-! ### Handing out -/

/-- Taking a tag leaves the work of the cores alone. -/
theorem takeTag_work {s s1 : State} {grid n : Nat} {team : Option Nat} (h : takeTag s grid team n = some s1) :
    s1.work = s.work ∧ s1.clock = s.clock := by
  unfold takeTag at h
  split at h
  · cases h
  · split at h
    · cases h
    · cases h
      exact ⟨rfl, rfl⟩

section
variable {s : State} {grid t : Nat} {g : Grid}

/-- The next team of a grid goes behind the entries `q` of the queue of cluster `c` (R379). -/
def handed (grid t c : Nat) (q : List QTeam) (s : State) : State :=
  let s1 := setQueueOf (updGrid s grid (handedOut t)) c (q ++ [⟨grid, t, s.work.disp.order, s.clock⟩])
  { s1 with work := { s1.work with disp := { s1.work.disp with order := s1.work.disp.order + 1 } } }

/-- What handing out asks of the grid's next team, before its unit's tag. -/
structure HandsOut (s : State) (grid t : Nat) (g : Grid) : Prop where
  grid : gridOf s grid = some g
  next : nextTeam s g = some t
  phase : g.phase = .dispatch
  alone : g.lr.cores = false
  stays : draining s g.ctx = false
  room : (clusterQueue s ((g.seq + t) % 96)).length < 16

/-- A team with its place in the queue goes there where it has its unit's tag, or takes one now, and otherwise begins to
wait. -/
theorem handout_eq (h : HandsOut s grid t g) :
    let c := (g.seq + t) % 96
    let q := clusterQueue s c
    let wait := updDefer s fun d => { d with waiting := d.waiting ++ [(grid, some t)] }
    exec (.teamHandout grid) s =
      if g.lr.cunit || (unitTag s grid (some t)).isSome then .next (handed grid t c q s)
      else if s.defer.waiting.contains (grid, some t) then .fault (.notEnabled "TEAM_HANDOUT")
      else if mapsPeer s g.ctx then .next wait
      else (takeTag s grid (some t) g.lr.deferq).elim (.next wait) fun s1 => .next (handed grid t c q s1) := by
  have hx : exec (.teamHandout grid) s = execTeamHandout grid s := rfl
  have hroom : ¬ 16 ≤ (clusterQueue s ((g.seq + t) % Config.clusters)).length := Nat.not_le.mpr h.room
  have hopen : ¬ (g.phase != .dispatch || g.lr.cores || draining s g.ctx ||
      decide (16 ≤ (clusterQueue s ((g.seq + t) % Config.clusters)).length)) = true := by
    simp [h.phase, h.alone, h.stays, hroom]
  simp only [hx, execTeamHandout, h.grid, h.next, if_neg hopen]
  cases takeTag s grid (some t) g.lr.deferq <;> rfl

variable (h : HandsOut s grid t g)
include h

theorem handout_tagged (htag : g.lr.cunit = true ∨ unitTag s grid (some t) ≠ none) :
    exec (.teamHandout grid) s = .next (handed grid t ((g.seq + t) % 96) (clusterQueue s ((g.seq + t) % 96)) s) := by
  have hyes : (g.lr.cunit || (unitTag s grid (some t)).isSome) = true := by
    simpa only [Bool.or_eq_true, Option.isSome_iff_ne_none] using htag
  exact (handout_eq h).trans (if_pos hyes)

variable (hown : g.lr.cunit = false) (hnone : unitTag s grid (some t) = none) (hnew : (grid, some t) ∉ s.defer.waiting)
include hown hnone hnew

/-- A team that is its own unit, without a tag and not yet waiting for one, takes it where it can. -/
theorem handout_untagged :
    exec (.teamHandout grid) s =
      if mapsPeer s g.ctx then .next (updDefer s fun d => { d with waiting := d.waiting ++ [(grid, some t)] })
      else (takeTag s grid (some t) g.lr.deferq).elim
        (.next (updDefer s fun d => { d with waiting := d.waiting ++ [(grid, some t)] })) fun s1 =>
        .next (handed grid t ((g.seq + t) % 96) (clusterQueue s ((g.seq + t) % 96)) s1) := by
  have hno : ¬ (g.lr.cunit || (unitTag s grid (some t)).isSome) = true := by simp [hown, hnone]
  exact (handout_eq h).trans ((if_neg hno).trans (if_neg (by simpa using hnew)))

theorem handout_takes {s1 : State} (hlocal : mapsPeer s g.ctx = false)
    (htag : takeTag s grid (some t) g.lr.deferq = some s1) :
    exec (.teamHandout grid) s = .next (handed grid t ((g.seq + t) % 96) (clusterQueue s1 ((g.seq + t) % 96)) s1) := by
  have hqueue : clusterQueue s1 ((g.seq + t) % 96) = clusterQueue s ((g.seq + t) % 96) := by
    rw [clusterQueue, (takeTag_work htag).1, clusterQueue]
  rw [handout_untagged h hown hnone hnew, if_neg (ne_true_of_eq_false hlocal), htag, hqueue]
  rfl

theorem handout_waits (hwait : mapsPeer s g.ctx = true ∨ takeTag s grid (some t) g.lr.deferq = none) :
    exec (.teamHandout grid) s =
      .next (updDefer s fun d => { d with waiting := d.waiting ++ [(grid, some t)] }) := by
  rw [handout_untagged h hown hnone hnew]
  split
  · rfl
  · next hlocal =>
    rw [hwait.resolve_left hlocal]
    rfl

end

/-! ### Placement -/

/-- A cool core takes a team whenever it fits. -/
theorem hotOk_cool {s : State} {k : HotKey} {core : Nat} (h : (coreOf s core).hot = false) : hotOk s k core = true := by
  simp [hotOk, h]

theorem hotClock_cool {s : State} {k : HotKey} {core : Nat} (h : (coreOf s core).hot = false) : hotClock s k core = s := by
  simp [hotClock, h]

theorem placement_starts {cl : Nat} {p : Place} {s : State} {e : QTeam} {g : Grid}
    (hhead : queueTop s (clusterQueue s cl) = some e) (hgrid : gridOf s e.grid = some g) (hstays : draining s g.ctx = false)
    (hcore : chooseCore s (clusterCores cl) (needOf g.lr) = some p.core) (hfits : placeOk s (needOf g.lr) p = true)
    (hresp : respFirst s p.core = false) (hcool : (coreOf s p.core).hot = false) :
    exec (.teamPlacement cl p) s =
      .next (startTeam (setQueueOf s cl ((clusterQueue s cl).filter fun x => x != e)) g e.team p) := by
  have hx : exec (.teamPlacement cl p) s = execTeamPlacement cl p s := rfl
  simp only [hx, execTeamPlacement, hhead, hgrid, hcore, bne_self_eq_false, hfits, hstays, hresp, hotOk_cool hcool,
    hotClock_cool hcool, Bool.not_true, Bool.or_self, Bool.false_eq_true, if_false]

theorem steal_moves {cl f : Nat} {l : List QTeam} {s : State} {e : QTeam} {g : Grid}
    (hlong : longestQueue s = some (f, l)) (hhead : queueTop s l = some e) (hgrid : gridOf s e.grid = some g)
    (hidle : clusterQueue s cl = []) (hcl : cl < 96) (hother : f ≠ cl)
    (hcore : chooseCore s (clusterCores cl) (needOf g.lr) ≠ none) :
    exec (.dispatchSteal cl) s =
      .next (setQueueOf { setQueueOf s f (l.filter fun x => x != e) with clock := s.clock + 40 } cl [e]) := by
  have hx : exec (.dispatchSteal cl) s = execDispatchSteal cl s := rfl
  have hguard : ¬ (!(clusterQueue s cl).isEmpty || decide (Config.clusters ≤ cl) || f == cl ||
      (chooseCore s (clusterCores cl) (needOf g.lr)).isNone) = true := by
    simp [hidle, hother, hcore, Config.clusters, Nat.not_le.mpr hcl]
  simp only [hx, execDispatchSteal, hlong, hhead, hgrid, Option.map_some, Option.getD_some, if_neg hguard]
  rfl

/-- On cool cores a co-resident grid waits for no clock. -/
theorem foldl_hotClock_cool {s : State} {k : HotKey} {ps : List Place} (h : ∀ p ∈ ps, (coreOf s p.core).hot = false) :
    ps.foldl (fun s p => hotClock s k p.core) s = s := by
  induction ps with
  | nil => rfl
  | cons p ps ih =>
    obtain ⟨hp, hps⟩ := List.forall_mem_cons.mp h
    rw [List.foldl_cons, hotClock_cool hp]
    exact ih hps

theorem coresident_starts {grid : Nat} {ps : List Place} {s s1 : State} {g : Grid} (hgrid : gridOf s grid = some g)
    (hphase : g.phase = .dispatch) (hcores : g.lr.cores = true) (hstays : draining s g.ctx = false)
    (hcool : ∀ p ∈ ps, (coreOf s p.core).hot = false)
    (hlen : ((localTeams s g).filter fun t => decide (g.cursor ≤ t)).length = ps.length)
    (hsome : ((localTeams s g).filter fun t => decide (g.cursor ≤ t)) ≠ [])
    (hplace : placeAll g (((localTeams s g).filter fun t => decide (g.cursor ≤ t)).zip ps) s = some s1) :
    exec (.coresidentPlacement grid ps) s =
      .next (updGrid s1 grid fun x => { x with cursor := g.lr.gx * g.lr.gy * g.lr.gz }) := by
  have hx : exec (.coresidentPlacement grid ps) s = execCoresidentPlacement grid ps s := rfl
  have hhot : (ps.all fun p => hotOk s (.grid grid) p.core) = true :=
    List.all_eq_true.mpr fun p hp => hotOk_cool (hcool p hp)
  simp only [hx, execCoresidentPlacement, hgrid, hphase, hcores, hstays, hlen, List.isEmpty_eq_false_iff.mpr hsome, hhot,
    foldl_hotClock_cool hcool, hplace, bne_self_eq_false, Bool.not_true, Bool.or_self, Bool.false_eq_true, if_false]

/-! ### The end of a grid -/

theorem gridCompletion_ends {grid : Nat} {s : State} {g : Grid} (hgrid : gridOf s grid = some g)
    (hphase : g.phase = .dispatch) (hended : g.ended.length = (localTeams s g).length)
    (hcommits : commitsDone s grid = true) (hcount : g.lr.cplctr ≠ 0 → counterWaits s g.ctx g.lr.cplctr = false)
    (hpod : 1 < (podOf s g).length → podHeldBy s g = false ∧ podAgreed s g .ended .allEnded = true) :
    exec (.gridCompletion grid) s =
      .next (
        let s1 := if g.lr.cplctr = 0 then s else addAt s g.ctx g.lr.cplctr
        let s2 := forgetPod { s1 with work := { s1.work with grids := s1.work.grids.filter fun x => x.uid != grid } } g
        sweepTeams (tellNode s2 g.ctx g.node none)) := by
  have hx : exec (.gridCompletion grid) s = execGridCompletion grid s := rfl
  have hagreed : (decide (1 < (podOf s g).length) && (podHeldBy s g || !podAgreed s g .ended .allEnded)) = false := by
    by_cases hmany : 1 < (podOf s g).length
    · simp [hpod hmany]
    · simp [hmany]
  have hfree : (g.lr.cplctr != 0 && counterWaits s g.ctx g.lr.cplctr) = false := by
    by_cases hzero : g.lr.cplctr = 0
    · simp [hzero]
    · simp [hcount hzero]
  simp only [hx, execGridCompletion, hgrid, hphase, hended, hcommits, hagreed, hfree, bne_self_eq_false, Bool.not_true,
    Bool.or_self, Bool.false_eq_true, if_false]

/-! ### A pod's joint launch -/

theorem podOutcome_fails {ctx k n : Nat} {s : State} {g : Grid} (hgrid : awaitsPod s ctx k = some g)
    (hout : podOutcome s g = some n) (hn : n ≠ 0) :
    exec (.podLaunchOutcome ctx k (some n)) s = .next (forgetPod (launchFails s g (BitVec.ofNat 9 n)) g) := by
  have hx : exec (.podLaunchOutcome ctx k (some n)) s = execPodLaunchOutcome ctx k (some n) s := rfl
  have hguard : ¬ (podOutcome s g != some ((some n).getD 0) || some n == some 0) = true := by simp [hout, hn]
  simp only [hx, execPodLaunchOutcome, hgrid, if_neg hguard]

theorem podOutcome_runs {ctx k : Nat} {s : State} {g : Grid} (hgrid : awaitsPod s ctx k = some g)
    (hout : podOutcome s g = some 0) :
    exec (.podLaunchOutcome ctx k none) s =
      .next (enterUnit (updGrid s g.uid fun x => { x with phase := .waitUnit }) g) := by
  have hx : exec (.podLaunchOutcome ctx k none) s = execPodLaunchOutcome ctx k none s := rfl
  have hguard : ¬ (podOutcome s g != some ((none : Option Nat).getD 0) || (none : Option Nat) == some 0) = true := by
    simp [hout]
  simp only [hx, execPodLaunchOutcome, hgrid, if_neg hguard]

/-- Settles O45: each event of a grid, under the conditions at which it comes. -/
theorem gridEvents : Obligations.GridEvents := by
  intro idx grid cl ctx q k n lr p ps
  refine ⟨fun c a no s ⟨hhead, hkind, hnew, hready⟩ => launch_starts hhead hkind hnew hready,
    fun w g s1 s ⟨hwait, hgrid, hnode, htag⟩ => ?_, fun g t => ?_,
    fun e g s ⟨hhead, hgrid, hstays, hcore, hfits, hresp, hcool⟩ =>
      placement_starts hhead hgrid hstays hcore hfits hresp hcool,
    fun f l e g s ⟨hlong, hhead, hgrid, hidle, hcl, hother, hcore⟩ =>
      steal_moves hlong hhead hgrid hidle hcl hother hcore,
    fun g s1 s ⟨hgrid, hphase, hcores, hstays, hcool, hlen, hsome, hplace⟩ =>
      coresident_starts hgrid hphase hcores hstays hcool hlen hsome hplace,
    fun g s ⟨hgrid, hphase, hended, hcommits, hcount, hpod⟩ =>
      gridCompletion_ends hgrid hphase hended hcommits hcount hpod,
    fun g s ⟨hgrid, hout, hn⟩ => podOutcome_fails hgrid hout hn, fun g s ⟨hgrid, hout⟩ => podOutcome_runs hgrid hout⟩
  · have hx : exec (.gridAdmission idx) s = execGridAdmission idx s := rfl
    simp only [hx, execGridAdmission, hwait, admitUnit_some hgrid hnode htag]
  · intro out untagged handed'
    have hgoes (s : State) (h : out s) : HandsOut s grid t g := by
      obtain ⟨hgrid, hnext, hphase, halone, hstays, hroom⟩ := h
      exact ⟨hgrid, hnext, hphase, halone, hstays, hroom⟩
    exact ⟨fun s ⟨hout, htag⟩ => handout_tagged (hgoes s hout) htag,
      fun s1 s ⟨hout, ⟨hown, hnone, hnew⟩, hlocal, htag⟩ => handout_takes (hgoes s hout) hown hnone hnew hlocal htag,
      fun s ⟨hout, ⟨hown, hnone, hnew⟩, hwait⟩ => handout_waits (hgoes s hout) hown hnone hnew hwait⟩

end Sys2Proof.Proofs.Grids
end

section
/-!
SUPPORT. The events by which records and commits move through Sorus and Thallus (R153 to R169), and the statement about
them that stands in the obligations.
-/

namespace Sys2Proof.Proofs.Deferral

open Sys2Proof Sys2Proof.Machine

/-! ### Records, bins and packets -/

theorem sorusRecordArrival_adds {core : Nat} {coal new : Bool} {s : State} {r : DRec} {rest : List Spor}
    (hfirst : (coreOf s core).spor = .entry r :: rest) :
    exec (.sorusRecordArrival core coal new) s =
      .next (
        let c := core / 8
        let r := closedRec s r
        let k := binKey s r
        let s1 := haveBin (updCore s core fun x => { x with spor := rest }) c k
        let s2 := setSorus s1 c { sorusOf s1 c with bins := (sorusOf s1 c).bins.map fun b =>
          if (b.dev, b.ch) == k then
            { b with recs := binAdd coal new r (b.recs.map (closedRec s1))
                     since := if b.recs.isEmpty then s1.clock else b.since }
          else b }
        if 64 ≤ (((sorusOf s2 c).bins.find? fun b => (b.dev, b.ch) == k).map fun b => b.recs.length).getD 0 then shipBin s2 c k
        else s2) := by
  have hx : exec (.sorusRecordArrival core coal new) s = execSorusRecordArrival core coal new s := rfl
  simp only [hx, execSorusRecordArrival, hfirst]

theorem binAgeFlush_ships {cl bin : Nat} {s : State} {b : Bin} (hbin : (sorusOf s cl).bins[bin]? = some b)
    (hsome : b.recs ≠ []) :
    exec (.binAgeFlush cl bin) s =
      .next (shipBin { s with clock := max s.clock (b.since + 16000) } cl (b.dev, b.ch)) := by
  have hx : exec (.binAgeFlush cl bin) s = execBinAgeFlush cl bin s := rfl
  simp only [hx, execBinAgeFlush, hbin]
  exact if_neg (by simp [hsome])

theorem packetArrival_delivers {idx : Nat} {s : State} {p : Packet} (hpacket : s.defer.packets[idx]? = some p)
    (hheld : peerHeld s (packetDev p) = false) (hfirst : ∀ q ∈ s.defer.packets.take idx, packetKey s q ≠ packetKey s p) :
    exec (.thallusPacketArrival idx) s =
      .next (deliver (updDefer s fun d => { d with packets := d.packets.eraseIdx idx }) p) := by
  have hx : exec (.thallusPacketArrival idx) s = execThallusPacketArrival idx s := rfl
  have hnone : ((s.defer.packets.take idx).any fun q => packetKey s q == packetKey s p) = false :=
    List.any_eq_false.mpr fun q hq => by simpa using hfirst q hq
  simp only [hx, execThallusPacketArrival, hpacket]
  exact if_neg (by simp only [hheld, hnone, Bool.or_self, Bool.false_eq_true, not_false_iff])

/-! ### Closing a commit -/

/-- The tags that a closing commit covers (R153, R163). -/
def closedTags (s : State) (c : Commit) : List Nat :=
  match c.scope with
  | .grid | .pod => (s.defer.tags.filter fun t => t.grid == c.grid).map fun t => t.tag
  | .team | .endTeam | .endGrid => c.tags

section
variable {s : State} {cid : Nat} {c : Commit} (hc : commitOf s cid = some c)
include hc

theorem commitClose_closes (hopen : c.closed = false) (hready : commitReady s c = true)
    (hpod : podCommit s c = true → c.podGo = true) (hturn : coordBehind s c (fun k => k.closed) = false) :
    exec (.commitClose cid) s =
      .next (updCommit s cid fun _ => { c with
        tags := closedTags s c, closed := true
        toShip := closeTargets s { c with tags := closedTags s c, closed := true } }) := by
  have hx : exec (.commitClose cid) s = execCommitClose cid s := rfl
  have hgo : (podCommit s c && !c.podGo) = false := by
    cases hp : podCommit s c with
    | false => rfl
    | true => simp [hpod hp]
  simp only [hx, execCommitClose, hc]
  exact if_neg (by simp [hopen, hready, hgo, hturn])

theorem sorusClose_ships {cl : Nat} (hship : cl ∈ c.toShip)
    (hturn : coordBehind s c (fun k => !k.toShip.contains cl) = false) :
    exec (.sorusClose cid cl) s =
      .next (
        let s1 := (((sorusOf s cl).bins.filter fun b => b.recs.any (coversD s c)).map fun b => (b.dev, b.ch)).foldl
          (fun s k => shipBin s cl k) s
        let marks := (((sorusOf s1 cl).touched.filter (coversT s1 c)).map fun t => (t.dev, t.ch)).dedup
        updCommit (updDefer s1 fun d => { d with packets := d.packets ++ marks.map fun m => .marker cl m.1 m.2 cid }) cid
          fun k => { k with toShip := k.toShip.filter (· != cl), shipped := cl :: k.shipped
                            marked := k.marked ++ marks.map fun m => (cl, m.1, m.2) }) := by
  have hx : exec (.sorusClose cid cl) s = execSorusClose cid cl s := rfl
  simp only [hx, execSorusClose, hc]
  exact if_neg (by simp only [List.contains_iff_mem.mpr hship, hturn, Bool.not_true, Bool.or_self, Bool.false_eq_true,
    not_false_iff])

theorem commitApplySend_sends (hclosed : c.closed = true) (hshipped : c.toShip = []) (hmarked : c.marked ≠ [])
    (hnew : c.applySent = [])
    (hturn : coordBehind s c (fun k => k.closed && k.toShip.isEmpty && (k.marked.isEmpty || !k.applySent.isEmpty)) = false) :
    exec (.commitApplySend cid) s =
      .next (updCommit s cid fun k => { k with
        applySent := (c.marked.map fun m => (m.2.1, m.2.2)).dedup.map fun x =>
          (x.1, x.2, (c.marked.filter fun m => (m.2.1, m.2.2) == x).length) }) := by
  have hx : exec (.commitApplySend cid) s = execCommitApplySend cid s := rfl
  simp only [hx, execCommitApplySend, hc]
  exact if_neg (by simp only [hclosed, hshipped, List.isEmpty_eq_false_iff.mpr hmarked, hnew, hturn, List.isEmpty_nil,
    Bool.not_true, Bool.or_self, Bool.false_eq_true, not_false_iff])

/-! ### Applying and completing -/

theorem thallusApply_applies {dev ch : Nat} {bad : List Nat}
    (hsent : (dev, ch, ((thallusOf s (dev, ch)).markers.filter fun m => m.2 == cid).length) ∈ c.applySent)
    (hturn : coordBehind s c
      (fun k => k.acked.contains (dev, ch) || !k.applySent.any fun a => (a.1, a.2.1) == (dev, ch)) = false)
    (hpeer : peerHeld s dev = false) (hnew : (dev, ch) ∉ c.acked) (hbudget : mayCharge s c.ctx 1 = true)
    (hrows : ∀ r ∈ covered s c (thallusOf s (dev, ch)), rowLocked s (devBase r.dev + r.pa) = false ∧
      bankHeld s (devBase r.dev + r.pa) = false)
    (holder : olderLoads s c (covered s c (thallusOf s (dev, ch))) = false) :
    exec (.thallusApply cid dev ch bad) s = .next (applyAt s c dev ch bad) := by
  have hx : exec (.thallusApply cid dev ch bad) s = execThallusApply cid dev ch bad s := rfl
  have hready : (c.applySent.any fun a => (a.1, a.2.1) == (dev, ch) &&
      a.2.2 == ((thallusOf s (dev, ch)).markers.filter fun m => m.2 == cid).length) = true :=
    List.any_eq_true.mpr ⟨_, hsent, by simp⟩
  have hfree : ((covered s c (thallusOf s (dev, ch))).any fun r =>
      rowLocked s (devBase r.dev + r.pa) || bankHeld s (devBase r.dev + r.pa)) = false :=
    List.any_eq_false.mpr fun r hr => by simp [hrows r hr]
  have hacked : c.acked.contains (dev, ch) = false := by simpa using hnew
  simp only [hx, execThallusApply, hc]
  exact if_neg (by simp only [hready, hturn, hpeer, hacked, hbudget, hfree, holder, Bool.not_true, Bool.or_self,
    Bool.false_eq_true, not_false_iff])

theorem commitCompletion_completes (hacked : allAcked c = true) (hpod : podCommit s c = true → c.podDone = true)
    (hfree : ctrsWait s c = false) : exec (.commitCompletion cid) s = .next (completeCommit s c) := by
  have hx : exec (.commitCompletion cid) s = execCommitCompletion cid s := rfl
  have hdone : (podCommit s c && !c.podDone) = false := by
    cases hp : podCommit s c with
    | false => rfl
    | true => simp [hpod hp]
  simp only [hx, execCommitCompletion, hc]
  exact if_neg (by simp [hacked, hdone, hfree])

theorem podCloseRelease_goes (hpod : podCommit s c = true) (hnew : c.podGo = false) (hready : commitReady s c = true)
    (hfree : podHeld s c = false) (hagreed : commitAgreed s c .arrived .go = true) :
    exec (.podCloseRelease cid) s = .next (updCommit s cid fun k => { k with podGo := true }) := by
  have hx : exec (.podCloseRelease cid) s = execPodCloseRelease cid s := rfl
  simp only [hx, execPodCloseRelease, hc]
  exact if_neg (by simp [hpod, hnew, hready, hfree, hagreed])

theorem podCommitCompletion_ends (hpod : podCommit s c = true) (hnew : c.podDone = false) (hacked : allAcked c = true)
    (hfree : podHeld s c = false) (hagreed : commitAgreed s c .applied .complete = true) :
    exec (.podCommitCompletion cid) s = .next (updCommit s cid fun k => { k with podDone := true }) := by
  have hx : exec (.podCommitCompletion cid) s = execPodCommitCompletion cid s := rfl
  simp only [hx, execPodCommitCompletion, hc]
  exact if_neg (by simp [hpod, hnew, hacked, hfree, hagreed])

end

/-- Settles O46: each event of the deferred path, under the conditions at which it comes. -/
theorem deferredEvents : Obligations.DeferredEvents := by
  intro core cl bin idx cid dev ch coal new bad
  refine ⟨fun r rest s hfirst => sorusRecordArrival_adds hfirst, fun b s ⟨hbin, hsome⟩ => binAgeFlush_ships hbin hsome,
    fun p s ⟨hpacket, hheld, hfirst⟩ => packetArrival_delivers hpacket hheld hfirst, fun c t rest s hfirst => ?_,
    fun c => ?_,
    fun c s ⟨hc, hship, hturn⟩ => sorusClose_ships hc hship hturn,
    fun c s ⟨hc, hclosed, hshipped, hmarked, hnew, hturn⟩ =>
      commitApplySend_sends hc hclosed hshipped hmarked hnew hturn,
    fun c s ⟨hc, hsent, hturn, hpeer, hnew, hbudget, hrows, holder⟩ =>
      thallusApply_applies hc hsent hturn hpeer hnew hbudget hrows holder,
    fun c s ⟨hc, hacked, hpod, hfree⟩ => commitCompletion_completes hc hacked hpod hfree,
    fun c s ⟨hc, hpod, hnew, hready, hfree, hagreed⟩ => podCloseRelease_goes hc hpod hnew hready hfree hagreed,
    fun c s ⟨hc, hpod, hnew, hacked, hfree, hagreed⟩ => podCommitCompletion_ends hc hpod hnew hacked hfree hagreed⟩
  · have hx : exec (.commitTokenArrival core) s = execCommitTokenArrival core s := rfl
    simp only [hx, execCommitTokenArrival, hfirst]
  · intro ready tags s ⟨hc, hopen, hready, hpod, hturn⟩
    have harrived : commitReady s c = true := by
      unfold commitReady
      revert hready
      simp only [ready]
      cases c.scope with
      | team | endTeam | endGrid => simp
      | grid | pod => exact fun ⟨g, hg, hall⟩ => by simp [hg, hall]
    exact commitClose_closes hc hopen harrived hpod hturn

end Sys2Proof.Proofs.Deferral
end

section
/-!
SUPPORT. The events that form, carry out, complete and fail copies and collectives (R178, R211, R212, R255 to R266, R371),
and the statement about them that stands in the obligations.
-/

namespace Sys2Proof.Proofs.Transfers

open Sys2Proof Sys2Proof.Machine

/-! ### Copies -/

section
variable {id core : Nat} {s : State} {c : Copy} (hc : copyOf s id = some c)
include hc

theorem copy_id : c.id = id := by simpa [copyOf] using List.find?_some hc

section
variable (hnew : c.form = none) (hgood : c.failed = none) (hopen : c.done = false)
  (hrel : relPending s c.owner c.id = false) (hctr : ctrCause s c = none)
include hnew hgood hopen hrel hctr

theorem copyForm_forms {key : Nat} {l : Layout} (hal : c.lay.toNat % 64 = 0)
    (hkey : homeKey s c.ctx c.lay.toNat false = .ok key) (hfree : homeWaits s key = false)
    (hlay : layoutOf (memGetN s.mem key 64) = l) (hok : l.ok = true) (hform : formCause s c l = none) :
    exec (.copyCommandForm id) s =
      .next (endCopyOp (updCopy s id fun x => { x with form := some l, total := pieces c l }) c.op) := by
  have hx : exec (.copyCommandForm id) s = execCopyCommandForm id s := rfl
  simp only [hx, execCopyCommandForm, hc, hnew, hgood, hopen, hrel, hctr, hal, hkey, hfree, hlay, hok, hform,
    Option.isSome_none, bne_self_eq_false, Bool.not_true, Bool.or_self, Bool.false_eq_true, if_false]

theorem copyForm_misaligned (hmis : c.lay.toNat % 64 ≠ 0) :
    exec (.copyCommandForm id) s =
      .next (endCopyOp (updCopy s id fun x =>
        { x with failed := some (causeCode .copyoob, BitVec.ofNat 64 c.lay.toNat) }) c.op) := by
  have hx : exec (.copyCommandForm id) s = execCopyCommandForm id s := rfl
  simp only [hx, execCopyCommandForm, hc, hnew, hgood, hopen, hrel, hctr, bne_iff_ne.mpr hmis, Option.isSome_none,
    Bool.or_self, Bool.false_eq_true, if_false, if_true]

end

/-- A piece of a copy with no side on the host moves nothing over the host's link. -/
theorem startPiece_local {l : Layout} (hhost : c.onHost = false) :
    startPiece s c l [] = updCopy (charge s c.ctx 0 ((pieceElems l c.started).length * l.esz)) id fun x =>
      ({ x with started := c.started + 1, running := x.running ++ [⟨c.started, firstBytes c l c.started []⟩] } :
        Copy).setBytes fun _ b => b := by
  have hkind : (c.kind == .fromh) = false := by
    cases hk : c.kind <;> simp_all [Copy.onHost]
  simp only [startPiece, hhost, hkind, copy_id hc, Bool.false_and, Bool.false_eq_true, if_false]

section
variable {l : Layout} (hform : c.form = some l) (hgood : c.failed = none) (hopen : c.done = false)
include hform hgood hopen

theorem pieceStart_starts {data : List Byte} (hmore : c.started < c.total) (htakes : takesPiece s c core = true)
    (hbudget : mayCharge s c.ctx 0 = true) (hlink : c.onHost = true → mayCharge s c.ctx 5 = true)
    (hlen : c.kind = .fromh → data.length = (pieceElems l c.started).length * l.esz) :
    exec (.copyPieceStart id core (.start data)) s = .next (startPiece s c l data) := by
  have hx : exec (.copyPieceStart id core (.start data)) s = execCopyPieceStart id core (.start data) s := rfl
  have hhost : (c.onHost && !mayCharge s c.ctx 5) = false := by
    cases hon : c.onHost with
    | false => rfl
    | true => simp [hlink hon]
  have hfull : (c.kind == .fromh && data.length != (pieceElems l c.started).length * l.esz) = false := by
    by_cases hkind : c.kind = .fromh
    · simp [hlen hkind]
    · simp [hkind]
  simp only [hx, execCopyPieceStart, hc, hform, hgood, hopen, Option.isSome_none, Bool.or_self, Bool.false_eq_true,
    if_false]
  exact if_neg (by simp [htakes, hbudget, hhost, hfull, hmore])

theorem pieceStart_read {p j : Nat} {r : Except (BitVec 9 × Nat) (List (List Byte))}
    (hrun : p < c.started) (hmine : j ∈ chunkElems c l p j)
    (hfree : ∀ i ∈ chunkElems c l p j, ∀ k, srcKey s c l i = some k → homeWaits s k = false)
    (hread : allOk (readElem s c (c.owner.bind fun o => teamOf s o.1) l) (chunkElems c l p j) = r) :
    exec (.copyPieceStart id core (.read p j)) s =
      .next (match r with
        | .error e => stopPieces s id e
        | .ok bs => updCopy (bump s) id fun x => x.setBytes fun q b =>
          match (((chunkElems c l p j).zip bs).flatMap fun y =>
            y.2.zipIdx.map fun b => (y.1 * l.esz + b.2, b.1)).find? fun y => y.1 == q with
          | some y => .got y.2
          | none => b) := by
  have hx : exec (.copyPieceStart id core (.read p j)) s = execCopyPieceStart id core (.read p j) s := rfl
  have hguard : ¬ (decide (c.started ≤ p) || !(chunkElems c l p j).contains j ||
      (chunkElems c l p j).any fun i => (srcKey s c l i).any (homeWaits s)) = true := by
    have hwait : ((chunkElems c l p j).any fun i => (srcKey s c l i).any (homeWaits s)) = false := by
      refine List.any_eq_false.mpr fun i hi => ?_
      cases hk : srcKey s c l i with
      | none => simp
      | some k => simp [hfree i hi k hk]
    simp [hwait, hmine, hrun]
  simp only [hx, execCopyPieceStart, hc, hform, hgood, hopen, Option.isSome_none, Bool.or_self, Bool.false_eq_true,
    if_false, readMove, if_neg hguard, readChunk, hread, copy_id hc]
  cases r <;> rfl

theorem pieceStart_write {p q : Nat} {ws : List Nat} {r : Except (BitVec 9 × Nat) State} (hkind : c.kind ≠ .toh)
    (hword : wordWrite s c l (4096 * p + q) = some ws)
    (hfree : ∀ x ∈ ws, ∀ k, dstKey s c l x = some k → homeWaits s k = false)
    (hwrite : writeWord s c (c.owner.bind fun o => teamOf s o.1) l (4096 * p + q) ws = r) :
    exec (.copyPieceStart id core (.write p q)) s =
      .next (match r with
        | .error e => stopPieces s id e
        | .ok s2 => updCopy s2 id fun x => x.setBytes fun y b => if ws.contains y then .put else b) := by
  have hx : exec (.copyPieceStart id core (.write p q)) s = execCopyPieceStart id core (.write p q) s := rfl
  have hwait : (ws.any fun x => (dstKey s c l x).any (homeWaits s)) = false := by
    refine List.any_eq_false.mpr fun x hx => ?_
    cases hk : dstKey s c l x with
    | none => simp
    | some k => simp [hfree x hx k hk]
  simp only [hx, execCopyPieceStart, hc, hform, hgood, hopen, Option.isSome_none, Bool.or_self, Bool.false_eq_true,
    if_false, writeMove, beq_false_of_ne hkind, hword, hwait, hwrite, copy_id hc]
  cases r <;> rfl

end

/-! ### The end of a copy -/

section
variable (hform : c.form ≠ none) (hgood : c.failed = none) (hopen : c.done = false) (hadds : c.adds = false)
  (hall : c.started = c.total) (hrun : c.running = []) (hroom : copyEndRoom s c = true)
include hform hgood hopen hadds hall hrun hroom

theorem copyCompletion_here (hlink : c.onHost = true → s.fab.ethUp = true) (hhome : addsRemote c = false)
    (hfree : ∀ x, c.ctr = some x → counterWaits s c.ctx x.1 = false) :
    exec (.copyCompletion id) s =
      .next (copyDone (copyAdd (updCopy s id fun x => { x with done := true, ack := false }) c) c none) := by
  have hx : exec (.copyCompletion id) s = execCopyCompletion id s := rfl
  have hhost : (c.onHost && !s.fab.ethUp) = false := by
    cases hon : c.onHost with
    | false => rfl
    | true => simp [hlink hon]
  have hwait : (c.ctr.any fun p => counterWaits s c.ctx p.1) = false := by
    cases hk : c.ctr with
    | none => rfl
    | some x => exact hfree x hk
  simp only [hx, execCopyCompletion, hc, Option.isNone_eq_false_iff.mpr (Option.isSome_iff_ne_none.mpr hform), hgood,
    hopen, hadds, hall, hrun, hroom, hhost, hhome, hwait, Option.isSome_none, bne_self_eq_false, List.isEmpty_nil,
    Bool.not_true, Bool.or_self, Bool.false_eq_true, if_false]

theorem copyCompletion_remote (hhost : c.onHost = false) (hremote : addsRemote c = true) :
    exec (.copyCompletion id) s = .next (copyEnded (updCopy s id fun x => { x with adds := true, done := true }) c) := by
  have hx : exec (.copyCompletion id) s = execCopyCompletion id s := rfl
  simp only [hx, execCopyCompletion, hc, Option.isNone_eq_false_iff.mpr (Option.isSome_iff_ne_none.mpr hform), hgood,
    hopen, hadds, hall, hrun, hroom, hhost, hremote, Option.isSome_none, bne_self_eq_false, List.isEmpty_nil,
    Bool.false_and, Bool.not_true, Bool.or_self, Bool.false_eq_true, if_false, if_true]

end

theorem counterAdd_adds {a : Dword} {m : Nat} (hadds : c.adds = true) (hctr : c.ctr = some (a, m))
    (hfree : counterWaits s c.ctx a = false) :
    exec (.copypCounterAdd id) s =
      .next (tellNode (addAt (updCopy s id fun x => { x with adds := false }) c.ctx a) c.ctx c.node none) := by
  have hx : exec (.copypCounterAdd id) s = execCopypCounterAdd id s := rfl
  simp only [hx, execCopypCounterAdd, hc, hadds, hctr, hfree, Bool.false_eq_true, if_false]

theorem copyFailure_fails {k : BitVec 9} {a : Dword} (hopen : c.done = false) (hroom : copyEndRoom s c = true)
    (hbad : c.failed = some (k, a)) : exec (.copyFailure id) s = .next (failCopy s c k a) := by
  have hx : exec (.copyFailure id) s = execCopyFailure id s := rfl
  simp only [hx, execCopyFailure, hc, hopen, hroom, hbad, Bool.not_true, Bool.or_self, Bool.false_eq_true, if_false]

theorem hostAckTimeout_fails (hopen : c.done = false) (hgood : c.failed = none) (hack : c.ack = true)
    (hroom : copyEndRoom s c = true) :
    exec (.hostAckTimeout id) s =
      .next (failCopy { s with clock := max s.clock (c.issued + 800000) } c (causeCode .hwlink) c.dst) := by
  have hx : exec (.hostAckTimeout id) s = execHostAckTimeout id s := rfl
  simp only [hx, execHostAckTimeout, hc, hopen, hgood, hack, hroom, Option.isSome_none, Bool.not_true, Bool.or_self,
    Bool.false_eq_true, if_false]

end

/-! ### Collectives -/

section
variable {id : Nat} {s : State} {c : Coll} {i n : Nat} (hc : s.work.colls.find? (fun c => c.id == id) = some c)
  (hring : ringPos s c = some (i, n)) (hread : c.read = true) (hopen : c.done = false) (hgood : c.failed = none)
include hc hring hread hopen hgood

theorem collPieceLand_stages {st : Nat} {data : List Byte} (hnot : st ≠ 2 * n) (hstep : stepExpected c i n st = true)
    (hheld : ringHeld s c = false) (hleft : stepBytes c n st - ((aGet c.staged st).getD []).length ≠ 0)
    (hlen : data.length = min 4096 (stepBytes c n st - ((aGet c.staged st).getD []).length)) :
    exec (.collPieceLand id st data) s =
      .next (updColl s id fun x =>
        { x with staged := aSet x.staged st ((aGet c.staged st).getD [] ++ data) }) := by
  have hx : exec (.collPieceLand id st data) s = execCollPieceLand id st data s := rfl
  simp only [hx, execCollPieceLand, hc, hring, hread, hopen, hgood, hnot, hstep, hheld, hleft, hlen, Option.isSome_none,
    bne_self_eq_false, decide_false, Bool.not_true, Bool.or_self, Bool.false_eq_true, if_false]

/-- What a reduce team does for a step: the start, a sum or a round of the ring (R265, R266). -/
def stepEffect (s : State) (c : Coll) (i n st : Nat) : State :=
  if st = 2 * n then collStart s c i n
  else if st < n then sumStep s c i n st ((aGet c.staged st).getD [])
  else roundStep s c i n (st % n) ((aGet c.staged st).getD [])

theorem reduceTeam_runs {st core : Nat} (hstep : stepExpected c i n st = true) (hnew : st ∉ c.stepsDone)
    (hland : st = 2 * n ∨ ((aGet c.staged st).getD []).length = stepBytes c n st) (hfits : reduceFits s core = true)
    (hcool : (coreOf s core).hot = false) (hchunk : chunkRead c i n st = true)
    (hfree : ∀ k ∈ stepHomes s c i n st, homeWaits s k = false)
    (hcredit : ∀ k ∈ newSends (stepEffect s c i n st) c, k ∈ c.credit)
    (hbudget : newSends (stepEffect s c i n st) c ≠ [] → mayCharge s c.ctx 3 = true) :
    exec (.reduceTeamDispatch id st core) s =
      .next (updColl (stepEffect s c i n st) id fun x => { x with stepsDone := st :: x.stepsDone }) := by
  have hx : exec (.reduceTeamDispatch id st core) s = execReduceTeamDispatch id st core s := rfl
  have hplace : reduceCool s id st core = true := by simp [reduceCool, hcool]
  have hserved : ((stepHomes s c i n st).any (homeWaits s)) = false :=
    List.any_eq_false.mpr fun k hk => ne_true_of_eq_false (hfree k hk)
  have hstart : ¬ (!c.read || c.done || c.failed.isSome || !stepExpected c i n st || c.stepsDone.contains st ||
      !(decide (st = 2 * n) || decide (((aGet c.staged st).getD []).length = stepBytes c n st)) || !reduceFits s core ||
      !reduceCool s id st core || !chunkRead c i n st || (stepHomes s c i n st).any (homeWaits s)) = true := by
    have hundone : c.stepsDone.contains st = false := by simpa using hnew
    have hlanded : (decide (st = 2 * n) || decide (((aGet c.staged st).getD []).length = stepBytes c n st)) = true := by
      simpa using hland
    simp only [hread, hopen, hgood, hstep, hundone, hlanded, hfits, hplace, hchunk, hserved, Option.isSome_none,
      Bool.not_true, Bool.or_self, Bool.false_eq_true, not_false_iff]
  have hsend : ¬ (!(newSends (stepEffect s c i n st) c).all c.credit.contains ||
      (!(newSends (stepEffect s c i n st) c).isEmpty && !mayCharge s c.ctx 3)) = true := by
    have hall : (newSends (stepEffect s c i n st) c).all c.credit.contains = true := by simpa using hcredit
    by_cases hnone : newSends (stepEffect s c i n st) c = []
    · simp [hnone]
    · simp [hall, hbudget hnone]
  simp only [hx, execReduceTeamDispatch, hc, hring, Proofs.Grids.hotClock_cool hcool]
  exact (if_neg hstart).trans (if_neg hsend)

theorem collRank_ends (hsteps : ∀ x ∈ stepsOf c i n, x ∈ c.stepsDone) (hacked : ∀ x ∈ c.sent, x.1 ∈ c.acked)
    (hfree : counterWaits s c.ctx c.ctr = false) (hspoil : spoilWaits s c i n = false) :
    exec (.collRankCompletion id) s =
      .next (tellNode (addAt (updColl (spoilSources s c i n) id fun x => { x with done := true }) c.ctx c.ctr) c.ctx c.node
        none) := by
  have hx : exec (.collRankCompletion id) s = execCollRankCompletion id s := rfl
  have hall : (stepsOf c i n).all c.stepsDone.contains = true := by simpa using hsteps
  have hack : (c.sent.all fun x => c.acked.contains x.1) = true := by simpa using hacked
  simp only [hx, execCollRankCompletion, hc, hring, hread, hopen, hgood, hall, hack, hfree, hspoil, Option.isSome_none,
    Bool.not_true, Bool.or_self, Bool.false_eq_true, if_false]

end

/-- Settles O47: each event of a copy or a collective, under the conditions at which it comes. -/
theorem copyAndCollectiveEvents : Obligations.CopyAndCollectiveEvents := by
  intro id core st p j q data runs mine
  refine ⟨fun c key l s ⟨hc, hnew, hgood, hopen, hrel, hctr, hal, hkey, hfree, hlay, hok, hform⟩ =>
      copyForm_forms hc hnew hgood hopen hrel hctr hal hkey hfree hlay hok hform,
    fun c s ⟨hc, hnew, hgood, hopen, hrel, hctr, hmis⟩ => copyForm_misaligned hc hnew hgood hopen hrel hctr hmis,
    fun c l s ⟨⟨hc, hform, hgood, hopen⟩, hmore, htakes, hbudget, hhost⟩ => ?_,
    fun c l s ⟨⟨hc, hform, hgood, hopen⟩, hmore, htakes, hbudget, hlink, hlen⟩ =>
      pieceStart_starts hc hform hgood hopen hmore htakes hbudget (fun _ => hlink) hlen,
    fun c l => ⟨fun bs s ⟨⟨⟨hc, hform, hgood, hopen⟩, hrun, hmine, hfree⟩, hread⟩ =>
        pieceStart_read hc hform hgood hopen hrun hmine hfree hread,
      fun e s ⟨⟨⟨hc, hform, hgood, hopen⟩, hrun, hmine, hfree⟩, hread⟩ =>
        pieceStart_read hc hform hgood hopen hrun hmine hfree hread⟩,
    fun c l ws => ⟨fun s2 s ⟨⟨⟨hc, hform, hgood, hopen⟩, hkind, hword, hfree⟩, hwrite⟩ =>
        pieceStart_write hc hform hgood hopen hkind hword hfree hwrite,
      fun e s ⟨⟨⟨hc, hform, hgood, hopen⟩, hkind, hword, hfree⟩, hwrite⟩ =>
        pieceStart_write hc hform hgood hopen hkind hword hfree hwrite⟩,
    fun c s ⟨hc, hform, hgood, hopen, hadds, hall, hrun, hlink, hroom, hhome, hfree⟩ =>
      copyCompletion_here hc hform hgood hopen hadds hall hrun hroom hlink hhome hfree,
    fun c s ⟨hc, hform, hgood, hopen, hadds, hall, hrun, hhost, hroom, hremote⟩ =>
      copyCompletion_remote hc hform hgood hopen hadds hall hrun hroom hhost hremote,
    fun c a m s ⟨hc, hadds, hctr, hfree⟩ => counterAdd_adds hc hadds hctr hfree,
    fun c k a s ⟨hc, hopen, hroom, hbad⟩ => copyFailure_fails hc hopen hroom hbad,
    fun c s ⟨hc, hopen, hgood, hack, hroom⟩ => hostAckTimeout_fails hc hopen hgood hack hroom,
    fun c i n s ⟨hc, hring, hread, hopen, hgood, hnot, hstep, hheld, hleft, hlen⟩ =>
      collPieceLand_stages hc hring hread hopen hgood hnot hstep hheld hleft hlen,
    fun c i n => ?_,
    fun c i n s ⟨hc, hring, hread, hopen, hgood, hsteps, hacked, hfree, hspoil⟩ =>
      collRank_ends hc hring hread hopen hgood hsteps hacked hfree hspoil⟩
  · have hlocal : c.kind ≠ .fromh := fun hk => by simp [Copy.onHost, hk] at hhost
    rw [pieceStart_starts hc hform hgood hopen hmore htakes hbudget (fun hon => by simp [hhost] at hon)
      fun hk => absurd hk hlocal, startPiece_local hc hhost]
  · intro eff s ⟨hc, hring, hread, hopen, hgood, hstep, hnew, hland, hfits, hcool, hchunk, hfree, hcredit, hbudget⟩
    exact reduceTeam_runs hc hring hread hopen hgood hstep hnew hland hfits hcool hchunk hfree hcredit hbudget

end Sys2Proof.Proofs.Transfers
end

section
/-!
SUPPORT. The events of the tile directory and of censuses (R288, R323 to R332), and the statement about them that stands in
the obligations.
-/

namespace Sys2Proof.Proofs.Censuses

open Sys2Proof Sys2Proof.Machine

variable {s : State} {cid core : Nat} {c : Census}

/-! ### Moves of entries -/

theorem dirmoveDeparture_leaves {id i : Nat} {m : DirMove} {o : Op} {e : DirEnt} (hm : moveOf s id = some m)
    (ho : moveOp s id = some o) (he : handleEnt s m.ctx m.handle = some e) (hhere : m.left = false)
    (hslot : m.toEnt = some i) (hturn : behindDir s o = false) (hfree : moveHeld s e = false) :
    exec (.dirmoveDeparture id) s =
      .next (updCen (setDir s e.freed) fun c => { c with moves := c.moves.map fun x => if x.id = id then
        { m with left := true, fromCore := e.core, key := e.key, dens := e.dens, ans := e.ans, more := e.more } else x }) := by
  have hx : exec (.dirmoveDeparture id) s = execDirmoveDeparture id s := rfl
  simp only [hx, execDirmoveDeparture, hm, ho, he, hhere, hslot, hturn, hfree, Option.isNone_some, Bool.or_self,
    Bool.false_eq_true, if_false]

theorem dirmoveArrival_arrives {id i : Nat} {m : DirMove} {o : Op} (hm : moveOf s id = some m) (ho : moveOp s id = some o)
    (hleft : m.left = true) (hslot : m.toEnt = some i) :
    exec (.dirmoveArrival id) s =
      .next (endOp (writeNow (arriveAt s m i) o [.s (moveDst o) (handleOf (arrived s m i))]) o) := by
  have hx : exec (.dirmoveArrival id) s = execDirmoveArrival id s := rfl
  simp only [hx, execDirmoveArrival, hm, ho, hleft, hslot]

/-! ### Visits and responders -/

section
variable (hc : censusOf s cid = some c)
include hc

theorem censusVisit_visits {c1 : Census}
    (hdesc : (c.ready = true ∧ c1 = c) ∨ (c.ready = false ∧ censusDesc s c = .ok (some c1))) (hopen : c.done = false)
    (hnew : core ∉ c.visited) (hcore : core < 768) (hroom : (coreOf s core).census.length < 512) :
    exec (.censusVisit cid core) s = .next (visit s c1 core) := by
  have hx : exec (.censusVisit cid core) s = execCensusVisit cid core s := rfl
  have hguard : ¬ (c.done || c.visited.contains core || decide (Config.cores ≤ core) ||
      decide (512 ≤ (coreOf s core).census.length)) = true := by
    have hin : ¬ Config.cores ≤ core := Nat.not_le.mpr hcore
    simp [hopen, hnew, hin, hroom]
  obtain ⟨hready, rfl⟩ | ⟨hfresh, hread⟩ := hdesc
  · simp only [hx, execCensusVisit, hc, hready, if_true, if_neg hguard]
  · simp only [hx, execCensusVisit, hc, hfresh, hread, Bool.false_eq_true, if_false, if_neg hguard]

/-- The group of a responder as it starts (R291). -/
def respGroup (s : State) (core ent pb : Nat) (c : Census) : Group :=
  let g := Group.start s.clock 0 (pb % 8) false (8 * c.bresp) c.entry 0 0
  { g with r := { g.r with s := (respRegs (dirOf s core ent) c).foldl (fun v p => vset v p.1 p.2) g.r.s } }

theorem responderPlacement_starts {ent pb : Nat} {late : Bool} {asker : PeerAsk}
    (hnext : nextResp s core = some (cid, ent, late)) (hasker : (askerOf s c).1 = some asker)
    (hfits : ((heldOn s core).add (respNeed c.bresp) pb).ok = true) (hpart : pb < 8) (hcool : (coreOf s core).hot = false) :
    ∃ s' t, exec (.responderPlacement core pb) s = .next s' ∧ s'.work.teams = s.work.teams ++ [t] ∧ t.core = core ∧
      t.ctx = c.ctx ∧ t.groups = [respGroup s core ent pb c] := by
  have hx : exec (.responderPlacement core pb) s = execResponderPlacement core pb s := rfl
  have hguard : ¬ (!((heldOn s core).add (respNeed c.bresp) pb).ok || decide (8 ≤ pb) ||
      !hotOk s (.resp core cid ent) core) = true := by
    simp [hfits, hpart, Proofs.Grids.hotOk_cool hcool]
  simp only [hx, execResponderPlacement, hnext, hc, Option.bind_some, hasker, if_neg hguard,
    Proofs.Grids.hotClock_cool hcool]
  exact ⟨_, _, rfl, rfl, rfl, rfl, rfl⟩

theorem responderPlacement_fails {ent pb : Nat} {late : Bool} (hnext : nextResp s core = some (cid, ent, late))
    (hpeer : c.peer ≠ none) (hgone : (askerOf s c).1 = none) :
    exec (.responderPlacement core pb) s = .next (failQueued s core (cid, ent, late)) := by
  have hx : exec (.responderPlacement core pb) s = execResponderPlacement core pb s := rfl
  simp only [hx, execResponderPlacement, hnext, hc, Option.bind_some, hgone, Option.isSome_iff_ne_none.mpr hpeer, if_true]

end

/-- The register file that a responder starts with (R291). -/
theorem respGroup_s (s : State) (core ent pb : Nat) (c : Census) {k : Nat} {x : Dword} (hk : k < 6)
    (hx : (respRegs (dirOf s core ent) c)[k]? = some (k, x)) : vget (respGroup s core ent pb c).r.s k = x := by
  have hset : vget (respGroup s core ent pb c).r.s k = ((respRegs (dirOf s core ent) c).map fun p => p.2)[k]?.getD 0 := by
    simp only [respGroup, respRegs, List.foldl_cons, List.foldl_nil,
      Proofs.Timing.vget_vset _ _ k _ (show k < 64 by omega)]
    interval_cases k <;> rfl
  rw [hset, List.getElem?_map, hx]
  rfl

theorem responderEnd_ends {tid : Nat} {t : Team} {r : Resp} (ht : teamOf s tid = some t) (hr : t.resp = some r)
    (hover : t.ended = true ∨ ∃ k, t.halt = .service k) (hops : ∀ o ∈ s.work.ops, o.tid ≠ tid)
    (hrecs : sporHas s t.core tid = false) : exec (.responderEnd tid) s = .next (endResp s t r) := by
  have hx : exec (.responderEnd tid) s = execResponderEnd tid s := rfl
  have hnone : (s.work.ops.any fun o => o.tid == tid) = false :=
    List.any_eq_false.mpr fun o ho => by simpa using hops o ho
  simp only [hx, execResponderEnd, ht, hr, hnone, hrecs, Bool.or_false]
  obtain hended | ⟨k, hk⟩ := hover
  · simp [hended]
  · simp [hk]

/-! ### Reports -/

section
variable (hc : censusOf s cid = some c) (hopen : c.done = false)
include hc hopen

theorem coreReport_visit {p : Part} (hnew : core ∉ c.reported) (hover : aGet c.cores core = some (0, p))
    (hmoves : ∀ m ∈ s.cen.moves, m.fromCore = core → cid ∉ m.waits) :
    exec (.censusCoreReport cid core none) s =
      .next (coreReport s cid p fun c => { c with reported := core :: c.reported }) := by
  have hx : exec (.censusCoreReport cid core none) s = execCensusCoreReport cid core none s := rfl
  have hheld : (s.cen.moves.any fun m => m.fromCore == core && m.waits.contains cid) = false :=
    List.any_eq_false.mpr fun m hm => by simpa using hmoves m hm
  have hnot : c.reported.contains core = false := by simpa using hnew
  simp only [hx, execCensusCoreReport, hc, hopen, hheld, hnot, hover, Option.bind_some, Bool.or_self, Bool.false_eq_true,
    if_false, if_true]

theorem coreReport_late {x : Nat × Part} (hlate : c.lates.find? (fun x => x.1 == core) = some x)
    (hvisit : core ∈ c.reported ∨ ∃ m ∈ s.cen.moves, m.fromCore = core ∧ cid ∈ m.waits) :
    exec (.censusCoreReport cid core none) s =
      .next (coreReport s cid x.2 fun c => { c with lates := c.lates.erase x, late := c.late - 1 }) := by
  have hx : exec (.censusCoreReport cid core none) s = execCensusCoreReport cid core none s := rfl
  have hskip : (c.reported.contains core || s.cen.moves.any fun m => m.fromCore == core && m.waits.contains cid) = true := by
    simpa using hvisit
  simp only [hx, execCensusCoreReport, hc, hopen, hskip, hlate, Bool.false_eq_true, if_false, if_true]

theorem peerReport_counts {r : PeerReport} (hmine : r.dev ∈ c.peers) (hsoon : tooLate s c r.dev = false) :
    exec (.censusCoreReport cid core (some r)) s =
      .next (atRoot s cid ⟨r.value, r.answers, r.faults, BitVec.ofNat 9 r.cause⟩
        fun c => { c with peers := c.peers.filter (· != r.dev), heard := some s.clock }) := by
  have hx : exec (.censusCoreReport cid core (some r)) s = execCensusCoreReport cid core (some r) s := rfl
  simp only [hx, execCensusCoreReport, hc, hopen, List.contains_iff_mem.mpr hmine, hsoon, Bool.not_true, Bool.or_self,
    Bool.false_eq_true, if_false]

theorem peerReport_late {r : PeerReport} (hmine : r.dev ∈ c.peers) (hlate : tooLate s c r.dev = true) :
    exec (.censusCoreReport cid core (some r)) s = .next (deviceLost s cid r.dev) := by
  have hx : exec (.censusCoreReport cid core (some r)) s = execCensusCoreReport cid core (some r) s := rfl
  simp only [hx, execCensusCoreReport, hc, hopen, List.contains_iff_mem.mpr hmine, hlate, Bool.not_true, Bool.or_self,
    Bool.false_eq_true, if_false, if_true]

theorem censusDeviceLost_silent {dev t : Nat} (hmine : dev ∈ c.peers) (hlink : dev ∉ s.fab.lost)
    (hheard : c.heard = some t) :
    exec (.censusDeviceLost cid dev) s = .next (deviceLost { s with clock := max s.clock (t + 800000) } cid dev) := by
  have hx : exec (.censusDeviceLost cid dev) s = execCensusDeviceLost cid dev s := rfl
  have hup : s.fab.lost.contains dev = false := by simpa using hlink
  simp only [hx, execCensusDeviceLost, hc, hopen, List.contains_iff_mem.mpr hmine, hup, hheard, Bool.not_true,
    Bool.or_self, Bool.false_eq_true, if_false]

theorem censusDeviceLost_link {dev : Nat} (hmine : dev ∈ c.peers) (hlost : dev ∈ s.fab.lost) :
    exec (.censusDeviceLost cid dev) s = .next (deviceLost s cid dev) := by
  have hx : exec (.censusDeviceLost cid dev) s = execCensusDeviceLost cid dev s := rfl
  simp only [hx, execCensusDeviceLost, hc, hopen, List.contains_iff_mem.mpr hmine, List.contains_iff_mem.mpr hlost,
    Bool.not_true, Bool.or_self, Bool.false_eq_true, if_false, if_true]

/-! ### The end of a census -/

theorem rootCompletion_fills (hready : c.ready = true) (hall : c.reported.length = 768) (hlate : c.late = 0)
    (hpeers : c.peers = []) :
    exec (.censusRootCompletion cid) s =
      .next (updCensus (fillCensus s c c.total) cid fun c => { c with done := true }) := by
  have hx : exec (.censusRootCompletion cid) s = execCensusRootCompletion cid s := rfl
  have hown : ownDone c = true := by simp [ownDone, hall, hlate, Config.cores]
  simp only [hx, execCensusRootCompletion, hc, hopen, hready, hown, hpeers, List.isEmpty_nil, Bool.and_self,
    Bool.false_eq_true, if_false, if_true]

theorem rootCompletion_refused {k : BitVec 9} (hfresh : c.ready = false) (hdesc : censusDesc s c = .error k) :
    exec (.censusRootCompletion cid) s =
      .next (freeCensus (fillCensus s c ⟨censusUnit c.oper, 0, 0, k⟩) c) := by
  have hx : exec (.censusRootCompletion cid) s = execCensusRootCompletion cid s := rfl
  simp only [hx, execCensusRootCompletion, hc, hopen, hfresh, hdesc, Bool.false_eq_true, if_false]

end

theorem closeAck_leaves (hc : censusOf s cid = some c) (hsent : closeSent c = true) (hnew : core ∉ c.closed)
    (hcore : core < 768) (hmoves : ∀ m ∈ s.cen.moves, m.left = true → m.toCore = core → m.ctx ≠ c.ctx) :
    exec (.censusCloseAck cid core) s =
      .next (
        let s1 := updCen (updCore s core fun k => { k with census := k.census.filter fun p => p.1 != cid }) fun x =>
          { x with dir := x.dir.map (closeAns core cid) }
        let s2 := updCensus s1 cid fun c => { c with closed := core :: c.closed }
        if c.closed.length + 1 = 768 ∧ c.late = 0 then freeCensus s2 c else s2) := by
  have hx : exec (.censusCloseAck cid core) s = execCensusCloseAck cid core s := rfl
  have hguard : ¬ (!closeSent c || c.closed.contains core ||
      (s.cen.moves.any fun m => m.left && m.toCore == core && m.ctx == c.ctx) || decide (768 ≤ core)) = true := by
    have hcoming : (s.cen.moves.any fun m => m.left && m.toCore == core && m.ctx == c.ctx) = false :=
      List.any_eq_false.mpr fun m hm => by simpa using hmoves m hm
    simp [hsent, hnew, hcoming, hcore]
  have hcores : Config.cores = 768 := rfl
  simp only [hx, execCensusCloseAck, hc, if_neg hguard, hcores, Bool.and_eq_true, decide_eq_true_eq, beq_iff_eq]

/-- Settles O48: each event of the directory and of censuses, under the conditions at which it comes. -/
theorem censusEvents : Obligations.CensusEvents := by
  intro id cid core pb tid dev
  refine ⟨fun m o e i s ⟨hm, ho, he, hhere, hslot, hturn, hfree⟩ =>
      dirmoveDeparture_leaves hm ho he hhere hslot hturn hfree,
    fun m o i s ⟨hm, ho, hleft, hslot⟩ => dirmoveArrival_arrives hm ho hleft hslot,
    fun c s ⟨hc, hready, hopen, hnew, hcore, hroom⟩ =>
      censusVisit_visits hc (.inl ⟨hready, rfl⟩) hopen hnew hcore hroom,
    fun c c1 s ⟨hc, hfresh, hread, hopen, hnew, hcore, hroom⟩ =>
      censusVisit_visits hc (.inr ⟨hfresh, hread⟩) hopen hnew hcore hroom,
    fun s ent late c asker hnext hc hasker hfits hpart hcool => ?_,
    fun ent late c s ⟨hnext, hc, hpeer, hgone⟩ => responderPlacement_fails hc hnext hpeer hgone,
    fun t r s ⟨ht, hr, hover, hops, hrecs⟩ => responderEnd_ends ht hr hover hops hrecs,
    fun c p s ⟨hc, hopen, hnew, hover, hmoves⟩ => coreReport_visit hc hopen hnew hover hmoves,
    fun c x s ⟨hc, hopen, hlate, hvisit⟩ => coreReport_late hc hopen hlate hvisit,
    fun c r s ⟨hc, hopen, hmine, hsoon⟩ => peerReport_counts hc hopen hmine hsoon,
    fun c r s ⟨hc, hopen, hmine, hlate⟩ => peerReport_late hc hopen hmine hlate,
    fun c t s ⟨hc, hopen, hmine, hlink, hheard⟩ => censusDeviceLost_silent hc hopen hmine hlink hheard,
    fun c s ⟨hc, hopen, hmine, hlost⟩ => censusDeviceLost_link hc hopen hmine hlost,
    fun c s ⟨hc, hopen, hready, hall, hlate, hpeers⟩ => rootCompletion_fills hc hopen hready hall hlate hpeers,
    fun c k s ⟨hc, hopen, hfresh, hdesc⟩ => rootCompletion_refused hc hopen hfresh hdesc,
    fun c s ⟨hc, hsent, hnew, hcore, hmoves⟩ => closeAck_leaves hc hsent hnew hcore hmoves⟩
  obtain ⟨s', t, hrun, hteams, hcore, hctx, hgroups⟩ := responderPlacement_starts hc hnext hasker hfits hpart hcool
  have hreg {k : Nat} {x : Dword} (hk : k < 6) := respGroup_s s core ent pb c (x := x) hk
  exact ⟨s', t, _, hrun, hteams, hcore, hctx, hgroups, rfl, rfl, rfl, hreg (k := 0) (by decide) rfl,
    hreg (k := 1) (by decide) rfl, hreg (k := 2) (by decide) rfl, hreg (k := 3) (by decide) rfl,
    hreg (k := 4) (by decide) rfl, hreg (k := 5) (by decide) rfl⟩

end Sys2Proof.Proofs.Censuses
end

section
/-!
SUPPORT. The events of the near-memory units: checks, starts, ends and aborts of commands, fills and holds (R341, R342,
R348, R354, R364 to R369), and the statement about them that stands in the obligations.
-/

namespace Sys2Proof.Proofs.UnitEvents

open Sys2Proof Sys2Proof.Machine

variable {s : State} {ch : Nat} {z : ZRun}

/-! ### The check of a command -/

section
variable {id : Nat} {c : NmCmd} (hc : s.work.nmPosted.find? (fun c => c.id == id) = some c)
  (hrel : relPending s c.owner c.id = false) (hcmd : c.gather = none)
include hc hrel hcmd

theorem commandCheck_unreadable {k : BitVec 9} (hdesc : runKeys s c.ctx c.descAt.toNat 128 = .error k) :
    exec (.nmCommandCheck id) s = .next (rejectNm s c k) := by
  have hx : exec (.nmCommandCheck id) s = execNmCommandCheck id s := rfl
  simp only [hx, execNmCommandCheck, hc, hrel, hcmd, hdesc, Bool.false_eq_true, if_false]

theorem commandCheck_accepts {ks : List Nat} {d : NmDesc} {l : Leaf} (hdesc : runKeys s c.ctx c.descAt.toNat 128 = .ok ks)
    (hd : d = nmDescOf (runBytes s c.ctx c.descAt.toNat 128))
    (hfree : ∀ k ∈ ks ++ (if d.ok then (runKeys s c.ctx d.img.toNat d.ilen).toOption.getD [] else []), homeWaits s k = false)
    (hpage : ((d.wbase.head?).bind fun a => nPage s c.ctx a.toNat) = some l)
    (hup : (unitOf s (channelOf s l.frame)).offline = false)
    (hroom : (unitOf s (channelOf s l.frame)).queue.length < 16) (hgood : nmCause s c.ctx d = none) :
    exec (.nmCommandCheck id) s = .next (endCopyOp (acceptNm s (resolveNm s c d (channelOf s l.frame))) c.op) := by
  have hx : exec (.nmCommandCheck id) s = execNmCommandCheck id s := rfl
  have hwait : ((ks ++ if d.ok then (runKeys s c.ctx d.img.toNat d.ilen).toOption.getD [] else []).any (homeWaits s)) =
      false := List.any_eq_false.mpr fun k hk => ne_true_of_eq_false (hfree k hk)
  have hplace : ¬ 16 ≤ (unitOf s (channelOf s l.frame)).queue.length := Nat.not_le.mpr hroom
  simp only [hx, execNmCommandCheck, hc, hrel, hcmd, hdesc, ← hd, hwait, checkNm, hpage, Option.map_some, Option.isSome_some,
    Option.getD_some, hup, hplace, hgood, decide_false, Bool.and_false, Bool.false_eq_true, if_false]

end

/-! ### A command's start and end -/

theorem commandStart_starts {c : NmCmd} {r : List NmCmd} (hfree : (unitOf s ch).run = none)
    (hqueue : (unitOf s ch).queue = c :: r) (hup : (unitOf s ch).offline = false) (hbudget : mayCharge s c.ctx 2 = true) :
    exec (.nmCommandStart ch) s = .next (setUnit s { unitOf s ch with queue := r, run := some (startZ c s.clock) }) := by
  have hx : exec (.nmCommandStart ch) s = execNmCommandStart ch s := rfl
  simp only [hx, execNmCommandStart, hfree, hqueue, hup, hbudget, Bool.false_eq_true, if_false, if_true]

section
variable (hrun : (unitOf s ch).run = some z) (hcmd : z.cmd.gather = none) (hlive : z.stop = none) (ha : z.endA = true)
  (he : z.endE = true)
include hrun hcmd hlive ha he

theorem completion_ends (hwq : z.wq = []) (hfree : endWaits s z.cmd = false) :
    exec (.nmCommandCompletion ch) s = .next (endRun s ch z ⟨0, 0, false, 0, 0⟩) := by
  have hx : exec (.nmCommandCompletion ch) s = execNmCommandCompletion ch s := rfl
  simp only [hx, execNmCommandCompletion, hrun, hcmd, hlive, ha, he, hwq, hfree, List.isEmpty_nil, Bool.not_true,
    Bool.or_self, Bool.false_eq_true, if_false]
  rfl

theorem completion_left (hwq : z.wq ≠ []) :
    ∃ pc thr, exec (.nmCommandCompletion ch) s = .next (abortRun (bump s) ch (causeCode .zqleft) pc thr 0) := by
  have hx : exec (.nmCommandCompletion ch) s = execNmCommandCompletion ch s := rfl
  simp only [hx, execNmCommandCompletion, hrun, hcmd, hlive, ha, he, List.isEmpty_eq_false_iff.mpr hwq, Bool.not_true,
    Bool.not_false, Bool.or_self, Bool.false_eq_true, if_false, if_true]
  exact ⟨_, _, rfl⟩

end

/-! ### Aborts -/

section
variable (hlive : liveRun s ch = some z)
include hlive

/-- A thread that has ended does not wait, so the other's wait is the one that lasts. -/
theorem zqdead_address (hwait : zaWaits s ch z = true) (hend : z.endE = true) :
    exec (.zqdeadDetect ch) s = .next (abortRun (bump s) ch (causeCode .zqdead) (BitVec.ofInt 12 z.pcA) false 0) := by
  have hx : exec (.zqdeadDetect ch) s = execZqdeadDetect ch s := rfl
  have hother : zeWaits z = false := by simp [zeWaits, hend]
  simp only [hx, execZqdeadDetect, hlive, hwait, hother, hend, if_true, pc12]

theorem zqdead_arithmetic (hwait : zeWaits z = true) (hend : z.endA = true) :
    exec (.zqdeadDetect ch) s = .next (abortRun (bump s) ch (causeCode .zqdead) (BitVec.ofInt 12 z.pcE) true 0) := by
  have hx : exec (.zqdeadDetect ch) s = execZqdeadDetect ch s := rfl
  have hother : zaWaits s ch z = false := by simp [zaWaits, hend]
  simp only [hx, execZqdeadDetect, hlive, hwait, hother, hend, if_true, pc12]

theorem lockHold_aborts {k : ZLockSt} {r : List ZLockSt} (hlocks : z.locks = k :: r) :
    ∃ pc thr, exec (.lockHoldTimeout ch) s =
      .next (abortRun (bump { s with clock := max s.clock (k.since + 3201) }) ch (causeCode .zlktime) pc thr k.base) := by
  have hx : exec (.lockHoldTimeout ch) s = execLockHoldTimeout ch s := rfl
  simp only [hx, execLockHoldTimeout, hlive, hlocks]
  exact ⟨_, _, rfl⟩

theorem lockWait_aborts {base since : Nat} (hwait : z.lockWait = some (base, since)) :
    exec (.lockWaitTimeout ch) s =
      .next (abortRun { s with clock := max s.clock (since + 3200) } ch (causeCode .zlktime) (BitVec.ofInt 12 z.pcA) false
        base) := by
  have hx : exec (.lockWaitTimeout ch) s = execLockWaitTimeout ch s := rfl
  simp only [hx, execLockWaitTimeout, hlive, hwait, pc12]

end

/-! ### Fills and holds of banks -/

theorem holdSlice_ends {bank row since : Nat} (hrun : (unitOf s ch).run = some z)
    (hrow : aGet (unitOf s ch).openRows bank = some row) (hslice : aGet (unitOf s ch).slices bank = some since)
    (hunlocked : ∀ k ∈ z.locks, k.row ≠ row) :
    exec (.holdSliceExpiry ch bank) s = .next (closeBank { s with clock := max s.clock (since + 204) } ch bank) := by
  have hx : exec (.holdSliceExpiry ch bank) s = execHoldSliceExpiry ch bank s := rfl
  have hnone : (z.locks.any fun k => k.row == row) = false :=
    List.any_eq_false.mpr fun k hk => by simpa using hunlocked k hk
  simp only [hx, execHoldSliceExpiry, hrun, hrow, hslice, hnone, Bool.false_eq_true, if_false]
  rfl

section
variable {bank n : Nat} {d : DqEnt} (hbank : bank < 32) (hlive : liveRun s ch = some z)
  (hfirst : z.dq.findIdx? (fun d => d.data.isNone && (keyBanks s d.key 64).contains bank) = some n)
  (hd : z.dq[n]? = some d) (hrow : rowPending s d.key = false) (hend : rowPending s (d.key + 63) = false)
  (hserved : unitServed s d.key 64 = true)
include hbank hlive hfirst hd hrow hend hserved

/-- The oldest entry of a bank that is not filled is filled, or meets a marked row. -/
theorem dqFilled_eq :
    exec (.dqEntryFilled (32 * ch + bank)) s =
      if rowMarked s (keyPa d.key) || rowMarked s (keyPa (d.key + 63)) then
        .next (abortRun s ch (causeCode .zparity) (BitVec.ofInt 12 d.pc) false (rowBase (keyPa d.key)))
      else
        let z' := { z with dq := z.dq.set n { d with data := some (memGetN s.mem d.key 64) } }
        .next ((keyBanks s d.key 64).foldl (fun s b => nextRow s ch z' b) (setRun s ch z')) := by
  have hx : exec (.dqEntryFilled (32 * ch + bank)) s = execDqEntryFilled (32 * ch + bank) s := rfl
  have hch : (32 * ch + bank) / 32 = ch := by omega
  have hbk : (32 * ch + bank) % 32 = bank := by omega
  simp only [hx, execDqEntryFilled, hch, hbk, hlive, hfirst, List.getD_eq_getElem?_getD, hd, Option.getD_some, hrow, hend,
    hserved, Bool.not_true, Bool.or_self, Bool.false_eq_true, if_false, pc12]

theorem dqFilled_fills (hgood : rowMarked s (keyPa d.key) = false) (hgoodEnd : rowMarked s (keyPa (d.key + 63)) = false) :
    exec (.dqEntryFilled (32 * ch + bank)) s =
      .next (
        let z' := { z with dq := z.dq.set n { d with data := some (memGetN s.mem d.key 64) } }
        (keyBanks s d.key 64).foldl (fun s b => nextRow s ch z' b) (setRun s ch z')) := by
  rw [dqFilled_eq hbank hlive hfirst hd hrow hend hserved, if_neg (by simp [hgood, hgoodEnd])]

theorem dqFilled_aborts (hbad : rowMarked s (keyPa d.key) = true ∨ rowMarked s (keyPa (d.key + 63)) = true) :
    exec (.dqEntryFilled (32 * ch + bank)) s =
      .next (abortRun s ch (causeCode .zparity) (BitVec.ofInt 12 d.pc) false (rowBase (keyPa d.key))) := by
  rw [dqFilled_eq hbank hlive hfirst hd hrow hend hserved, if_pos (by simpa using hbad)]

end

/-- Settles O49: each event of a near-memory unit, under the conditions at which it comes. -/
theorem rhizoidEvents : Obligations.RhizoidEvents := by
  intro id ch bank
  exact ⟨fun c k s ⟨hc, hrel, hcmd, hdesc⟩ => commandCheck_unreadable hc hrel hcmd hdesc,
    fun c ks d l s ⟨hc, hrel, hcmd, hdesc, hd, hfree, hpage, hup, hroom, hgood⟩ =>
      commandCheck_accepts hc hrel hcmd hdesc hd hfree hpage hup hroom hgood,
    fun c r s ⟨hrun, hqueue, hup, hbudget⟩ => commandStart_starts hrun hqueue hup hbudget,
    fun z s ⟨hrun, hcmd, hlive, ha, he, hwq, hfree⟩ => completion_ends hrun hcmd hlive ha he hwq hfree,
    fun s z hrun hcmd hlive ha he hwq => completion_left hrun hcmd hlive ha he hwq,
    fun z s ⟨hlive, hwait, hend⟩ => zqdead_address hlive hwait hend,
    fun z s ⟨hlive, hwait, hend⟩ => zqdead_arithmetic hlive hwait hend,
    fun s z k r hlive hlocks => lockHold_aborts hlive hlocks,
    fun z base since s ⟨hlive, hwait⟩ => lockWait_aborts hlive hwait,
    fun z row since s ⟨hrun, hrow, hslice, hunlocked⟩ => holdSlice_ends hrun hrow hslice hunlocked,
    fun z n d s ⟨hbank, hlive, hfirst, hd, hrow, hend, hserved, hgood, hgoodEnd⟩ =>
      dqFilled_fills hbank hlive hfirst hd hrow hend hserved hgood hgoodEnd,
    fun z n d s ⟨hbank, hlive, hfirst, hd, hrow, hend, hserved, hbad⟩ =>
      dqFilled_aborts hbank hlive hfirst hd hrow hend hserved hbad⟩

end Sys2Proof.Proofs.UnitEvents
end

section
/-!
SUPPORT. What a datagram meets before its command is carried out (R410 to R416, R431).
-/

namespace Sys2Proof.Proofs.Datagrams

open Sys2Proof Sys2Proof.Machine

variable {s : State} {k : KdpHdr} {row : String} {code : Nat} {owner needCtx : Bool}
  {body : State → Host.Outcome State Fault Refusal}

/-- A command that is served comes to the checks of its TERM, its host and its context. -/
theorem kdpServe_served (h : Served s k code) :
    kdpServe row code owner needCtx false k s body =
      if owner && k.term != s.host.lease.term then .next (reply s k stStaleTerm [])
      else if owner && k.host != s.host.lease.owner then .next (reply s k stNotOwner [])
      else if needCtx && (ctxOf s k.ctx.toNat).isNone then .next (reply s k stBadCtx [])
      else body s := by
  simp only [kdpServe, h.up, h.whole, h.full, h.fresh, h.pending, h.old, h.cmd, Bool.not_true, Bool.not_false,
    Bool.and_false, Bool.or_self, ne_eq, not_true_eq_false, Bool.false_eq_true, if_false]

/-- A command that any host may send, and that is served, is carried out. -/
theorem kdpServe_anyHost (h : Served s k code) : kdpServe row code false false false k s body = body s := by
  simp only [kdpServe_served h, Bool.false_and, Bool.false_eq_true, if_false]

/-- A command of the owner under its TERM, for a context that exists, is carried out. -/
theorem kdpServe_owner (h : ServedOwner s k code) : kdpServe row code true true false k s body = body s := by
  have hctx : (ctxOf s k.ctx.toNat).isNone = false := Option.isNone_eq_false_iff.mpr h.ctx
  simp only [kdpServe_served h.toServed, h.owner, h.term, hctx, bne_self_eq_false, Bool.and_false, Bool.false_eq_true,
    if_false]

/-- A command of the owner that names no context is carried out. -/
theorem kdpServe_device (h : Served s k code) (hhost : k.host = s.host.lease.owner) (hterm : k.term = s.host.lease.term) :
    kdpServe row code true false false k s body = body s := by
  simp only [kdpServe_served h, hhost, hterm, bne_self_eq_false, Bool.and_false, Bool.false_and, Bool.false_eq_true,
    if_false]

/-- ATTEST and TELEM are carried out for any host, before the rest is served too (R431). -/
theorem kdpServe_always (h : ServedAlways s k code) : kdpServe row code false false true k s body = body s := by
  obtain ⟨hpow, hstep, hup⟩ := h.up
  simp only [kdpServe, hpow, hstep, hup, h.whole, h.fresh, h.pending, h.old, h.cmd, decide_true, Bool.and_self,
    Bool.not_true, Bool.or_self, Bool.false_and, ne_eq, not_true_eq_false, Bool.false_eq_true, if_false, if_true]

theorem kdpServe_busy (hup : portAnswers s = true) (hwhole : kdpDropped k 0 = false) (hpart : kdpFull s = false) :
    kdpServe row code owner needCtx false k s body = .next (reply s k 0x206 []) := by
  simp only [kdpServe, hup, hwhole, hpart, Bool.not_true, Bool.not_false, Bool.or_self, Bool.and_self, Bool.false_eq_true,
    if_false, if_true, stBusy]

theorem kdpServe_kept {r : Reply} (hup : portAnswers s = true) (hwhole : kdpDropped k 0 = false)
    (hfull : kdpFull s = true) (hkept : keptReply s k.host k.seq = some r) :
    kdpServe row code owner needCtx false k s body = .next (sendReply s r) := by
  simp only [kdpServe, hup, hwhole, hfull, hkept, Bool.not_true, Bool.or_self, Bool.and_false, Bool.false_eq_true, if_false]

theorem kdpServe_dropped (h : portAnswers s = false ∨ kdpDropped k 0 = true) :
    kdpServe row code owner needCtx false k s body = .next s := by
  have hdrop : (!portAnswers s || kdpDropped k 0) = true := by simpa using h
  simp only [kdpServe, hdrop, Bool.false_eq_true, if_false, if_true]

end Sys2Proof.Proofs.Datagrams
end

section
/-!
SUPPORT. The commands of the queues, pre-emption, and the nodes of the task graphs (R376 to R387), and the statement about
them that stands in the obligations.
-/

namespace Sys2Proof.Proofs.Queues

open Sys2Proof Sys2Proof.Machine
open Sys2Proof.Proofs.Datagrams (kdpServe_owner)

/-! ### Commands that enter a queue -/

section
variable {s : State} {k : KdpHdr} {row : String} {code : Nat} {bytes : Option Nat} {kind : State → Nat → QKind}
  {note : Nat → State → State} {go : QCmd → State → Host.Outcome State Fault Refusal}

theorem queuedCmd_enters {ok : Bool} (h : ServedOwner s k code) (hbytes : bytes.getD k.bytes = k.bytes)
    (hok : ok = true) :
    queuedCmd row code bytes ok (.arrive k) kind note go s =
      .next (note k.ctx.toNat (enqueue s k (kind s k.ctx.toNat))) := by
  simp only [queuedCmd, kdpServe_owner h, hbytes, hok, bne_self_eq_false, Bool.not_true, Bool.or_self, Bool.false_eq_true,
    if_false]

theorem queuedCmd_refused {ok : Bool} (h : ServedOwner s k code) (hok : ok = false) :
    queuedCmd row code bytes ok (.arrive k) kind note go s = .next (note k.ctx.toNat (reply s k 0x203 [])) := by
  simp only [queuedCmd, kdpServe_owner h, hok, Bool.not_false, Bool.or_true, if_true, stBadCmd]

theorem queuedCmd_head {ok : Bool} {ctx q : Nat} {c : QCmd} (h : queueHead s ctx q = some c) :
    queuedCmd row code bytes ok (.start ctx q) kind note go s = go c s := by
  simp only [queuedCmd, h]

end

theorem launch_enters {s : State} {k : KdpHdr} {a : Dword} (h : ServedOwner s k 0x20) (hbytes : k.bytes = 8) :
    exec (.launch (.arrive k) a) s = .next (countLaunch k.ctx.toNat
      (enqueue s k (.launch a (((ctxOf s k.ctx.toNat).map fun c => c.launches).getD 0)))) := by
  have hx : exec (.launch (.arrive k) a) s = execLaunch (.arrive k) a s := rfl
  rw [hx, execLaunch, queuedCmd_enters (bytes := some 8) h hbytes.symm rfl]

theorem armCommand_enters {s : State} {k : KdpHdr} {first count : Nat} (h : ServedOwner s k 0x21) :
    exec (.arm (.arrive k) first count) s = .next (enqueue s k (.arm first count)) := by
  have hx : exec (.arm (.arrive k) first count) s = execArm (.arrive k) first count s := rfl
  rw [hx, execArm, queuedCmd_enters h rfl rfl]

theorem waitc_enters {s : State} {k : KdpHdr} {a v : Dword} (h : ServedOwner s k 0x22) :
    exec (.waitc (.arrive k) a v) s = .next (enqueue s k (.waitc a v)) := by
  have hx : exec (.waitc (.arrive k) a v) s = execWaitc (.arrive k) a v s := rfl
  rw [hx, execWaitc, queuedCmd_enters h rfl rfl]

theorem preempt_enters {s : State} {k : KdpHdr} {us : Nat} (h : ServedOwner s k 0x23)
    (hus : us = 0 ∨ 100 ≤ us ∧ us ≤ 100000) :
    exec (.preempt (.arrive k) us) s = .next (enqueue s k (.preempt us)) := by
  have hx : exec (.preempt (.arrive k) us) s = execPreempt (.arrive k) us s := rfl
  rw [hx, execPreempt, queuedCmd_enters h rfl (by simpa using hus)]

theorem preempt_refused {s : State} {k : KdpHdr} {us : Nat} (h : ServedOwner s k 0x23) (hzero : us ≠ 0)
    (hus : us < 100 ∨ 100000 < us) : exec (.preempt (.arrive k) us) s = .next (reply s k 0x203 []) := by
  have hx : exec (.preempt (.arrive k) us) s = execPreempt (.arrive k) us s := rfl
  have hlimits : (us == 0 || decide (100 ≤ us ∧ us ≤ 100000)) = false := by
    simp only [Bool.or_eq_false_iff, beq_eq_false_iff_ne, decide_eq_false_iff_not]
    omega
  rw [hx, execPreempt, queuedCmd_refused h hlimits]

theorem resume_enters {s : State} {k : KdpHdr} (h : ServedOwner s k 0x24) (hbytes : k.bytes = 0) :
    exec (.resume (.arrive k)) s = .next (enqueue s k .resume) := by
  have hx : exec (.resume (.arrive k)) s = execResume (.arrive k) s := rfl
  rw [hx, execResume, queuedCmd_enters (bytes := some 0) h hbytes.symm rfl]

theorem kill_enters {s : State} {k : KdpHdr} (h : ServedOwner s k 0x25) (hbytes : k.bytes = 0) :
    exec (.kill (.arrive k)) s = .next (enqueue s k .kill) := by
  have hx : exec (.kill (.arrive k)) s = execKill (.arrive k) s := rfl
  rw [hx, execKill, queuedCmd_enters (bytes := some 0) h hbytes.symm rfl]

/-! ### Commands at the head of their queue -/

section
variable {s : State} {ctx q : Nat} {c : QCmd} (hhead : queueHead s ctx q = some c)
include hhead

theorem armCommand_arms {first count f m slots : Nat} {l : List Node} (hkind : c.kind = .arm f m)
    (hslots : (ctxOf s c.ctx).map (fun x => x.nodes) = some slots) (hfit : f + m ≤ slots)
    (hfree : armWaits s c.ctx f m = false) (hnodes : allNodes ((List.range m).map fun i => armNode s c.ctx (f + i)) = some l) :
    exec (.arm (.start ctx q) first count) s = .next (finishCmd (putNodes s l) c.host c.seq 0) := by
  have hx : exec (.arm (.start ctx q) first count) s = execArm (.start ctx q) first count s := rfl
  simp only [hx, execArm, queuedCmd_head hhead, armGo, hkind, hslots, Option.getD_some, Nat.not_lt.mpr hfit, hfree, hnodes,
    Bool.false_eq_true, if_false]

theorem waitc_completes {a v w x : Dword} {bad : Bool} (hkind : c.kind = .waitc w x)
    (hsees : waitSees s c.ctx w (BitVec.ofNat 64 (x.toNat % 2 ^ 63)) = some bad) :
    exec (.waitc (.start ctx q) a v) s =
      .next (finishCmd s c.host c.seq (if bad then causeStatus (causeCode .graphbad) else 0)) := by
  have hx : exec (.waitc (.start ctx q) a v) s = execWaitc (.start ctx q) a v s := rfl
  simp only [hx, execWaitc, queuedCmd_head hhead, waitcGo, hkind, hsees]

theorem preempt_drains {us d : Nat} (hkind : c.kind = .preempt d) (hnew : c.started = false)
    (hidle : draining s c.ctx = false) :
    exec (.preempt (.start ctx q) us) s =
      .next (withdraw (updCtx (updCmd s c fun x => { x with started := true }) c.ctx fun x =>
        { x with deadline := if d = 0 then x.deadline else d, drain := some ⟨s.clock, some c.queue⟩ }) c.ctx) := by
  have hx : exec (.preempt (.start ctx q) us) s = execPreempt (.start ctx q) us s := rfl
  simp only [hx, execPreempt, queuedCmd_head hhead, preemptGo, hkind, hnew, hidle, Bool.or_self, Bool.false_eq_true,
    if_false]
  rfl

theorem resume_resumes (hkind : c.kind = .resume)
    (hfree : ∀ g ∈ savedGrids s c.ctx, lrecWaits s c.ctx g.recAddr = false) :
    exec (.resume (.start ctx q)) s =
      .next (finishCmd (resumeGrids s c.ctx).1 c.host c.seq
        (if (resumeGrids s c.ctx).2 then 0 else causeStatus (causeCode .lfit))) := by
  have hx : exec (.resume (.start ctx q)) s = execResume (.start ctx q) s := rfl
  have hready : ((savedGrids s c.ctx).any fun g => lrecWaits s c.ctx g.recAddr) = false :=
    List.any_eq_false.mpr fun g hg => ne_true_of_eq_false (hfree g hg)
  simp only [hx, execResume, queuedCmd_head hhead, resumeGo, hkind, hready, Bool.false_eq_true, if_false]

theorem kill_resets (hkind : c.kind = .kill) (hidle : ((ctxOf s c.ctx).bind fun x => x.drain) = none) :
    exec (.kill (.start ctx q)) s =
      .next (finishCmd (forcedReset s c.ctx (causeCode .ctxkill)) c.host c.seq 0) := by
  have hx : exec (.kill (.start ctx q)) s = execKill (.start ctx q) s := rfl
  simp only [hx, execKill, queuedCmd_head hhead, killGo, hkind, hidle]

end

/-! ### The end of a drain -/

section
variable {s : State} {ctx : Nat} {c : Ctx} {d : DrainSt} (hctx : ctxOf s ctx = some c) (hdrain : c.drain = some d)
include hctx hdrain

theorem preemptSaved_saves (hdone : drained s ctx = true) (hsoon : s.clock < d.since + 800 * c.deadline)
    (hfree : savedWaits s ctx (s.work.grids.filter fun g => g.ctx == ctx && unended s g) c.save.toNat = false) :
    exec (.preemptSaved ctx) s =
      .next (
        let l := s.work.grids.filter fun g => g.ctx == ctx && unended s g
        let s1 := l.foldl (fun s g => updGrid s g.uid fun x => { x with phase := .saved })
          (putSaved ctx l c.save.toNat (flushBins s ctx))
        preemptEnds (updCtx s1 ctx fun x => { x with drain := none, saved := true }) ctx d 0) := by
  have hx : exec (.preemptSaved ctx) s = execPreemptSaved ctx s := rfl
  have htime : ¬ drainEnd c d ≤ s.clock := Nat.not_le.mpr hsoon
  simp only [hx, execPreemptSaved, hctx, hdrain, hdone, htime, hfree, decide_false, Bool.not_true, Bool.or_self,
    Bool.false_eq_true, if_false]

theorem preemptDeadline_resets :
    exec (.preemptDeadline ctx) s =
      .next (preemptEnds (forcedReset { s with clock := max s.clock (d.since + 800 * c.deadline) } ctx
        (causeCode .preemptrst)) ctx d (causeStatus (causeCode .preemptrst))) := by
  have hx : exec (.preemptDeadline ctx) s = execPreemptDeadline ctx s := rfl
  simp only [hx, execPreemptDeadline, hctx, hdrain, drainEnd]

end

/-! ### Nodes -/

/-- A node none of whose waits has been met looks at all of them. -/
theorem lookNode_fresh (s : State) {x : Node} (h : x.met = []) :
    lookNode s x = { x with
      met := ((x.waits.zipIdx.map fun w => (w.2, waitSees s x.ctx w.1.1 w.1.2.1)).filter fun y => y.2.isSome).map
        fun y => y.1
      bad := x.bad || (x.waits.zipIdx.map fun w => (w.2, waitSees s x.ctx w.1.1 w.1.2.1)).any fun y => y.2 == some true } := by
  simp [lookNode, h]

section
variable {s : State} {ctx n : Nat} {x : Node} (hx : nodeOf s ctx n = some x)
include hx

section
variable (hctx : x.ctx = ctx) (hst : x.st = .waiting) (hfree : nodesHeld s ctx = false) (hmet : x.met = [])
include hctx hst hfree hmet

theorem nodeWaitsDone_ready (hgood : x.bad = false)
    (hsees : ∀ w ∈ x.waits, waitSees s ctx w.1 w.2.1 = some false) :
    exec (.nodeWaitsDone ctx n) s =
      .next (updNode s ctx n fun k => { k with met := List.range x.waits.length, st := .ready }) := by
  have he : exec (.nodeWaitsDone ctx n) s = execNodeWaitsDone ctx n s := rfl
  have hall : (x.waits.zipIdx.map fun w => (w.2, waitSees s x.ctx w.1.1 w.1.2.1)) =
      x.waits.zipIdx.map fun w => (w.2, some false) :=
    List.map_congr_left fun w hw => by rw [hctx, hsees w.1 (List.fst_mem_of_mem_zipIdx hw)]
  have hlook : lookNode s x = { x with met := List.range x.waits.length, bad := false } := by
    rw [lookNode_fresh s hmet, hall]
    simp [hgood, List.filter_map, Function.comp_def, List.range_eq_range']
  simp only [he, execNodeWaitsDone, hx, hlook, hst, hfree, bne_self_eq_false, Bool.false_and, Bool.or_self,
    Bool.false_eq_true, if_false, List.length_range, if_true]

theorem nodeWaitsDone_bad {w : Dword × Dword × Nat} (hw : w ∈ x.waits)
    (hsees : waitSees s ctx w.1 w.2.1 = some true) (hrec : recordWaits s x = false) :
    exec (.nodeWaitsDone ctx n) s = .next (poisonNode (updNode s ctx n fun k => { k with st := .done }) (lookNode s x)) := by
  have he : exec (.nodeWaitsDone ctx n) s = execNodeWaitsDone ctx n s := rfl
  have hbad : (lookNode s x).bad = true := by
    obtain ⟨i, hi⟩ := List.mem_iff_getElem?.mp hw
    rw [lookNode_fresh s hmet]
    refine Bool.or_eq_true_iff.mpr (.inr (List.any_eq_true.mpr ⟨(i, some true), ?_, rfl⟩))
    exact List.mem_map.mpr ⟨(w, i), List.mk_mem_zipIdx_iff_getElem?.mpr hi, by rw [hctx, hsees]⟩
  have hstay : (lookNode s x).st = .waiting := hst
  have hread : recordWaits s (lookNode s x) = false := hrec
  simp only [he, execNodeWaitsDone, hx, hbad, hstay, hread, hfree, bne_self_eq_false, Bool.and_false, Bool.or_self,
    Bool.false_eq_true, if_false, if_true]

end

theorem nodeStart_posts (hst : x.st = .ready) (hnew : x.result = none) (hctx : x.ctx = ctx)
    (hfree : nodesHeld s ctx = false) (hkind : x.kind = 1) :
    exec (.nodeStart ctx n) s =
      .next (bumpId (postNm (nodeRuns s x) (newNm s.nextId ctx x.csc none none (some x.n) none x.payload))) := by
  have he : exec (.nodeStart ctx n) s = execNodeStart ctx n s := rfl
  simp only [he, execNodeStart, hx, hst, hnew, hfree, bne_self_eq_false, Option.isSome_none, Bool.or_self,
    Bool.false_eq_true, if_false, startNode, hkind, hctx]

theorem nodeCompletion_done {r : Option (BitVec 9)} (hres : x.result = some r) (hst : x.st = .running)
    (hkind : x.kind ≠ 4) :
    exec (.nodeCompletion ctx n) s = .next (updNode s ctx n fun x => { x with st := .done, result := none }) := by
  have he : exec (.nodeCompletion ctx n) s = execNodeCompletion ctx n s := rfl
  simp only [he, execNodeCompletion, hx, hres, hst, beq_false_of_ne hkind, bne_self_eq_false, Bool.false_and, Bool.or_self,
    Bool.false_eq_true, if_false]

theorem nodeCompletion_signals (hres : x.result = some none) (hst : x.st = .running) (hkind : x.kind = 4)
    (hfree : counterWaits s ctx x.cpl = false) :
    exec (.nodeCompletion ctx n) s =
      .next (addAt (updNode s ctx n fun x => { x with st := .done, result := none }) ctx x.cpl) := by
  have he : exec (.nodeCompletion ctx n) s = execNodeCompletion ctx n s := rfl
  simp only [he, execNodeCompletion, hx, hres, hst, hkind, hfree, bne_self_eq_false, beq_self_eq_true, Option.isNone_none,
    Bool.false_and, Bool.and_self, Bool.and_false, Bool.or_self, Bool.false_eq_true, if_false, if_true]

end

/-- Settles O50: each command of a queue and each event of a node, under the conditions at which it comes. -/
theorem queueAndGraphEvents : Obligations.QueueAndGraphEvents := by
  intro ctx q n first count us k a v
  exact ⟨fun s ⟨h, hbytes⟩ => launch_enters h hbytes, fun s h => armCommand_enters h, fun s h => waitc_enters h,
    fun s ⟨h, hus⟩ => preempt_enters h hus, fun s ⟨h, hzero, hus⟩ => preempt_refused h hzero hus,
    fun s ⟨h, hbytes⟩ => resume_enters h hbytes, fun s ⟨h, hbytes⟩ => kill_enters h hbytes,
    fun c l f m slots s ⟨hhead, hkind, hslots, hfit, hfree, hnodes⟩ =>
      armCommand_arms hhead hkind hslots hfit hfree hnodes,
    fun c w x s ⟨hhead, hkind, hsees⟩ => waitc_completes (bad := false) hhead hkind hsees,
    fun c w x s ⟨hhead, hkind, hsees⟩ => waitc_completes (bad := true) hhead hkind hsees,
    fun c d s ⟨hhead, hkind, hnew, hidle⟩ => preempt_drains hhead hkind hnew hidle,
    fun c s ⟨hhead, hkind, hfree⟩ => resume_resumes hhead hkind hfree,
    fun c s ⟨hhead, hkind, hidle⟩ => kill_resets hhead hkind hidle,
    fun c d s ⟨hctx, hdrain, hdone, hsoon, hfree⟩ => preemptSaved_saves hctx hdrain hdone hsoon hfree,
    fun c d s ⟨hctx, hdrain⟩ => preemptDeadline_resets hctx hdrain,
    fun x s ⟨hx, hctx, hst, hfree, hmet, hgood, hsees⟩ => nodeWaitsDone_ready hx hctx hst hfree hmet hgood hsees,
    fun s x w hx hctx hst hfree hmet hw hsees hrec => nodeWaitsDone_bad hx hctx hst hfree hmet hw hsees hrec,
    fun x s ⟨hx, hst, hnew, hctx, hfree, hkind⟩ => nodeStart_posts hx hst hnew hctx hfree hkind,
    fun x r s ⟨hx, hres, hst, hkind⟩ => nodeCompletion_done hx hres hst hkind,
    fun x s ⟨hx, hres, hst, hkind, hfree⟩ => nodeCompletion_signals hx hres hst hkind hfree⟩

end Sys2Proof.Proofs.Queues
end

section
/-!
SUPPORT. RDMA at the device's memory (R186, R382, R409).
-/

namespace Sys2Proof.Proofs.Remote

open Sys2Proof Sys2Proof.Machine

/-! ### A request under way -/

/-- Two records of one request, which differ at most in how far it has come. -/
def SameRequest (r q : Rdma) : Prop := r.host = q.host ∧ r.key = q.key ∧ r.va = q.va ∧ r.n = q.n ∧ r.data = q.data

/-- What is kept of a request is of that request. -/
theorem sameRequest_kept (s : State) (q : Rdma) : SameRequest ((rdmaOf s q).getD q) q := by
  cases hq : rdmaOf s q with
  | none => exact ⟨rfl, rfl, rfl, rfl, rfl⟩
  | some r =>
    have hr := List.find?_some hq
    simp only [Bool.and_eq_true, beq_iff_eq, and_assoc] at hr
    exact hr

theorem rdmaOf_congr {r q : Rdma} (h : SameRequest r q) (s : State) : rdmaOf s r = rdmaOf s q := by
  obtain ⟨hhost, hkey, hva, hn, hdata⟩ := h
  simp only [rdmaOf, hhost, hkey, hva, hn, hdata]

theorem endRdma_congr {r q : Rdma} (h : SameRequest r q) (s : State) : endRdma s r = endRdma s q := by
  obtain ⟨hhost, hkey, hva, hn, hdata⟩ := h
  simp only [endRdma, hhost, hkey, hva, hn, hdata]

/-! ### Its next packet -/

/-- What a request's packet moves: bytes to their homes, or to the host (R409). -/
def packetMoved (s : State) (q : Rdma) (got : Nat) (ks : List Nat) : State :=
  q.data.elim (updHost s fun h => { h with out := (q.host, ks.map (memGet s.mem)) :: h.out })
    fun d => { s with mem := memSetCells s.mem (ks.zip (d.drop got)) }

section
variable {row : String} {s : State} {c : Ctx} {own : Bool} {q r : Rdma} (hr : (rdmaOf s q).getD q = r)
include hr

section
variable {ks : List Nat}
  (hwhole : rdmaOf s q = none → (rdmaKeys s c.num q.va.toNat q.n own q.data.isNone).isSome = true)
  (hks : rdmaKeys s c.num (q.va.toNat + r.got) (min packetBytes (q.n - r.got)) own q.data.isNone = some ks)
include hwhole hks

/-- A packet that the keys reach waits for its homes or its charge, or moves its bytes. -/
theorem rdmaPacket_reaches :
    rdmaPacket row s c own q =
      if ks.any (homeWaits s) then .next (putRdma s { r with waits := ks.filter (homeWaits s) })
      else if !mayCharge s c.num 5 then hostNot row
      else
        let m := min packetBytes (q.n - r.got)
        let s1 := charge (packetMoved s q r.got ks) c.num 5 m
        .next (if r.got + m = q.n then endRdma s1 q else putRdma s1 { r with got := r.got + m, waits := [] }) := by
  have hsame : SameRequest r q := hr ▸ sameRequest_kept s q
  have hfirst : ∃ l, (if (rdmaOf s q).isSome then some [] else rdmaKeys s c.num q.va.toNat q.n own q.data.isNone) = some l := by
    cases hq : rdmaOf s q with
    | none => exact Option.isSome_iff_exists.mp (hwhole hq)
    | some _ => exact ⟨[], rfl⟩
  obtain ⟨l, hl⟩ := hfirst
  have hend := fun s => endRdma_congr hsame s
  obtain ⟨hhost, -, hva, hn, hdata⟩ := id hsame
  simp only [rdmaPacket, hr, rdmaOf_congr hsame, hva, hn, hl, hks, hend, hhost, hdata, packetMoved]
  cases q.data <;> rfl

theorem rdmaPacket_moves (hfree : ∀ x ∈ ks, homeWaits s x = false) (hbudget : mayCharge s c.num 5 = true) :
    rdmaPacket row s c own q = .next (
      let m := min packetBytes (q.n - r.got)
      let s1 := charge (packetMoved s q r.got ks) c.num 5 m
      if r.got + m = q.n then endRdma s1 q else putRdma s1 { r with got := r.got + m, waits := [] }) := by
  have hnone : ks.any (homeWaits s) = false := List.any_eq_false.mpr fun x hx => ne_true_of_eq_false (hfree x hx)
  rw [rdmaPacket_reaches hr hwhole hks, if_neg (ne_true_of_eq_false hnone), if_neg (by simp [hbudget])]

theorem rdmaPacket_waits (hbusy : ∃ x ∈ ks, homeWaits s x = true) :
    rdmaPacket row s c own q = .next (putRdma s { r with waits := ks.filter (homeWaits s) }) := by
  rw [rdmaPacket_reaches hr hwhole hks, if_pos (List.any_eq_true.mpr hbusy)]

end
end

/-- A request whose bytes the key does not reach is refused whole. -/
theorem rdmaPacket_refused {row : String} {s : State} {c : Ctx} {own : Bool} {q : Rdma} (hnew : rdmaOf s q = none)
    (hwhole : rdmaKeys s c.num q.va.toNat q.n own q.data.isNone = none) :
    rdmaPacket row s c own q = .next (nak (endRdma s q) q.host) := by
  simp only [rdmaPacket, hnew, Option.getD_none, Option.isSome_none, Bool.false_eq_true, if_false, hwhole]

/-! ### The two directions -/

section
variable {s : State} {host key : BitVec 32} {va : Dword} (hup : portAnswers s = true)
include hup

theorem rdmaWrite_owner {data : List Byte} {c : Ctx} (hkey : keyCtx s host key = some (c, true)) :
    exec (.rdmaWrite host key va data) s =
      rdmaPacket "RDMA_WRITE" s c true ⟨host, key, va, data.length, some data, 0, []⟩ := by
  have hx : exec (.rdmaWrite host key va data) s = execRdmaWrite host key va data s := rfl
  simp only [hx, execRdmaWrite, hup, hkey, Bool.not_true, Bool.false_eq_true, if_false]

theorem rdmaWrite_refused {data : List Byte} (hkey : ∀ c, keyCtx s host key ≠ some (c, true)) :
    exec (.rdmaWrite host key va data) s = .next (nak s host) := by
  have hx : exec (.rdmaWrite host key va data) s = execRdmaWrite host key va data s := rfl
  rw [hx, execRdmaWrite, if_neg (by simp [hup])]
  split
  · next hc => exact absurd hc (hkey _)
  · rfl

theorem rdmaRead_keyed {n : Nat} {c : Ctx} {own : Bool} (hkey : keyCtx s host key = some (c, own)) :
    exec (.rdmaRead host key va n) s = rdmaPacket "RDMA_READ" s c own ⟨host, key, va, n, none, 0, []⟩ := by
  have hx : exec (.rdmaRead host key va n) s = execRdmaRead host key va n s := rfl
  simp only [hx, execRdmaRead, hup, hkey, Bool.not_true, Bool.false_eq_true, if_false]

theorem rdmaRead_refused {n : Nat} (hkey : keyCtx s host key = none) :
    exec (.rdmaRead host key va n) s = .next (nak s host) := by
  have hx : exec (.rdmaRead host key va n) s = execRdmaRead host key va n s := rfl
  simp only [hx, execRdmaRead, hup, hkey, Bool.not_true, Bool.false_eq_true, if_false]

end

end Sys2Proof.Proofs.Remote
end

section
/-!
SUPPORT. What hosts and service firmware do to the device, by RDMA, datagrams and gateway calls (R362, R403, R409 to R416,
R419 to R425, R429), and the statement about them that stands in the obligations.
-/

namespace Sys2Proof.Proofs.Hosts

open Sys2Proof Sys2Proof.Machine
open Sys2Proof.Proofs.Datagrams Sys2Proof.Proofs.Remote

/-! ### The lease -/

section
variable {s : State} {k : KdpHdr}

theorem claim_takes (h : Served s k 1) (hbytes : k.bytes = 0)
    (hfree : s.host.lease.owner = 0 ∨ s.host.lease.expiry ≤ nowNs s) :
    exec (.claim k) s = .next (deliverKept (reply (setLease s
      { owner := k.host, term := s.host.lease.term + 1, expiry := leaseEnd s }) k 0 []) k.host) := by
  have hx : exec (.claim k) s = execClaim k s := rfl
  have hopen : (decide (s.host.lease.owner = 0) || decide (s.host.lease.expiry ≤ nowNs s)) = true := by simpa using hfree
  simp only [hx, execClaim, kdpServe_anyHost h, hbytes, hopen, ne_eq, not_true_eq_false, if_false, if_true]

theorem claim_refused (h : Served s k 1) (hbytes : k.bytes = 0) (howned : s.host.lease.owner ≠ 0)
    (hlive : nowNs s < s.host.lease.expiry) :
    exec (.claim k) s = .next (reply s k 0x201 (leaseBytes s.host.lease)) := by
  have hx : exec (.claim k) s = execClaim k s := rfl
  have hheld : (decide (s.host.lease.owner = 0) || decide (s.host.lease.expiry ≤ nowNs s)) = false := by
    simpa [hlive] using howned
  simp only [hx, execClaim, kdpServe_anyHost h, hbytes, hheld, ne_eq, not_true_eq_false, Bool.false_eq_true, if_false,
    stNotOwner]

theorem renew_extends (h : Served s k 2) (hbytes : k.bytes = 0) (hheld : leaseHeld s k = true) :
    exec (.renew k) s =
      .next (reply (updHost s fun h => { h with lease := { h.lease with expiry := leaseEnd s } }) k 0 []) := by
  have hx : exec (.renew k) s = execRenew k s := rfl
  simp only [hx, execRenew, kdpServe_anyHost h, hbytes, hheld, ne_eq, not_true_eq_false, Bool.not_true, Bool.false_eq_true,
    if_false]

theorem handover_gives {host : BitVec 32} (h : Served s k 3) (hbytes : k.bytes = 4) (hheld : leaseHeld s k = true)
    (hhost : host ≠ 0) :
    exec (.handover k host true) s =
      .next (reply (setLease s { owner := host, term := s.host.lease.term + 1, expiry := leaseEnd s }) k 0 []) := by
  have hx : exec (.handover k host true) s = execHandover k host true s := rfl
  simp only [hx, execHandover, kdpServe_anyHost h, hbytes, hheld, hhost, decide_false, ne_eq, not_true_eq_false,
    Bool.not_true, Bool.or_self, Bool.false_eq_true, if_false]

theorem release_frees (h : Served s k 4) (hbytes : k.bytes = 0) (hheld : leaseHeld s k = true) :
    exec (.release k) s = .next (reply (setLease s { s.host.lease with owner := 0 }) k 0 []) := by
  have hx : exec (.release k) s = execRelease k s := rfl
  simp only [hx, execRelease, kdpServe_anyHost h, hbytes, hheld, ne_eq, not_true_eq_false, Bool.not_true,
    Bool.false_eq_true, if_false]

theorem leaseExpiry_reached (howned : s.host.lease.owner ≠ 0) (hlive : nowNs s < s.host.lease.expiry) :
    exec .leaseExpiry s = .next { s with clock := (s.host.lease.expiry * 4 + 4) / 5 } := by
  have hx : exec .leaseExpiry s = execLeaseExpiry s := rfl
  rw [hx]
  exact if_neg (by simpa [hlive] using howned)

/-! ### Commands that are not the owner's, or not served -/

theorem ownerCmd_stale {row : String} {code : Nat} {needCtx : Bool} {body : State → Option (State × BitVec 16 × List Byte)}
    (h : Served s k code) (hterm : k.term ≠ s.host.lease.term) :
    ownerCmd row code needCtx k s body = .next (reply s k 0x202 []) := by
  rw [ownerCmd, kdpServe_served h, if_pos (by simpa using hterm)]
  rfl

theorem ownerCmd_stranger {row : String} {code : Nat} {needCtx : Bool}
    {body : State → Option (State × BitVec 16 × List Byte)} (h : Served s k code) (hterm : k.term = s.host.lease.term)
    (hhost : k.host ≠ s.host.lease.owner) : ownerCmd row code needCtx k s body = .next (reply s k 0x201 []) := by
  rw [ownerCmd, kdpServe_served h, if_neg (by simp [hterm]), if_pos (by simpa using hhost)]
  rfl

theorem ownerCmd_noContext {row : String} {code : Nat} {body : State → Option (State × BitVec 16 × List Byte)}
    (h : Served s k code) (hhost : k.host = s.host.lease.owner) (hterm : k.term = s.host.lease.term)
    (hnone : ctxOf s k.ctx.toNat = none) : ownerCmd row code true k s body = .next (reply s k 0x204 []) := by
  rw [ownerCmd, kdpServe_served h, if_neg (by simp [hterm]), if_neg (by simp [hhost]), if_pos (by simp [hnone])]
  rfl

/-- An owner's command that is carried out is answered with what its body gives. -/
theorem ownerCmd_done {row : String} {code : Nat} {body : State → Option (State × BitVec 16 × List Byte)} {s' : State}
    {st : BitVec 16} {b : List Byte} (h : ServedOwner s k code) (hbody : body s = some (s', st, b)) :
    ownerCmd row code true k s body = .next (reply s' k st b) := by
  simp only [ownerCmd, kdpServe_owner h, hbody]

theorem ownerCmd_deviceDone {row : String} {code : Nat} {body : State → Option (State × BitVec 16 × List Byte)} {s' : State}
    {st : BitVec 16} {b : List Byte} (h : Served s k code) (hhost : k.host = s.host.lease.owner)
    (hterm : k.term = s.host.lease.term) (hbody : body s = some (s', st, b)) :
    ownerCmd row code false k s body = .next (reply s' k st b) := by
  simp only [ownerCmd, kdpServe_device h hhost hterm, hbody]

/-! ### The owner's commands -/

theorem ctxcreate_creates {p : CtxPayload} {ch : CtxChoice} (h : Served s k 0x10) (hhost : k.host = s.host.lease.owner)
    (hterm : k.term = s.host.lease.term) (hok : ctxPayloadOk p = true) (hnew : ctxOf s k.ctx.toNat = none)
    (hroom : ch.room = true) (hslots : slotsUsed s + p.nodes ≤ 65536) (hchoice : ctxChoiceOk s ch = true) :
    exec (.ctxcreate k p ch) s = .next (reply { s with
      ctl := { s.ctl with ctxs := s.ctl.ctxs ++ [newCtx k.ctx.toNat p ch] }
      mem := memClear s.mem (ownKey s ch.root) 131072 } k 0
      (bytesOfNat 4 ch.ownerKey.toNat ++ bytesOfNat 4 ch.sharedKey.toNat ++ bytesOfNat 8 ch.nodeBase.toNat)) := by
  have hx : exec (.ctxcreate k p ch) s = execCtxcreate k p ch s := rfl
  rw [hx, execCtxcreate, ownerCmd_deviceDone h hhost hterm]
  simp only [hok, hnew, hroom, Nat.not_lt.mpr hslots, hchoice, Option.isSome_none, Bool.not_true, Bool.false_eq_true,
    if_false]

theorem ctxdestroy_destroys (h : ServedOwner s k 0x11) (hbytes : k.bytes = 0) :
    exec (.ctxdestroy k) s =
      .next (reply (freeCtx (forcedReset s k.ctx.toNat (causeCode .ctxkill)) k.ctx.toNat) k 0 []) := by
  have hx : exec (.ctxdestroy k) s = execCtxdestroy k s := rfl
  rw [hx, execCtxdestroy, ownerCmd_done h]
  exact if_neg (not_not.mpr hbytes)

theorem map_maps {mp : MapPayload} {mc : MapChoice} {c : Ctx} {s2 : State} {st : BitVec 16} {b : List Byte}
    (h : ServedOwner s k 0x12) (hctx : ctxOf s k.ctx.toNat = some c) (hok : mapPayloadOk s mp = true)
    (hfound : mc.found = true) (hfree : unmapWaits s c mp.va.toNat (2 ^ leafBits mp.level) = false)
    (hframe : frameOk s mp c.num mc.frame = true) (htables : tablesOk s mc.tables = true)
    (hleaf : mapLeaf s c mp mc = some (s2, st, b)) : exec (.map k mp mc) s = .next (reply s2 k st b) := by
  have hx : exec (.map k mp mc) s = execMap k mp mc s := rfl
  rw [hx, execMap, ownerCmd_done h]
  simp only [hctx, hok, hfound, hfree, hframe, htables, hleaf, Bool.not_true, Bool.or_self, Bool.false_eq_true, if_false]

theorem unmap_unmaps {va : Dword} {c : Ctx} {l a : Nat} (h : ServedOwner s k 0x13) (hctx : ctxOf s k.ctx.toNat = some c)
    (hva : va.toNat < 2 ^ 56) (hentry : entryAt s va.toNat 4 c.root = some (l, a))
    (hfree : unmapWaits s c (va.toNat / 2 ^ leafBits l * 2 ^ leafBits l) (2 ^ leafBits l) = false) :
    exec (.unmap k va) s = .next (
      let b := va.toNat / 2 ^ leafBits l * 2 ^ leafBits l
      let s1 := updCtx { s with mem := memPut s.mem (ownKey s a) 16 0 } c.num fun c =>
        { c with maps := c.maps.filter fun m => m.1 != b || m.2 != l }
      reply (dropPages s1 c.num b (2 ^ leafBits l)) k 0 []) := by
  have hx : exec (.unmap k va) s = execUnmap k va s := rfl
  rw [hx, execUnmap, ownerCmd_done h]
  simp only [hctx, hva, hentry, hfree, Bool.false_eq_true, if_false, if_true]

theorem hwin_registers {hw : HwinPayload} (h : ServedOwner s k 0x14) (hnum : hw.num ≤ 65535)
    (hring : ∀ r, hw.ring = some r → 64 ≤ r.2) :
    exec (.hwin k hw) s = .next (reply (updHost s fun h => { h with
      wins := h.wins.filter (fun w => !(w.ctx == k.ctx.toNat && w.p.num == hw.num)) ++ [⟨k.ctx.toNat, hw⟩] }) k 0 []) := by
  have hx : exec (.hwin k hw) s = execHwin k hw s := rfl
  rw [hx, execHwin, ownerCmd_done h]
  cases hr : hw.ring with
  | none => exact if_neg (by simp [hnum])
  | some r => exact if_neg (by simp [hnum, hring r hr])

theorem hwindel_removes {n : Nat} (h : ServedOwner s k 0x15) (hnum : n ≤ 65535) :
    exec (.hwindel k n) s = .next (reply (updHost s fun h => { h with
      wins := h.wins.filter fun w => !(w.ctx == k.ctx.toNat && w.p.num == n) }) k 0 []) := by
  have hx : exec (.hwindel k n) s = execHwindel k n s := rfl
  rw [hx, execHwindel, ownerCmd_done h]
  exact if_neg (Nat.not_lt.mpr hnum)

theorem comm_registers {n : Nat} {ranks : List Nat} (h : ServedOwner s k 0x16) (hsome : 1 ≤ ranks.length)
    (hmany : ranks.length ≤ 1024) (hdevs : ∀ d ∈ ranks, d < 1024)
    (hpod : ((ctxOf s k.ctx.toNat).map fun c => c.pod).getD [] = [] ∨
      ∀ d ∈ ranks, d ∈ ((ctxOf s k.ctx.toNat).map fun c => c.pod).getD []) :
    exec (.comm k n ranks) s = .next (reply (updHost s fun h => { h with
      comms := h.comms.filter (fun c => !(c.ctx == k.ctx.toNat && c.num == n)) ++ [⟨k.ctx.toNat, n, ranks⟩] }) k 0 []) := by
  have hx : exec (.comm k n ranks) s = execComm k n ranks s := rfl
  rw [hx, execComm, ownerCmd_done h]
  have hranks : (ranks.all fun d => decide (d < 1024) && ((((ctxOf s k.ctx.toNat).map fun c => c.pod).getD []).isEmpty ||
      (((ctxOf s k.ctx.toNat).map fun c => c.pod).getD []).contains d)) = true := by
    refine List.all_eq_true.mpr fun d hd => ?_
    obtain hnone | hin := hpod
    · simp [hdevs d hd, hnone]
    · simp [hdevs d hd, hin d hd]
  exact if_neg (by simp only [hsome, hmany, hranks, and_self, decide_true, Bool.and_self, Bool.not_true,
    Bool.false_eq_true, not_false_iff])

theorem debug_sets {dbg stp : Bool} (h : ServedOwner s k 0x17) :
    exec (.debug k dbg stp) s = .next (reply (updCtx s k.ctx.toNat fun c => { c with dbg := dbg, stp := stp }) k 0 []) := by
  have hx : exec (.debug k dbg stp) s = execDebug k dbg stp s := rfl
  rw [hx, execDebug, ownerCmd_done h rfl]

theorem budget_sets {rates : List Nat} (h : ServedOwner s k 0x18) (hlen : rates.length = 6) :
    exec (.budget k rates) s =
      .next (reply (updCtx s k.ctx.toNat fun c => { c with rates := vgen fun i => rates.getD i 0 }) k 0 []) := by
  have hx : exec (.budget k rates) s = execBudget k rates s := rfl
  rw [hx, execBudget, ownerCmd_done h]
  exact if_neg (not_not.mpr hlen)

theorem pcap_sets {w : Nat} (h : Served s k 0x19) (hhost : k.host = s.host.lease.owner) (hterm : k.term = s.host.lease.term)
    (hlow : 2000 ≤ w) (hhigh : w ≤ 4200) :
    exec (.pcap k w) s = .next (reply (updPow s fun p => { p with cap := w }) k 0 []) := by
  have hx : exec (.pcap k w) s = execPcap k w s := rfl
  rw [hx, execPcap, ownerCmd_deviceDone h hhost hterm]
  exact if_pos ⟨hlow, hhigh⟩

/-! ### Attestation, telemetry and events -/

theorem attest_signs {nonce : List Byte} (h : ServedAlways s k 0x30) (hbytes : k.bytes = 32) (hlen : nonce.length = 32)
    (hleaf : s.firm.leaf < 2 ^ 20) :
    exec (.attest k nonce) s =
      .next (reply { s with firm := { s.firm with leaf := s.firm.leaf + 1 } } k 0
        (reportHead s nonce ++ xmssSig Config.attestKey s.firm.leaf (reportHead s nonce))) := by
  have hx : exec (.attest k nonce) s = execAttest k nonce s := rfl
  rw [hx, execAttest, kdpServe_always h, if_neg (by simp [hbytes, hlen]), if_neg (Nat.not_le.mpr hleaf)]

theorem attest_busy {nonce : List Byte} (h : ServedAlways s k 0x30) (hbytes : k.bytes = 32) (hlen : nonce.length = 32)
    (hleaf : 2 ^ 20 ≤ s.firm.leaf) : exec (.attest k nonce) s = .next (reply s k 0x206 []) := by
  have hx : exec (.attest k nonce) s = execAttest k nonce s := rfl
  rw [hx, execAttest, kdpServe_always h, if_neg (by simp [hbytes, hlen]), if_pos hleaf, stBusy]

theorem telem_answers (h : ServedAlways s k 0x31) : exec (.telem k) s = .next (reply (bump s) k 0 (telemPages s)) := by
  have hx : exec (.telem k) s = execTelem k s := rfl
  rw [hx, execTelem, kdpServe_always h]

theorem telemPages_length (s : State) : (telemPages s).length ≤ 8192 := by
  unfold telemPages
  split <;> exact (List.length_take_le _ _)

/-- The status page begins with the steps that have ended and whether the next has failed. -/
theorem telemPages_head (s : State) (h : s.firm.failedParts = []) :
    ∃ b, telemPages s = BitVec.ofNat 8 s.firm.step :: (if s.firm.failed then 1 else 0) :: b ∧
      (s.firm.step < 4 → b = []) := by
  have hpage : statusPage s.firm = [BitVec.ofNat 8 s.firm.step, if s.firm.failed then 1 else 0] := by
    cases hf : s.firm.failed <;> simp [statusPage, h, bytesOfNat, hf, bit]
  unfold telemPages
  rw [hpage]
  split
  · exact ⟨[], rfl, fun _ => rfl⟩
  · next hlate => exact ⟨_, rfl, fun hearly => absurd hearly hlate⟩

theorem eventAck_ends (hup : portAnswers s = true) (hwhole : kdpDropped k 3 = false) (hfull : kdpFull s = true) :
    exec (.eventAck k) s = .next (updHost s fun h => { h with
      events := h.events.filter fun e => !(e.host == some k.host && e.seq == k.seq.toNat) }) := by
  have hx : exec (.eventAck k) s = execEventAck k s := rfl
  rw [hx, execEventAck, if_neg (by simp only [hup, hwhole, Bool.not_true, Bool.or_self,
    Bool.false_eq_true, not_false_iff]), if_neg (by simp [hfull])]

section
variable {n : Nat} {e : Event} (he : s.host.events.find? (fun e => e.seq == n && e.host.isSome) = some e)
  (hlive : s.firm.tripped = false)
include he hlive

theorem eventResend_sends (hsoon : max s.clock (e.last + 800000) < e.born + 800000000) :
    exec (.eventResend n) s =
      .next (sendOut (updHost { s with clock := max s.clock (e.last + 800000) } fun h => { h with
        events := s.host.events.map fun x => if x.seq = n then { x with last := max s.clock (e.last + 800000) } else x })
        e) := by
  have hx : exec (.eventResend n) s = execEventResend n s := rfl
  simp only [hx, execEventResend, he, hlive, Nat.not_le.mpr hsoon, Bool.false_eq_true, if_false]
  rfl

theorem eventResend_loses (hlate : e.born + 800000000 ≤ max s.clock (e.last + 800000)) :
    exec (.eventResend n) s =
      .next (updHost { s with clock := max s.clock (e.last + 800000) } fun h => { h with
        events := s.host.events.filter fun x => x.seq != n }) := by
  have hx : exec (.eventResend n) s = execEventResend n s := rfl
  simp only [hx, execEventResend, he, hlive, hlate, Bool.false_eq_true, if_false, if_true]
  rfl

end
end

/-! ### Gateway calls -/

/-- Service firmware calls for a context, under a lease that is held (R420). -/
structure Called (s : State) (ctx : Nat) : Prop where
  runs : serviceRuns s = true
  ctx : (ctxOf s ctx).isSome = true
  lease : leaseLive s = true

section
variable {s : State} {ctx : Nat}

theorem gateway_called {row : String} {f : State → Host.Outcome State Fault Refusal} (h : Called s ctx) :
    gateway row ctx f s = f s := by
  have hctx : (ctxOf s ctx).isNone = false := Option.isNone_eq_false_iff.mpr h.ctx
  simp only [gateway, h.runs, hctx, h.lease, Bool.not_true, Bool.or_self, Bool.false_eq_true, if_false, if_true]

/-- The memory keys of bytes of a context, where all are mapped. -/
def ctxKeys (s : State) (ctx a m : Nat) : Option (List Nat) :=
  allSome ((List.range m).map fun i => match xlate s none ctx (a + i) false false false with
    | .at k _ _ _ => some k
    | .bad _ _ => none)

section
variable {va : Dword} {data : List Byte} {n : Nat} (h : Called s ctx)
include h

/-- A write of context memory that is allowed, with all its bytes mapped, waits for their homes or is made; any other
changes nothing. -/
theorem ctxmem_eq :
    exec (.gwCtxmem ctx va (some data) n) s =
      if gwWriteOk s ctx va.toNat data then
        (ctxKeys s ctx va.toNat data.length).elim (.next s) fun ks =>
          if ks.any (homeWaits s) then hostNot "GW_CTXMEM" else .next { s with mem := memSetCells s.mem (ks.zip data) }
      else .next s := by
  have hx : exec (.gwCtxmem ctx va (some data) n) s = execGwCtxmem ctx va (some data) n s := rfl
  rw [hx, execGwCtxmem, gateway_called h]
  change (match gwWriteOk s ctx va.toNat data, ctxKeys s ctx va.toNat data.length with
    | true, some ks => if ks.any (homeWaits s) then hostNot "GW_CTXMEM" else .next { s with mem := memSetCells s.mem (ks.zip data) }
    | _, _ => .next s) = _
  cases gwWriteOk s ctx va.toNat data with
  | false => rfl
  | true => cases ctxKeys s ctx va.toNat data.length <;> rfl

theorem ctxmem_writes {ks : List Nat} (hok : gwWriteOk s ctx va.toNat data = true)
    (hks : ctxKeys s ctx va.toNat data.length = some ks) (hfree : ∀ x ∈ ks, homeWaits s x = false) :
    exec (.gwCtxmem ctx va (some data) n) s = .next { s with mem := memSetCells s.mem (ks.zip data) } := by
  have hnone : ks.any (homeWaits s) = false := List.any_eq_false.mpr fun x hx => ne_true_of_eq_false (hfree x hx)
  rw [ctxmem_eq h, if_pos hok, hks]
  exact if_neg (ne_true_of_eq_false hnone)

theorem ctxmem_refused (hbad : gwWriteOk s ctx va.toNat data = false ∨ ctxKeys s ctx va.toNat data.length = none) :
    exec (.gwCtxmem ctx va (some data) n) s = .next s := by
  rw [ctxmem_eq h]
  obtain hno | hnone := hbad
  · exact if_neg (ne_true_of_eq_false hno)
  · rw [hnone]
    exact ite_self _

theorem gwKill_resets {code : Nat} : exec (.gwKill ctx code) s = .next (resetNow s ctx (BitVec.ofNat 9 code)) := by
  have hx : exec (.gwKill ctx code) s = execGwKill ctx code s := rfl
  rw [hx, execGwKill, gateway_called h]

theorem markcfg_sets {on : Bool} : exec (.markcfg ctx on) s = .next (updCtx s ctx fun c => { c with mark := on }) := by
  have hx : exec (.markcfg ctx on) s = execMarkcfg ctx on s := rfl
  rw [hx, execMarkcfg, gateway_called h]

end

/-- With no drain to complete a reset is no more than that. -/
theorem resetNow_idle {c : Ctx} {k : BitVec 9} (hc : ctxOf s ctx = some c) (hidle : c.drain = none) :
    resetNow s ctx k = forcedReset s ctx k := by
  simp only [resetNow, hc, Option.bind_some, hidle]

theorem gwEvent_sends {data : List Byte} (hruns : serviceRuns s = true) (hcause : causeCtx s data = some ctx) :
    exec (.gwEvent 0x41 data) s = .next (ownerEvent s 0x41 ctx data) := by
  have hx : exec (.gwEvent 0x41 data) s = execGwEvent 0x41 data s := rfl
  simp only [hx, execGwEvent, hruns, hcause, Bool.not_true, Bool.false_eq_true, if_false]

theorem gwEvent_refused {code : Nat} {data : List Byte} (hruns : serviceRuns s = true)
    (hbad : code ≠ 0x41 ∨ causeCtx s data = none) : exec (.gwEvent code data) s = .next s := by
  have hx : exec (.gwEvent code data) s = execGwEvent code data s := rfl
  rw [hx]
  unfold execGwEvent
  rw [if_neg (by simp [hruns])]
  split
  · next hcause => simp [hcause] at hbad
  · rfl

end

/-! ### The rows of one kind -/

/-- The rows that only the owner may ask for, in an existing context. -/
theorem ownerRows (k : KdpHdr) (mp : MapPayload) (mc : MapChoice) (va : Dword) (hw : HwinPayload) (n : Nat)
    (ranks : List Nat) (dbg stp : Bool) (rates : List Nat) :
    ∀ x ∈ [(0x11, Instr.ctxdestroy k), (0x12, .map k mp mc), (0x13, .unmap k va), (0x14, .hwin k hw), (0x15, .hwindel k n),
      (0x16, .comm k n ranks), (0x17, .debug k dbg stp), (0x18, .budget k rates)],
      ∃ row body, ∀ s, exec x.2 s = ownerCmd row x.1 true k s body := by
  simp only [List.forall_mem_cons, List.not_mem_nil, false_imp_iff, implies_true, and_true]
  exact ⟨⟨_, _, fun _ => rfl⟩, ⟨_, _, fun _ => rfl⟩, ⟨_, _, fun _ => rfl⟩, ⟨_, _, fun _ => rfl⟩, ⟨_, _, fun _ => rfl⟩,
    ⟨_, _, fun _ => rfl⟩,
    ⟨_, fun s => some (updCtx s k.ctx.toNat fun c => { c with dbg := dbg, stp := stp }, 0, []), fun _ => rfl⟩,
    ⟨_, _, fun _ => rfl⟩⟩

/-- The rows that are served only when KDP is served in full. -/
theorem servedRows (k : KdpHdr) (host : BitVec 32) (on : Bool) (p : CtxPayload) (ch : CtxChoice) (mp : MapPayload)
    (mc : MapChoice) (va : Dword) (hw : HwinPayload) (n : Nat) (ranks : List Nat) (dbg stp : Bool) (rates : List Nat)
    (w : Nat) :
    ∀ e ∈ [Instr.claim k, .renew k, .handover k host on, .release k, .ctxcreate k p ch, .ctxdestroy k, .map k mp mc,
      .unmap k va, .hwin k hw, .hwindel k n, .comm k n ranks, .debug k dbg stp, .budget k rates, .pcap k w],
      ∃ row code owner needCtx body, ∀ s, exec e s = kdpServe row code owner needCtx false k s body := by
  simp only [List.forall_mem_cons, List.not_mem_nil, false_imp_iff, implies_true, and_true]
  exact ⟨⟨_, _, _, _, _, fun _ => rfl⟩, ⟨_, _, _, _, _, fun _ => rfl⟩, ⟨_, _, _, _, _, fun _ => rfl⟩,
    ⟨_, _, _, _, _, fun _ => rfl⟩, ⟨_, _, _, _, _, fun _ => rfl⟩, ⟨_, _, _, _, _, fun _ => rfl⟩,
    ⟨_, _, _, _, _, fun _ => rfl⟩, ⟨_, _, _, _, _, fun _ => rfl⟩, ⟨_, _, _, _, _, fun _ => rfl⟩,
    ⟨_, _, _, _, _, fun _ => rfl⟩, ⟨_, _, _, _, _, fun _ => rfl⟩, ⟨_, _, _, _, _, fun _ => rfl⟩,
    ⟨_, _, _, _, _, fun _ => rfl⟩, ⟨_, _, _, _, _, fun _ => rfl⟩⟩

/-- Settles O51: each request, command and call, under the conditions at which it is served. -/
theorem hostEvents : Obligations.HostEvents := by
  intro k host key va data nonce n w ctx code rates p ch mp mc hw dbg stp on ranks
  refine ⟨fun c ks r => ?write, fun s ⟨hup, hkey⟩ => rdmaWrite_refused hup hkey, fun c own ks r => ?read,
    fun s ⟨hup, hkey⟩ => rdmaRead_refused hup hkey, fun s ⟨h, hbytes, hfree⟩ => claim_takes h hbytes hfree,
    fun s ⟨h, hbytes, howned, hlive⟩ => claim_refused h hbytes howned hlive,
    fun s ⟨h, hbytes, hheld⟩ => renew_extends h hbytes hheld,
    fun s ⟨h, hbytes, hheld, hhost⟩ => handover_gives h hbytes hheld hhost,
    fun s ⟨h, hbytes, hheld⟩ => release_frees h hbytes hheld, fun s ⟨howned, hlive⟩ => leaseExpiry_reached howned hlive,
    fun x hx s h => ?owner, fun e he => ?served,
    fun s ⟨h, hhost, hterm, hok, hnew, hroom, hslots, hchoice⟩ =>
      ctxcreate_creates h hhost hterm hok hnew hroom hslots hchoice,
    fun s ⟨h, hbytes⟩ => ctxdestroy_destroys h hbytes,
    fun c s2 st b s ⟨h, hctx, hok, hfound, hfree, hframe, htables, hleaf⟩ =>
      map_maps h hctx hok hfound hfree hframe htables hleaf,
    fun c l a s ⟨h, hctx, hva, hentry, hfree⟩ => unmap_unmaps h hctx hva hentry hfree,
    fun s ⟨h, hnum, hring⟩ => hwin_registers h hnum hring, fun s ⟨h, hnum⟩ => hwindel_removes h hnum,
    fun s ⟨h, hsome, hmany, hdevs, hpod⟩ => comm_registers h hsome hmany hdevs hpod, fun s h => debug_sets h,
    fun s ⟨h, hlen⟩ => budget_sets h hlen,
    fun s ⟨h, hhost, hterm, hlow, hhigh⟩ => pcap_sets h hhost hterm hlow hhigh,
    fun s ⟨h, hbytes, hlen, hleaf⟩ => ?attest, fun s ⟨h, hbytes, hlen, hleaf⟩ => attest_busy h hbytes hlen hleaf,
    fun s h => telem_answers h, fun s => ⟨telemPages_length s, telemPages_head s⟩,
    fun s ⟨hup, hwhole, hfull⟩ => eventAck_ends hup hwhole hfull,
    fun e => ⟨fun s ⟨he, hlive, hsoon⟩ => eventResend_sends he hlive hsoon,
      fun s ⟨he, hlive, hlate⟩ => eventResend_loses he hlive hlate⟩,
    ?gateway, fun s ⟨hruns, hcause⟩ => gwEvent_sends hruns hcause, fun s ⟨hruns, hbad⟩ => gwEvent_refused hruns hbad⟩
  case write =>
    intro m sent
    exact ⟨fun s ⟨⟨hup, hkey, hr, hwhole⟩, hks, hfree, hbudget⟩ =>
        (rdmaWrite_owner hup hkey).trans (rdmaPacket_moves hr hwhole hks hfree hbudget),
      fun s ⟨⟨hup, hkey, hr, hwhole⟩, hks, hbusy⟩ =>
        (rdmaWrite_owner hup hkey).trans (rdmaPacket_waits hr hwhole hks hbusy),
      fun s ⟨hup, hkey, hnew, hwhole⟩ => (rdmaWrite_owner hup hkey).trans (rdmaPacket_refused hnew hwhole)⟩
  case read =>
    intro m sent
    exact ⟨fun s ⟨⟨hup, hkey, hr, hwhole⟩, hks, hfree, hbudget⟩ =>
        (rdmaRead_keyed hup hkey).trans (rdmaPacket_moves hr hwhole hks hfree hbudget),
      fun s ⟨⟨hup, hkey, hr, hwhole⟩, hks, hbusy⟩ =>
        (rdmaRead_keyed hup hkey).trans (rdmaPacket_waits hr hwhole hks hbusy),
      fun s ⟨hup, hkey, hnew, hwhole⟩ => (rdmaRead_keyed hup hkey).trans (rdmaPacket_refused hnew hwhole)⟩
  case owner =>
    obtain ⟨row, body, hrow⟩ := ownerRows k mp mc va hw n ranks dbg stp rates x hx
    rw [hrow]
    exact ⟨fun hterm => ownerCmd_stale h hterm, fun hterm hhost => ownerCmd_stranger h hterm hhost,
      fun hhost hterm hnone => ownerCmd_noContext h hhost hterm hnone⟩
  case served =>
    obtain ⟨row, code, owner, needCtx, body, hrow⟩ := servedRows k host on p ch mp mc va hw n ranks dbg stp rates w e he
    exact ⟨fun s ⟨hup, hwhole, hpart⟩ => (hrow s).trans (kdpServe_busy hup hwhole hpart),
      fun r s ⟨hup, hwhole, hfull, hkept⟩ => (hrow s).trans (kdpServe_kept hup hwhole hfull hkept),
      fun s hdrop => (hrow s).trans (kdpServe_dropped hdrop)⟩
  case attest =>
    rw [attest_signs h hbytes hlen hleaf, xmssSig, ← List.append_assoc]
    rfl
  case gateway =>
    intro called keys
    have hcalled (s : State) (h : called s) : Called s ctx := ⟨h.1, h.2.1, h.2.2⟩
    exact ⟨fun ks s ⟨h, hok, hks, hfree⟩ => ctxmem_writes (hcalled s h) hok hks hfree,
      fun s ⟨h, hbad⟩ => ctxmem_refused (hcalled s h) hbad, fun s h => gwKill_resets (hcalled s h),
      fun c s ⟨h, hc, hidle⟩ => (gwKill_resets (hcalled s h)).trans (congrArg _ (resetNow_idle hc hidle)),
      fun s h => markcfg_sets (hcalled s h)⟩

end Sys2Proof.Proofs.Hosts
end

section
/-!
SUPPORT. Budgets, heat, power, errors, peers and bring-up (R382, R404, R406, R417, R418, R426 to R431).
-/

namespace Sys2Proof.Proofs.Module

open Sys2Proof Sys2Proof.Machine

/-! ### Budgets, heat and droop -/

/-- A context whose buckets have gained `n` periods' rates. -/
def refilled (n : Nat) (c : Ctx) : Ctx :=
  { c with buckets := vgen fun k => min (vget c.buckets k + n * vget c.rates k) (2 * vget c.rates k) }

theorem refillBudgets_eq {s : State} (hn : s.clock / 8000 - s.pow.period ≠ 0) :
    refillBudgets s = { s with
      ctl := { s.ctl with ctxs := s.ctl.ctxs.map (refilled (s.clock / 8000 - s.pow.period)) }
      pow := { s.pow with period := s.clock / 8000 } } := by
  rw [refillBudgets]
  exact if_neg hn

theorem budgetRefill_refills {s : State} (hperiod : s.pow.period ≤ s.clock / 8000) :
    ∃ s', exec .budgetRefill s = .next s' ∧ s'.clock = (s.clock / 8000 + 1) * 8000 ∧
      s'.pow.period = s.clock / 8000 + 1 ∧ s'.ctl.ctxs = s.ctl.ctxs.map fun c =>
        let n := s.clock / 8000 + 1 - s.pow.period
        { c with buckets := vgen fun k => min (vget c.buckets k + n * vget c.rates k) (2 * vget c.rates k) } := by
  have hclock : (s.clock / 8000 + 1) * 8000 / 8000 = s.clock / 8000 + 1 := Nat.mul_div_cancel _ (by decide)
  have hx : exec .budgetRefill s = .next (refillBudgets { s with clock := (s.clock / 8000 + 1) * 8000 }) := rfl
  rw [hx, refillBudgets_eq (by simp only [hclock]; omega)]
  refine ⟨_, rfl, rfl, hclock, ?_⟩
  simp only [hclock]
  rfl

theorem tempSample_samples {s : State} {core temp : Nat} (hcore : core < 768) (hlive : s.firm.tripped = false) :
    exec (.tempSample core temp) s =
      .next (dieTemp (updCore s core fun c => judgeHeat s.clock { c with temp := temp }) core temp) := by
  have hx : exec (.tempSample core temp) s = execTempSample core temp s := rfl
  rw [hx, execTempSample]
  exact if_neg (by simp [hlive, Nat.not_le.mpr (show core < Config.cores from hcore)])

theorem droopEvent_stretches {s : State} {isl : Nat} (h : isl < 1024) :
    exec (.droopEvent isl) s = .next (
      let s1 := updPow { s with clock := s.clock + 1 } fun p => { p with stretched := p.stretched + 1 }
      if isl < 768 then updCore s1 isl fun c => judgeHeat (s.clock + 1) { c with droops := c.droops ++ [s.clock + 1] }
      else s1) := by
  have hx : exec (.droopEvent isl) s = execDroopEvent isl s := rfl
  rw [hx, execDroopEvent]
  exact if_neg (Nat.not_le.mpr h)

theorem thermalStepDown_lowers {s : State} {isl : Nat} (hhot : isl ∈ s.pow.stepping)
    (habove : 400 < islandMhz s.pow isl) :
    exec (.thermalStepDown isl) s = .next (heatStep s isl 8000 (heatSteps s.pow isl + 1)) := by
  have hx : exec (.thermalStepDown isl) s = execThermalStepDown isl s := rfl
  rw [hx, execThermalStepDown]
  exact if_neg (by simp [hhot, habove])

theorem thermalRecover_raises {s : State} {isl : Nat} (hsteps : heatSteps s.pow isl ≠ 0)
    (hcool : isl ∉ s.pow.stepping) :
    exec (.thermalRecover isl) s = .next (heatStep s isl 800000 (heatSteps s.pow isl - 1)) := by
  have hx : exec (.thermalRecover isl) s = execThermalRecover isl s := rfl
  rw [hx, execThermalRecover]
  exact if_neg (by simp [hsteps, hcool])

/-! ### The cap -/

section
variable {p : Power}

theorem capDown_cores (h : ∃ i < 768, 400 < islandMhz p i) : capDown p = { p with lowered := p.lowered + 1 } := by
  rw [capDown]
  exact if_pos (by simpa [Config.cores] using h)

theorem capDown_cores_lowest (h : ∀ i < 768, islandMhz p i ≤ 400) : (capDown p).lowered = p.lowered := by
  rw [capDown, if_neg (by simpa [Config.cores] using h)]
  split_ifs <;> rfl

theorem capDown_memory (h : ∀ i < 768, islandMhz p i ≤ 400) (hmem : ∃ i < 256, 400 < islandMhz p (768 + i)) :
    capDown p = { p with loweredMem := p.loweredMem + 1 } := by
  rw [capDown, if_neg (by simpa [Config.cores] using h)]
  obtain ⟨i, hi, habove⟩ := hmem
  exact if_pos (List.any_eq_true.mpr ⟨i, List.mem_range.mpr hi, decide_eq_true habove⟩)

@[simp] theorem capDown_capping : (capDown p).capping = p.capping := by
  rw [capDown]
  split_ifs <;> rfl

@[simp] theorem capDown_samples : (capDown p).samples = p.samples := by
  rw [capDown]
  split_ifs <;> rfl

@[simp] theorem capUp_capping : (capUp p).capping = p.capping := by
  rw [capUp]
  split_ifs <;> rfl

@[simp] theorem capUp_samples : (capUp p).samples = p.samples := by
  rw [capUp]
  split_ifs <;> rfl

theorem capStep_samples (sum n : Nat) : (capStep sum n p).samples = p.samples := by
  rw [capStep]
  split_ifs <;> simp only [capDown_samples, capUp_samples]

theorem capStep_over {sum n : Nat} (h : p.cap * n < sum) : capStep sum n p = capDown { p with capping := true } :=
  if_pos h

theorem capStep_under {sum n : Nat} (h : sum < p.cap * n) : capStep sum n p = capUp { p with capping := false } :=
  (if_neg (Nat.lt_asymm h)).trans (if_pos h)

theorem capStep_at {n : Nat} : (capStep (p.cap * n) n p).capping = p.capping := by
  rw [capStep, if_neg (Nat.lt_irrefl _), if_neg (Nat.lt_irrefl _)]
  split_ifs <;> simp only [capDown_capping]

end

theorem powerSample_caps (s : State) (watts : Nat) :
    let l := (watts :: s.pow.samples).take 10
    ∃ s', exec (.powerSample watts) s = .next s' ∧ s'.pow.samples = l ∧
      (s.pow.cap * l.length < l.sum → s'.pow.capping = true ∧
        ((∃ i < 768, 400 < islandMhz s.pow i) →
          s'.pow.lowered = s.pow.lowered + 1 ∧ s'.pow.loweredMem = s.pow.loweredMem) ∧
        ((∀ i < 768, islandMhz s.pow i ≤ 400) → s'.pow.lowered = s.pow.lowered ∧
          ((∃ i < 256, 400 < islandMhz s.pow (768 + i)) → s'.pow.loweredMem = s.pow.loweredMem + 1))) ∧
      (l.sum < s.pow.cap * l.length → s'.pow.capping = false ∧
        (s.pow.loweredMem = 0 → s'.pow.lowered = s.pow.lowered - 1 ∧ s'.pow.loweredMem = 0) ∧
        (0 < s.pow.loweredMem → s'.pow.lowered = s.pow.lowered ∧ s'.pow.loweredMem = s.pow.loweredMem - 1)) ∧
      (l.sum = s.pow.cap * l.length → s'.pow.capping = s.pow.capping) := by
  intro l
  have hx : exec (.powerSample watts) s =
      .next (updPow s fun p => capStep (l.foldl (· + ·) 0) l.length { p with samples := l }) := rfl
  rw [← List.sum_eq_foldl] at hx
  refine ⟨_, hx, capStep_samples _ _, fun hover => ?_, fun hunder => ?_, fun hat => ?_⟩
  · have hp := capStep_over (p := { s.pow with samples := l }) hover
    simp only [updPow, hp]
    refine ⟨capDown_capping, fun habove => ?_, fun hlow => ?_⟩
    · rw [capDown_cores (p := { s.pow with samples := l, capping := true }) habove]
      exact ⟨rfl, rfl⟩
    · refine ⟨capDown_cores_lowest (p := { s.pow with samples := l, capping := true }) hlow, fun hmem => ?_⟩
      rw [capDown_memory (p := { s.pow with samples := l, capping := true }) hlow hmem]
  · have hp := capStep_under (p := { s.pow with samples := l }) hunder
    simp only [updPow, hp]
    refine ⟨capUp_capping, fun hzero => ?_, fun hpos => ?_⟩
    · rw [capUp, if_neg (by simp [hzero])]
      exact ⟨rfl, hzero⟩
    · rw [capUp, if_pos hpos]
      exact ⟨rfl, rfl⟩
  · simp only [updPow, hat]
    exact capStep_at (p := { s.pow with samples := l })

/-! ### Stepping backwards -/

/-- A halted group whose last instruction has been performed steps back over the entries that it made (R406). -/
theorem debugStepBack_restores {s : State} {tid gid : Nat} {t : Team} {g : Group} {e : Undo} {r : List Undo}
    (ht : teamOf s tid = some t) (hg : groupOf s tid gid = some g) (hlast : lastEntries g.undo = e :: r)
    (hhalted : t.halt ≠ .running) (hlive : g.ended = false)
    (hops : ∀ o ∈ s.work.ops, o.tid = tid → o.gid ≠ gid)
    (hstores : ∀ x ∈ (coreOf s t.core).wtq, x.tid = tid → x.gid ≠ gid)
    (hhomes : ∀ x ∈ e :: r, x.kind = 3 → ∀ k f l m,
      xlate s (some t.core) t.ctx x.target.toNat false false false = .at k f l m →
      homeWaits s k = false ∧ homeWaits s (k + (x.mask.toNat - 1)) = false) :
    exec (.debugStepBack tid gid) s = .next
      (updGroup ((e :: r).foldl (restoreOne t.core t.ctx tid gid) (settle s tid gid (s.clock + 8))) tid gid fun g =>
        { g with r := { g.r with pc := e.pc }, f := { g.f with wait := 0, hdrRun := 0 }
                 undo := g.undo.take (g.undo.length - (r.length + 1)) }) := by
  have hx : exec (.debugStepBack tid gid) s = execDebugStepBack tid gid s := rfl
  simp only [hx, execDebugStepBack, ht, hg, hlast]
  refine if_neg ?_
  simp only [Bool.or_eq_true]
  rintro (((hrun | hop | hstore) | hhome) | hended)
  · exact hhalted (eq_of_beq hrun)
  · obtain ⟨o, ho, hmine⟩ := List.any_eq_true.mp hop
    simp only [Bool.and_eq_true, beq_iff_eq] at hmine
    exact hops o ho hmine.1 hmine.2
  · obtain ⟨x, hmem, hmine⟩ := List.any_eq_true.mp hstore
    simp only [Bool.and_eq_true, beq_iff_eq] at hmine
    exact hstores x hmem hmine.1 hmine.2
  · obtain ⟨x, hmem, hwaits⟩ := List.any_eq_true.mp hhome
    simp only [Bool.and_eq_true, beq_iff_eq] at hwaits
    obtain ⟨hkind, hwaits⟩ := hwaits
    split at hwaits
    next k f l m hat =>
      obtain ⟨hfirst, hend⟩ := hhomes x hmem hkind k f l m hat
      simp [hfirst, hend] at hwaits
    next => cases hwaits
  · rw [hlive] at hended
    cases hended

/-! ### Peers, ports and links -/

theorem peerLostTimeout_loses {s : State} {dev n since : Nat} (hdev : dev < 1024) (hother : dev ≠ s.firm.devNum)
    (hnew : dev ∉ s.fab.lost) (hsilent : s.fab.silent.find? (fun x => x.1 == dev) = some (dev, n, since)) :
    exec (.peerLostTimeout dev) s = .next (
      let s1 := updFab { s with clock := max s.clock (since + 800000) } fun f => { f with lost := f.lost ++ [dev] }
      let s2 := failLink s1 fun c => peerDev s1 c == some dev
      (s2.cen.open'.map fun c => c.id).foldl (fun s id => deviceLost s id dev) s2) := by
  have hx : exec (.peerLostTimeout dev) s = execPeerLostTimeout dev s := rfl
  simp only [hx, execPeerLostTimeout, hsilent]
  exact if_neg (by simp [isPeer, hdev, hother, hnew])

theorem peerReturn_resumes {s : State} {dev : Nat} (hlost : dev ∈ s.fab.lost) :
    exec (.peerReturn dev) s = .next (updFab s fun f => { f with lost := f.lost.filter fun d => d != dev }) := by
  have hx : exec (.peerReturn dev) s = execPeerReturn dev s := rfl
  rw [hx, execPeerReturn]
  exact if_neg (by simp [hlost])

theorem portFailure_downs {s : State} {port : Nat} (hport : port < 24) (hup : port ∉ s.fab.portsDown) :
    exec (.portFailure port) s = .next (updFab s fun f => { f with portsDown := f.portsDown ++ [port] }) := by
  have hx : exec (.portFailure port) s = execPortFailure port s := rfl
  rw [hx, execPortFailure]
  exact if_neg (by simp [hport, hup])

theorem ethernetLinkDown_fails {s : State} (hup : s.fab.ethUp = true) :
    exec .ethernetLinkDown s =
      .next (failLink (updFab s fun f => { f with ethUp := false }) fun c => c.kind == .toh || c.kind == .fromh) := by
  have hx : exec .ethernetLinkDown s = execEthernetLinkDown s := rfl
  rw [hx, execEthernetLinkDown]
  exact if_neg (by simp [hup])

section
variable {s : State} {src pa : Nat} (hpow : s.firm.powered = true) (hstep : 6 ≤ s.firm.step)
  (hlive : s.firm.tripped = false) (hsrc : src < 1024) (hother : src ≠ s.firm.devNum)
include hpow hstep hlive hsrc hother

/-- A request that UALink carries, at a home that serves it, is carried out. -/
theorem ualinkRequest_served {req : UaReq} (hok : uaOk pa req = true)
    (hfree : ∀ i < uaBytes req, homeWaits s (ownKey s pa + i) = false) :
    exec (.ualinkRequest src pa req) s = (match req with
      | .read _ => .next (Machine.hears s src)
      | .write b => .next (engineStore (Machine.hears s src) (ownKey s pa) b)
      | .atomic op wide b c fm =>
        let r := atomStep op wide (flushIn fm 32) (flushOut fm 32)
          (memNat s.mem (ownKey s pa) (if wide then 8 else 4)) b.toNat c.toNat
        .next (engineStore (Machine.hears s src) (ownKey s pa) (bytesOfNat (if wide then 8 else 4) r.1))) := by
  have hx : exec (.ualinkRequest src pa req) s = execUalinkRequest src pa req s := rfl
  rw [hx, execUalinkRequest]
  refine (if_neg ?_).trans (by cases req <;> rfl)
  simpa [hpow, hlive, isPeer, hsrc, hother, hok, hstep] using hfree

theorem ualinkRequest_writes {b : List Byte} (hsome : 1 ≤ b.length) (hmost : b.length ≤ 256)
    (hmapped : pa + b.length ≤ Config.mappable) (hfree : ∀ i < b.length, homeWaits s (ownKey s pa + i) = false) :
    exec (.ualinkRequest src pa (.write b)) s = .next (engineStore (Machine.hears s src) (ownKey s pa) b) :=
  ualinkRequest_served (req := .write b) hpow hstep hlive hsrc hother
    (by simp [uaOk, uaBytes, hsome, hmost, hmapped]) hfree

theorem ualinkRequest_atomic {op : AOp} {wide : Bool} {b c : Dword} {fm : BitVec 8}
    (haligned : pa % (if wide then 8 else 4) = 0)
    (hmapped : pa + (if wide then 8 else 4) ≤ Config.mappable)
    (hfree : ∀ i < (if wide then 8 else 4), homeWaits s (ownKey s pa + i) = false) :
    exec (.ualinkRequest src pa (.atomic op wide b c fm)) s = .next (
      let r := atomStep op wide (flushIn fm 32) (flushOut fm 32)
        (memNat s.mem (ownKey s pa) (if wide then 8 else 4)) b.toNat c.toNat
      engineStore (Machine.hears s src) (ownKey s pa) (bytesOfNat (if wide then 8 else 4) r.1)) := by
  refine ualinkRequest_served (req := .atomic op wide b c fm) hpow hstep hlive hsrc hother ?_ hfree
  cases wide <;> simp_all [uaOk, uaBytes]

end

/-! ### Bring-up -/

theorem bringUp_iff {s : State} {n : Nat} : bringUp s n = true ↔
    s.firm.powered = true ∧ s.firm.step = n ∧ s.firm.failed = false ∧ s.firm.tripped = false := by
  simp [bringUp, and_assoc]

/-- What step 1 leaves of the state that it begins with: all but the firmware's part and the free values drawn. -/
theorem stepOne_works (s : State) : (Config.freeBit s.fresh = false →
      (stepOne s).firm = { s.firm with powered := true, step := 1, tripped := false }) ∧
    (Config.freeBit s.fresh = true → (stepOne s).firm =
      { s.firm with powered := true, step := 0, tripped := false, failed := true, failedParts := [(1, 0)] }) := by
  constructor <;> intro h <;> simp only [stepOne, updFirm, bump, h] <;> rfl

theorem powerOn_stepsOne {s : State} (h : s.firm.powered = false ∨ s.firm.tripped = true ∨ s.firm.failed = true) :
    exec .powerOn s = .next (stepOne (cleared s)) := by
  have hx : exec .powerOn s = execPowerOn s := rfl
  rw [hx, execPowerOn]
  refine if_neg ?_
  simp only [Bool.and_eq_true, Bool.not_eq_true', not_and_or, Bool.not_eq_true, Bool.not_eq_false, or_assoc]
  exact h

theorem moduleReset_stepsOne {s : State} (hpow : s.firm.powered = true) (hlive : s.firm.tripped = false) :
    ∃ s1, exec .moduleReset s = .next (stepOne (cleared s1)) := by
  have hx : exec .moduleReset s = execModuleReset s := rfl
  rw [hx, execModuleReset]
  exact ⟨_, if_neg (by simp [hpow, hlive])⟩

theorem trustedFwStart_starts {s : State} {im : FwImage} (h : bringUp s 1 = true) (hok : verified im = true) :
    exec (.trustedFwStart im) s =
      .next (updFab (endStep (drawKey (measure s im)) 2 true []) fun f => { f with ethUp := true }) := by
  have hx : exec (.trustedFwStart im) s = execTrustedFwStart im s := rfl
  rw [hx, execTrustedFwStart]
  exact (if_neg (by simp [h])).trans (if_pos hok)

theorem trustedFwStart_fails {s : State} {im : FwImage} (h : bringUp s 1 = true) (hbad : verified im = false) :
    exec (.trustedFwStart im) s = if s.firm.standby then .next (endStep s 2 false [0])
      else .next (updFirm s fun f => { f with standby := true }) := by
  have hx : exec (.trustedFwStart im) s = execTrustedFwStart im s := rfl
  rw [hx, execTrustedFwStart]
  exact (if_neg (by simp [h])).trans (if_neg (by simp [hbad]))

theorem foldl_measure (l : List FwImage) (s : State) :
    l.foldl measure s =
      updFirm s fun f => { f with log := f.log ++ l.flatMap fun i => fitBytes 32 (Config.shake256 i.image) } := by
  induction l generalizing s with
  | nil => simp [updFirm]
  | cons i l ih => simp [ih, Machine.measure, updFirm]

theorem mem_badStacks (t : HbmTest) (k : Nat) :
    k ∈ badStacks t ↔ k ∈ t.failed ∨ ∃ i, t.images[k]? = some i ∧ verified i = false := by
  simp [badStacks, List.mem_zipIdx_iff_getElem?]

theorem badStacks_eq_nil {t : HbmTest} (hfailed : t.failed = []) (hall : ∀ i ∈ t.images, verified i = true) :
    badStacks t = [] := by
  refine List.eq_nil_iff_forall_not_mem.mpr fun k hk => ?_
  obtain hk | ⟨i, hi, hbad⟩ := (mem_badStacks t k).mp hk
  · rw [hfailed] at hk
    cases hk
  · rw [hall i (List.mem_of_getElem? hi)] at hbad
    cases hbad

theorem hbmTraining_trains {s : State} {t : HbmTest} (h : bringUp s 2 = true) :
    exec (.hbmTraining t) s =
      .next (endStep ((t.images.filter verified).foldl measure s) 3 (badStacks t).isEmpty (badStacks t)) := by
  have hx : exec (.hbmTraining t) s = execHbmTraining t s := rfl
  rw [hx, execHbmTraining]
  exact if_neg (by simp [h])

theorem serviceFwStart_starts {s : State} {im : FwImage} (h : bringUp s 3 = true) :
    exec (.serviceFwStart im) s =
      .next (if verified im then endStep (measure s im) 4 true [] else endStep s 4 false [0]) := by
  have hx : exec (.serviceFwStart im) s = execServiceFwStart im s := rfl
  rw [hx, execServiceFwStart]
  exact if_neg (by simp [h])

theorem coreTest_tests {s : State} {failed : List Nat} (h : bringUp s 4 = true) :
    exec (.coreTest failed) s = .next (endStep (updPow s fun p =>
        { p with points := [], steps := [], capping := false, lowered := 0, loweredMem := 0 })
      5 failed.isEmpty failed) := by
  have hx : exec (.coreTest failed) s = execCoreTest failed s := rfl
  rw [hx, execCoreTest]
  exact if_neg (by simp [h])

theorem fabricTraining_trains {s : State} {dev : Nat} {failed : List Nat} (h : bringUp s 5 = true) (hdev : dev < 1024)
    (hports : ∀ p ∈ failed, p < 24) :
    exec (.fabricTraining dev failed) s = .next (endStep
      (updFirm (updFab { s with mem := memClear s.mem (devBase dev) (2 ^ 48) } fun f => { f with portsDown := failed })
        fun f => { f with devNum := dev, failedParts := f.failedParts ++ failed.map fun k => (6, k) }) 6 true []) := by
  have hx : exec (.fabricTraining dev failed) s = execFabricTraining dev failed s := rfl
  rw [hx, execFabricTraining]
  exact if_neg (by simpa [h, hdev] using hports)

theorem kdpServiceStart_starts {s : State} (h : bringUp s 6 = true) :
    exec .kdpServiceStart s = .next (updHost (endStep s 7 true []) fun h =>
      { h with lease := { owner := 0, term := 0, expiry := 0 } }) := by
  have hx : exec .kdpServiceStart s = execKdpServiceStart s := rfl
  rw [hx, execKdpServiceStart]
  exact if_neg (by simp [h])

/-- With no points set and nothing taken off, every island runs at 800 MHz. -/
theorem islandMhz_atStart {p : Power} (hpoints : p.points = []) (hsteps : p.steps = []) (hcores : p.lowered = 0)
    (hmem : p.loweredMem = 0) (i : Nat) : islandMhz p i = 800 := by
  simp [islandMhz, pointMhz, heatSteps, capSteps, hpoints, hsteps, hcores, hmem, aGet]

theorem powerOn_bringsUp {s : State} (h : s.firm.powered = false ∨ s.firm.tripped = true ∨ s.firm.failed = true) :
    ∃ s', exec .powerOn s = .next s' ∧
      s'.firm.powered = true ∧ s'.firm.tripped = false ∧ s'.ctl.ctxs = [] ∧ s'.host.lease.owner = 0 ∧
      (Config.freeBit s.fresh = false → s'.firm.step = 1 ∧ s'.firm.failed = false ∧ s'.firm.failedParts = []) ∧
      (Config.freeBit s.fresh = true →
        s'.firm.step = 0 ∧ s'.firm.failed = true ∧ s'.firm.failedParts = [(1, 0)]) := by
  obtain ⟨hworks, hfails⟩ := stepOne_works (cleared s)
  have hboth : (stepOne (cleared s)).firm.powered = true ∧ (stepOne (cleared s)).firm.tripped = false := by
    cases hbit : Config.freeBit (cleared s).fresh
    · rw [hworks hbit]
      exact ⟨rfl, rfl⟩
    · rw [hfails hbit]
      exact ⟨rfl, rfl⟩
  refine ⟨_, powerOn_stepsOne h, hboth.1, hboth.2, rfl, rfl, fun hbit => ?_, fun hbit => ?_⟩
  · rw [hworks hbit]
    exact ⟨rfl, rfl, rfl⟩
  · rw [hfails hbit]
    exact ⟨rfl, rfl, rfl⟩

theorem moduleReset_clears {s : State} (hpow : s.firm.powered = true) (hlive : s.firm.tripped = false) :
    ∃ s', exec .moduleReset s = .next s' ∧ s'.firm.log = [] ∧
      s'.ctl.ctxs = [] ∧ s'.cen.dir = [] ∧ s'.work.teams = [] ∧ s'.host.lease.owner = 0 ∧
      (s'.firm.step = 1 ∧ s'.firm.failed = false ∧ s'.firm.failedParts = [] ∨
        s'.firm.step = 0 ∧ s'.firm.failed = true ∧ s'.firm.failedParts = [(1, 0)]) := by
  obtain ⟨s1, hs1⟩ := moduleReset_stepsOne hpow hlive
  obtain ⟨hworks, hfails⟩ := stepOne_works (cleared s1)
  refine ⟨_, hs1, ?_⟩
  cases hbit : Config.freeBit (cleared s1).fresh
  · rw [hworks hbit]
    exact ⟨rfl, rfl, rfl, rfl, rfl, .inl ⟨rfl, rfl, rfl⟩⟩
  · rw [hfails hbit]
    exact ⟨rfl, rfl, rfl, rfl, rfl, .inr ⟨rfl, rfl, rfl⟩⟩

/-- Settles O52: each event's guard holds under its hypotheses, so it has its effect; the free bit of step 1 decides
between its two ends. -/
theorem moduleEvents : Obligations.ModuleEvents := by
  unfold Obligations.ModuleEvents
  intro core temp isl watts dev pa port kind tid gid src bad site failed im ht
  refine ⟨fun s hperiod => budgetRefill_refills hperiod, ?sample, fun s h => droopEvent_stretches h,
    fun s ⟨hhot, habove⟩ => thermalStepDown_lowers hhot habove,
    fun s ⟨hsteps, hcool⟩ => thermalRecover_raises hsteps hcool, fun s => powerSample_caps s watts,
    fun s _ => rfl, fun s _ => rfl, fun s _ => rfl,
    fun s t g e r ht hg hlast hhalted hlive hops hstores hhomes =>
      debugStepBack_restores ht hg hlast hhalted hlive hops hstores hhomes,
    fun n since s ⟨hdev, hother, hnew, hsilent⟩ => peerLostTimeout_loses hdev hother hnew hsilent,
    fun s hlost => peerReturn_resumes hlost, fun s ⟨hport, hup⟩ => portFailure_downs hport hup,
    fun s hkind => if_pos hkind, fun s hup => ethernetLinkDown_fails hup,
    fun b s ⟨hpow, hstep, hlive, hsrc, hother, hsome, hmost, hmapped, hfree⟩ =>
      ualinkRequest_writes hpow hstep hlive hsrc hother hsome hmost hmapped hfree,
    fun op wide b c fm => ?atomic, fun s h => powerOn_bringsUp h, fun s hpow hlive => moduleReset_clears hpow hlive,
    ?steps, fun s h => ?cores, fun s h hdev hports => ?fabric, fun s h => ?kdp⟩
  case sample =>
    intro sampled
    exact ⟨fun s ⟨hcore, hlive, hcool⟩ =>
        (tempSample_samples hcore hlive).trans (congrArg _ (if_neg (Nat.not_le.mpr hcool))),
      fun s ⟨hcore, hlive, hhot⟩ => (tempSample_samples hcore hlive).trans (congrArg _ (if_pos hhot)),
      fun s => rfl⟩
  case atomic =>
    intro n s ⟨hpow, hstep, hlive, hsrc, hother, haligned, hmapped, hfree⟩
    exact ualinkRequest_atomic hpow hstep hlive hsrc hother haligned hmapped hfree
  case steps =>
    intro digest
    refine ⟨fun s h hok => ⟨_, trustedFwStart_starts h hok, rfl, (bringUp_iff.mp h).2.2.1, rfl, rfl⟩,
      fun s ⟨h, hbad, hfirst⟩ => (trustedFwStart_fails h hbad).trans (if_neg (by simp [hfirst])),
      fun s ⟨h, hbad, hsecond⟩ => (trustedFwStart_fails h hbad).trans (if_pos hsecond),
      fun s ⟨h, hfailed, hall⟩ => ?_, fun s ⟨h, hbad⟩ => ?_, fun k => mem_badStacks ht k,
      fun s ⟨h, hok⟩ => (serviceFwStart_starts h).trans (congrArg _ (if_pos hok)),
      fun s ⟨h, hbad⟩ => (serviceFwStart_starts h).trans (congrArg _ (if_neg (by simp [hbad])))⟩
    · rw [hbmTraining_trains h, badStacks_eq_nil hfailed hall, foldl_measure, List.filter_eq_self.mpr hall]
      rfl
    · rw [hbmTraining_trains h, List.isEmpty_eq_false_iff.mpr hbad, foldl_measure]
      rfl
  case cores =>
    refine ⟨_, coreTest_tests h, islandMhz_atStart rfl rfl rfl rfl, ?_⟩
    cases failed <;> rfl
  case fabric =>
    exact ⟨_, fabricTraining_trains h hdev hports, rfl, (bringUp_iff.mp h).2.2.1, rfl, rfl, rfl⟩
  case kdp =>
    exact ⟨_, kdpServiceStart_starts h, rfl, (bringUp_iff.mp h).2.2.1, rfl, rfl⟩

end Sys2Proof.Proofs.Module
end

section
/-!
SUPPORT. One step of the machine: what the head of its agenda runs (R8, R145, R146, R196, R241, R333 to R336, R427; log
entries 6 and 33).
-/

namespace Sys2Proof.Proofs.Steps

open Sys2Proof Sys2Proof.Machine

/-! ### The head of the agenda -/

theorem step_agenda {s : State} {i : Item} {rest : List Item} (h : s.agenda = i :: rest) :
    step s = watched (runItem i { s with agenda := rest }) := by
  rw [step, h]

theorem runItem_tripped {s : State} {i : Item} (htripped : s.firm.tripped = true) (hnot : afterTrip i = false) :
    runItem i s = .next s := by
  rw [runItem]
  exact if_pos (by simp [htripped, hnot])

theorem runItem_live {s : State} {i : Item} (h : s.firm.tripped = true → afterTrip i = true) :
    runItem i s = runLive i s := by
  rw [runItem]
  refine if_neg ?_
  simp only [Bool.and_eq_true, Bool.not_eq_true', not_and, Bool.not_eq_false]
  exact h

theorem step_live {s : State} {i : Item} {rest : List Item} (h : s.agenda = i :: rest)
    (hlive : s.firm.tripped = true → afterTrip i = true) : step s = watched (runLive i { s with agenda := rest }) :=
  (step_agenda h).trans (congrArg watched (runItem_live hlive))

/-- A device that has not tripped runs the party at the head of its agenda. -/
theorem step_party {s : State} {p : Party} {rest : List Item} (h : s.agenda = .party p :: rest)
    (hlive : s.firm.tripped = false) : step s = watched (runLive (.party p) { s with agenda := rest }) :=
  step_live h fun ht => by rw [hlive] at ht; cases ht

/-! ### Groups -/

section
variable {s : State} {tid gid : Nat}

/-- A group that may go first, and has no partner, moves by itself. -/
theorem groupMove_alone {t : Team} {g : Group} (ht : teamOf s tid = some t) (hg : groupOf s tid gid = some g)
    (h : ∀ x, intent s tid gid = .issue x → turnFree s tid gid x = true ∧ oldest (partners s t g x) = []) :
    groupMove tid gid none s = partyStep (.group tid gid) s := by
  rw [groupMove]
  cases hintent : intent s tid gid with
  | none => rfl
  | header => rfl
  | issue x =>
    obtain ⟨hfree, hno⟩ := h x hintent
    simp only [hfree, ht, hg, hno, List.find?_nil, List.head?_nil, Option.or_none, Bool.not_true, Bool.false_eq_true,
      if_false]

theorem groupMove_waits {x : Turn} (hintent : intent s tid gid = .issue x) (hbusy : turnFree s tid gid x = false) :
    groupMove tid gid none s = .next s := by
  simp only [groupMove, hintent, hbusy, Bool.not_false, if_true]

theorem find?_none_eq (l : List (Group × Turn)) : (l.find? fun h => (none : Option Nat) == some h.1.gid) = none :=
  List.find?_eq_none.mpr fun _ _ => Bool.false_ne_true

theorem groupMove_pairs {t : Team} {g : Group} {x : Turn} {h : Group × Turn} {l : List (Group × Turn)}
    (ht : teamOf s tid = some t) (hg : groupOf s tid gid = some g) (hintent : intent s tid gid = .issue x)
    (hfree : turnFree s tid gid x = true) (hpair : oldest (partners s t g x) = h :: l) :
    groupMove tid gid none s = pairStep t g h.1 s := by
  simp only [groupMove, hintent, hfree, ht, hg, find?_none_eq, hpair, Option.none_or, List.head?_cons, Bool.not_true,
    Bool.false_eq_true, if_false]

end

/-- A group whose word can be fetched, and whose team lets it issue, runs what the word decodes to. -/
theorem partyStep_group {s s1 : State} {t : Team} {g : Group} {b : List Byte} (ht : teamOf s t.uid = some t)
    (hg : groupOf s t.uid g.gid = some g) (hmay : mayIssue t g s.clock = true)
    (hfetch : fetchIns { s with cur := some (.group t.uid g.gid) } t g.r.pc.toNat = .bytes b s1) :
    partyStep (.group t.uid g.gid) s = runGroupWord b s1 := by
  have hgroup : groupIn t g.gid = some g := by rwa [groupOf, ht] at hg
  have hx : partyStep (.group t.uid g.gid) s = groupStep { s with cur := some (.group t.uid g.gid) } := rfl
  have hcur := Flow.curGroup_of (s := { s with cur := some (.group t.uid g.gid) }) rfl ht hgroup
  simp only [hx, groupStep, hcur, hmay, hfetch, Bool.not_true, Bool.false_eq_true, if_false]

theorem runGroupWord_ok {b : List Byte} {i : Instr} (h : decodeGroup (rawOfBytes b) = .ok i) (s : State) :
    runGroupWord b s = exec i s := by
  simp only [runGroupWord, h]

theorem runGroupWord_error {b : List Byte} {e : Reject} (h : decodeGroup (rawOfBytes b) = .error e) (s : State) :
    runGroupWord b s =
      groupReject (rejectHdr (rawOfBytes b)) (laneWord (rawOfBytes b).w0) (rejectCause e) s := by
  simp only [runGroupWord, h]

/-! ### Streams -/

/-- A stream that has the engine's turn, and whose word can be fetched, runs what the word decodes to. -/
theorem streamMove_runs {s s1 : State} {t : Team} {m : MStream} {b : List Byte} (ht : teamOf s t.uid = some t)
    (hm : t.stream = some m) (hmay : mayStream t m = true) (hturn : engineTurn s t = true)
    (hfetch : fetchIns { s with cur := some (.stream t.uid) } t m.pc.toNat = .bytes b s1) :
    streamMove t.uid s = runStreamWord b s1 := by
  have hx : partyStep (.stream t.uid) s = streamStep { s with cur := some (.stream t.uid) } := rfl
  have hcur : curStream { s with cur := some (.stream t.uid) } = some (t, m) := by
    have ht' : teamOf { s with cur := some (.stream t.uid) } t.uid = some t := ht
    simp only [curStream, ht', hm, Option.bind_some, Option.map_some]
  rw [streamMove, if_pos (by simp [ht, hturn])]
  simp only [hx, streamStep, hcur, hmay, hfetch, Bool.not_true, Bool.false_eq_true, if_false]

theorem runStreamWord_ok {b : List Byte} {i : Instr} (h : decodeStream (rawOfBytes b) = .ok i) (s : State) :
    runStreamWord b s = exec i s := by
  simp only [runStreamWord, h]

theorem runStreamWord_error {b : List Byte} {e : Reject} (h : decodeStream (rawOfBytes b) = .error e) (s : State) :
    runStreamWord b s = streamReject (rejectCause e) s := by
  simp only [runStreamWord, h]

/-! ### Rhizoid threads -/

section
variable {s : State} {ch w : Nat} {z : ZRun} {i : Instr} (hrun : liveRun s ch = some z)
include hrun

theorem partyStep_zaddr (hlive : z.endA = false) (hword : zWord z false = some w) (hok : decodeZaddr w = .ok i) :
    partyStep (.zaddr ch) s = exec i { s with cur := some (.zaddr ch) } := by
  have hx : partyStep (.zaddr ch) s = zThreadStep { s with cur := some (.zaddr ch) } := rfl
  have hcur : curZ { s with cur := some (.zaddr ch) } = some (ch, false, z) := by
    have hrun' : liveRun { s with cur := some (.zaddr ch) } ch = some z := hrun
    simp only [curZ, hrun', Option.bind_some, hlive, Bool.false_eq_true, if_false]
  simp only [hx, zThreadStep, hcur, hword, hok, Bool.false_eq_true, if_false]

theorem partyStep_zarith (hlive : z.endE = false) (hword : zWord z true = some w) (hok : decodeZarith w = .ok i) :
    partyStep (.zarith ch) s = exec i { s with cur := some (.zarith ch) } := by
  have hx : partyStep (.zarith ch) s = zThreadStep { s with cur := some (.zarith ch) } := rfl
  have hcur : curZ { s with cur := some (.zarith ch) } = some (ch, true, z) := by
    have hrun' : liveRun { s with cur := some (.zarith ch) } ch = some z := hrun
    simp only [curZ, hrun', Option.bind_some, hlive, Bool.false_eq_true, if_false]
  simp only [hx, zThreadStep, hcur, hword, hok, if_true]

end

/-- Settles O55: the head of the agenda is run, by the rule of its kind of party. -/
theorem stepRunsDecoded : Obligations.StepRunsDecoded := by
  unfold Obligations.StepRunsDecoded
  intro s rest a
  refine ⟨fun i h htripped hnot => (step_agenda h).trans
      (congrArg watched (runItem_tripped (s := a) htripped hnot)),
    fun t g h hlive ht hg => ?group, fun t m b s1 h => ?stream,
    fun ch z w i h hlive => ?zaddr, fun ch z w i h hlive => ?zarith, fun e h hok => step_live h hok⟩
  case group =>
    intro s0
    have ha : teamOf a t.uid = some t := ht
    have hga : groupOf a t.uid g.gid = some g := hg
    have hstep : step s = watched (groupMove t.uid g.gid none a) := step_party h hlive
    refine ⟨fun b s1 i hmay hfetch halone => ?_, fun x hintent hbusy => ?_, fun x k l hintent hfree hpair => ?_⟩
    · rw [groupMove_alone ha hga halone, partyStep_group ha hga hmay hfetch] at hstep
      exact ⟨fun hok => by rw [hstep, runGroupWord_ok hok], fun e herr => by rw [hstep, runGroupWord_error herr]⟩
    · rw [hstep, groupMove_waits hintent hbusy]
      rfl
    · rw [hstep, groupMove_pairs ha hga hintent hfree hpair]
  case stream =>
    intro s0 hlive ht hm hmay hturn hfetch
    have hstep : step s = watched (inTime a (streamMove t.uid a)) := step_party h hlive
    rw [streamMove_runs (s := a) ht hm hmay hturn hfetch] at hstep
    exact ⟨fun i hok => by rw [hstep, runStreamWord_ok hok], fun e herr => by rw [hstep, runStreamWord_error herr]⟩
  case zaddr =>
    intro s0 hrun hend hword hok
    have hstep : step s = watched (inTime a (partyStep (.zaddr ch) a)) := step_party h hlive
    rw [hstep, partyStep_zaddr (s := a) hrun hend hword hok]
  case zarith =>
    intro s0 hrun hend hword hok
    have hstep : step s = watched (inTime a (partyStep (.zarith ch) a)) := step_party h hlive
    rw [hstep, partyStep_zarith (s := a) hrun hend hword hok]

end Sys2Proof.Proofs.Steps
end

section
/-!
SUPPORT. Worked encodings; reset, and bring-up with nothing from outside (R430, R431; log entries 1 and 6).
-/

namespace Sys2Proof.Proofs.Boot

open Sys2Proof Sys2Proof.Machine

/-- Settles O56: the decoder is run on each word. -/
theorem decodeWords : Obligations.DecodeWords := by
  unfold Obligations.DecodeWords
  intro base ext long
  exact ⟨rfl, rfl, rfl, rfl, rfl, rfl, rfl, rfl, rfl, rfl, rfl, rfl, rfl, rfl, rfl⟩

/-! ### A device that runs nothing yet -/

/-- The reset state with a firmware's state, the Ethernet link up or down, and a number of free values drawn. -/
def booting (f : Firm) (up : Bool) (n : Nat) : State :=
  { State.reset with firm := f, fab := { State.reset.fab with ethUp := up }, fresh := n }

section
variable (f : Firm) (up : Bool) (n : Nat)

theorem refillBudgets_booting : refillBudgets (booting f up n) = booting f up n := if_pos (Nat.zero_div 8000)

theorem runDue_booting : runDue (booting f up n) = booting f up n := rfl

theorem addsDue_booting : addsDue (booting f up n) = booting f up n := rfl

theorem watchBanks_booting : watchBanks (booting f up n) = booting f up n := rfl

theorem watchHeat_booting : watchHeat (booting f up n) = booting f up n := rfl

theorem watchUndo_booting : watchUndo (booting f up n) = booting f up n := rfl

theorem watchPeers_booting : watchPeers (booting f up n) = booting f up n := rfl

theorem lookNodes_booting : lookNodes (booting f up n) = booting f up n := rfl

/-- There is nothing for the device to do of itself. -/
theorem watch_booting : watch (booting f up n) = booting f up n := by
  simp only [watch, refillBudgets_booting, runDue_booting, addsDue_booting, watchBanks_booting, watchHeat_booting,
    watchUndo_booting, watchPeers_booting, lookNodes_booting]

end

theorem step_booting {f f' : Firm} {up up' : Bool} {n n' : Nat} {m : Move}
    (hmove : bringUpMove (booting f up n) = some m)
    (hnext : m (booting f up n) = .next (booting f' up' n')) :
    step (booting f up n) = .next (booting f' up' n') := by
  have hx : step (booting f up n) = watched (schedule (booting f up n)) := rfl
  simp only [hx, schedule, hmove, hnext]
  exact congrArg _ (watch_booting f' up' n')

/-- A firmware that has ended step `k` of bring-up, with none failed. -/
structure Ended (k : Nat) (f : Firm) : Prop where
  powered : f.powered = true
  step : f.step = k
  failed : f.failed = false
  tripped : f.tripped = false

/-- A device that has ended step `k`, with its Ethernet link up. -/
def Reached (k : Nat) (s : State) : Prop := ∃ f n, s = booting f true n ∧ Ended k f

section
variable {f : Firm} {k : Nat} (h : Ended k f)
include h

theorem Ended.bringUp (up : Bool) (n : Nat) : bringUp (booting f up n) k = true :=
  Module.bringUp_iff.mpr ⟨h.powered, h.step, h.failed, h.tripped⟩

/-- Its next move is that of any firmware that has ended that step. -/
theorem Ended.move (up : Bool) (n : Nat) : bringUpMove (booting f up n) =
    bringUpMove (booting { State.reset.firm with powered := true, step := k } up n) := by
  simp only [bringUpMove, booting, h.powered, h.step, h.failed, h.tripped]
  rfl

end

theorem verified_goodImage : verified goodImage = true := by
  simp only [verified, goodImage, beq_self_eq_true, Bool.true_and]
  exact beq_self_eq_true _

/-! ### The seven steps -/

theorem step_reset_works (h : Config.freeBit 0 = false) :
    step State.reset = .next (booting { State.reset.firm with powered := true, step := 1 } false 1) := by
  refine step_booting (f := State.reset.firm) (up := false) (n := 0) (m := execPowerOn) rfl ?_
  have hx : execPowerOn State.reset = .next (stepOne (cleared State.reset)) := rfl
  refine hx.trans (congrArg _ ?_)
  have hbit : Config.freeBit (cleared State.reset).fresh = false := h
  simp only [stepOne, hbit]
  rfl

theorem step_reset_fails (h : Config.freeBit 0 = true) :
    step State.reset =
      .next (booting { State.reset.firm with powered := true, failed := true, failedParts := [(1, 0)] } false 1) := by
  refine step_booting (f := State.reset.firm) (up := false) (n := 0) (m := execPowerOn) rfl ?_
  have hx : execPowerOn State.reset = .next (stepOne (cleared State.reset)) := rfl
  refine hx.trans (congrArg _ ?_)
  have hbit : Config.freeBit (cleared State.reset).fresh = true := h
  simp only [stepOne, hbit]
  rfl

/-- Step 2 brings the link up. -/
theorem step_trustedFw {f : Firm} {n : Nat} (h : Ended 1 f) :
    ∃ s', step (booting f false n) = .next s' ∧ Reached 2 s' := by
  have hmove := Module.trustedFwStart_starts (h.bringUp false n) verified_goodImage
  exact ⟨_, step_booting (h.move false n) hmove, _, _, rfl, h.powered, rfl, h.failed, h.tripped⟩

theorem step_hbm {s : State} : Reached 2 s → ∃ s', step s = .next s' ∧ Reached 3 s' := by
  rintro ⟨f, n, rfl, h⟩
  have hmove := Module.hbmTraining_trains (t := ⟨[], []⟩) (h.bringUp true n)
  exact ⟨_, step_booting (h.move true n) hmove, _, _, rfl, h.powered, rfl, h.failed, h.tripped⟩

theorem step_serviceFw {s : State} : Reached 3 s → ∃ s', step s = .next s' ∧ Reached 4 s' := by
  rintro ⟨f, n, rfl, h⟩
  have hmove := (Module.serviceFwStart_starts (h.bringUp true n)).trans (congrArg _ (if_pos verified_goodImage))
  exact ⟨_, step_booting (h.move true n) hmove, _, _, rfl, h.powered, rfl, h.failed, h.tripped⟩

theorem step_coreTest {s : State} : Reached 4 s → ∃ s', step s = .next s' ∧ Reached 5 s' := by
  rintro ⟨f, n, rfl, h⟩
  have hmove := Module.coreTest_tests (failed := []) (h.bringUp true n)
  exact ⟨_, step_booting (h.move true n) hmove, _, _, rfl, h.powered, rfl, h.failed, h.tripped⟩

theorem step_fabric {s : State} : Reached 5 s → ∃ s', step s = .next s' ∧ Reached 6 s' := by
  rintro ⟨f, n, rfl, h⟩
  have hmove := Module.fabricTraining_trains (dev := 0) (failed := []) (h.bringUp true n) (by decide)
    fun p hp => by cases hp
  exact ⟨_, step_booting (h.move true n) hmove, _, _, rfl, h.powered, rfl, h.failed, h.tripped⟩

theorem step_kdp {s : State} : Reached 6 s → ∃ s', step s = .next s' ∧ Reached 7 s' := by
  rintro ⟨f, n, rfl, h⟩
  have hmove := Module.kdpServiceStart_starts (h.bringUp true n)
  exact ⟨_, step_booting (h.move true n) hmove, _, _, rfl, h.powered, rfl, h.failed, h.tripped⟩

theorem afterSteps_succ {s s' : State} (h : step s = .next s') (n : Nat) : afterSteps (n + 1) s = afterSteps n s' := by
  simp only [afterSteps, h]

/-- With step 1 passed, the six that follow each pass. -/
theorem afterSteps_seven (h : Config.freeBit 0 = false) : ∃ s, afterSteps 7 State.reset = some s ∧ Reached 7 s := by
  obtain ⟨s2, h2, hs2⟩ := step_trustedFw (f := { State.reset.firm with powered := true, step := 1 }) (n := 1)
    ⟨rfl, rfl, rfl, rfl⟩
  obtain ⟨s3, h3, hs3⟩ := step_hbm hs2
  obtain ⟨s4, h4, hs4⟩ := step_serviceFw hs3
  obtain ⟨s5, h5, hs5⟩ := step_coreTest hs4
  obtain ⟨s6, h6, hs6⟩ := step_fabric hs5
  obtain ⟨s7, h7, hs7⟩ := step_kdp hs6
  refine ⟨s7, ?_, hs7⟩
  rw [afterSteps_succ (step_reset_works h), afterSteps_succ h2, afterSteps_succ h3, afterSteps_succ h4,
    afterSteps_succ h5, afterSteps_succ h6, afterSteps_succ h7]
  rfl

/-- Settles O60: reset is empty, and bring-up is followed step by step. -/
theorem resetState : Obligations.ResetState := by
  unfold Obligations.ResetState
  intro s up
  refine ⟨⟨rfl, fun c hc => by cases hc⟩, rfl, rfl, rfl, rfl, rfl, rfl, rfl, rfl, fun a => rfl, fun h => ?_,
    fun h => ?_⟩
  · obtain ⟨s7, hrun, f, n, rfl, hended⟩ := afterSteps_seven h
    rw [hrun]
    simp only [Option.map_some, up, booting, hended.step, hended.failed, hended.powered]
  · rw [afterSteps_succ (step_reset_fails h)]
    rfl

end Sys2Proof.Proofs.Boot
end

section
/-!
SUPPORT. The words of group and stream instructions (R6, R10, R13): the fields that the decoders read from an encoded word.
-/

namespace Sys2Proof.Proofs.Fields

open Sys2Proof
open Sys2Proof.Proofs.RhizoidWords (bit_lt)

/-! ### Extended words (R13) -/

/-- A header's number fields are within their widths (R6, R13). -/
structure HdrFits (h : Hdr) : Prop where
  dist : h.dist < 8
  guard : ∀ g ∈ h.guard, g.num < 8

/-- The form is the extended one, with a literal or without (R7, R12). -/
def ExtForm (h : Hdr) (lit : Option (BitVec 64)) : Prop := h.form = if lit.isSome then .extLit else .ext

/-- The other fields of an extended word are within their widths (R13). -/
structure Fits (sub mod d a b c : Nat) : Prop where
  sub : sub < 256
  mod : mod < 64
  d : d < 256
  a : a < 256
  b : b < 256
  c : c < 256

theorem encGuard_eq {o : Option Guard} (h : ∀ g ∈ o, g.num < 8) : ∃ k < 32, encGuard o = k * 2 ^ 7 := by
  cases o with
  | none => exact ⟨0, by decide, rfl⟩
  | some g =>
    have hnum := h g rfl
    have hneg := bit_lt g.neg
    exact ⟨16 + bit g.neg * 8 + g.num, by omega, by simp only [encGuard]; omega⟩

theorem lenCode_lt (f : Form) : lenCode f < 4 := by cases f <;> decide

/-- The base word of an extended form. -/
def extWord (h : Hdr) (op sub mod : Nat) : Nat :=
  lenCode h.form * 2 ^ 30 + h.dist * 2 ^ 27 + op * 2 ^ 20 + sub * 2 ^ 12 + encGuard h.guard + bit h.fs * 2 ^ 6 + mod

section
variable {h : Hdr} {op sub mod : Nat} (hh : HdrFits h) (hop : op < 128) (hsub : sub < 256) (hmod : mod < 64)
include hh hop hsub hmod

/-- Each field of the word, as a number within its width. -/
theorem extWord_fields : lenOf (extWord h op sub mod) = lenCode h.form ∧ distOf (extWord h op sub mod) = h.dist ∧
    opOf (extWord h op sub mod) = op ∧ bitsAt (extWord h op sub mod) 12 8 = sub ∧
    extWord h op sub mod / 2 ^ 7 % 2 ^ 5 * 2 ^ 7 = encGuard h.guard ∧
    extWord h op sub mod / 2 ^ 6 % 2 = bit h.fs ∧ bitsAt (extWord h op sub mod) 0 6 = mod := by
  obtain ⟨k, hk, hg⟩ := encGuard_eq hh.guard
  have hfs := bit_lt h.fs
  have hlen := lenCode_lt h.form
  have hdist := hh.dist
  simp only [lenOf, distOf, opOf, bitsAt, extWord, hg]
  generalize bit h.fs = x at *
  generalize lenCode h.form = l at *
  generalize h.dist = dist at *
  refine ⟨by omega, by omega, by omega, by omega, by omega, by omega, by omega⟩

end

theorem formOf_of_lenOf {w : Nat} {f : Form} (h : lenOf w = lenCode f) : formOf w = f := by
  rw [formOf, h]
  cases f <;> rfl

theorem bitAt_bits {w : Nat} {x : Bool} (i : Nat) (h : w / 2 ^ i % 2 = bit x) : bitAt w i = x := by
  rw [bitAt, h]
  cases x <;> rfl

/-- The guard that GV, GN and GP name (R13), and no guard bits where there is none. -/
theorem guardBits {w : Nat} {o : Option Guard} (ho : ∀ g ∈ o, g.num < 8) (h : w / 2 ^ 7 % 2 ^ 5 * 2 ^ 7 = encGuard o) :
    bitAt w 11 = o.isSome ∧ (if o.isSome then some ⟨bitAt w 10, bitsAt w 7 3⟩ else none) = o ∧
      (!o.isSome && (bitAt w 10 || bitsAt w 7 3 != 0)) = false := by
  cases o with
  | none =>
    simp only [encGuard] at h
    have h11 : bitAt w 11 = false := bitAt_bits 11 (by simp only [bit, Bool.false_eq_true, if_false]; omega)
    have h10 : bitAt w 10 = false := bitAt_bits 10 (by simp only [bit, Bool.false_eq_true, if_false]; omega)
    have h7 : bitsAt w 7 3 = 0 := by simp only [bitsAt]; omega
    simp [h11, h10, h7]
  | some g =>
    have hnum := ho g rfl
    have hneg := bit_lt g.neg
    simp only [encGuard] at h
    have h11 : bitAt w 11 = true := bitAt_bits 11 (by simp only [bit, if_true]; omega)
    have h10 : bitAt w 10 = g.neg := bitAt_bits 10 (by omega)
    have h7 : bitsAt w 7 3 = g.num := by simp only [bitsAt]; omega
    simp [h11, h10, h7]

/-- Every field of an extended word is what was put there. -/
theorem extFields_encExt {h : Hdr} {op sub mod d a b c imm : Nat} {lit : Option (BitVec 64)} (hh : HdrFits h)
    (hform : ExtForm h lit) (hop : op < 128) (hf : Fits sub mod d a b c) :
    extFields (encExt h op sub mod d a b c imm (lit.getD 0)) =
      { h := h, lit := lit, sub := sub, guardBad := false, gv := h.guard.isSome, mod := mod, d := d, a := a, b := b
        c := c, imm := imm } := by
  obtain ⟨hsub, hmod, hd, ha, hb, hc⟩ := hf
  obtain ⟨hlen, hdist, -, hsubf, hguard, hfs, hmodf⟩ := extWord_fields hh hop hsub hmod
  obtain ⟨hgv, hguardf, hbad⟩ := guardBits hh.guard hguard
  have hw : (encExt h op sub mod d a b c imm (lit.getD 0)).w0 = extWord h op sub mod := rfl
  have hlitf : (if lenCode h.form = 3 then some (lit.getD 0) else none) = lit := by
    rw [hform]
    cases lit <;> rfl
  simp only [extFields, hw, hguardf, hbad, hgv, bitAt_bits 6 hfs, hdist, hsubf, hmodf, formOf_of_lenOf hlen, hlen]
  simp only [encExt, hlitf, bitsAt, XF.mk.injEq, true_and, and_true]
  refine ⟨by omega, by omega, by omega, by omega⟩

/-! ### Base words (R10) -/

section
variable {h : Hdr} {op low : Nat} {lit : BitVec 64} (hop : op < 128) (hlow : low < 2 ^ 20)
include hop hlow

theorem opOf_encBase : opOf (encBase h op low lit).w0 = op := by
  simp only [opOf, encBase, bitsAt]
  omega

variable (hdist : h.dist < 8)
include hdist

theorem lenOf_encBase : lenOf (encBase h op low lit).w0 = lenCode h.form := by
  have hl := lenCode_lt h.form
  simp only [lenOf, encBase, bitsAt]
  omega

theorem baseHdr_encBase (fs : Bool) : baseHdr (encBase h op low lit) fs = ⟨h.form, h.dist, fs, none⟩ := by
  have hl := lenCode_lt h.form
  have hd : distOf (encBase h op low lit).w0 = h.dist := by
    simp only [distOf, encBase, bitsAt]
    omega
  rw [baseHdr, formOf_of_lenOf (lenOf_encBase hop hlow hdist), hd]

end

theorem bitsAt_encBase {h : Hdr} {op low lo n : Nat} {lit : BitVec 64} (hn : lo + n ≤ 20) :
    bitsAt (encBase h op low lit).w0 lo n = bitsAt low lo n := by
  obtain ⟨m, hm⟩ := Nat.exists_eq_add_of_le hn
  have hw : (encBase h op low lit).w0 =
      low + 2 ^ n * (2 ^ m * (lenCode h.form * 2 ^ 10 + h.dist * 2 ^ 7 + op)) * 2 ^ lo := by
    have h20 : (2 : Nat) ^ 20 = 2 ^ lo * 2 ^ n * 2 ^ m := by rw [← pow_add, ← pow_add, hm]
    have hx : (encBase h op low lit).w0 = low + 2 ^ 20 * (lenCode h.form * 2 ^ 10 + h.dist * 2 ^ 7 + op) := by
      simp only [encBase]
      omega
    rw [hx, h20]
    ring
  rw [bitsAt, bitsAt, hw, Nat.add_mul_div_right _ _ (Nat.two_pow_pos lo), Nat.add_mul_mod_self_left]

theorem bitAt_encBase {h : Hdr} {op low i : Nat} {lit : BitVec 64} (hi : i < 20) :
    bitAt (encBase h op low lit).w0 i = bitAt low i := by
  have hx := bitsAt_encBase (h := h) (op := op) (low := low) (lit := lit) (lo := i) (n := 1) hi
  simp only [bitsAt, pow_one] at hx
  rw [bitAt, bitAt, hx]

/-! ### Signed fields -/

/-- A value that a signed field holds comes back from it. -/
theorem sextNat_fieldOf {n : Nat} {v : Int} (hn : 0 < n) (h : sfit n v = true) : sextNat n (fieldOf n v) = v := by
  obtain ⟨m, rfl⟩ := Nat.exists_eq_succ_of_ne_zero hn.ne'
  simp only [sfit, Nat.succ_eq_add_one, Nat.add_sub_cancel, decide_eq_true_eq] at h
  have hp : (2 : Int) ^ (m + 1) = 2 * 2 ^ m := by rw [pow_succ, mul_comm]
  have hpn : (2 : Nat) ^ (m + 1) = 2 * 2 ^ m := by rw [pow_succ, mul_comm]
  have hcast : ((2 ^ m : Nat) : Int) = 2 ^ m := by norm_cast
  have hpos : (0 : Int) < 2 ^ m := by positivity
  simp only [sextNat, fieldOf, hp, hpn]
  generalize (2 : Int) ^ m = p at *
  generalize (2 : Nat) ^ m = q at *
  obtain hneg | hneg := lt_or_ge v 0
  · have hmod : v % (2 * p) = v + 2 * p := by
      rw [← Int.add_emod_right, Int.emod_eq_of_lt (by omega) (by omega)]
    rw [hmod, if_neg (by omega)]
    omega
  · rw [Int.emod_eq_of_lt hneg (by omega), if_pos (by omega)]
    omega

theorem fieldOf_lt (n : Nat) (v : Int) : fieldOf n v < 2 ^ n := by
  have hpos : (0 : Int) < 2 ^ n := by positivity
  have hlt := Int.emod_lt_of_pos v hpos
  have hcast : ((2 ^ n : Nat) : Int) = 2 ^ n := by norm_cast
  simp only [fieldOf]
  omega

end Sys2Proof.Proofs.Fields
end

section
/-!
SUPPORT. What a word's fields must hold for the group decoder to accept it (R14, R15, R26, R36).
-/

namespace Sys2Proof.Proofs.Encodings

open Sys2Proof
open Sys2Proof.Proofs.Fields
open Sys2Proof.Proofs.RhizoidWords (judge_eq_ok_iff bit_lt)

/-! ### Verdicts -/

theorem judge_ok {rsv fld : Bool} {i j : Instr} (hr : rsv = false) (hf : fld = false) (hi : i = j) :
    judge rsv fld i = .ok j :=
  judge_eq_ok_iff.mpr ⟨hr, hf, hi⟩

theorem ext_ok {x : XF} {u : Uses} {fld : Bool} {i j : Instr} (hr : rsvBad x u = false) (hf : fld = false) (hi : i = j) :
    ext x u fld i = .ok j :=
  judge_ok hr hf hi

theorem and_mask {n k : Nat} (h : n < 2 ^ k) : n &&& (2 ^ k - 1) = n := Nat.and_two_pow_sub_one_of_lt_two_pow h

theorem and_one {n : Nat} (h : n < 2) : n &&& 1 = n := and_mask (k := 1) h

theorem and_three {n : Nat} (h : n < 4) : n &&& 3 = n := and_mask (k := 2) h

theorem and_seven {n : Nat} (h : n < 8) : n &&& 7 = n := and_mask (k := 3) h

theorem and_fifteen {n : Nat} (h : n < 16) : n &&& 15 = n := and_mask (k := 4) h

theorem and_thirtyone {n : Nat} (h : n < 32) : n &&& 31 = n := and_mask (k := 5) h

theorem and_sixtythree {n : Nat} (h : n < 64) : n &&& 63 = n := and_mask (k := 6) h

theorem and_immAll {n : Nat} (h : n < 2 ^ 32) : n &&& immAll = n := and_mask (k := 32) h

/-- The bits of two fields that do not overlap are masked each on its own. -/
theorem and_fields {lo hi m n k : Nat} (hlo : lo < 2 ^ k) (hm : m < 2 ^ k) :
    (lo + hi * 2 ^ k) &&& (m + n * 2 ^ k) = (lo &&& m) + (hi &&& n) * 2 ^ k := by
  have hsum (x y : Nat) (hx : x < 2 ^ k) : x + y * 2 ^ k = y <<< k ||| x := by
    rw [← Nat.shiftLeft_add_eq_or_of_lt hx, Nat.shiftLeft_eq, Nat.add_comm]
  rw [hsum _ _ hlo, hsum _ _ hm, hsum _ _ (Nat.and_lt_two_pow lo hm)]
  apply Nat.eq_of_testBit_eq
  intro j
  simp only [Nat.testBit_and, Nat.testBit_or, Nat.testBit_shiftLeft]
  by_cases hj : k ≤ j
  · have hlo' := Nat.testBit_lt_two_pow (hlo.trans_le (Nat.pow_le_pow_right (by decide) hj))
    have hm' := Nat.testBit_lt_two_pow (hm.trans_le (Nat.pow_le_pow_right (by decide) hj))
    simp [hj, hlo', hm']
  · simp [hj]

/-! ### Headers and sources that fit -/

/-- What a header that `hdrOk` admits has. -/
theorem hdrOk_fits {h : Hdr} {fs : List Form} {ll : Bool} (hok : hdrOk h fs ll = true) :
    h.form ∈ fs ∧ HdrFits h ∧ (ll = false → h.fs = false) ∧ (h.guard ≠ none → h.form = .ext ∨ h.form = .extLit) := by
  simp only [hdrOk, formIn, Bool.and_eq_true, List.contains_iff_mem, decide_eq_true_eq, Bool.or_eq_true,
    Bool.not_eq_true'] at hok
  obtain ⟨⟨⟨hform, hdist⟩, hfs⟩, hguard⟩ := hok
  refine ⟨hform, ⟨hdist, fun g hg => ?_⟩, fun hll => hfs.resolve_left (by simp [hll]), fun hsome => ?_⟩
  · rw [Option.mem_def] at hg
    simp only [hg, Bool.and_eq_true, decide_eq_true_eq] at hguard
    exact hguard.1
  · obtain ⟨g, hg⟩ := Option.ne_none_iff_exists'.mp hsome
    simpa [hg] using (by simpa [hg] using hguard : _ ∧ _).2

theorem extOnly_fits {h : Hdr} {ll : Bool} (hok : extOnly h ll = true) :
    HdrFits h ∧ ExtForm h none ∧ (ll = false → h.fs = false) := by
  obtain ⟨hform, hfits, hfs, -⟩ := hdrOk_fits hok
  exact ⟨hfits, List.mem_singleton.mp hform, hfs⟩

/-- The literal that a source stands for. -/
def litOf : Src → Option (BitVec 64)
  | .lit c => some c
  | .reg _ => none
  | .imm _ => none

theorem litBits_eq (b : Src) : b.litBits = (litOf b).getD 0 := by cases b <;> rfl

/-- A last source that the extended form can hold, its register below `k` (R12, R14). -/
structure SrcFits (h : Hdr) (k : Nat) (b : Src) : Prop where
  form : ExtForm h (litOf b)
  num : b.num < k
  zero : (litOf b).isSome = true → b.num = 0
  src : ∀ x : XF, x.lit = litOf b → x.src b.num = b

theorem lastSrc_fits {h : Hdr} {k : Nat} {b : Src} (hk : 0 < k) (hform : h.form ≠ .baseLit) (hb : lastSrc h k b = true) :
    SrcFits h k b := by
  cases b with
  | imm c => cases hb
  | reg n =>
    simp only [lastSrc, lt, Bool.and_eq_true, beq_iff_eq, decide_eq_true_eq] at hb
    exact ⟨hb.1, hb.2, (fun h => by cases h), fun x hx => by simp [XF.src, hx, litOf, Src.num]⟩
  | lit c =>
    simp only [lastSrc, Bool.or_eq_true, beq_iff_eq, hform, false_or] at hb
    exact ⟨hb, hk, fun _ => rfl, fun x hx => by simp [XF.src, hx, litOf]⟩

theorem ext23_fits {h : Hdr} {ll : Bool} (hok : ext23 h ll = true) :
    h.form ≠ .baseLit ∧ HdrFits h ∧ (ll = false → h.fs = false) := by
  obtain ⟨hform, hfits, hfs, -⟩ := hdrOk_fits hok
  refine ⟨fun hbase => ?_, hfits, hfs⟩
  rw [hbase] at hform
  simp at hform

/-! ### Extended words of a group -/

/-- The opcodes that a group's extended words may have (R37, R38). -/
def groupOp (op : Nat) : Bool := decide (op < 128) && !unassignedOp op && !streamOp op

/-- An extended word of a group is judged by its fields alone. -/
theorem decodeGroup_encExt {h : Hdr} {op sub mod d a b c imm : Nat} {lit : Option (BitVec 64)} {i : Instr} (hh : HdrFits h)
    (hform : ExtForm h lit) (hf : Fits sub mod d a b c)
    (hdec : ∀ r, opOf r.w0 = op → extFields r = ⟨h, lit, sub, false, h.guard.isSome, mod, d, a, b, c, imm⟩ →
      decodeExt r = .ok i)
    (hop : groupOp op = true := by decide) : decodeGroup (encExt h op sub mod d a b c imm (lit.getD 0)) = .ok i := by
  simp only [groupOp, Bool.and_eq_true, decide_eq_true_eq, Bool.not_eq_true'] at hop
  obtain ⟨⟨hlt, hassigned⟩, hnot⟩ := hop
  obtain ⟨hlen, -, hopf, -⟩ := extWord_fields hh hlt hf.sub hf.mod
  have hw : (encExt h op sub mod d a b c imm (lit.getD 0)).w0 = extWord h op sub mod := rfl
  have htwo : ¬ lenCode h.form < 2 := by
    rw [hform]
    cases lit <;> simp [lenCode]
  have hx := hdec _ (hw ▸ hopf) (extFields_encExt (imm := imm) hh hform hlt hf)
  simp only [decodeGroup, hw, hopf, hassigned, hnot, hlen, htwo, Bool.false_eq_true, if_false]
  exact hx

/-- The same of an instruction without a literal. -/
theorem decodeGroup_plain {h : Hdr} {op sub mod d a b c imm : Nat} {i : Instr} {ll : Bool} (hok : extOnly h ll = true)
    (hf : Fits sub mod d a b c)
    (hdec : (ll = false → h.fs = false) → ∀ r, opOf r.w0 = op →
      extFields r = ⟨h, none, sub, false, h.guard.isSome, mod, d, a, b, c, imm⟩ → decodeExt r = .ok i)
    (hop : groupOp op = true := by decide) : decodeGroup (encExt h op sub mod d a b c imm 0) = .ok i := by
  obtain ⟨hh, hform, hfs⟩ := extOnly_fits hok
  exact decodeGroup_encExt (lit := none) hh hform hf (hdec hfs) hop

theorem src_fits {h : Hdr} {k : Nat} {s : Src} {ll : Bool} (hk : 0 < k) (hok : ext23 h ll = true)
    (hs : lastSrc h k s = true) : HdrFits h ∧ (ll = false → h.fs = false) ∧ SrcFits h k s ∧ s.num < k := by
  obtain ⟨hform, hh, hfs⟩ := ext23_fits hok
  have hsrc := lastSrc_fits hk hform hs
  exact ⟨hh, hfs, hsrc, hsrc.num⟩

/-- The same of an instruction whose last source may be a literal. -/
theorem decodeGroup_src {h : Hdr} {op sub mod d a b c imm k : Nat} {s : Src} {i : Instr} (hh : HdrFits h)
    (hs : SrcFits h k s) (hf : Fits sub mod d a b c)
    (hdec : ∀ r, opOf r.w0 = op →
      extFields r = ⟨h, litOf s, sub, false, h.guard.isSome, mod, d, a, b, c, imm⟩ → decodeExt r = .ok i)
    (hop : groupOp op = true := by decide) : decodeGroup (encExt h op sub mod d a b c imm s.litBits) = .ok i := by
  rw [litBits_eq]
  exact decodeGroup_encExt hh hs.form hf hdec hop

/-- A form that may be the base form with a literal is that one, without FS or guard, or an extended one. -/
theorem long_cases {h : Hdr} {ll : Bool} (hok : hdrOk h [.baseLit, .ext, .extLit] ll = true) :
    (∃ dist < 8, ∃ fs, h = ⟨.baseLit, dist, fs, none⟩ ∧ (ll = false → fs = false)) ∨
      h.form ≠ .baseLit ∧ ext23 h ll = true := by
  obtain ⟨hform, hfits, hfs, hguard⟩ := hdrOk_fits hok
  by_cases hb : h.form = .baseLit
  · refine .inl ⟨h.dist, hfits.dist, h.fs, ?_, hfs⟩
    have hnone : h.guard = none := by
      by_contra hsome
      rcases hguard hsome with he | he <;> rw [hb] at he <;> cases he
    rw [← hb, ← hnone]
  · refine .inr ⟨hb, ?_⟩
    simp only [hdrOk, formIn, Bool.and_eq_true, ext23] at hok ⊢
    obtain ⟨⟨⟨-, hd⟩, hf⟩, hg⟩ := hok
    refine ⟨⟨⟨?_, hd⟩, hf⟩, hg⟩
    simpa [hb] using hform

theorem encBin_ext {h : Hdr} (hform : h.form ≠ .baseLit) (op sub mod d a : Nat) (b : Src) :
    encBin h op sub mod d a b = encExt h op sub mod d a b.num 0 0 b.litBits := by
  rw [encBin]
  split
  · contradiction
  · rfl

/-! ### Base words of a group -/

/-- What a base word of a group reads as: its header but for FS, its low 20 bits and its literal (R10). -/
structure BaseWord (r : Raw) (form : Form) (dist low : Nat) (lit : BitVec 64) : Prop where
  hdr : ∀ f, baseHdr r f = ⟨form, dist, f, none⟩
  bits : ∀ lo n, lo + n ≤ 20 → bitsAt r.w0 lo n = bitsAt low lo n
  bit : ∀ k, k < 20 → bitAt r.w0 k = bitAt low k
  lit : r.lit = lit

/-- A base word of a group is judged by its header, its low bits and its literal. -/
theorem decodeGroup_encBase {h : Hdr} {op low : Nat} {lit : BitVec 64} {i : Instr} (hdist : h.dist < 8)
    (hform : h.form = .base ∨ h.form = .baseLit) (hlow : low < 2 ^ 20)
    (hdec : ∀ r, opOf r.w0 = op → BaseWord r h.form h.dist low lit → decodeBase r = .ok i)
    (hop : groupOp op = true := by decide) : decodeGroup (encBase h op low lit) = .ok i := by
  simp only [groupOp, Bool.and_eq_true, decide_eq_true_eq, Bool.not_eq_true'] at hop
  obtain ⟨⟨hlt, hassigned⟩, hnot⟩ := hop
  have htwo : lenCode h.form < 2 := by
    rcases hform with h | h <;> rw [h] <;> decide
  have hx := hdec _ (opOf_encBase hlt hlow)
    ⟨baseHdr_encBase hlt hlow hdist, fun _ _ => bitsAt_encBase, fun _ => bitAt_encBase, rfl⟩
  simp only [decodeGroup, opOf_encBase hlt hlow, hassigned, hnot, lenOf_encBase hlt hlow hdist, htwo,
    Bool.false_eq_true, if_false, if_true]
  exact hx

/-- A header of a base form without FS is its form and DIST. -/
theorem baseOk_eq {h : Hdr} (hok : baseOk h [.base] = true) : ∃ dist < 8, h = ⟨.base, dist, false, none⟩ := by
  simp only [baseOk, Bool.and_eq_true, Option.isNone_iff_eq_none] at hok
  obtain ⟨hhdr, hguard⟩ := hok
  obtain ⟨hform, hfits, hfs, -⟩ := hdrOk_fits hhdr
  obtain ⟨form, dist, fs, guard⟩ := h
  cases List.mem_singleton.mp hform
  cases hguard
  cases hfs rfl
  exact ⟨dist, hfits.dist, rfl⟩

section
variable {r : Raw} {dist low : Nat} {lit : BitVec 64}

theorem baseN_ok {i : Hdr → Instr} (hw : BaseWord r .base dist 0 lit) : baseN r i = .ok (i ⟨.base, dist, false, none⟩) :=
  judge_ok (by rw [hw.bits 0 20 (by decide)]; rfl) rfl (by rw [hw.hdr])

theorem baseJP_ok {p : Nat} {neg : Bool} {off : Int} {k : Hdr → Nat → Bool → Int → Instr} (hp : p < 8)
    (hoff : sfit 16 off = true) (hw : BaseWord r .base dist (p * 2 ^ 17 + bit neg * 2 ^ 16 + fieldOf 16 off) lit) :
    baseJP r k = .ok (k ⟨.base, dist, false, none⟩ p neg off) := by
  have hneg := bit_lt neg
  have hf := fieldOf_lt 16 off
  have hpf : bitsAt (p * 2 ^ 17 + bit neg * 2 ^ 16 + fieldOf 16 off) 17 3 = p := by simp only [bitsAt]; omega
  have hof : bitsAt (p * 2 ^ 17 + bit neg * 2 ^ 16 + fieldOf 16 off) 0 16 = fieldOf 16 off := by simp only [bitsAt]; omega
  have hnf : bitAt (p * 2 ^ 17 + bit neg * 2 ^ 16 + fieldOf 16 off) 16 = neg := bitAt_bits 16 (by omega)
  rw [baseJP, hw.hdr, hw.bits _ _ (by decide), hw.bits _ _ (by decide), hw.bit _ (by decide), hpf, hof, hnf,
    sextNat_fieldOf (by decide) hoff]

/-- The three register fields of format R (R10). -/
theorem format3 {d a b : Nat} (hd : d < 64) (ha : a < 64) (hb : b < 64) :
    d * 2 ^ 14 + a * 2 ^ 8 + b * 4 < 2 ^ 20 ∧ bitsAt (d * 2 ^ 14 + a * 2 ^ 8 + b * 4) 14 6 = d ∧
      bitsAt (d * 2 ^ 14 + a * 2 ^ 8 + b * 4) 8 6 = a ∧ bitsAt (d * 2 ^ 14 + a * 2 ^ 8 + b * 4) 2 6 = b ∧
      bitsAt (d * 2 ^ 14 + a * 2 ^ 8 + b * 4) 0 2 = 0 := by
  simp only [bitsAt]
  omega

theorem base3R_ok {d a b : Nat} {reg : Hdr → Nat → Nat → Nat → Instr} {k : Hdr → Nat → Nat → Src → Instr} (hd : d < 64)
    (ha : a < 64) (hb : b < 64) (hw : BaseWord r .base dist (d * 2 ^ 14 + a * 2 ^ 8 + b * 4) lit) :
    base3R r reg k = .ok (reg ⟨.base, dist, false, none⟩ d a b) := by
  obtain ⟨-, hdf, haf, hbf, hlow⟩ := format3 hd ha hb
  rw [base3R, hw.hdr, hw.bits _ _ (by decide), hw.bits _ _ (by decide), hw.bits _ _ (by decide),
    hw.bits _ _ (by decide), hdf, haf, hbf, hlow]
  exact judge_ok rfl rfl rfl

/-- The form with a literal leaves the third register field zero (R12). -/
theorem base3R_lit_ok {d a : Nat} {reg : Hdr → Nat → Nat → Nat → Instr} {k : Hdr → Nat → Nat → Src → Instr} (hd : d < 64)
    (ha : a < 64) (hw : BaseWord r .baseLit dist (d * 2 ^ 14 + a * 2 ^ 8) lit) :
    base3R r reg k = .ok (k ⟨.baseLit, dist, false, none⟩ d a (.lit lit)) := by
  obtain ⟨-, hdf, haf, hbf, hlow⟩ := format3 hd ha (b := 0) (by decide)
  simp only [Nat.zero_mul, Nat.add_zero] at hdf haf hbf hlow
  rw [base3R, hw.hdr, hw.bits _ _ (by decide), hw.bits _ _ (by decide), hw.bits _ _ (by decide),
    hw.bits _ _ (by decide), hdf, haf, hbf, hlow, hw.lit]
  exact judge_ok rfl rfl rfl

end

end Sys2Proof.Proofs.Encodings
end

section
/-!
SUPPORT. The round trip of a group's control, mask and predicate instructions (R20, R47 to R62, R355).
-/

namespace Sys2Proof.Proofs.Encodings

open Sys2Proof
open Sys2Proof.Proofs.Fields
open Sys2Proof.Proofs.RhizoidWords (bit_lt bitAt_bit)

/-- The parts of the encoding, one a chapter of the spec, in which the round trip is proved. -/
inductive Chapter where
  | control | uniform | vector | float | memory | engine | other

/-- The chapter of an instruction that a group encodes. -/
def chapterOf : Instr → Chapter
  | .clauseHeader .. | .nop .. | .bra .. | .braExt .. | .brany .. | .branyExt .. | .brall .. | .brallExt .. | .brnone ..
  | .brnoneExt .. | .brx .. | .call .. | .callExt .. | .callx .. | .ret .. | .exit .. | .exitExt .. | .yield ..
  | .trap .. | .rte .. | .emrd .. | .emwr .. | .emand .. | .emor .. | .emandn .. | .emsetp .. | .elect .. | .pand ..
  | .por .. | .pxor .. | .pandn .. | .pnot .. | .pmov .. | .spand .. | .spor .. | .spxor .. | .spandn .. | .spnot ..
  | .spmov .. | .unassignedOpcode .. => .control
  | .sadd .. | .saddLong .. | .ssub .. | .smul .. | .smulh .. | .sand .. | .sor .. | .sxor .. | .sandn .. | .sshl ..
  | .sshr .. | .ssar .. | .smin .. | .smax .. | .smovi .. | .smoviLong .. | .saddi .. | .saddiLong .. | .slea ..
  | .sbfx .. | .sbfi .. | .sclz .. | .spopc .. | .sbrev .. | .scmp .. | .ssel .. | .sreadsr .. | .sreadsrExt ..
  | .swritesr .. | .swritesrExt .. | .shfl .. | .ballot .. | .readlane .. | .writelane .. | .lred .. | .qpush ..
  | .qpop .. => .uniform
  | .vadd .. | .vaddLong .. | .vsub .. | .vmul .. | .vmulh .. | .vmad .. | .vand .. | .vor .. | .vxor .. | .vandn ..
  | .vnot .. | .vshl .. | .vshr .. | .vsar .. | .vmin .. | .vmax .. | .vabs .. | .vneg .. | .vaddi .. | .vaddiLong ..
  | .vmov .. | .vmovs .. | .vmovi .. | .vmoviLong .. | .vbfx .. | .vbfi .. | .vclz .. | .vpopc .. | .vbrev ..
  | .vprfx .. | .vbmand .. | .visect .. | .vcmp .. | .vsel .. => .vector
  | .vfadd .. | .vfaddLong .. | .vfsub .. | .vfmul .. | .vfmin .. | .vfmax .. | .vfabs .. | .vfneg .. | .vfma ..
  | .vfmaLong .. | .vfms .. | .vfnma .. | .vfcmp .. | .vrcp .. | .vrsq .. | .vsqrt .. | .vexp2 .. | .vlog2 .. | .vsin ..
  | .vcos .. | .vtanh .. | .vsigm .. | .verf .. | .vcvt .. | .vcvtsr .. | .rngfill .. | .scalecalc .. | .vquant .. => .float
  | .ld .. | .ldLong .. | .st .. | .stLong .. | .lda .. | .ldaLong .. | .sta .. | .staLong .. | .ldc .. | .stc ..
  | .ldu .. | .lduLong .. | .stu .. | .stuLong .. | .atom .. | .red .. | .waita .. | .fenceAcq .. | .fenceRel ..
  | .fenceSc .. | .aliasf .. | .commitTeam .. | .commitGrid .. | .commitPod .. | .bararv .. | .barwt .. | .barsync ..
  | .cwaitge .. | .cadd .. | .ratom .. => .memory
  | .copy .. | .copym .. | .copyp .. | .copyh .. | .cbatch .. | .cwaitb .. | .aexport .. | .aexportRev .. | .opfence ..
  | .collAr .. | .collRs .. | .collAg .. | .collBc .. | .fmtsel .. | .revm .. | .fwdm .. | .tapemark ..
  | .tapemarkCut .. | .tapespill .. | .tapefill .. | .dirins .. | .dirdel .. | .dirmove .. | .dirlook .. | .solicit ..
  | .respond .. | .nmpost .. | .nmgather .. => .engine
  | _ => .other

/-- The words of a well-formed instruction of a group decode to it. -/
def RoundTrips (i : Instr) : Prop := ∀ r, i.wf = true → encodeGroup i = some r → decodeGroup r = .ok i

/-! ### Operand fields of control instructions -/

theorem encSlide_lt {sl : Option Nat} (h : slideOk sl = true) : encSlide sl < 64 := by
  simp only [slideOk, lt, Bool.and_eq_true, decide_eq_true_eq] at h
  cases sl with
  | none => decide
  | some k =>
    simp only [encSlide, Option.getD_some] at h ⊢
    omega

/-- The slide of a call comes back from MOD (R51). -/
theorem slide_field {sl : Option Nat} (h : slideOk sl = true) {x : XF} (hx : x.mod = encSlide sl) :
    slideField x = sl ∧ slideBad x = false := by
  simp only [slideOk, lt, Bool.and_eq_true, decide_eq_true_eq, beq_iff_eq] at h
  cases sl with
  | none =>
    simp only [encSlide] at hx
    simp [slideField, slideBad, hx, bitAt]
  | some k =>
    simp only [encSlide, Option.getD_some] at hx h
    have hbit : bitAt (k / 8) 5 = false := bitAt_bits 5 (by simp only [bit, Bool.false_eq_true, if_false]; omega)
    have hk : 8 * (k / 8 % 32) = k := by omega
    simp only [slideField, slideBad, hx, hbit, hk, Bool.false_and, Bool.false_eq_true, if_false, and_self]

/-- An extended branch on a predicate (R47). -/
theorem extBr_ok {h : Hdr} {g neg : Bool} {p : Nat} {off : Int} {k : Hdr → Nat → Bool → Int → Instr} (hfs : h.fs = false)
    (hp : p < 8) (hoff : sfit 32 off = true) :
    extBr ⟨h, none, 0, false, g, bit neg, 0, p, 0, 0, fieldOf 32 off⟩ k = .ok (k h p neg off) :=
  ext_ok (by simp [rsvBad, hfs, and_one (bit_lt neg), and_immAll (fieldOf_lt 32 off)]) (by simp; omega)
    (by simp [sextNat_fieldOf, hoff])

/-- A flag number of a clause header, 15 for none (R20). -/
theorem flag_field {o : Option Nat} (h : o.getD 0 < 12) :
    o.getD 15 < 16 ∧ (if o.getD 15 = 15 then none else some (o.getD 15)) = o ∧
      decide (12 ≤ o.getD 15 ∧ o.getD 15 ≤ 14) = false := by
  cases o with
  | none => decide
  | some n =>
    simp only [Option.getD_some] at h ⊢
    simp
    omega

theorem clauseHeader_roundTrips (wait : BitVec 12) (sa sb : Option Nat) : RoundTrips (.clauseHeader wait sa sb) := by
  intro r hwf he
  cases he
  delta Instr.wf at hwf
  simp only [lt, Bool.and_eq_true, decide_eq_true_eq] at hwf
  obtain ⟨ha, hfa, hba⟩ := flag_field hwf.1
  obtain ⟨hb, hfb, hbb⟩ := flag_field hwf.2
  have hwait := wait.isLt
  have hword : (⟨wait.toNat * 2 ^ 8 + sa.getD 15 * 2 ^ 4 + sb.getD 15, 0, 0, 0⟩ : Raw) =
      encBase ⟨.base, 0, false, none⟩ 0 (wait.toNat * 2 ^ 8 + sa.getD 15 * 2 ^ 4 + sb.getD 15) 0 := by
    simp [encBase, lenCode]
  rw [hword]
  refine decodeGroup_encBase (by decide) (.inl rfl) (by omega) fun r hop hw => ?_
  have haf : bitsAt (wait.toNat * 2 ^ 8 + sa.getD 15 * 2 ^ 4 + sb.getD 15) 4 4 = sa.getD 15 := by simp only [bitsAt]; omega
  have hbf : bitsAt (wait.toNat * 2 ^ 8 + sa.getD 15 * 2 ^ 4 + sb.getD 15) 0 4 = sb.getD 15 := by simp only [bitsAt]; omega
  have hwaitf : bitsAt (wait.toNat * 2 ^ 8 + sa.getD 15 * 2 ^ 4 + sb.getD 15) 8 12 = wait.toNat := by
    simp only [bitsAt]; omega
  have hdist : distOf r.w0 = 0 := congrArg Hdr.dist (hw.hdr false)
  unfold decodeBase
  rw [hop, hw.hdr]
  refine Eq.trans (b := decodeHeader r) rfl ?_
  rw [decodeHeader, hw.bits _ _ (by decide), hw.bits _ _ (by decide), hw.bits _ _ (by decide), haf, hbf, hwaitf, hdist]
  exact judge_ok rfl (by simp only [hba, hbb, Bool.or_self])
    (by simp only [hfa, hfb, BitVec.ofNat_toNat, BitVec.setWidth_eq])

theorem unassignedOpcode_roundTrips (w : BitVec 32) : RoundTrips (.unassignedOpcode w) := by
  intro r hwf he
  cases he
  delta Instr.wf at hwf
  have hun : unassignedOp (opOf w.toNat) = true := hwf
  simp only [decodeGroup, hun, if_true, BitVec.ofNat_toNat, BitVec.setWidth_eq]

/-- Control, mask and predicate instructions. -/
theorem control_roundTrips {i : Instr} (hc : chapterOf i = .control) : RoundTrips i := by
  intro r hwf he
  cases i with
  | clauseHeader wait sa sb => exact clauseHeader_roundTrips wait sa sb r hwf he
  | unassignedOpcode w => exact unassignedOpcode_roundTrips w r hwf he
  | nop | ret | exit | yield | rte =>
    cases he
    obtain ⟨dist, hdist, rfl⟩ := baseOk_eq hwf
    refine decodeGroup_encBase hdist (.inl rfl) (by decide) fun r hop hw => ?_
    unfold decodeBase
    rw [hop, hw.hdr]
    exact baseN_ok hw
  | bra h off | call h off =>
    cases he
    obtain ⟨hh, hoff⟩ := (Bool.and_eq_true _ _).mp hwf
    obtain ⟨dist, hdist, rfl⟩ := baseOk_eq hh
    have hlow := fieldOf_lt 20 off
    refine decodeGroup_encBase hdist (.inl rfl) hlow fun r hop hw => ?_
    have hfield : bitsAt (fieldOf 20 off) 0 20 = fieldOf 20 off := by simp only [bitsAt]; omega
    unfold decodeBase
    rw [hop, hw.hdr, hw.bits 0 20 (by decide), hfield, sextNat_fieldOf (by decide) hoff]
    rfl
  | brany h p neg off | brall h p neg off | brnone h p neg off =>
    cases he
    delta Instr.wf at hwf
    simp only [lt, Bool.and_eq_true, decide_eq_true_eq] at hwf
    obtain ⟨⟨hh, hp⟩, hoff⟩ := hwf
    obtain ⟨dist, hdist, rfl⟩ := baseOk_eq hh
    have hneg := bit_lt neg
    have hlow := fieldOf_lt 16 off
    refine decodeGroup_encBase hdist (.inl rfl) (by omega) fun r hop hw => ?_
    unfold decodeBase
    rw [hop, hw.hdr]
    exact baseJP_ok hp hoff hw
  | branyExt h p neg off | brallExt h p neg off | brnoneExt h p neg off =>
    cases he
    delta Instr.wf at hwf
    simp only [lt, Bool.and_eq_true, decide_eq_true_eq] at hwf
    obtain ⟨⟨hh, hp⟩, hoff⟩ := hwf
    have hneg := bit_lt neg
    refine decodeGroup_plain hh (by constructor <;> omega) fun hfs r hop hx => ?_
    unfold decodeExt
    rw [hop, hx]
    exact extBr_ok (hfs rfl) hp hoff
  | braExt h off =>
    cases he
    obtain ⟨hh, hoff⟩ := (Bool.and_eq_true _ _).mp hwf
    refine decodeGroup_plain hh (by constructor <;> decide) fun hfs r hop hx => ?_
    unfold decodeExt
    rw [hop, hx]
    exact ext_ok (by simp [rsvBad, hfs, and_immAll (fieldOf_lt 32 off)]) rfl (by simp [sextNat_fieldOf, hoff])
  | brx h a off =>
    cases he
    delta Instr.wf at hwf
    simp only [lt, Bool.and_eq_true, decide_eq_true_eq] at hwf
    obtain ⟨⟨hh, ha⟩, hoff⟩ := hwf
    refine decodeGroup_plain hh (by constructor <;> omega) fun hfs r hop hx => ?_
    unfold decodeExt
    rw [hop, hx]
    exact ext_ok (by simp [rsvBad, hfs, and_immAll (fieldOf_lt 32 off)]) (by simp; omega)
      (by simp [sextNat_fieldOf, hoff])
  | callExt h off sl =>
    cases he
    delta Instr.wf at hwf
    simp only [Bool.and_eq_true] at hwf
    obtain ⟨⟨hh, hoff⟩, hsl⟩ := hwf
    have hmod := encSlide_lt hsl
    refine decodeGroup_plain hh (by constructor <;> omega) fun hfs r hop hx => ?_
    obtain ⟨hfield, hbad⟩ := slide_field (x := extFields r) hsl (by rw [hx])
    rw [hx] at hfield hbad
    unfold decodeExt
    rw [hop, hx]
    exact judge_ok (by simp [rsvBad, hfs, hbad, and_sixtythree hmod, and_immAll (fieldOf_lt 32 off)]) rfl
      (by simp [sextNat_fieldOf, hoff, hfield])
  | callx h a off sl =>
    cases he
    delta Instr.wf at hwf
    simp only [lt, Bool.and_eq_true, decide_eq_true_eq] at hwf
    obtain ⟨⟨⟨hh, ha⟩, hoff⟩, hsl⟩ := hwf
    have hmod := encSlide_lt hsl
    refine decodeGroup_plain hh (by constructor <;> omega) fun hfs r hop hx => ?_
    obtain ⟨hfield, hbad⟩ := slide_field (x := extFields r) hsl (by rw [hx])
    rw [hx] at hfield hbad
    unfold decodeExt
    rw [hop, hx]
    exact judge_ok (by simp [rsvBad, hfs, hbad, and_sixtythree hmod, and_immAll (fieldOf_lt 32 off)]) (by simp; omega)
      (by simp [sextNat_fieldOf, hoff, hfield])
  | exitExt h =>
    cases he
    refine decodeGroup_plain hwf (by constructor <;> decide) fun hfs r hop hx => ?_
    unfold decodeExt
    rw [hop, hx]
    exact ext_ok (by simp [rsvBad, hfs]) rfl rfl
  | trap h n =>
    cases he
    delta Instr.wf at hwf
    simp only [lt, Bool.and_eq_true, decide_eq_true_eq] at hwf
    refine decodeGroup_plain hwf.1 (by constructor <;> decide) fun hfs r hop hx => ?_
    unfold decodeExt
    rw [hop, hx]
    exact ext_ok (by simp [rsvBad, hfs, and_fifteen hwf.2]) rfl (by simp [Nat.mod_eq_of_lt hwf.2])
  | emrd | emwr | emand | emor | emandn | emsetp | elect | pand | por | pxor | pandn | spand | spor | spxor | spandn
  | pnot | pmov | spnot | spmov =>
    cases he
    delta Instr.wf at hwf
    simp only [lt, Bool.and_eq_true, decide_eq_true_eq] at hwf
    refine decodeGroup_plain (ll := false) (by simp only [hwf]) (by constructor <;> omega) fun hfs r hop hx => ?_
    unfold decodeExt
    rw [hop, hx]
    exact ext_ok (by simp [rsvBad, hfs]) (by simp; omega) rfl
  | _ => cases hc

end Sys2Proof.Proofs.Encodings
end

section
/-!
SUPPORT. The round trip of a group's uniform and lane instructions (R63 to R74).
-/

namespace Sys2Proof.Proofs.Encodings

open Sys2Proof
open Sys2Proof.Proofs.Fields
open Sys2Proof.Proofs.RhizoidWords (bit_lt bitAt_bit)

/-! ### Operand fields of uniform instructions -/

theorem s3Ok_fits {h : Hdr} {d a : Nat} {b : Src} (hok : s3Ok h d a b = true) :
    HdrFits h ∧ h.fs = false ∧ SrcFits h 64 b ∧ b.num < 64 ∧ d < 64 ∧ a < 64 := by
  simp only [s3Ok, lt, Bool.and_eq_true, decide_eq_true_eq] at hok
  obtain ⟨⟨⟨hh, hd⟩, ha⟩, hb⟩ := hok
  obtain ⟨hfits, hfs, hsrc, hnum⟩ := src_fits (by decide) hh hb
  exact ⟨hfits, hfs rfl, hsrc, hnum, hd, ha⟩

/-- SALU's operands (R63). -/
theorem extS3_ok {h : Hdr} {sub d a : Nat} {g : Bool} {b : Src} {k : Nat → Nat → Src → Instr} (hfs : h.fs = false)
    (hs : SrcFits h 64 b) (hd : d < 64) (ha : a < 64) :
    extS3 ⟨h, litOf b, sub, false, g, 0, d, a, b.num, 0, 0⟩ k = .ok (k d a b) := by
  have hb := hs.num
  refine ext_ok ?_ (by simp; omega) (by simp only [hs.src])
  simpa [rsvBad, hfs, XF.isLit] using hs.zero

/-- The register, immediate or literal of a comparison (R66, R87, R91; log entry 9). -/
theorem cmpOk_fits {h : Hdr} {k : Nat} {b : Src} (hk : 0 < k) (hok : cmpOk h k b = true) :
    ExtForm h (litOf b) ∧ b.num < k := by
  cases b with
  | reg n =>
    simp only [cmpOk, lt, Bool.and_eq_true, beq_iff_eq, decide_eq_true_eq] at hok
    exact hok
  | imm c => exact ⟨eq_of_beq hok, hk⟩
  | lit c => exact ⟨eq_of_beq hok, hk⟩

/-- The fields of a comparison: `mods` are the MOD bits above `.imm`, among those that `mask` defines. -/
theorem cmp_field {h : Hdr} {g : Bool} {sub mods mask d a : Nat} (b : Src) (hfs : h.fs = false)
    (hmods : mods = 0 ∧ (mask = 1 ∨ mask = 3) ∨ mods = 2 ∧ mask = 3) :
    rsvBad ⟨h, litOf b, sub, false, g, mods + bit b.isImm, d, a, b.num, 0, b.immBits⟩
        (cmpUses ⟨h, litOf b, sub, false, g, mods + bit b.isImm, d, a, b.num, 0, b.immBits⟩ mask) = false ∧
      cmpSrc ⟨h, litOf b, sub, false, g, mods + bit b.isImm, d, a, b.num, 0, b.immBits⟩ = b := by
  rcases hmods with ⟨rfl, rfl | rfl⟩ | ⟨rfl, rfl⟩ <;> cases b <;>
    simp [rsvBad, cmpUses, cmpSrc, XF.isLit, XF.src, litOf, Src.isImm, Src.num, Src.immBits, bit, bitAt, hfs,
      and_immAll (BitVec.isLt _)]

theorem relOf_code (rel : Rel) (sg : Bool) : relOf ((relCode rel + if sg then 0 else 8) % 8) = some rel ∧
    relCode rel + (if sg then 0 else 8) < 16 ∧ decide (relCode rel + (if sg then 0 else 8) < 8) = sg := by
  cases rel <;> cases sg <;> decide

/-- The lane number of READLANE and WRITELANE (R71). -/
theorem lane_field {h : Hdr} {g : Bool} {d a : Nat} {l : Src} (hfs : h.fs = false)
    (hl : (match l with | .reg n => lt n 64 | .imm c => lt c.toNat 64 | .lit _ => false) = true) :
    l.num < 64 ∧ rsvBad ⟨h, none, 0, false, g, bit l.isImm, d, a, l.num, 0, l.immBits⟩
        (laneUses ⟨h, none, 0, false, g, bit l.isImm, d, a, l.num, 0, l.immBits⟩) = false ∧
      laneSrc ⟨h, none, 0, false, g, bit l.isImm, d, a, l.num, 0, l.immBits⟩ = l := by
  cases l with
  | lit => cases hl
  | reg n =>
    have hn : n < 64 := of_decide_eq_true hl
    simp [rsvBad, laneUses, laneSrc, Src.isImm, Src.num, Src.immBits, bit, bitAt, hfs, hn]
  | imm c =>
    have hc : c.toNat < 64 := of_decide_eq_true hl
    simp [rsvBad, laneUses, laneSrc, Src.isImm, Src.num, Src.immBits, bit, bitAt, hfs, and_sixtythree hc]

theorem lredCode_lt (op : LredOp) : lredCode op < 256 := by cases op <;> decide

/-- The register or immediate of QPUSH and CWAITB (R74, R212). -/
theorem pushed_field {h : Hdr} {g : Bool} {d : Nat} {s : Src}
    (hs : (match s with | .reg n => lt n 64 | .imm _ => true | .lit _ => false) = true) :
    s.num < 64 ∧ rsvBad ⟨h, none, 0, false, g, bit s.isImm, d, s.num, 0, 0, s.immBits⟩
        { ll := true, a := !bitAt (bit s.isImm) 0, b := false, mod := 1
          imm := if bitAt (bit s.isImm) 0 then immAll else 0 } = false ∧
      (if bitAt (bit s.isImm) 0 then .imm (BitVec.ofNat 32 s.immBits) else .reg s.num) = s := by
  cases s with
  | lit => cases hs
  | reg n =>
    have hn : n < 64 := of_decide_eq_true hs
    simp [rsvBad, Src.isImm, Src.num, Src.immBits, bit, bitAt, hn]
  | imm c => simp [rsvBad, Src.isImm, Src.num, Src.immBits, bit, bitAt, and_immAll c.isLt]

/-- A bit field's position and length (R65, R86). -/
theorem span_field {k pos len : Nat} (hk : k ≤ 64) (h : fieldSpan k pos len = true) :
    bitsAt (pos + (len - 1) * 256) 0 6 = pos ∧ bitsAt (pos + (len - 1) * 256) 8 6 + 1 = len ∧
      (pos + (len - 1) * 256) &&& 0x3F3F = pos + (len - 1) * 256 ∧ pos + len ≤ k := by
  simp only [fieldSpan, lt, Bool.and_eq_true, decide_eq_true_eq] at h
  obtain ⟨⟨hpos, hone⟩, hlen⟩ := h
  have hmask := and_fields (lo := pos) (hi := len - 1) (m := 0x3F) (n := 0x3F) (k := 8) (by omega) (by decide)
  rw [and_sixtythree (by omega), and_sixtythree (by omega)] at hmask
  simp only [bitsAt]
  exact ⟨by omega, by omega, hmask, hlen⟩

/-- The immediate or literal of a move (R64, R82; log entry 9). -/
theorem immOk_cases {h : Hdr} {c : Src} (hok : hdrOk h [.baseLit, .ext, .extLit] false = true) (hc : immOk h c = true) :
    (∃ dist < 8, ∃ x, h = ⟨.baseLit, dist, false, none⟩ ∧ c = .lit x) ∨
      (∃ dist guard x, h = ⟨.ext, dist, false, guard⟩ ∧ c = .imm x ∧ HdrFits ⟨.ext, dist, false, guard⟩) ∨
      ∃ dist guard x, h = ⟨.extLit, dist, false, guard⟩ ∧ c = .lit x ∧ HdrFits ⟨.extLit, dist, false, guard⟩ := by
  rcases long_cases hok with ⟨dist, hdist, fs, rfl, hfs⟩ | ⟨hform, hext⟩
  · cases hfs rfl
    cases c with
    | reg | imm => simp [immOk] at hc
    | lit x => exact .inl ⟨dist, hdist, x, rfl, rfl⟩
  · obtain ⟨-, hfits, hfs⟩ := ext23_fits hext
    obtain ⟨form, dist, fs, guard⟩ := h
    cases hfs rfl
    cases c with
    | reg => cases hc
    | imm x =>
      cases eq_of_beq hc
      exact .inr (.inl ⟨dist, guard, x, rfl, rfl, hfits⟩)
    | lit x =>
      simp only [immOk, Bool.or_eq_true, beq_iff_eq] at hc hform
      cases hc.resolve_left hform
      exact .inr (.inr ⟨dist, guard, x, rfl, rfl, hfits⟩)

/-- The fields of a base word with one register and a signed immediate of 14 bits (R10). -/
theorem format14 {d : Nat} (c : Int) (hd : d < 64) : d * 2 ^ 14 + fieldOf 14 c < 2 ^ 20 ∧
    bitsAt (d * 2 ^ 14 + fieldOf 14 c) 14 6 = d ∧ bitsAt (d * 2 ^ 14 + fieldOf 14 c) 0 14 = fieldOf 14 c := by
  have hfield := fieldOf_lt 14 c
  simp only [bitsAt]
  omega

/-- The fields of a base word with two registers and a signed immediate of 8 bits (R10). -/
theorem format8 {d a : Nat} (c : Int) (hd : d < 64) (ha : a < 64) : d * 2 ^ 14 + a * 2 ^ 8 + fieldOf 8 c < 2 ^ 20 ∧
    bitsAt (d * 2 ^ 14 + a * 2 ^ 8 + fieldOf 8 c) 14 6 = d ∧ bitsAt (d * 2 ^ 14 + a * 2 ^ 8 + fieldOf 8 c) 8 6 = a ∧
    bitsAt (d * 2 ^ 14 + a * 2 ^ 8 + fieldOf 8 c) 0 8 = fieldOf 8 c := by
  have hfield := fieldOf_lt 8 c
  simp only [bitsAt]
  omega

/-! ### The chapter -/

theorem saddLong_roundTrips (h : Hdr) (d a : Nat) (b : Src) : RoundTrips (.saddLong h d a b) := by
  intro r hwf he
  cases he
  delta Instr.wf at hwf
  simp only [s3LongOk, lt, Bool.and_eq_true, decide_eq_true_eq] at hwf
  obtain ⟨⟨⟨hh, hd⟩, ha⟩, hb⟩ := hwf
  rcases long_cases hh with ⟨dist, hdist, fs, rfl, hfs⟩ | ⟨hform, hext⟩
  · cases hfs rfl
    cases b with
    | reg | imm => simp [lastSrc] at hb
    | lit c =>
      refine decodeGroup_encBase hdist (.inr rfl) (by omega) fun r hop hw => ?_
      unfold decodeBase
      rw [hop, hw.hdr]
      exact base3R_lit_ok hd ha hw
  · obtain ⟨hfits, hfs, hsrc, hnum⟩ := src_fits (by decide) hext hb
    rw [encBin_ext hform]
    refine decodeGroup_src hfits hsrc (by constructor <;> omega) fun r hop hx => ?_
    unfold decodeExt
    rw [hop, hx]
    exact extS3_ok (hfs rfl) hsrc hd ha

/-- Uniform, lane and queue instructions. -/
theorem uniform_roundTrips {i : Instr} (hch : chapterOf i = .uniform) : RoundTrips i := by
  intro r hwf he
  cases i with
  | sadd h d a b =>
    cases he
    delta Instr.wf at hwf
    simp only [base3Ok, lt, Bool.and_eq_true, decide_eq_true_eq] at hwf
    obtain ⟨⟨⟨hh, hd⟩, ha⟩, hb⟩ := hwf
    obtain ⟨dist, hdist, rfl⟩ := baseOk_eq hh
    refine decodeGroup_encBase hdist (.inl rfl) (format3 hd ha hb).1 fun r hop hw => ?_
    unfold decodeBase
    rw [hop, hw.hdr]
    exact base3R_ok hd ha hb hw
  | saddLong h d a b => exact saddLong_roundTrips h d a b r hwf he
  | ssub h d a b | smul h d a b | sand h d a b | sor h d a b | sxor h d a b | sandn h d a b | sshl h d a b
  | sshr h d a b | ssar h d a b =>
    cases he
    obtain ⟨hh, hfs, hs, hb, hd, ha⟩ := s3Ok_fits hwf
    refine decodeGroup_src hh hs (by constructor <;> omega) fun r hop hx => ?_
    unfold decodeExt
    rw [hop, hx]
    exact extS3_ok hfs hs hd ha
  | smulh h sg d a b | smin h sg d a b | smax h sg d a b =>
    cases he
    obtain ⟨hh, hfs, hs, hb, hd, ha⟩ := s3Ok_fits hwf
    cases sg
    all_goals
      simp only [Bool.false_eq_true, if_true, if_false]
      refine decodeGroup_src hh hs (by constructor <;> omega) fun r hop hx => ?_
      unfold decodeExt
      rw [hop, hx]
      exact extS3_ok hfs hs hd ha
  | smovi h d c =>
    cases he
    delta Instr.wf at hwf
    simp only [lt, Bool.and_eq_true, decide_eq_true_eq] at hwf
    obtain ⟨⟨hh, hd⟩, hc⟩ := hwf
    obtain ⟨dist, hdist, rfl⟩ := baseOk_eq hh
    obtain ⟨hlow, hdf, hcf⟩ := format14 c hd
    refine decodeGroup_encBase hdist (.inl rfl) hlow fun r hop hw => ?_
    unfold decodeBase
    rw [hop, hw.hdr, hw.bits 14 6 (by decide), hw.bits 0 14 (by decide), hdf, hcf]
    exact congrArg (fun x => Except.ok (Instr.smovi _ d x)) (sextNat_fieldOf (by decide) hc)
  | sreadsr h d c | swritesr h d c =>
    cases he
    delta Instr.wf at hwf
    simp only [lt, Bool.and_eq_true, decide_eq_true_eq] at hwf
    obtain ⟨⟨⟨hh, hd⟩, hc⟩, hreg⟩ := hwf
    obtain ⟨dist, hdist, rfl⟩ := baseOk_eq hh
    obtain ⟨hlow, hdf, hcf⟩ := format14 c hd
    refine decodeGroup_encBase hdist (.inl rfl) hlow fun r hop hw => ?_
    unfold decodeBase
    rw [hop, hw.hdr, hw.bits 14 6 (by decide), hw.bits 0 14 (by decide), hdf, hcf]
    exact judge_ok rfl (by simp [sextNat_fieldOf, hc, hreg]) (by simp [sextNat_fieldOf, hc])
  | saddi h d a c =>
    cases he
    delta Instr.wf at hwf
    simp only [lt, Bool.and_eq_true, decide_eq_true_eq] at hwf
    obtain ⟨⟨⟨hh, hd⟩, ha⟩, hc⟩ := hwf
    obtain ⟨dist, hdist, rfl⟩ := baseOk_eq hh
    obtain ⟨hlow, hdf, haf, hcf⟩ := format8 c hd ha
    refine decodeGroup_encBase hdist (.inl rfl) hlow fun r hop hw => ?_
    unfold decodeBase
    rw [hop, hw.hdr, hw.bits 14 6 (by decide), hw.bits 8 6 (by decide), hw.bits 0 8 (by decide), hdf, haf, hcf]
    exact congrArg (fun x => Except.ok (Instr.saddi _ d a x)) (sextNat_fieldOf (by decide) hc)
  | smoviLong h d c =>
    cases he
    delta Instr.wf at hwf
    simp only [lt, Bool.and_eq_true, decide_eq_true_eq] at hwf
    obtain ⟨⟨hh, hd⟩, hc⟩ := hwf
    rcases immOk_cases hh hc with ⟨dist, hdist, x, rfl, rfl⟩ | ⟨dist, guard, x, rfl, rfl, hfits⟩ |
      ⟨dist, guard, x, rfl, rfl, hfits⟩
    · refine decodeGroup_encBase hdist (.inr rfl) (by omega) fun r hop hw => ?_
      have hdf : bitsAt (d * 2 ^ 14) 14 6 = d := by simp only [bitsAt]; omega
      have hlow : bitsAt (d * 2 ^ 14) 0 14 = 0 := by simp only [bitsAt]; omega
      unfold decodeBase
      rw [hop, hw.hdr, hw.bits 14 6 (by decide), hw.bits 0 14 (by decide), hdf, hlow, hw.lit]
      exact judge_ok rfl rfl rfl
    · refine decodeGroup_encExt (lit := none) hfits rfl (by constructor <;> omega) fun r hop hx => ?_
      unfold decodeExt
      rw [hop, hx]
      exact ext_ok (by simp [rsvBad, XF.isLit, Src.immBits, and_immAll x.isLt]) (by simp; omega) (by simp [Src.immBits])
    · refine decodeGroup_encExt (lit := some x) hfits rfl (by constructor <;> omega) fun r hop hx => ?_
      unfold decodeExt
      rw [hop, hx]
      exact ext_ok (by simp [rsvBad, Src.immBits]) (by simp; omega) rfl
  | saddiLong h d a c =>
    cases he
    delta Instr.wf at hwf
    simp only [lt, Bool.and_eq_true, decide_eq_true_eq] at hwf
    obtain ⟨⟨⟨hh, hd⟩, ha⟩, hc⟩ := hwf
    rcases immOk_cases hh hc with ⟨dist, hdist, x, rfl, rfl⟩ | ⟨dist, guard, x, rfl, rfl, hfits⟩ |
      ⟨dist, guard, x, rfl, rfl, hfits⟩
    · refine decodeGroup_encBase hdist (.inr rfl) (by omega) fun r hop hw => ?_
      have hdf : bitsAt (d * 2 ^ 14 + a * 2 ^ 8) 14 6 = d := by simp only [bitsAt]; omega
      have haf : bitsAt (d * 2 ^ 14 + a * 2 ^ 8) 8 6 = a := by simp only [bitsAt]; omega
      have hlow : bitsAt (d * 2 ^ 14 + a * 2 ^ 8) 0 8 = 0 := by simp only [bitsAt]; omega
      unfold decodeBase
      rw [hop, hw.hdr, hw.bits 14 6 (by decide), hw.bits 8 6 (by decide), hw.bits 0 8 (by decide), hdf, haf, hlow, hw.lit]
      exact judge_ok rfl rfl rfl
    · refine decodeGroup_encExt (lit := none) hfits rfl (by constructor <;> omega) fun r hop hx => ?_
      unfold decodeExt
      rw [hop, hx]
      exact ext_ok (by simp [rsvBad, XF.isLit, Src.immBits, and_immAll x.isLt]) (by simp; omega) (by simp [Src.immBits])
    · refine decodeGroup_encExt (lit := some x) hfits rfl (by constructor <;> omega) fun r hop hx => ?_
      unfold decodeExt
      rw [hop, hx]
      exact ext_ok (by simp [rsvBad, Src.immBits]) (by simp; omega) rfl
  | slea h d a b sh c =>
    cases he
    delta Instr.wf at hwf
    simp only [lt, Bool.and_eq_true, decide_eq_true_eq] at hwf
    obtain ⟨⟨⟨⟨hh, hd⟩, ha⟩, hb⟩, hsh⟩ := hwf
    obtain ⟨hfits, hfs, hs, hnum⟩ := src_fits (by decide) hh hb
    refine decodeGroup_src hfits hs (by constructor <;> omega) fun r hop hx => ?_
    unfold decodeExt
    rw [hop, hx]
    refine ext_ok ?_ (by simp; omega) (by simp [hs.src, Nat.mod_eq_of_lt hsh])
    simpa [rsvBad, hfs, XF.isLit, and_seven hsh, and_immAll c.isLt] using hs.zero
  | ssel h d a t f =>
    cases he
    delta Instr.wf at hwf
    simp only [lt, Bool.and_eq_true, decide_eq_true_eq] at hwf
    obtain ⟨⟨⟨⟨hh, hd⟩, ha⟩, ht⟩, hf⟩ := hwf
    obtain ⟨hfits, hfs, hs, hnum⟩ := src_fits (by decide) hh hf
    refine decodeGroup_src hfits hs (by constructor <;> omega) fun r hop hx => ?_
    unfold decodeExt
    rw [hop, hx]
    refine ext_ok ?_ (by simp; omega) (by simp only [hs.src])
    simpa [rsvBad, hfs, XF.isLit] using hs.zero
  | sbfx h sg d a pos len =>
    cases he
    delta Instr.wf at hwf
    simp only [lt, Bool.and_eq_true, decide_eq_true_eq] at hwf
    obtain ⟨⟨⟨hh, hd⟩, ha⟩, hspan⟩ := hwf
    obtain ⟨hpos, hlen, hmask, hend⟩ := span_field (by decide) hspan
    cases sg
    all_goals
      refine decodeGroup_plain hh ⟨by decide, by decide, by omega, by omega, by decide, by decide⟩ fun hfs r hop hx => ?_
      unfold decodeExt
      rw [hop, hx]
      exact ext_ok (by simp [rsvBad, hfs, hmask]) (by simp [hpos, hlen]; omega) (by simp [hpos, hlen])
  | sbfi h d a pos len =>
    cases he
    delta Instr.wf at hwf
    simp only [lt, Bool.and_eq_true, decide_eq_true_eq] at hwf
    obtain ⟨⟨⟨hh, hd⟩, ha⟩, hspan⟩ := hwf
    obtain ⟨hpos, hlen, hmask, hend⟩ := span_field (by decide) hspan
    refine decodeGroup_plain hh (by constructor <;> omega) fun hfs r hop hx => ?_
    unfold decodeExt
    rw [hop, hx]
    exact ext_ok (by simp [rsvBad, hfs, hmask]) (by simp [hpos, hlen]; omega) (by simp [hpos, hlen])
  | sclz | spopc | sbrev | ballot =>
    cases he
    delta Instr.wf at hwf
    simp only [lt, Bool.and_eq_true, decide_eq_true_eq] at hwf
    refine decodeGroup_plain (ll := false) (by simp only [hwf]) (by constructor <;> omega) fun hfs r hop hx => ?_
    unfold decodeExt
    rw [hop, hx]
    exact ext_ok (by simp [rsvBad, hfs]) (by simp; omega) rfl
  | sreadsrExt h vec d sr =>
    cases he
    delta Instr.wf at hwf
    simp only [lt, Bool.and_eq_true] at hwf
    obtain ⟨⟨hh, hd⟩, hreg⟩ := hwf
    have hd' : d < 256 ∧ (vec = false → d < 64) := by cases vec <;> simp at hd ⊢ <;> omega
    have hvec := bit_lt vec
    refine decodeGroup_plain hh (by constructor <;> omega) fun hfs r hop hx => ?_
    unfold decodeExt
    rw [hop, hx]
    refine ext_ok (by simp [rsvBad, hfs, and_one hvec, and_immAll sr.isLt]) ?_ (by simp)
    simp [hreg]
    exact fun hv => by have := hd'.2 hv; omega
  | swritesrExt h a sr =>
    cases he
    delta Instr.wf at hwf
    simp only [lt, Bool.and_eq_true, decide_eq_true_eq] at hwf
    obtain ⟨⟨hh, ha⟩, hreg⟩ := hwf
    refine decodeGroup_plain hh (by constructor <;> omega) fun hfs r hop hx => ?_
    unfold decodeExt
    rw [hop, hx]
    exact ext_ok (by simp [rsvBad, hfs, and_immAll sr.isLt]) (by simp [hreg]; omega) (by simp)
  | scmp h rel sg d a b =>
    cases he
    delta Instr.wf at hwf
    simp only [lt, Bool.and_eq_true, decide_eq_true_eq] at hwf
    obtain ⟨⟨⟨hh, hd⟩, ha⟩, hb⟩ := hwf
    obtain ⟨-, hfits, hfs⟩ := ext23_fits hh
    obtain ⟨hform, hnum⟩ := cmpOk_fits (by decide) hb
    obtain ⟨hrel, hsub, hsg⟩ := relOf_code rel sg
    have himm := bit_lt b.isImm
    rw [encCmp, litBits_eq]
    refine decodeGroup_encExt hfits hform (by constructor <;> omega) fun r hop hx => ?_
    obtain ⟨hrsv, hsrc⟩ := cmp_field (mask := 1) b (hfs rfl) (.inl ⟨rfl, .inl rfl⟩)
    unfold decodeExt
    rw [hop, hx]
    refine Eq.trans (b := decodeScmp _) rfl ?_
    simp only [decodeScmp, hrel, hsub, if_true]
    exact ext_ok hrsv (by simp; omega) (by rw [hsg, hsrc])
  | shfl h m d a b c =>
    cases he
    delta Instr.wf at hwf
    simp only [lt, Bool.and_eq_true, decide_eq_true_eq] at hwf
    obtain ⟨⟨⟨hh, hd⟩, ha⟩, hbc⟩ := hwf
    cases m with
    | idx =>
      simp only [if_true, Bool.and_eq_true, decide_eq_true_eq, beq_iff_eq] at hbc
      obtain ⟨hb, rfl⟩ := hbc
      refine decodeGroup_plain hh ⟨by decide, by decide, hd, ha, hb, by decide⟩ fun hfs r hop hx => ?_
      unfold decodeExt
      rw [hop, hx]
      exact ext_ok (by simp [rsvBad, hfs]) rfl rfl
    | up | dn | xor =>
      simp only [reduceCtorEq, if_false, Bool.and_eq_true, decide_eq_true_eq, beq_iff_eq] at hbc
      obtain ⟨rfl, hc⟩ := hbc
      refine decodeGroup_plain hh ⟨by decide, by decide, hd, ha, by decide, by decide⟩ fun hfs r hop hx => ?_
      unfold decodeExt
      rw [hop, hx]
      exact ext_ok (by simp [rsvBad, hfs, and_sixtythree hc]) rfl (by simp [Nat.mod_eq_of_lt hc])
  | readlane h d a l | writelane h d a l =>
    cases he
    delta Instr.wf at hwf
    simp only [lt, Bool.and_eq_true, decide_eq_true_eq] at hwf
    obtain ⟨⟨⟨hh, hd⟩, ha⟩, hl⟩ := hwf
    obtain ⟨-, -, hfs⟩ := extOnly_fits hh
    obtain ⟨hnum, hrsv, hsrc⟩ := lane_field (g := h.guard.isSome) (d := d) (a := a) (hfs rfl) hl
    have himm := bit_lt l.isImm
    refine decodeGroup_plain hh (by constructor <;> omega) fun _ r hop hx => ?_
    unfold decodeExt
    rw [hop, hx]
    exact ext_ok hrsv (by simp; omega) (by rw [hsrc])
  | lred h op d a =>
    cases he
    delta Instr.wf at hwf
    simp only [lt, Bool.and_eq_true, decide_eq_true_eq] at hwf
    obtain ⟨⟨hh, hd⟩, ha⟩ := hwf
    have hcode := lredCode_lt op
    refine decodeGroup_plain hh (by constructor <;> omega) fun hfs r hop hx => ?_
    unfold decodeExt
    rw [hop, hx]
    cases op
    all_goals exact ext_ok (by simp [rsvBad, hfs]) (by simp; omega) rfl
  | qpush h q s =>
    cases he
    delta Instr.wf at hwf
    simp only [lt, Bool.and_eq_true, decide_eq_true_eq] at hwf
    obtain ⟨⟨hh, hq⟩, hs⟩ := hwf
    obtain ⟨hnum, hrsv, hsrc⟩ := pushed_field (h := h) (g := h.guard.isSome) (d := q) hs
    have himm := bit_lt s.isImm
    refine decodeGroup_plain hh (by constructor <;> omega) fun _ r hop hx => ?_
    unfold decodeExt
    rw [hop, hx]
    exact ext_ok hrsv (by simp; omega) (by rw [hsrc])
  | qpop h d q t =>
    cases he
    delta Instr.wf at hwf
    simp only [lt, Bool.and_eq_true, decide_eq_true_eq] at hwf
    obtain ⟨⟨⟨hh, hd⟩, hq⟩, ht⟩ := hwf
    have hsome := bit_lt t.isSome
    refine decodeGroup_plain hh (by constructor <;> omega) fun _ r hop hx => ?_
    unfold decodeExt
    rw [hop, hx]
    refine ext_ok ?_ (by simp; omega) ?_
    · cases t <;> simp [rsvBad, bit, bitAt]
    · cases t <;> simp [bit, bitAt]
  | _ => cases hch

end Sys2Proof.Proofs.Encodings
end

section
/-!
SUPPORT. The round trip of a group's vector integer instructions (R79 to R87).
-/

namespace Sys2Proof.Proofs.Encodings

open Sys2Proof
open Sys2Proof.Proofs.Fields
open Sys2Proof.Proofs.RhizoidWords (bit_lt bitAt_bit bitAt_bit_add_zero bitAt_bit_add_one)

/-! ### Operand fields of vector instructions -/

theorem v3Ok_fits {h : Hdr} {d a : Nat} {b : Src} (hok : v3Ok h d a b = true) :
    HdrFits h ∧ h.fs = false ∧ SrcFits h 256 b ∧ b.num < 256 ∧ d < 256 ∧ a < 256 := by
  simp only [v3Ok, lt, Bool.and_eq_true, decide_eq_true_eq] at hok
  obtain ⟨⟨⟨hh, hd⟩, ha⟩, hb⟩ := hok
  obtain ⟨hfits, hfs, hsrc, hnum⟩ := src_fits (by decide) hh hb
  exact ⟨hfits, hfs rfl, hsrc, hnum, hd, ha⟩

theorem v2Ok_fits {h : Hdr} {d : Nat} {a : Src} (hok : v2Ok h d a = true) :
    HdrFits h ∧ h.fs = false ∧ SrcFits h 256 a ∧ a.num < 256 ∧ d < 256 := by
  simp only [v2Ok, lt, Bool.and_eq_true, decide_eq_true_eq] at hok
  obtain ⟨⟨hh, hd⟩, ha⟩ := hok
  obtain ⟨hfits, hfs, hsrc, hnum⟩ := src_fits (by decide) hh ha
  exact ⟨hfits, hfs rfl, hsrc, hnum, hd⟩

/-- A vector binary form (R79, R80). -/
theorem extV3_ok {h : Hdr} {sub mod mods d a k : Nat} {g fld : Bool} {b : Src} {i : Nat → Nat → Src → Instr}
    (hfs : h.fs = false) (hs : SrcFits h k b) (hmod : mod &&& mods = mod) (hfld : fld = false) :
    extV3 ⟨h, litOf b, sub, false, g, mod, d, a, b.num, 0, 0⟩ mods fld i = .ok (i d a b) := by
  refine ext_ok ?_ hfld (by simp only [hs.src])
  simpa [rsvBad, hfs, XF.isLit, hmod] using hs.zero

theorem unary_rsv {h : Hdr} {sub mod mods d k : Nat} {g : Bool} {a : Src} (hfs : h.fs = false) (hs : SrcFits h k a)
    (hmod : mod &&& mods = mod) :
    rsvBad ⟨h, litOf a, sub, false, g, mod, d, a.num, 0, 0, 0⟩
      { a := !XF.isLit ⟨h, litOf a, sub, false, g, mod, d, a.num, 0, 0, 0⟩, b := false, mod := mods } = false := by
  simpa [rsvBad, hfs, XF.isLit, hmod] using hs.zero

/-- A vector unary form (R80). -/
theorem extV2_ok {h : Hdr} {sub mod mods d k : Nat} {g : Bool} {a : Src} {i : Nat → Src → Instr}
    (hfs : h.fs = false) (hs : SrcFits h k a) (hmod : mod &&& mods = mod) :
    extV2 ⟨h, litOf a, sub, false, g, mod, d, a.num, 0, 0, 0⟩ mods i = .ok (i d a) :=
  ext_ok (unary_rsv hfs hs hmod) rfl (by simp only [hs.src])

theorem extV2Sat_ok {h : Hdr} {sub d k : Nat} {g sat : Bool} {a : Src} {i : Nat → Src → Instr}
    (hfs : h.fs = false) (hs : SrcFits h k a) :
    extV2Sat ⟨h, litOf a, sub, false, g, bit sat, d, a.num, 0, 0, 0⟩ i = .ok (i d a) :=
  ext_ok (unary_rsv hfs hs (and_three (by have := bit_lt sat; omega))) (by cases sat <;> rfl) (by simp only [hs.src])

/-- `.sat` and `.n32` in MOD (R81). -/
theorem sat_field (sat n32 : Bool) : bit sat + bit n32 * 2 < 4 := by cases sat <;> cases n32 <;> decide

theorem sat_fld {sat n32 : Bool} (h : (sat || !n32) = true) :
    (bitAt (bit sat + bit n32 * 2) 1 && !bitAt (bit sat + bit n32 * 2) 0) = false := by
  revert h
  cases sat <;> cases n32 <;> decide

/-- A bit field of 32 bits (R86). -/
theorem span32_field {pos len : Nat} (h : fieldSpan 32 pos len = true) :
    bitsAt (pos + (len - 1) * 256) 0 5 = pos ∧ bitsAt (pos + (len - 1) * 256) 8 5 + 1 = len ∧
      (pos + (len - 1) * 256) &&& 0x1F1F = pos + (len - 1) * 256 ∧ pos + len ≤ 32 := by
  simp only [fieldSpan, lt, Bool.and_eq_true, decide_eq_true_eq] at h
  obtain ⟨⟨hpos, hone⟩, hlen⟩ := h
  have hmask := and_fields (lo := pos) (hi := len - 1) (m := 0x1F) (n := 0x1F) (k := 8) (by omega) (by decide)
  rw [and_thirtyone hpos, and_thirtyone (by omega)] at hmask
  simp only [bitsAt]
  exact ⟨by omega, by omega, hmask, hlen⟩

/-! ### The chapter -/

theorem vaddLong_roundTrips (h : Hdr) (sat n32 : Bool) (d a : Nat) (b : Src) :
    RoundTrips (.vaddLong h sat n32 d a b) := by
  intro r hwf he
  cases he
  delta Instr.wf at hwf
  simp only [v3LongOk, vreg, lt, Bool.and_eq_true, decide_eq_true_eq] at hwf
  obtain ⟨⟨⟨⟨⟨hh, hplain⟩, hd⟩, ha⟩, hb⟩, hsat⟩ := hwf
  rcases long_cases hh with ⟨dist, hdist, fs, rfl, hfs⟩ | ⟨hform, hext⟩
  · cases hfs rfl
    simp at hplain hd ha
    obtain ⟨rfl, rfl⟩ := hplain
    cases b with
    | reg | imm => simp [lastSrc] at hb
    | lit c =>
      refine decodeGroup_encBase hdist (.inr rfl) (by omega) fun r hop hw => ?_
      unfold decodeBase
      rw [hop, hw.hdr]
      exact base3R_lit_ok hd ha hw
  · obtain ⟨hfits, hfs, hsrc, hnum⟩ := src_fits (by decide) hext hb
    have hbounds : d < 256 ∧ a < 256 := by split_ifs at hd ha <;> omega
    have hmod := sat_field sat n32
    rw [encBin_ext hform]
    refine decodeGroup_src hfits hsrc (by constructor <;> omega) fun r hop hx => ?_
    unfold decodeExt
    rw [hop, hx]
    exact (extV3_ok (hfs rfl) hsrc (and_three hmod) (sat_fld hsat)).trans (by simp)

/-- The three ways of VADDI beyond its base form (R82; log entry 9). -/
theorem vaddiLong_roundTrips (h : Hdr) (d : Nat) (a c : Src) : RoundTrips (.vaddiLong h d a c) := by
  intro r hwf he
  cases he
  delta Instr.wf at hwf
  simp only [vreg, lt, Bool.and_eq_true, decide_eq_true_eq] at hwf
  obtain ⟨⟨hh, hd⟩, hac⟩ := hwf
  obtain ⟨hform, hfits, hfs, hguard⟩ := hdrOk_fits hh
  obtain ⟨form, dist, fs, guard⟩ := h
  cases hfs rfl
  cases form <;> cases a <;> cases c <;> simp at hac hd hform
  case baseLit.reg.lit n x =>
    have hnone : guard = none := by simpa using hguard
    subst hnone
    refine decodeGroup_encBase hfits.dist (.inr rfl) (by simp only [Src.num]; omega) fun r hop hw => ?_
    have hbase : BaseWord r .baseLit dist (d * 2 ^ 14 + n * 2 ^ 8) x := hw
    have hdf : bitsAt (d * 2 ^ 14 + n * 2 ^ 8) 14 6 = d := by simp only [bitsAt]; omega
    have haf : bitsAt (d * 2 ^ 14 + n * 2 ^ 8) 8 6 = n := by simp only [bitsAt]; omega
    have hlow : bitsAt (d * 2 ^ 14 + n * 2 ^ 8) 0 8 = 0 := by simp only [bitsAt]; omega
    unfold decodeBase
    rw [hop, hbase.hdr, hbase.bits 14 6 (by decide), hbase.bits 8 6 (by decide), hbase.bits 0 8 (by decide), hdf, haf,
      hlow, hbase.lit]
    exact judge_ok rfl rfl rfl
  case ext.reg.imm n x =>
    refine decodeGroup_encExt (lit := none) hfits rfl ⟨by decide, by decide, hd, hac, by decide, by decide⟩
      fun r hop hx => ?_
    unfold decodeExt
    rw [hop, hx]
    exact ext_ok (by simp [rsvBad, XF.isLit, Src.immBits, and_immAll x.isLt]) rfl (by simp [Src.immBits, XF.src, Src.num])
  case extLit.lit.imm y x =>
    refine decodeGroup_encExt (lit := some y) hfits rfl ⟨by decide, by decide, hd, Nat.zero_lt_succ 255, by decide, by decide⟩
      fun r hop hx => ?_
    unfold decodeExt
    rw [hop, hx]
    exact ext_ok (by simp [rsvBad, XF.isLit, Src.immBits, Src.num, and_immAll x.isLt]) rfl (by simp [Src.immBits, XF.src])

theorem vmoviLong_roundTrips (h : Hdr) (d : Nat) (c : Src) : RoundTrips (.vmoviLong h d c) := by
  intro r hwf he
  cases he
  delta Instr.wf at hwf
  simp only [vreg, lt, Bool.and_eq_true, decide_eq_true_eq] at hwf
  obtain ⟨⟨hh, hd⟩, hc⟩ := hwf
  rcases immOk_cases hh hc with ⟨dist, hdist, x, rfl, rfl⟩ | ⟨dist, guard, x, rfl, rfl, hfits⟩ |
    ⟨dist, guard, x, rfl, rfl, hfits⟩
  · simp only [reduceCtorEq, false_or, if_true] at hd
    refine decodeGroup_encBase hdist (.inr rfl) (by omega) fun r hop hw => ?_
    have hdf : bitsAt (d * 2 ^ 14) 14 6 = d := by simp only [bitsAt]; omega
    have hlow : bitsAt (d * 2 ^ 14) 0 14 = 0 := by simp only [bitsAt]; omega
    unfold decodeBase
    rw [hop, hw.hdr, hw.bits 14 6 (by decide), hw.bits 0 14 (by decide), hdf, hlow, hw.lit]
    exact judge_ok rfl rfl rfl
  · simp only [reduceCtorEq, or_self, if_false] at hd
    refine decodeGroup_encExt (lit := none) hfits rfl (by constructor <;> omega) fun r hop hx => ?_
    unfold decodeExt
    rw [hop, hx]
    exact ext_ok (by simp [rsvBad, XF.isLit, Src.immBits, and_immAll x.isLt]) rfl (by simp [Src.immBits])
  · simp only [reduceCtorEq, or_self, if_false] at hd
    refine decodeGroup_encExt (lit := some x) hfits rfl (by constructor <;> omega) fun r hop hx => ?_
    unfold decodeExt
    rw [hop, hx]
    exact ext_ok (by simp [rsvBad, Src.immBits]) rfl rfl

/-- Vector integer instructions. -/
theorem vector_roundTrips {i : Instr} (hch : chapterOf i = .vector) : RoundTrips i := by
  intro r hwf he
  cases i with
  | vadd h d a b =>
    cases he
    delta Instr.wf at hwf
    simp only [base3Ok, lt, Bool.and_eq_true, decide_eq_true_eq] at hwf
    obtain ⟨⟨⟨hh, hd⟩, ha⟩, hb⟩ := hwf
    obtain ⟨dist, hdist, rfl⟩ := baseOk_eq hh
    refine decodeGroup_encBase hdist (.inl rfl) (format3 hd ha hb).1 fun r hop hw => ?_
    unfold decodeBase
    rw [hop, hw.hdr]
    exact base3R_ok hd ha hb hw
  | vaddLong h sat n32 d a b => exact vaddLong_roundTrips h sat n32 d a b r hwf he
  | vaddiLong h d a c => exact vaddiLong_roundTrips h d a c r hwf he
  | vmoviLong h d c => exact vmoviLong_roundTrips h d c r hwf he
  | vsub h sat n32 d a b =>
    cases he
    obtain ⟨hok, hsat⟩ := (Bool.and_eq_true _ _).mp hwf
    obtain ⟨hh, hfs, hs, hb, hd, ha⟩ := v3Ok_fits hok
    have hmod := sat_field sat n32
    refine decodeGroup_src hh hs (by constructor <;> omega) fun r hop hx => ?_
    unfold decodeExt
    rw [hop, hx]
    exact (extV3_ok hfs hs (and_three hmod) (sat_fld hsat)).trans (by simp)
  | vmul h d a b | vand h d a b | vor h d a b | vxor h d a b | vandn h d a b | vshl h d a b | vshr h d a b
  | vsar h d a b =>
    cases he
    obtain ⟨hh, hfs, hs, hb, hd, ha⟩ := v3Ok_fits hwf
    refine decodeGroup_src hh hs (by constructor <;> omega) fun r hop hx => ?_
    unfold decodeExt
    rw [hop, hx]
    exact extV3_ok hfs hs rfl rfl
  | vmulh h sg d a b | vmin h sg d a b | vmax h sg d a b =>
    cases he
    obtain ⟨hh, hfs, hs, hb, hd, ha⟩ := v3Ok_fits hwf
    cases sg
    all_goals
      simp only [Bool.false_eq_true, if_true, if_false]
      refine decodeGroup_src hh hs (by constructor <;> omega) fun r hop hx => ?_
      unfold decodeExt
      rw [hop, hx]
      exact extV3_ok hfs hs rfl rfl
  | vmad h d a b c =>
    cases he
    delta Instr.wf at hwf
    simp only [lt, Bool.and_eq_true, decide_eq_true_eq] at hwf
    obtain ⟨⟨⟨⟨hh, hd⟩, ha⟩, hb⟩, hc⟩ := hwf
    obtain ⟨hfits, hfs, hs, hnum⟩ := src_fits (by decide) hh hc
    refine decodeGroup_src hfits hs (by constructor <;> omega) fun r hop hx => ?_
    unfold decodeExt
    rw [hop, hx]
    refine ext_ok ?_ rfl (by simp only [hs.src])
    simpa [rsvBad, hfs, XF.isLit] using hs.zero
  | vnot h d a | vmov h d a =>
    cases he
    obtain ⟨hh, hfs, hs, ha, hd⟩ := v2Ok_fits hwf
    refine decodeGroup_src hh hs (by constructor <;> omega) fun r hop hx => ?_
    unfold decodeExt
    rw [hop, hx]
    exact extV2_ok hfs hs rfl
  | vabs h sat d a | vneg h sat d a =>
    cases he
    obtain ⟨hh, hfs, hs, ha, hd⟩ := v2Ok_fits hwf
    have hsat := bit_lt sat
    refine decodeGroup_src hh hs (by constructor <;> omega) fun r hop hx => ?_
    unfold decodeExt
    rw [hop, hx]
    exact (extV2Sat_ok hfs hs).trans (by simp)
  | vmovs h hi d a =>
    cases he
    delta Instr.wf at hwf
    simp only [lt, Bool.and_eq_true, decide_eq_true_eq] at hwf
    obtain ⟨⟨hh, hd⟩, ha⟩ := hwf
    obtain ⟨hfits, hfs, hs, hnum⟩ := src_fits (by decide) hh ha
    have hhi := bit_lt hi
    refine decodeGroup_src hfits hs (by constructor <;> omega) fun r hop hx => ?_
    unfold decodeExt
    rw [hop, hx]
    exact ext_ok (unary_rsv (hfs rfl) hs (and_one hhi)) (by simp; omega) (by simp [hs.src])
  | vaddi h d a c =>
    cases he
    delta Instr.wf at hwf
    simp only [lt, Bool.and_eq_true, decide_eq_true_eq] at hwf
    obtain ⟨⟨⟨hh, hd⟩, ha⟩, hc⟩ := hwf
    obtain ⟨dist, hdist, rfl⟩ := baseOk_eq hh
    obtain ⟨hlow, hdf, haf, hcf⟩ := format8 c hd ha
    refine decodeGroup_encBase hdist (.inl rfl) hlow fun r hop hw => ?_
    unfold decodeBase
    rw [hop, hw.hdr, hw.bits 14 6 (by decide), hw.bits 8 6 (by decide), hw.bits 0 8 (by decide), hdf, haf, hcf]
    exact congrArg (fun x => Except.ok (Instr.vaddi _ d a x)) (sextNat_fieldOf (by decide) hc)
  | vmovi h d c =>
    cases he
    delta Instr.wf at hwf
    simp only [lt, Bool.and_eq_true, decide_eq_true_eq] at hwf
    obtain ⟨⟨hh, hd⟩, hc⟩ := hwf
    obtain ⟨dist, hdist, rfl⟩ := baseOk_eq hh
    obtain ⟨hlow, hdf, hcf⟩ := format14 c hd
    refine decodeGroup_encBase hdist (.inl rfl) hlow fun r hop hw => ?_
    unfold decodeBase
    rw [hop, hw.hdr, hw.bits 14 6 (by decide), hw.bits 0 14 (by decide), hdf, hcf]
    exact congrArg (fun x => Except.ok (Instr.vmovi _ d x)) (sextNat_fieldOf (by decide) hc)
  | vbfx h sg d a pos len =>
    cases he
    delta Instr.wf at hwf
    simp only [lt, Bool.and_eq_true, decide_eq_true_eq] at hwf
    obtain ⟨⟨⟨hh, hd⟩, ha⟩, hspan⟩ := hwf
    obtain ⟨hpos, hlen, hmask, hend⟩ := span32_field hspan
    cases sg
    all_goals
      refine decodeGroup_plain hh ⟨by decide, by decide, hd, ha, by decide, by decide⟩ fun hfs r hop hx => ?_
      unfold decodeExt
      rw [hop, hx]
      exact ext_ok (by simp [rsvBad, hfs, hmask]) (by simp [hpos, hlen]; omega) (by simp [hpos, hlen])
  | vbfi h d a pos len =>
    cases he
    delta Instr.wf at hwf
    simp only [lt, Bool.and_eq_true, decide_eq_true_eq] at hwf
    obtain ⟨⟨⟨hh, hd⟩, ha⟩, hspan⟩ := hwf
    obtain ⟨hpos, hlen, hmask, hend⟩ := span32_field hspan
    refine decodeGroup_plain hh (by constructor <;> omega) fun hfs r hop hx => ?_
    unfold decodeExt
    rw [hop, hx]
    exact ext_ok (by simp [rsvBad, hfs, hmask]) (by simp [hpos, hlen]; omega) (by simp [hpos, hlen])
  | vclz | vpopc | vbrev | visect =>
    cases he
    delta Instr.wf at hwf
    simp only [lt, Bool.and_eq_true, decide_eq_true_eq] at hwf
    refine decodeGroup_plain (ll := false) (by simp only [hwf]) (by constructor <;> omega) fun hfs r hop hx => ?_
    unfold decodeExt
    rw [hop, hx]
    exact ext_ok (by simp [rsvBad, hfs]) rfl rfl
  | vbmand | vsel =>
    cases he
    delta Instr.wf at hwf
    simp only [lt, Bool.and_eq_true, decide_eq_true_eq] at hwf
    refine decodeGroup_plain (ll := false) (by simp only [hwf]) (by constructor <;> omega) fun hfs r hop hx => ?_
    unfold decodeExt
    rw [hop, hx]
    exact ext_ok (by simp [rsvBad, hfs]) (by simp; omega) rfl
  | vprfx h incl d a b =>
    cases he
    delta Instr.wf at hwf
    simp only [lt, Bool.and_eq_true, decide_eq_true_eq] at hwf
    obtain ⟨⟨⟨hh, hd⟩, ha⟩, hb⟩ := hwf
    have hincl := bit_lt incl
    refine decodeGroup_plain hh (by constructor <;> omega) fun hfs r hop hx => ?_
    unfold decodeExt
    rw [hop, hx]
    exact ext_ok (by simp [rsvBad, hfs, and_one hincl]) (by simp; omega) (by simp)
  | vcmp h rel sg d a b =>
    cases he
    delta Instr.wf at hwf
    simp only [lt, Bool.and_eq_true, decide_eq_true_eq] at hwf
    obtain ⟨⟨⟨hh, hd⟩, ha⟩, hb⟩ := hwf
    obtain ⟨-, hfits, hfs⟩ := ext23_fits hh
    obtain ⟨hform, hnum⟩ := cmpOk_fits (by decide) hb
    obtain ⟨hrel, hsub, hsg⟩ := relOf_code rel sg
    have himm := bit_lt b.isImm
    rw [encCmp, litBits_eq]
    refine decodeGroup_encExt hfits hform (by constructor <;> omega) fun r hop hx => ?_
    obtain ⟨hrsv, hsrc⟩ := cmp_field (mask := 1) b (hfs rfl) (.inl ⟨rfl, .inl rfl⟩)
    unfold decodeExt
    rw [hop, hx]
    refine Eq.trans (b := decodeVcmp _) rfl ?_
    simp only [decodeVcmp, hrel, hsub, if_true]
    exact ext_ok hrsv (by simp; omega) (by rw [hsg, hsrc])
  | _ => cases hch

end Sys2Proof.Proofs.Encodings
end

section
/-!
SUPPORT. The round trip of a group's floating-point instructions and conversions (R89 to R100).
-/

namespace Sys2Proof.Proofs.Encodings

open Sys2Proof
open Sys2Proof.Proofs.Fields
open Sys2Proof.Proofs.RhizoidWords (bit_lt bitAt_bit)

/-! ### Operand fields of floating-point instructions -/

/-- A rounding mode in MOD (R42). -/
theorem rm_field (m : RMode) : rmCode m < 4 ∧ rmOf (rmCode m % 8) = m ∧ rmBad (rmCode m % 8) = false := by
  cases m <;> decide

/-- The class and the operation of a floating-point subop (R89, R90). -/
theorem fclsOf_div (f : FCls) {k : Nat} (hk : k < 8) : fclsOf ((8 * fclsCode f + k) / 8) = some f := by
  have hdiv : (8 * fclsCode f + k) / 8 = fclsCode f := by omega
  rw [hdiv]
  cases f <;> rfl

theorem fclsOf_div_zero (f : FCls) : fclsOf (8 * fclsCode f / 8) = some f := fclsOf_div f (k := 0) (by decide)

theorem fcls_mod (f : FCls) {k : Nat} (hk : k < 8) : (8 * fclsCode f + k) % 8 = k := by omega

theorem fclsCode_lt (f : FCls) : fclsCode f < 3 := by cases f <;> decide

theorem tyOf_code (t : Ty) : tyCode t < 14 ∧ tyOf (tyCode t) = some t := by cases t <;> decide

theorem elems_le (t : Ty) : elems t ≤ 8 := by cases t <;> decide

theorem frelCode_lt (rel : FRel) : frelCode rel < 8 := by
  cases rel with
  | rel q => cases q <;> decide
  | ord | unord => decide

/-- The class and the relation of a floating-point comparison (R91). -/
theorem decodeVfcmp_code {x : XF} (f : FCls) (rel : FRel) (hsub : x.sub = 8 * fclsCode f + frelCode rel) :
    decodeVfcmp x =
      ext x (cmpUses x 3) (decide (7 < x.d)) (.vfcmp x.h f rel (bitAt x.mod 1) x.d x.a (cmpSrc x)) := by
  rw [decodeVfcmp, hsub, fclsOf_div f (frelCode_lt rel), fcls_mod f (frelCode_lt rel)]
  cases rel with
  | rel q => cases q <;> rfl
  | ord | unord => rfl

/-- The type of a stochastic rounding or a quantisation (R96, R100). -/
theorem tyOf_div (t : Ty) : 16 * tyCode t < 256 ∧ 16 * tyCode t % 16 = 0 ∧ 16 * tyCode t / 16 = tyCode t := by
  have ht := (tyOf_code t).1
  omega

/-- The MOD bits that a conversion defines hold those that it sets (R94). -/
theorem cvt_mods {e p q sat satf : Bool} {m : RMode} (hm : (m == .rne || !e) = true) (hsat : (!sat || (p && q)) = true)
    (hsatf : (!satf || !p) = true) :
    (rmCode m + bit sat * 8 + bit satf * 16) &&&
        ((if e then 0 else 7) + (if p && q then 8 else 0) + (if p then 0 else 16)) =
      rmCode m + bit sat * 8 + bit satf * 16 := by
  revert e p q sat satf
  cases m <;> decide

theorem cvt_fields (m : RMode) (sat satf : Bool) : rmCode m + bit sat * 8 + bit satf * 16 < 32 ∧
    rmOf ((rmCode m + bit sat * 8 + bit satf * 16) % 8) = m ∧
    rmBad ((rmCode m + bit sat * 8 + bit satf * 16) % 8) = false ∧
    bitAt (rmCode m + bit sat * 8 + bit satf * 16) 3 = sat ∧ bitAt (rmCode m + bit sat * 8 + bit satf * 16) 4 = satf := by
  cases m <;> cases sat <;> cases satf <;> decide

/-- The element numbers of a conversion (R94). -/
theorem idx_fields {didx sidx : Nat} (hd : didx < 8) (hs : sidx < 8) : bitsAt (didx + sidx * 256) 0 3 = didx ∧
    bitsAt (didx + sidx * 256) 8 3 = sidx ∧ (didx + sidx * 256) &&& 0x707 = didx + sidx * 256 := by
  have hmask := and_fields (lo := didx) (hi := sidx) (m := 7) (n := 7) (k := 8) (by omega) (by decide)
  rw [and_seven hd, and_seven hs] at hmask
  simp only [bitsAt]
  exact ⟨by omega, by omega, hmask⟩

/-- An even register where a pair is named. -/
theorem even_fld {b : Bool} {n : Nat} (h : (!b || n % 2 == 0) = true) : (b && n % 2 == 1) = false := by
  cases b with
  | false => rfl
  | true =>
    simp only [Bool.not_true, Bool.false_or, beq_iff_eq] at h
    simp [h]

/-! ### The chapter -/

theorem vfaddLong_roundTrips (h : Hdr) (f : FCls) (m : RMode) (d a : Nat) (b : Src) :
    RoundTrips (.vfaddLong h f m d a b) := by
  intro r hwf he
  cases he
  delta Instr.wf at hwf
  simp only [v3LongOk, vreg, lt, Bool.and_eq_true, decide_eq_true_eq] at hwf
  obtain ⟨⟨⟨⟨hh, hplain⟩, hd⟩, ha⟩, hb⟩ := hwf
  rcases long_cases hh with ⟨dist, hdist, fs, rfl, hfs⟩ | ⟨hform, hext⟩
  · cases hfs rfl
    simp at hplain hd ha
    obtain ⟨rfl, rfl⟩ := hplain
    cases b with
    | reg | imm => simp [lastSrc] at hb
    | lit c =>
      refine decodeGroup_encBase hdist (.inr rfl) (by omega) fun r hop hw => ?_
      unfold decodeBase
      rw [hop, hw.hdr]
      exact base3R_lit_ok hd ha hw
  · obtain ⟨hfits, hfs, hsrc, hnum⟩ := src_fits (by decide) hext hb
    have hbounds : d < 256 ∧ a < 256 := by split_ifs at hd ha <;> omega
    obtain ⟨hm, hrm, hbad⟩ := rm_field m
    rw [encBin_ext hform]
    have hf := fclsCode_lt f
    refine decodeGroup_src hfits hsrc (by constructor <;> omega) fun r hop hx => ?_
    unfold decodeExt
    rw [hop, hx]
    refine Eq.trans (b := decodeVfalu _) rfl ?_
    simp only [decodeVfalu, fclsOf_div_zero, Nat.mul_mod_right]
    exact Eq.trans (extV3_ok (hfs rfl) hsrc (and_seven (hm.trans (by decide))) hbad) (by rw [hrm])

/-- The three ways of VFMA beyond its base form (R90). -/
theorem vfmaLong_roundTrips (h : Hdr) (f : FCls) (m : RMode) (d a : Nat) (b c : Src) :
    RoundTrips (.vfmaLong h f m d a b c) := by
  intro r hwf he
  cases he
  delta Instr.wf at hwf
  simp only [vreg, lt, Bool.and_eq_true, decide_eq_true_eq] at hwf
  obtain ⟨⟨⟨hh, hd⟩, ha⟩, hbc⟩ := hwf
  obtain ⟨hform, hfits, hfs, hguard⟩ := hdrOk_fits hh
  obtain ⟨form, dist, fs, guard⟩ := h
  cases hfs rfl
  obtain ⟨hm, hrm, hbad⟩ := rm_field m
  cases form <;> cases b <;> cases c <;> simp at hbc hd ha hform
  case baseLit.lit.reg x n =>
    obtain ⟨⟨rfl, rfl⟩, rfl⟩ := hbc
    have hnone : guard = none := by simpa using hguard
    subst hnone
    refine decodeGroup_encBase hfits.dist (.inr rfl) (by omega) fun r hop hw => ?_
    unfold decodeBase
    rw [hop, hw.hdr]
    exact base3R_lit_ok (k := fun h d a b => .vfmaLong h .f32 .rne d a b (.reg d)) hd ha hw
  case ext.reg.reg n k =>
    have hf := fclsCode_lt f
    refine decodeGroup_encExt (lit := none) hfits rfl ⟨by omega, by omega, hd, ha, hbc.1, hbc.2⟩ fun r hop hx => ?_
    unfold decodeExt
    rw [hop, hx]
    refine Eq.trans (b := decodeVfma _) rfl ?_
    simp only [decodeVfma, fclsOf_div_zero, Nat.mul_mod_right]
    exact ext_ok (by simp [rsvBad, XF.isLit, and_seven (hm.trans (by decide))]) hbad (by rw [hrm]; rfl)
  case extLit.reg.lit n x =>
    have hf := fclsCode_lt f
    refine decodeGroup_encExt (lit := some x) hfits rfl ⟨by omega, by omega, hd, ha, hbc, Nat.zero_lt_succ 255⟩
      fun r hop hx => ?_
    unfold decodeExt
    rw [hop, hx]
    refine Eq.trans (b := decodeVfma _) rfl ?_
    simp only [decodeVfma, fclsOf_div_zero, Nat.mul_mod_right]
    exact ext_ok (by simp [rsvBad, XF.isLit, Src.num, and_seven (hm.trans (by decide))]) hbad (by rw [hrm]; rfl)

theorem vcvt_roundTrips (h : Hdr) (dt st : Ty) (m : RMode) (sat satf : Bool) (d a sidx didx : Nat) :
    RoundTrips (.vcvt h dt st m sat satf d a sidx didx) := by
  intro r hwf he
  cases he
  delta Instr.wf at hwf
  simp only [lt, Bool.and_eq_true, decide_eq_true_eq, bne_iff_ne] at hwf
  obtain ⟨⟨⟨⟨⟨⟨⟨⟨⟨⟨hh, hd⟩, ha⟩, hne⟩, hm⟩, hsat⟩, hsatf⟩, hsidx⟩, hdidx⟩, hdodd⟩, hsodd⟩ := hwf
  obtain ⟨hdt, hdty⟩ := tyOf_code dt
  obtain ⟨hst, hsty⟩ := tyOf_code st
  have hdel := elems_le dt
  have hsel := elems_le st
  obtain ⟨hmod, hrm, hbad, hsatb, hsatfb⟩ := cvt_fields m sat satf
  obtain ⟨hdf, hsf, hmask⟩ := idx_fields (didx := didx) (sidx := sidx) (by omega) (by omega)
  have hdiv : (16 * tyCode dt + tyCode st) / 16 = tyCode dt := by omega
  have hrem : (16 * tyCode dt + tyCode st) % 16 = tyCode st := by omega
  refine decodeGroup_plain hh (by constructor <;> omega) fun hfs r hop hx => ?_
  unfold decodeExt
  rw [hop, hx]
  refine Eq.trans (b := decodeVcvt _) rfl ?_
  simp only [decodeVcvt, hdiv, hrem, hdty, hsty, if_neg hne]
  refine ext_ok ?_ ?_ (by rw [hrm, hsatb, hsatfb, hdf, hsf])
  · have hmods : Nat.land _ _ = _ := cvt_mods hm hsat hsatf
    have himm : Nat.land (didx + sidx * 256) 0x707 = _ := hmask
    simp only [rsvBad, hmods, himm, hfs rfl, bne_self_eq_false, Bool.and_false, Bool.or_false, Bool.not_true,
      Bool.false_and]
  · simp only [hbad, hdf, hsf, Bool.and_false, Bool.false_or, Bool.or_eq_false_iff, decide_eq_false_iff_not]
    exact ⟨⟨by omega, by omega⟩, even_fld hdodd, even_fld hsodd⟩

/-- Floating-point instructions and conversions. -/
theorem float_roundTrips {i : Instr} (hch : chapterOf i = .float) : RoundTrips i := by
  intro r hwf he
  cases i with
  | vfadd h d a b | vfma h d a b =>
    cases he
    delta Instr.wf at hwf
    simp only [base3Ok, lt, Bool.and_eq_true, decide_eq_true_eq] at hwf
    obtain ⟨⟨⟨hh, hd⟩, ha⟩, hb⟩ := hwf
    obtain ⟨dist, hdist, rfl⟩ := baseOk_eq hh
    refine decodeGroup_encBase hdist (.inl rfl) (format3 hd ha hb).1 fun r hop hw => ?_
    unfold decodeBase
    rw [hop, hw.hdr]
    exact base3R_ok hd ha hb hw
  | vfaddLong h f m d a b => exact vfaddLong_roundTrips h f m d a b r hwf he
  | vfmaLong h f m d a b c => exact vfmaLong_roundTrips h f m d a b c r hwf he
  | vcvt h dt st m sat satf d a sidx didx => exact vcvt_roundTrips h dt st m sat satf d a sidx didx r hwf he
  | vfsub h f m d a b | vfmul h f m d a b =>
    cases he
    obtain ⟨hh, hfs, hs, hb, hd, ha⟩ := v3Ok_fits hwf
    obtain ⟨hm, hrm, hbad⟩ := rm_field m
    have hf := fclsCode_lt f
    refine decodeGroup_src hh hs (by constructor <;> omega) fun r hop hx => ?_
    unfold decodeExt
    rw [hop, hx]
    refine Eq.trans (b := decodeVfalu _) rfl ?_
    simp (disch := decide) only [decodeVfalu, fclsOf_div, fcls_mod]
    exact Eq.trans (extV3_ok hfs hs (and_seven (hm.trans (by decide))) hbad) (by rw [hrm])
  | vfmin h f d a b | vfmax h f d a b =>
    cases he
    obtain ⟨hh, hfs, hs, hb, hd, ha⟩ := v3Ok_fits hwf
    have hf := fclsCode_lt f
    refine decodeGroup_src hh hs (by constructor <;> omega) fun r hop hx => ?_
    unfold decodeExt
    rw [hop, hx]
    refine Eq.trans (b := decodeVfalu _) rfl ?_
    simp (disch := decide) only [decodeVfalu, fclsOf_div, fcls_mod]
    exact extV3_ok hfs hs rfl rfl
  | vfabs h f d a | vfneg h f d a =>
    cases he
    obtain ⟨hh, hfs, hs, ha, hd⟩ := v2Ok_fits hwf
    have hf := fclsCode_lt f
    refine decodeGroup_src hh hs (by constructor <;> omega) fun r hop hx => ?_
    unfold decodeExt
    rw [hop, hx]
    refine Eq.trans (b := decodeVfalu _) rfl ?_
    simp (disch := decide) only [decodeVfalu, fclsOf_div, fcls_mod]
    exact extV2_ok hfs hs rfl
  | vfms h f m d a b c | vfnma h f m d a b c =>
    cases he
    delta Instr.wf at hwf
    simp only [lt, Bool.and_eq_true, decide_eq_true_eq] at hwf
    obtain ⟨⟨⟨⟨hh, hd⟩, ha⟩, hb⟩, hc⟩ := hwf
    obtain ⟨hfits, hfs, hs, hnum⟩ := src_fits (by decide) hh hc
    obtain ⟨hm, hrm, hbad⟩ := rm_field m
    cases b with
    | imm | lit => cases hb
    | reg n =>
      have hn : n < 256 := of_decide_eq_true hb
      have hf := fclsCode_lt f
      refine decodeGroup_src hfits hs ⟨by omega, by omega, hd, ha, hn, hnum⟩ fun r hop hx => ?_
      unfold decodeExt
      rw [hop, hx]
      refine Eq.trans (b := decodeVfma _) rfl ?_
      simp (disch := decide) only [decodeVfma, fclsOf_div, fcls_mod]
      refine ext_ok ?_ hbad (by rw [hrm, hs.src _ rfl]; rfl)
      simpa [rsvBad, hfs, XF.isLit, and_seven (hm.trans (by decide))] using hs.zero
  | vfcmp h f rel hi d a b =>
    cases he
    delta Instr.wf at hwf
    simp only [lt, Bool.and_eq_true, decide_eq_true_eq] at hwf
    obtain ⟨⟨⟨hh, hd⟩, ha⟩, hb⟩ := hwf
    obtain ⟨-, hfits, hfs⟩ := ext23_fits hh
    obtain ⟨hform, hnum⟩ := cmpOk_fits (by decide) hb
    have hf := fclsCode_lt f
    have hrel := frelCode_lt rel
    have himm := bit_lt b.isImm
    have hhi := bit_lt hi
    rw [encCmp, litBits_eq]
    refine decodeGroup_encExt hfits hform (by constructor <;> omega) fun r hop hx => ?_
    have hmods : bit hi * 2 = 0 ∧ (3 = 1 ∨ 3 = 3) ∨ bit hi * 2 = 2 ∧ 3 = 3 := by cases hi <;> decide
    obtain ⟨hrsv, hsrc⟩ := cmp_field b (hfs rfl) hmods
    have hhif : bitAt (bit hi * 2 + bit b.isImm) 1 = hi := by cases hi <;> cases b.isImm <;> rfl
    unfold decodeExt
    rw [hop, hx]
    refine Eq.trans (decodeVfcmp_code f rel rfl) ?_
    exact ext_ok hrsv (by simp; omega) (by rw [hhif, hsrc])
  | vrcp | vrsq | vsqrt | vexp2 | vlog2 | vsin | vcos | vtanh | vsigm | verf =>
    cases he
    delta Instr.wf at hwf
    simp only [lt, Bool.and_eq_true, decide_eq_true_eq] at hwf
    refine decodeGroup_plain (ll := true) (by simp only [hwf]) (by constructor <;> omega) fun _ r hop hx => ?_
    unfold decodeExt
    rw [hop, hx]
    exact ext_ok (by simp [rsvBad]) rfl rfl
  | vcvtsr h dt satf d a b didx =>
    cases he
    delta Instr.wf at hwf
    simp only [lt, Bool.and_eq_true, decide_eq_true_eq, Bool.or_eq_true, beq_iff_eq] at hwf
    obtain ⟨⟨⟨⟨⟨hh, hd⟩, ha⟩, hb⟩, hidx⟩, hdt⟩ := hwf
    have hel := elems_le dt
    have hsatf := bit_lt satf
    have hdf : bitsAt didx 0 3 = didx := by simp only [bitsAt]; omega
    have hmask : bit satf * 16 &&& 16 = bit satf * 16 ∧ bitAt (bit satf * 16) 4 = satf := by cases satf <;> decide
    obtain ⟨hsub, hrem, hdiv⟩ := tyOf_div dt
    have hcond : 1 ≤ tyCode dt ∧ tyCode dt ≤ 5 := by rcases hdt with (((rfl | rfl) | rfl) | rfl) | rfl <;> decide
    refine decodeGroup_plain hh (by constructor <;> omega) fun hfs r hop hx => ?_
    unfold decodeExt
    rw [hop, hx]
    refine Eq.trans (b := decodeVcvtsr _) rfl ?_
    simp only [decodeVcvtsr, hrem, hdiv, hcond, and_self, if_true, tyOf_code dt]
    exact ext_ok (by simp [rsvBad, hfs, hmask, and_seven (hidx.trans_le hel)]) (by simp [hdf, hidx])
      (by rw [hdf, hmask.2])
  | rngfill h d n =>
    cases he
    delta Instr.wf at hwf
    simp only [lt, Bool.and_eq_true, decide_eq_true_eq] at hwf
    obtain ⟨⟨⟨hh, hd⟩, hone⟩, hn⟩ := hwf
    refine decodeGroup_plain hh (by constructor <;> omega) fun hfs r hop hx => ?_
    have hn' : (n - 1) % 4 + 1 = n := by omega
    unfold decodeExt
    rw [hop, hx]
    exact ext_ok (by simp [rsvBad, hfs, and_three (show n - 1 < 4 by omega)]) rfl (by rw [hn'])
  | scalecalc h g d a b c =>
    cases he
    delta Instr.wf at hwf
    simp only [lt, Bool.and_eq_true, decide_eq_true_eq] at hwf
    obtain ⟨⟨⟨hh, hd⟩, ha⟩, hbc⟩ := hwf
    have hg := bit_lt g
    have hbc' : b < 64 ∧ c < 64 ∧ (g = false → b = 0) ∧ (g = true → c = 0) := by cases g <;> simp at hbc <;> simp [hbc]
    obtain ⟨hb, hc, hgb, hgc⟩ := hbc'
    refine decodeGroup_plain hh (by constructor <;> omega) fun _ r hop hx => ?_
    unfold decodeExt
    rw [hop, hx]
    exact ext_ok (by simpa [rsvBad, and_one hg] using ⟨hgb, hgc⟩) (by simp; omega) (by simp)
  | vquant h dt m d a b c didx =>
    cases he
    delta Instr.wf at hwf
    simp only [lt, Bool.and_eq_true, decide_eq_true_eq, Bool.or_eq_true, beq_iff_eq] at hwf
    obtain ⟨⟨⟨⟨⟨⟨hh, hd⟩, ha⟩, hb⟩, hc⟩, hidx⟩, hdt⟩ := hwf
    have hel := elems_le dt
    obtain ⟨hm, hrm, hbad⟩ := rm_field m
    have hdf : bitsAt didx 0 3 = didx := by simp only [bitsAt]; omega
    obtain ⟨hsub, hrem, hdiv⟩ := tyOf_div dt
    have hcond : tyCode dt = 3 ∨ tyCode dt = 4 ∨ tyCode dt = 5 ∨ tyCode dt = 8 ∨ tyCode dt = 10 := by
      rcases hdt with (((rfl | rfl) | rfl) | rfl) | rfl <;> decide
    refine decodeGroup_plain hh (by constructor <;> omega) fun hfs r hop hx => ?_
    unfold decodeExt
    rw [hop, hx]
    refine Eq.trans (b := decodeVquant _) rfl ?_
    simp only [decodeVquant, hrem, hdiv, hcond, and_self, if_true, tyOf_code dt]
    exact ext_ok (by simp [rsvBad, hfs, and_seven (hm.trans (by decide)), and_seven (hidx.trans_le hel)])
      (by simp [hbad, hdf, hidx]; omega) (by rw [hrm, hdf])
  | _ => cases hch

end Sys2Proof.Proofs.Encodings
end

section
/-!
SUPPORT. The forms of memory accesses, and the round trip of those beyond the short ones (R103 to R115).
-/

namespace Sys2Proof.Proofs.Encodings

open Sys2Proof
open Sys2Proof.Proofs.Fields
open Sys2Proof.Proofs.RhizoidWords (bit_lt bitAt_bit)

/-! ### Base memory forms (R10) -/

/-- The fields of a base memory word: two registers, an offset of 7 bits and FS. -/
theorem format7 {d a f : Nat} (fs : Bool) (hd : d < 64) (ha : a < 64) (hf : f < 128) :
    d * 2 ^ 14 + a * 2 ^ 8 + f * 2 + bit fs < 2 ^ 20 ∧ bitsAt (d * 2 ^ 14 + a * 2 ^ 8 + f * 2 + bit fs) 14 6 = d ∧
      bitsAt (d * 2 ^ 14 + a * 2 ^ 8 + f * 2 + bit fs) 8 6 = a ∧
      bitsAt (d * 2 ^ 14 + a * 2 ^ 8 + f * 2 + bit fs) 1 7 = f ∧
      bitAt (d * 2 ^ 14 + a * 2 ^ 8 + f * 2 + bit fs) 0 = fs := by
  have hfs := bit_lt fs
  refine ⟨by omega, ?_, ?_, ?_, bitAt_bits 0 (by omega)⟩ <;> simp only [bitsAt] <;> omega

/-- An offset that a scaled field holds comes back from it. -/
theorem scaled_offset {n k : Nat} {off : Int} (hmod : off % k = 0) (hfit : sfit (n + 1) (off / k) = true) :
    k * sextNat (n + 1) (fieldOf (n + 1) (off / k)) = off := by
  rw [sextNat_fieldOf n.succ_pos hfit]
  exact Int.mul_ediv_cancel' (Int.dvd_of_emod_eq_zero hmod)

section
variable {r : Raw} {dist d a : Nat} {fs : Bool} {lit : BitVec 64} (hd : d < 64) (ha : a < 64)
include hd ha

theorem baseRM_short_ok {pair : Bool} {off : Int} {short : Hdr → Nat → MemArg → Instr}
    {long : Hdr → SizeCode → Ord → Nat → MemArg → Instr} (hpair : (pair && a % 2 == 1) = false) (hmod : off % 4 = 0)
    (hfit : sfit 9 off = true)
    (hw : BaseWord r .base dist (d * 2 ^ 14 + a * 2 ^ 8 + fieldOf 7 (off / 4) * 2 + bit fs) lit) :
    baseRM r pair short long = .ok (short ⟨.base, dist, fs, none⟩ d ⟨.v, 0, .reg a, 0, off⟩) := by
  obtain ⟨-, hdf, haf, hof, hfs⟩ := format7 fs hd ha (fieldOf_lt 7 (off / 4))
  have hsmall : sfit 7 (off / 4) = true := by
    simp only [sfit, decide_eq_true_eq] at hfit ⊢
    omega
  have hoff : 4 * sextNat 7 (fieldOf 7 (off / 4)) = off := scaled_offset (k := 4) hmod hsmall
  rw [baseRM, hw.hdr, hw.bits _ _ (by decide), hw.bits _ _ (by decide), hw.bits _ _ (by decide), hw.bit _ (by decide),
    hdf, haf, hof, hfs, hpair, hoff]
  exact judge_ok rfl rfl rfl

theorem baseRM_long_ok {pair : Bool} {short : Hdr → Nat → MemArg → Instr}
    {long : Hdr → SizeCode → Ord → Nat → MemArg → Instr} (hpair : (pair && a % 2 == 1) = false)
    (hw : BaseWord r .baseLit dist (d * 2 ^ 14 + a * 2 ^ 8 + bit fs) lit) :
    baseRM r pair short long =
      .ok (long ⟨.baseLit, dist, fs, none⟩ .b32 ⟨0, 0⟩ d ⟨.v, 0, .reg a, 0, lit.toInt⟩) := by
  obtain ⟨-, hdf, haf, hof, hfs⟩ := format7 (f := 0) fs hd ha (by decide)
  simp only [Nat.zero_mul, Nat.add_zero] at hdf haf hof hfs
  rw [baseRM, hw.hdr, hw.bits _ _ (by decide), hw.bits _ _ (by decide), hw.bits _ _ (by decide), hw.bit _ (by decide),
    hw.lit, hdf, haf, hof, hfs, hpair]
  exact judge_ok rfl rfl rfl

theorem baseRMU_short_ok {off : Int} {short : Hdr → Nat → Nat → Int → Instr}
    {long : Hdr → SizeCode → Ord → Nat → Src → Int → Instr} (hmod : off % 8 = 0) (hfit : sfit 10 off = true)
    (hw : BaseWord r .base dist (d * 2 ^ 14 + a * 2 ^ 8 + fieldOf 7 (off / 8) * 2 + bit fs) lit) :
    baseRMU r short long = .ok (short ⟨.base, dist, fs, none⟩ d a off) := by
  obtain ⟨-, hdf, haf, hof, hfs⟩ := format7 fs hd ha (fieldOf_lt 7 (off / 8))
  have hsmall : sfit 7 (off / 8) = true := by
    simp only [sfit, decide_eq_true_eq] at hfit ⊢
    omega
  have hoff : 8 * sextNat 7 (fieldOf 7 (off / 8)) = off := scaled_offset (k := 8) hmod hsmall
  rw [baseRMU, hw.hdr, hw.bits _ _ (by decide), hw.bits _ _ (by decide), hw.bits _ _ (by decide), hw.bit _ (by decide),
    hdf, haf, hof, hfs, hoff]
  rfl

theorem baseRMU_long_ok {short : Hdr → Nat → Nat → Int → Instr} {long : Hdr → SizeCode → Ord → Nat → Src → Int → Instr}
    (hw : BaseWord r .baseLit dist (d * 2 ^ 14 + a * 2 ^ 8 + bit fs) lit) :
    baseRMU r short long = .ok (long ⟨.baseLit, dist, fs, none⟩ .b64 ⟨0, 0⟩ d (.reg a) lit.toInt) := by
  obtain ⟨-, hdf, haf, hof, hfs⟩ := format7 (f := 0) fs hd ha (by decide)
  simp only [Nat.zero_mul, Nat.add_zero] at hdf haf hof hfs
  rw [baseRMU, hw.hdr, hw.bits _ _ (by decide), hw.bits _ _ (by decide), hw.bits _ _ (by decide), hw.bit _ (by decide),
    hw.lit, hdf, haf, hof, hfs]
  exact judge_ok rfl rfl rfl

end

/-- An offset of 64 bits comes back from the literal. -/
theorem offset_literal {off : Int} (hfit : sfit 64 off = true) : (BitVec.ofInt 64 off).toInt = off := by
  simp only [sfit, decide_eq_true_eq] at hfit
  rw [BitVec.toInt_ofInt]
  exact Int.bmod_eq_of_le (by omega) (by omega)

theorem baseHdr_eq {h : Hdr} (hok : hdrOk h [.base] true = true) (hg : h.guard.isNone = true) :
    ∃ dist < 8, ∃ fs, h = ⟨.base, dist, fs, none⟩ := by
  obtain ⟨hform, hfits, -, -⟩ := hdrOk_fits hok
  obtain ⟨form, dist, fs, guard⟩ := h
  cases List.mem_singleton.mp hform
  cases Option.isNone_iff_eq_none.mp hg
  exact ⟨dist, hfits.dist, fs, rfl⟩

/-- The short forms of LD, ST, LDA and STA (R10, R104). -/
theorem rmShort_cases {h : Hdr} {pair : Bool} {d : Nat} {m : MemArg} (hok : rmShortOk h pair d m = true) :
    ∃ dist < 8, ∃ fs a off, h = ⟨.base, dist, fs, none⟩ ∧ m = ⟨.v, 0, .reg a, 0, off⟩ ∧ d < 64 ∧ a < 64 ∧
      (pair && a % 2 == 1) = false ∧ off % 4 = 0 ∧ sfit 9 off = true := by
  simp only [rmShortOk, lt, Bool.and_eq_true, decide_eq_true_eq] at hok
  obtain ⟨⟨⟨hh, hg⟩, hd⟩, hm⟩ := hok
  obtain ⟨dist, hdist, fs, rfl⟩ := baseHdr_eq hh hg
  split at hm
  case h_2 => cases hm
  case h_1 a off =>
    simp only [Bool.and_eq_true, decide_eq_true_eq, beq_iff_eq] at hm
    obtain ⟨⟨⟨ha, hpair⟩, hmod⟩, hfit⟩ := hm
    refine ⟨dist, hdist, fs, a, off, rfl, rfl, hd, ha, ?_, hmod, hfit⟩
    cases pair with
    | false => rfl
    | true =>
      simp only [Bool.not_true, Bool.false_or, beq_iff_eq] at hpair
      simp [hpair]

/-! ### Extended memory forms (R103 to R107) -/

theorem sizeOf_code (z : SizeCode) : sizeOf (sizeCode z) = some z ∧ sizeCode z < 7 := by cases z <;> decide

theorem amCode_lt (m : AMode) : amCode m < 3 := by cases m <;> decide

/-- AM, the shift and ORD in MOD (R103). -/
theorem mem_mods {am sh o : Nat} (ham : am < 4) (hsh : sh < 4) (ho : o < 4) : am + sh * 4 + o * 16 < 64 ∧
    (am + sh * 4 + o * 16) % 4 = am ∧ bitsAt (am + sh * 4 + o * 16) 2 2 = sh ∧ bitsAt (am + sh * 4 + o * 16) 4 2 = o := by
  simp only [bitsAt]
  omega

/-- The scope code is zero where the access has no scope (R107). -/
theorem scope_field {o : Ord} {k : Nat} (hk : k ≤ 4)
    (h : (if o.code = 1 then decide (o.scope < k) else o.scope == 0) = true) :
    o.scope < 4 ∧ (⟨o.code, if o.code = 1 then o.scope % 4 else 0⟩ : Ord) = o ∧ (o.code ≠ 1 → o.scope = 0) ∧
      (o.code = 1 → o.scope < k) := by
  obtain ⟨code, scope⟩ := o
  by_cases hcode : code = 1
  · simp only [hcode, if_true, decide_eq_true_eq] at h
    simp [hcode, h]
    omega
  · simp only [hcode, if_false, beq_iff_eq] at h
    simp [hcode, h]

/-- The address operands that an extended lane access may have, by its addressing mode (R104, R105). -/
def LaneArg (h : Hdr) (abuf : Bool) (m : MemArg) : Prop :=
  (m.mode = .v ∧ m.sh = 0 ∧ m.idx = 0 ∧ SrcFits h 256 m.base ∧ ∃ a, m.base = .reg a ∧ (!abuf && a % 2 == 1) = false) ∨
    (m.mode = .sv ∧ m.sh < 4 ∧ m.idx < 256 ∧ SrcFits h 64 m.base) ∨
    m.mode = .sl ∧ m.sh = 0 ∧ m.idx = 0 ∧ SrcFits h 64 m.base

theorem LaneArg.bounds {h : Hdr} {abuf : Bool} {m : MemArg} (harg : LaneArg h abuf m) :
    ExtForm h (litOf m.base) ∧ m.base.num < 256 ∧ m.idx < 256 ∧ m.sh < 4 := by
  rcases harg with ⟨-, hsh, hidx, hs, -⟩ | ⟨-, hsh, hidx, hs⟩ | ⟨-, hsh, hidx, hs⟩ <;>
    exact ⟨hs.form, by have := hs.num; omega, by omega, by omega⟩

/-- What an extended lane access that the encoding admits has (R103 to R107, R112). -/
structure LaneFits (h : Hdr) (store abuf : Bool) (z : SizeCode) (o : Ord) (d : Nat) (m : MemArg) : Prop where
  hdr : HdrFits h
  size : (store && !storeSize z) = false
  reg : d < 256
  regs : d % regsOfSize z = 0
  off : sfit 32 m.off = true
  code : o.code < 3
  order : (o.code == 2 && (store || abuf)) = false
  scope : (if o.code = 1 then decide (o.scope < if abuf then 2 else 4) else o.scope == 0) = true
  arg : LaneArg h abuf m

theorem pair_even {b : Bool} {n : Nat} (h : (b || n % 2 == 0) = true) : (!b && n % 2 == 1) = false :=
  even_fld (by rwa [Bool.not_not])

/-- The forms of LD, ST, LDA and STA beyond the short one. -/
theorem rmLong_cases {h : Hdr} {store abuf : Bool} {z : SizeCode} {o : Ord} {d : Nat} {m : MemArg}
    (hok : rmLongOk h store abuf z o d m = true) :
    (∃ dist < 8, ∃ fs a off, h = ⟨.baseLit, dist, fs, none⟩ ∧ z = .b32 ∧ o = ⟨0, 0⟩ ∧ m = ⟨.v, 0, .reg a, 0, off⟩ ∧
      d < 64 ∧ a < 64 ∧ (!abuf && a % 2 == 1) = false ∧ sfit 64 off = true) ∨
      h.form ≠ .baseLit ∧ LaneFits h store abuf z o d m := by
  simp only [rmLongOk, Bool.and_eq_true, beq_iff_eq] at hok
  obtain ⟨⟨⟨hh, hsize⟩, hregs⟩, hrest⟩ := hok
  rcases long_cases hh with ⟨dist, hdist, fs, rfl, -⟩ | ⟨hform, hext⟩
  · simp only [lt, Bool.and_eq_true, beq_iff_eq, decide_eq_true_eq] at hrest
    obtain ⟨⟨⟨hz, ho⟩, hd⟩, hm⟩ := hrest
    split at hm
    case h_2 => cases hm
    case h_1 a off =>
      simp only [Bool.and_eq_true, decide_eq_true_eq] at hm
      obtain ⟨⟨ha, hpair⟩, hfit⟩ := hm
      exact .inl ⟨dist, hdist, fs, a, off, rfl, hz, ho, rfl, hd, ha, pair_even hpair, hfit⟩
  · refine .inr ⟨hform, ?_⟩
    obtain ⟨-, hfits, -⟩ := ext23_fits hext
    split at hrest
    case h_1 hb => exact absurd hb hform
    case h_2 =>
      simp only [lt, Bool.and_eq_true, decide_eq_true_eq, Bool.not_eq_true'] at hrest
      obtain ⟨⟨⟨⟨⟨hd, hoff⟩, hcode⟩, horder⟩, hscope⟩, hm⟩ := hrest
      refine ⟨hfits, ?_, hd, hregs, hoff, hcode, horder, hscope, ?_⟩
      · cases store with
        | false => rfl
        | true => simpa using hsize
      · split at hm
        case h_1 a off =>
          simp only [Bool.and_eq_true, decide_eq_true_eq] at hm
          obtain ⟨⟨hext, ha⟩, hpair⟩ := hm
          have hsrc : SrcFits h 256 (.reg a) := lastSrc_fits (by decide) hform (by simp [lastSrc, lt, hext, ha])
          exact .inl ⟨rfl, rfl, rfl, hsrc, a, rfl, pair_even hpair⟩
        case h_2 sh b idx off =>
          simp only [Bool.and_eq_true, decide_eq_true_eq] at hm
          obtain ⟨⟨hsh, hb⟩, hidx⟩ := hm
          exact .inr (.inl ⟨rfl, hsh, hidx, lastSrc_fits (by decide) hform hb⟩)
        case h_3 b off => exact .inr (.inr ⟨rfl, rfl, rfl, lastSrc_fits (by decide) hform hm⟩)
        case h_4 => cases hm

/-- The fields of an extended lane access give it back. -/
theorem decodeLaneMem_ok {h : Hdr} {g store abuf : Bool} {z : SizeCode} {o : Ord} {d : Nat} {m : MemArg}
    {k : Hdr → SizeCode → Ord → Nat → MemArg → Instr} (hfits : LaneFits h store abuf z o d m) :
    decodeLaneMem ⟨h, litOf m.base, sizeCode z, false, g, amCode m.mode + m.sh * 4 + o.code * 16, d, m.base.num, m.idx,
        o.scope, fieldOf 32 m.off⟩ store abuf k = .ok (k h z o d m) := by
  obtain ⟨mode, sh, base, idx, off⟩ := m
  obtain ⟨-, hsize, -, hregs, hoff, hcode, horder, hscope, harg⟩ := hfits
  obtain ⟨-, -, -, hsh⟩ := harg.bounds
  have ham := amCode_lt mode
  obtain ⟨hmod, hamf, hshf, hof⟩ := mem_mods (am := amCode mode) (ham.trans (by decide)) hsh (hcode.trans (by decide))
  obtain ⟨hscope4, hord, hzero, hone⟩ := scope_field (by split <;> decide) hscope
  have hmask := and_sixtythree hmod
  have himm := and_immAll (fieldOf_lt 32 off)
  have hsc : (!(o.code == 1) && o.scope != 0) = false := by
    by_cases hc : o.code = 1 <;> simp [hc, hzero]
  have hthree : ¬ 3 < o.scope := by omega
  have hsub : ¬ o.code = 3 := by omega
  have hbad : (abuf && o.code == 1 && decide (1 < o.scope % 4)) = false := by
    cases abuf with
    | false => rfl
    | true =>
      by_cases hc : o.code = 1
      · have hlt : o.scope < 2 := hone hc
        simp
        omega
      · simp [hc]
  simp only [decodeLaneMem, (sizeOf_code z).1, hsize, hamf, hshf, hof, hord, sextNat_fieldOf (by decide) hoff,
    Bool.false_eq_true, if_false]
  generalize amCode mode + sh * 4 + o.code * 16 = mods at *
  rcases harg with ⟨rfl, rfl, rfl, hsrc, a, rfl, hpair⟩ | ⟨rfl, -, hidx, hsrc⟩ | ⟨rfl, rfl, rfl, hsrc⟩
  · exact judge_ok (by simp [rsvBad, XF.isLit, litOf, amCode, hsc, hthree, hmask, himm])
      (by simpa [hregs, horder, hsub, hbad, XF.isLit, litOf, Src.num, amCode] using hpair) rfl
  all_goals
    exact judge_ok (by simpa [rsvBad, XF.isLit, amCode, hsc, hthree, hmask, himm] using hsrc.zero)
      (by simpa [hregs, horder, hsub, hbad, XF.isLit, amCode] using fun _ => Nat.le_of_lt_succ hsrc.num)
      (by simp only [amCode, hsrc.src]; rfl)

/-- The long form of a lane access, whose opcode the decoders give to that access. -/
theorem laneLong_roundTrips {h : Hdr} {op : Nat} {store abuf : Bool} {z : SizeCode} {o : Ord} {d : Nat} {m : MemArg}
    {short : Hdr → Nat → MemArg → Instr} {long : Hdr → SizeCode → Ord → Nat → MemArg → Instr}
    (hok : rmLongOk h store abuf z o d m = true) (hop : groupOp op = true)
    (hbase : ∀ r, opOf r.w0 = op → decodeBase r = baseRM r (!abuf) short long)
    (hext : ∀ r, opOf r.w0 = op → decodeExt r = decodeLaneMem (extFields r) store abuf long) :
    decodeGroup (encLaneMem h op z o d m) = .ok (long h z o d m) := by
  rcases rmLong_cases hok with ⟨dist, hdist, fs, a, off, rfl, rfl, rfl, rfl, hd, ha, hpair, hfit⟩ | ⟨hform, hfits⟩
  · refine decodeGroup_encBase hdist (.inr rfl) ?_ (fun r hr hw => ?_) hop
    · have hfs := bit_lt fs
      simp only [Src.num]
      omega
    · rw [hbase r hr, baseRM_long_ok hd ha hpair hw, offset_literal hfit]
  · obtain ⟨hsrc, hnum, hidx, hsh⟩ := hfits.arg.bounds
    have hsub := (sizeOf_code z).2
    have ham := amCode_lt m.mode
    have hcode := hfits.code
    have hscope := (scope_field (by split <;> decide) hfits.scope).1
    have hword : encLaneMem h op z o d m =
        encExt h op (sizeCode z) (amCode m.mode + m.sh * 4 + o.code * 16) d m.base.num m.idx o.scope (fieldOf 32 m.off)
          ((litOf m.base).getD 0) := by
      rw [encLaneMem, litBits_eq]
      split
      · contradiction
      · rfl
    rw [hword]
    refine decodeGroup_encExt hfits.hdr hsrc ⟨by omega, by omega, hfits.reg, hnum, hidx, by omega⟩ (fun r hr hx => ?_) hop
    rw [hext r hr, hx]
    exact decodeLaneMem_ok hfits

/-- What an extended uniform access that the encoding admits has (R103, R115). -/
structure UniFits (h : Hdr) (store : Bool) (z : SizeCode) (o : Ord) (d : Nat) (a : Src) (off : Int) : Prop where
  hdr : HdrFits h
  size : z = .b32 ∨ z = .b64
  reg : d < 64
  off : sfit 32 off = true
  code : o.code < 3
  order : (o.code == 2 && store) = false
  scope : (if o.code = 1 then decide (o.scope < 4) else o.scope == 0) = true
  base : SrcFits h 64 a

/-- The forms of LDU and STU beyond the short one. -/
theorem uniLong_cases {h : Hdr} {store : Bool} {z : SizeCode} {o : Ord} {d : Nat} {a : Src} {off : Int}
    (hok : uniLongOk h store z o d a off = true) :
    (∃ dist < 8, ∃ fs n, h = ⟨.baseLit, dist, fs, none⟩ ∧ z = .b64 ∧ o = ⟨0, 0⟩ ∧ a = .reg n ∧ d < 64 ∧ n < 64 ∧
      sfit 64 off = true) ∨ h.form ≠ .baseLit ∧ UniFits h store z o d a off := by
  simp only [uniLongOk, lt, Bool.and_eq_true, Bool.or_eq_true, beq_iff_eq, decide_eq_true_eq] at hok
  obtain ⟨⟨⟨hh, hsize⟩, hd⟩, hrest⟩ := hok
  rcases long_cases hh with ⟨dist, hdist, fs, rfl, -⟩ | ⟨hform, hext⟩
  · simp only [Bool.and_eq_true, beq_iff_eq] at hrest
    obtain ⟨⟨⟨hz, ho⟩, hfit⟩, ha⟩ := hrest
    cases a with
    | imm | lit => cases ha
    | reg n => exact .inl ⟨dist, hdist, fs, n, rfl, hz, ho, rfl, hd, of_decide_eq_true ha, hfit⟩
  · refine .inr ⟨hform, ?_⟩
    obtain ⟨-, hfits, -⟩ := ext23_fits hext
    split at hrest
    case h_1 hb => exact absurd hb hform
    case h_2 =>
      simp only [Bool.and_eq_true, decide_eq_true_eq, Bool.not_eq_true'] at hrest
      obtain ⟨⟨⟨⟨hoff, hcode⟩, horder⟩, hscope⟩, ha⟩ := hrest
      exact ⟨hfits, hsize, hd, hoff, hcode, horder, hscope, lastSrc_fits (by decide) hform ha⟩

/-- The fields of an extended uniform access give it back. -/
theorem decodeUniMem_ok {h : Hdr} {g store : Bool} {z : SizeCode} {o : Ord} {d : Nat} {a : Src} {off : Int}
    {k : Hdr → SizeCode → Ord → Nat → Src → Int → Instr} (hfits : UniFits h store z o d a off) :
    decodeUniMem ⟨h, litOf a, sizeCode z, false, g, o.code * 16, d, a.num, 0, o.scope, fieldOf 32 off⟩ store k =
      .ok (k h z o d a off) := by
  obtain ⟨-, hsize, hd, hoff, hcode, horder, hscope, hsrc⟩ := hfits
  obtain ⟨hscope4, hord, hzero, -⟩ := scope_field le_rfl hscope
  have himm := and_immAll (fieldOf_lt 32 off)
  have hmask : o.code * 16 &&& 48 = o.code * 16 := by
    have := and_fields (lo := 0) (m := 0) (hi := o.code) (n := 3) (k := 4) (by decide) (by decide)
    rw [and_three (by omega)] at this
    simpa using this
  have hof : bitsAt (o.code * 16) 4 2 = o.code := by simp only [bitsAt]; omega
  have hsc : (!(o.code == 1) && o.scope != 0) = false := by
    by_cases hc : o.code = 1 <;> simp [hc, hzero]
  have hthree : ¬ 3 < o.scope := by omega
  have hsub : ¬ o.code = 3 := by omega
  have hnum := hsrc.num
  rcases hsize with rfl | rfl
  all_goals
    simp only [decodeUniMem, sizeOf, sizeCode, hof, hord, sextNat_fieldOf (by decide) hoff, hsrc.src]
    exact judge_ok (by simpa [rsvBad, XF.isLit, hsc, hthree, hmask, himm] using hsrc.zero)
      (by simp [horder, hsub, XF.isLit]; omega) rfl

/-- The long form of a uniform access, whose opcode the decoders give to that access. -/
theorem uniLong_roundTrips {h : Hdr} {op : Nat} {store : Bool} {z : SizeCode} {o : Ord} {d : Nat} {a : Src} {off : Int}
    {short : Hdr → Nat → Nat → Int → Instr} {long : Hdr → SizeCode → Ord → Nat → Src → Int → Instr}
    (hok : uniLongOk h store z o d a off = true) (hop : groupOp op = true)
    (hbase : ∀ r, opOf r.w0 = op → decodeBase r = baseRMU r short long)
    (hext : ∀ r, opOf r.w0 = op → decodeExt r = decodeUniMem (extFields r) store long) :
    decodeGroup (encUniMem h op z o d a off) = .ok (long h z o d a off) := by
  rcases uniLong_cases hok with ⟨dist, hdist, fs, n, rfl, rfl, rfl, rfl, hd, hn, hfit⟩ | ⟨hform, hfits⟩
  · refine decodeGroup_encBase hdist (.inr rfl) ?_ (fun r hr hw => ?_) hop
    · have hfs := bit_lt fs
      simp only [Src.num]
      omega
    · rw [hbase r hr, baseRMU_long_ok hd hn hw, offset_literal hfit]
  · have hsub := (sizeOf_code z).2
    have hcode := hfits.code
    have hreg := hfits.reg
    have hnum := hfits.base.num
    have hscope := (scope_field le_rfl hfits.scope).1
    have hword : encUniMem h op z o d a off =
        encExt h op (sizeCode z) (o.code * 16) d a.num 0 o.scope (fieldOf 32 off) ((litOf a).getD 0) := by
      rw [encUniMem, litBits_eq]
      split
      · contradiction
      · rfl
    rw [hword]
    refine decodeGroup_encExt hfits.hdr hfits.base.form (by constructor <;> omega) (fun r hr hx => ?_) hop
    rw [hext r hr, hx]
    exact decodeUniMem_ok hfits

end Sys2Proof.Proofs.Encodings
end

section
/-!
SUPPORT. The round trip of atomics (R39, R116, R128).
-/

namespace Sys2Proof.Proofs.Encodings

open Sys2Proof
open Sys2Proof.Proofs.Fields
open Sys2Proof.Proofs.RhizoidWords (bit_lt bitAt_bit)

/-! ### Operand fields of atomics -/

/-- The operations that an atomic has at its width (R39). -/
def atomWidthOk (op : AOp) (wide : Bool) : Bool := !(wide && (op == .fadd || op == .fmin || op == .fmax))

theorem atomSub_code {op : AOp} {wide : Bool} (hok : atomWidthOk op wide = true) :
    atomSub (atomCode op wide) = some (op, wide) ∧ atomCode op wide < 32 := by
  revert hok
  cases wide <;> cases op <;> decide

/-- The source that a literal may replace is the new value of a CAS, otherwise the operand (R116). -/
def atomLast (op : AOp) (b c : Src) : Src := if op = .cas then c else b

theorem atomLast_litBits (op : AOp) (b c : Src) :
    (if op = .cas then c.litBits else b.litBits) = (litOf (atomLast op b c)).getD 0 := by
  simp only [atomLast, litBits_eq]
  split_ifs <;> rfl

/-- The data operands that an atomic may have, with registers below `k`, even where `even` (R39, R116). -/
def AtomData (h : Hdr) (op : AOp) (even : Bool) (k : Nat) (b c : Src) : Prop :=
  (op = .cas ∧ (∃ n < k, b = .reg n) ∧ SrcFits h k c ∨ op ≠ .cas ∧ SrcFits h k b ∧ c = .reg 0) ∧
    (even && b.num % 2 == 1) = false ∧ (even && c.num % 2 == 1) = false

/-- The source of an atomic that a literal may replace. -/
def dataSrcOk (h : Hdr) (even : Bool) (k : Nat) : Src → Bool
  | .reg n => h.form == .ext && lt n k && (!even || n % 2 == 0)
  | .lit _ => h.form == .extLit
  | .imm _ => false

theorem dataSrcOk_fits {h : Hdr} {even : Bool} {k : Nat} {s : Src} (hk : 0 < k) (hform : h.form ≠ .baseLit)
    (hs : dataSrcOk h even k s = true) : SrcFits h k s ∧ (even && s.num % 2 == 1) = false := by
  cases s with
  | imm => cases hs
  | lit x =>
    have hext : h.form = .extLit := eq_of_beq hs
    exact ⟨lastSrc_fits hk hform (by simp [lastSrc, hext]), Bool.and_false even⟩
  | reg n =>
    simp only [dataSrcOk, Bool.and_eq_true (h.form == .ext && lt n k)] at hs
    exact ⟨lastSrc_fits hk hform hs.1, even_fld hs.2⟩

theorem atomData_fits {h : Hdr} {op : AOp} {wide pair : Bool} {k : Nat} {b c : Src} (hk : 0 < k)
    (hform : h.form ≠ .baseLit) (hok : atomDataOk h op wide pair k b c = true) :
    atomWidthOk op wide = true ∧ AtomData h op (wide && pair) k b c := by
  simp only [atomDataOk, Bool.and_eq_true] at hok
  obtain ⟨hwidth, hdata⟩ := hok
  refine ⟨hwidth, ?_⟩
  by_cases hop : op = .cas
  · simp only [if_pos hop, Bool.and_eq_true] at hdata
    obtain ⟨hb, hc⟩ := hdata
    obtain ⟨hcs, hceven⟩ := dataSrcOk_fits hk hform hc
    cases b with
    | imm | lit => cases hb
    | reg n =>
      simp only [lt, Bool.and_eq_true, decide_eq_true_eq] at hb
      exact ⟨.inl ⟨hop, ⟨n, hb.1, rfl⟩, hcs⟩, even_fld hb.2, hceven⟩
  · simp only [if_neg hop, Bool.and_eq_true, beq_iff_eq] at hdata
    obtain ⟨hb, rfl⟩ := hdata
    obtain ⟨hbs, hbeven⟩ := dataSrcOk_fits hk hform hb
    exact ⟨.inr ⟨hop, hbs, rfl⟩, hbeven, by simp [Src.num]⟩

theorem AtomData.last {h : Hdr} {op : AOp} {even : Bool} {k : Nat} {b c : Src} (hk : 0 < k)
    (hdata : AtomData h op even k b c) : SrcFits h k (atomLast op b c) ∧ b.num < k ∧ c.num < k := by
  rcases hdata.1 with ⟨rfl, ⟨n, hn, rfl⟩, hc⟩ | ⟨hop, hb, rfl⟩
  · exact ⟨hc, hn, hc.num⟩
  · exact ⟨by rwa [atomLast, if_neg hop], hb.num, hk⟩

/-- The fields of the data operands give them back, and leave reserved none that is not zero. -/
theorem AtomData.fields {h : Hdr} {op : AOp} {even : Bool} {k : Nat} {b c : Src} (hdata : AtomData h op even k b c)
    {x : XF} (hx : x.lit = litOf (atomLast op b c)) (hb : x.b = b.num) (hc : x.c = c.num) :
    (if op == .cas then .reg x.b else x.src x.b) = b ∧ (if op == .cas then x.src x.c else .reg 0) = c ∧
      (!(op == .cas || !x.isLit) && x.b != 0) = false ∧ (!(op == .cas && !x.isLit) && x.c != 0) = false := by
  rcases hdata.1 with ⟨rfl, ⟨n, hn, rfl⟩, hcs⟩ | ⟨hop, hbs, rfl⟩
  · have hlit : x.lit = litOf c := hx
    refine ⟨by rw [hb]; rfl, by rw [hc]; exact hcs.src x hlit, rfl, ?_⟩
    simpa [XF.isLit, hlit, hc] using hcs.zero
  · have hlit : x.lit = litOf b := by rw [hx, atomLast, if_neg hop]
    have hne : (op == AOp.cas) = false := beq_eq_false_iff_ne.mpr hop
    refine ⟨by rw [hb, hne]; exact hbs.src x hlit, by rw [hne]; rfl, ?_, by rw [hc]; simp [Src.num]⟩
    simpa [XF.isLit, hlit, hb, hne] using hbs.zero

theorem atomArg_cases {m : MemArg} (hm : atomArgOk m = true) : ∃ a off, sfit 32 off = true ∧
    (m = ⟨.v, 0, .reg a, 0, off⟩ ∧ a < 256 ∧ a % 2 = 0 ∨ m = ⟨.sl, 0, .reg a, 0, off⟩ ∧ a < 64) := by
  unfold atomArgOk at hm
  split at hm
  case h_1 a off =>
    simp only [lt, Bool.and_eq_true, decide_eq_true_eq, beq_iff_eq] at hm
    exact ⟨a, off, hm.2, .inl ⟨rfl, hm.1⟩⟩
  case h_2 a off =>
    simp only [lt, Bool.and_eq_true, decide_eq_true_eq] at hm
    exact ⟨a, off, hm.2, .inr ⟨rfl, hm.1⟩⟩
  case h_3 => cases hm

/-- What the address and ORD of ATOM and RED in MOD read as (R116). -/
structure AtomMods (x : XF) (m : MemArg) (o : Ord) : Prop where
  addr : atomAddr x = m
  ord : atomOrd x = o
  fld : atomBad x = false
  rsv : atomRsv x = false

theorem atom_mods {m : MemArg} {o : Ord} (hm : atomArgOk m = true) (ho : atomOrdOk o = true) :
    amCode m.mode + o.scope * 4 + o.code * 16 < 64 ∧ m.base.num < 256 ∧
      ∀ x : XF, x.mod = amCode m.mode + o.scope * 4 + o.code * 16 → x.a = m.base.num → x.imm = fieldOf 32 m.off →
        AtomMods x m o := by
  have ham := amCode_lt m.mode
  simp only [atomOrdOk, lt, Bool.and_eq_true, decide_eq_true_eq] at ho
  obtain ⟨hcode, hscope⟩ := ho
  have hscope4 : o.scope < 4 := by split_ifs at hscope <;> simp at hscope <;> omega
  have hzero : (o.code == 0 && o.scope != 0) = false := by
    by_cases hc : o.code = 0 <;> simp_all
  obtain ⟨hmod, hamf, hsf, hof⟩ := mem_mods (am := amCode m.mode) (by omega) hscope4 hcode
  obtain ⟨a, off, hfit, hcase⟩ := atomArg_cases hm
  have hback := sextNat_fieldOf (by decide) hfit
  refine ⟨hmod, ?_, fun x hx hxa hxi => ⟨?_, by rw [atomOrd, hx, hsf, hof], ?_, by rw [atomRsv, hx, hsf, hof, hzero]⟩⟩
  · rcases hcase with ⟨rfl, ha, -⟩ | ⟨rfl, ha⟩ <;> simp only [Src.num] <;> omega
  · rw [atomAddr, hx, hamf, hxa, hxi]
    rcases hcase with ⟨rfl, -⟩ | ⟨rfl, -⟩ <;> simp [amCode, Src.num, hback]
  · rw [atomBad, hx, hamf]
    rcases hcase with ⟨rfl, -, heven⟩ | ⟨rfl, ha⟩
    · have hxv : x.a = a := hxa
      simp [amCode, hxv, heven]
    · have hxs : x.a = a := hxa
      have hlow : decide (63 < x.a) = false := decide_eq_false (by omega)
      simp [amCode, hlow]

/-! ### Atomics -/

theorem atom_roundTrips (h : Hdr) (op : AOp) (wide : Bool) (o : Ord) (d : Nat) (m : MemArg) (b c : Src) :
    RoundTrips (.atom h op wide o d m b c) := by
  intro r hwf he
  cases he
  delta Instr.wf at hwf
  simp only [lt, Bool.and_eq_true, decide_eq_true_eq] at hwf
  obtain ⟨⟨⟨⟨⟨hh, hd⟩, hdeven⟩, hm⟩, ho⟩, hdata⟩ := hwf
  obtain ⟨hform, hfits, -⟩ := ext23_fits hh
  obtain ⟨hwidth, hdata⟩ := atomData_fits (by decide) hform hdata
  obtain ⟨hlast, hb, hc⟩ := hdata.last (by decide)
  obtain ⟨hsub, hsublt⟩ := atomSub_code hwidth
  obtain ⟨hmod, ha, hmods⟩ := atom_mods hm ho
  have hmask := and_sixtythree hmod
  rw [atomLast_litBits]
  refine decodeGroup_encExt hfits hlast.form ⟨by omega, hmod, hd, ha, hb, hc⟩ fun r hop hx => ?_
  unfold decodeExt
  rw [hop]
  refine Eq.trans (b := decodeAtom (extFields r)) rfl ?_
  obtain ⟨haddr, hord, hfld, hrsv⟩ := hmods (extFields r) (by rw [hx]) (by rw [hx]) (by rw [hx])
  obtain ⟨hbf, hcf, hbz, hcz⟩ := hdata.fields (x := extFields r) (by rw [hx]) (by rw [hx]) (by rw [hx])
  have hsubf : atomSub (extFields r).sub = some (op, wide) := by rw [hx, hsub]
  have hdodd : (wide && (extFields r).d % 2 == 1) = false := by rw [hx]; exact even_fld hdeven
  obtain ⟨-, hbeven, hceven⟩ := hdata
  have hbodd : (wide && (extFields r).b % 2 == 1) = false := by simpa [hx] using hbeven
  have hcodd : (wide && (extFields r).c % 2 == 1) = false := by simpa [hx] using hceven
  simp only [decodeAtom, hsubf, haddr, hord, hfld, hrsv, hbf, hcf, hdodd, hbodd, hcodd]
  refine judge_ok ?_ rfl (by rw [hx])
  simp only [rsvBad, hbz, hcz]
  simp [hx, hmask, and_immAll (fieldOf_lt 32 m.off)]

theorem red_roundTrips (h : Hdr) (op : AOp) (wide : Bool) (o : Ord) (m : MemArg) (b : Src) :
    RoundTrips (.red h op wide o m b) := by
  intro r hwf he
  cases he
  delta Instr.wf at hwf
  simp only [Bool.and_eq_true, bne_iff_ne] at hwf
  obtain ⟨⟨⟨⟨⟨hh, hm⟩, ho⟩, hcas⟩, hxchg⟩, hdata⟩ := hwf
  obtain ⟨hform, hfits, -⟩ := ext23_fits hh
  obtain ⟨hwidth, hdata, heven, -⟩ := atomData_fits (by decide) hform hdata
  obtain ⟨-, hs, -⟩ := hdata.resolve_left fun hc => hcas hc.1
  obtain ⟨hsub, hsublt⟩ := atomSub_code hwidth
  obtain ⟨hmod, ha, hmods⟩ := atom_mods hm ho
  have hmask := and_sixtythree hmod
  refine decodeGroup_src hfits hs ⟨by omega, hmod, by decide, ha, hs.num, by decide⟩ fun r hop hx => ?_
  unfold decodeExt
  rw [hop]
  refine Eq.trans (b := decodeRed (extFields r)) rfl ?_
  obtain ⟨haddr, hord, hfld, hrsv⟩ := hmods (extFields r) (by rw [hx]) (by rw [hx]) (by rw [hx])
  have hsubf : atomSub (extFields r).sub = some (op, wide) := by rw [hx, hsub]
  have hodd : (wide && (extFields r).b % 2 == 1) = false := by simpa [hx] using heven
  have hback : (extFields r).src (extFields r).b = b := by rw [hx]; exact hs.src _ rfl
  simp only [decodeRed, hsubf, haddr, hord, hfld, hrsv, hodd, hback, hcas, hxchg, or_self, if_false]
  refine judge_ok ?_ rfl (by rw [hx])
  simpa [rsvBad, hx, XF.isLit, hmask, and_immAll (fieldOf_lt 32 m.off)] using hs.zero

theorem ratom_roundTrips (h : Hdr) (op : AOp) (wide : Bool) (q a : Nat) (b c : Src) (off : Int) :
    RoundTrips (.ratom h op wide q a b c off) := by
  intro r hwf he
  cases he
  delta Instr.wf at hwf
  simp only [lt, Bool.and_eq_true, decide_eq_true_eq] at hwf
  obtain ⟨⟨⟨⟨hh, hq⟩, ha⟩, hdata⟩, hoff⟩ := hwf
  obtain ⟨hform, hfits, -⟩ := ext23_fits hh
  obtain ⟨hwidth, hdata⟩ := atomData_fits (by decide) hform hdata
  obtain ⟨hlast, hb, hc⟩ := hdata.last (by decide)
  obtain ⟨hsub, hsublt⟩ := atomSub_code hwidth
  rw [atomLast_litBits]
  refine decodeGroup_encExt hfits hlast.form (by constructor <;> omega) fun r hop hx => ?_
  unfold decodeExt
  rw [hop]
  refine Eq.trans (b := decodeRatom (extFields r)) rfl ?_
  obtain ⟨hbf, hcf, hbz, hcz⟩ := hdata.fields (x := extFields r) (by rw [hx]) (by rw [hx]) (by rw [hx])
  have hsubf : atomSub (extFields r).sub = some (op, wide) := by rw [hx, hsub]
  have hnums : (decide (15 < q) || decide (63 < a)) = false ∧ decide (63 < b.num) = false ∧
      decide (63 < c.num) = false := by simp; omega
  simp only [decodeRatom, hsubf, hbf, hcf]
  refine ext_ok ?_ ?_ (by rw [hx, sextNat_fieldOf (by decide) hoff])
  · simp only [rsvBad, hbz, hcz]
    simp [hx, and_immAll (fieldOf_lt 32 off)]
  · obtain ⟨hlow, hbl, hcl⟩ := hnums
    simp only [hx, hlow, hbl, hcl, Bool.and_false, Bool.or_self]

end Sys2Proof.Proofs.Encodings
end

section
/-!
SUPPORT. The round trip of a group's memory and synchronisation instructions (R103 to R128).
-/

namespace Sys2Proof.Proofs.Encodings

open Sys2Proof
open Sys2Proof.Proofs.Fields
open Sys2Proof.Proofs.RhizoidWords (bit_lt bitAt_bit)

/-! ### Operand fields of synchronisation -/

/-- A counter of a commit, or none (R122). -/
theorem commit_ok {h : Hdr} {sub : Nat} {g : Bool} {c : Option Nat} {k : Hdr → Option Nat → Instr} (hc : c.getD 0 < 64) :
    ext ⟨h, none, sub, false, g, bit c.isSome, 0, c.getD 0, 0, 0, 0⟩
        { ll := true, d := false, a := bitAt (bit c.isSome) 0, b := false, mod := 1 }
        (bitAt (bit c.isSome) 0 && decide (63 < c.getD 0))
        (k h (if bitAt (bit c.isSome) 0 then some (c.getD 0) else none)) = .ok (k h c) := by
  cases c with
  | none => exact ext_ok (by simp [rsvBad, bit, bitAt]) (by simp [bit, bitAt]) (by simp [bit, bitAt])
  | some n =>
    have hn : n < 64 := hc
    exact ext_ok (by simp [rsvBad, bit, bitAt]) (by simp; omega) (by simp [bit, bitAt])

/-- The fields of WAITA in MOD (R118). -/
theorem waita_mods (rel : Rel) (n b64 acq : Bool) :
    relCode rel + bit n * 8 + bit b64 * 16 + bit acq * 32 < 64 ∧
      relOf ((relCode rel + bit n * 8 + bit b64 * 16 + bit acq * 32) % 8) = some rel ∧
      bitAt (relCode rel + bit n * 8 + bit b64 * 16 + bit acq * 32) 3 = n ∧
      bitAt (relCode rel + bit n * 8 + bit b64 * 16 + bit acq * 32) 4 = b64 ∧
      bitAt (relCode rel + bit n * 8 + bit b64 * 16 + bit acq * 32) 5 = acq := by
  cases rel <;> cases n <;> cases b64 <;> cases acq <;> decide

/-- The scope of an acquire or release, zero where there is none. -/
theorem flag_scope {acq : Bool} {sc : Nat} (h : (if acq then decide (sc < 4) else sc == 0) = true) :
    sc < 4 ∧ (if acq then sc % 4 else 0) = sc ∧ (!acq && sc != 0) = false := by
  cases acq with
  | false =>
    have hz : sc = 0 := eq_of_beq h
    subst hz
    decide
  | true =>
    have hlt : sc < 4 := of_decide_eq_true h
    exact ⟨hlt, Nat.mod_eq_of_lt hlt, rfl⟩

/-- The scope and the flags of CWAITGE and CADD in MOD (R126, R127). -/
theorem scope_mods {sc : Nat} (acq poison : Bool) (hsc : sc < 4) : sc + bit acq * 4 + bit poison * 8 < 16 ∧
    (sc + bit acq * 4 + bit poison * 8) % 4 = sc ∧ bitAt (sc + bit acq * 4 + bit poison * 8) 2 = acq ∧
    bitAt (sc + bit acq * 4 + bit poison * 8) 3 = poison := by
  have ha := bit_lt acq
  have hp := bit_lt poison
  exact ⟨by omega, by omega, bitAt_bits 2 (by omega), bitAt_bits 3 (by omega)⟩

theorem waita_roundTrips (h : Hdr) (rel : Rel) (n b64 acq : Bool) (sc d a : Nat) (b : Src) (off : Int) :
    RoundTrips (.waita h rel n b64 acq sc d a b off) := by
  intro r hwf he
  cases he
  delta Instr.wf at hwf
  simp only [lt, Bool.and_eq_true, decide_eq_true_eq] at hwf
  obtain ⟨⟨⟨⟨⟨hh, hscope⟩, hd⟩, ha⟩, hb⟩, hoff⟩ := hwf
  obtain ⟨hfits, -, hs, hnum⟩ := src_fits (by decide) hh hb
  obtain ⟨hsc, hscf, hscz⟩ := flag_scope hscope
  obtain ⟨hmod, hrel, hn, hb64, hacq⟩ := waita_mods rel n b64 acq
  have hthree : ¬ 3 < sc := by omega
  refine decodeGroup_src hfits hs ⟨by decide, hmod, by omega, by omega, by omega, by omega⟩ fun r hop hx => ?_
  unfold decodeExt
  rw [hop, hx]
  refine Eq.trans (b := decodeWaita _) rfl ?_
  simp only [decodeWaita, hrel, hn, hb64, hacq, hscf, hs.src, sextNat_fieldOf (by decide) hoff]
  refine judge_ok ?_ (by simp [XF.isLit]; omega) rfl
  simp only [rsvBad, hscz]
  simpa [XF.isLit, and_sixtythree hmod, hthree, and_immAll (fieldOf_lt 32 off)] using hs.zero

/-- Memory and synchronisation instructions. -/
theorem memory_roundTrips {i : Instr} (hch : chapterOf i = .memory) : RoundTrips i := by
  intro r hwf he
  cases i with
  | atom h op wide o d m b c => exact atom_roundTrips h op wide o d m b c r hwf he
  | red h op wide o m b => exact red_roundTrips h op wide o m b r hwf he
  | ratom h op wide q a b c off => exact ratom_roundTrips h op wide q a b c off r hwf he
  | waita h rel n b64 acq sc d a b off => exact waita_roundTrips h rel n b64 acq sc d a b off r hwf he
  | ld h d m | st h d m | lda h d m | sta h d m =>
    cases he
    obtain ⟨dist, hdist, fs, a, off, rfl, rfl, hd, ha, hpair, hmod, hfit⟩ := rmShort_cases hwf
    have hlow := (format7 fs hd ha (fieldOf_lt 7 (off / 4))).1
    refine decodeGroup_encBase hdist (.inl rfl) hlow fun r hop hw => ?_
    unfold decodeBase
    rw [hop, hw.hdr]
    exact baseRM_short_ok hd ha hpair hmod hfit hw
  | ldu h d a off | stu h d a off =>
    cases he
    delta Instr.wf at hwf
    simp only [lt, Bool.and_eq_true, decide_eq_true_eq, beq_iff_eq] at hwf
    obtain ⟨⟨⟨⟨⟨hh, hg⟩, hd⟩, ha⟩, hmod⟩, hfit⟩ := hwf
    obtain ⟨dist, hdist, fs, rfl⟩ := baseHdr_eq hh hg
    have hlow := (format7 fs hd ha (fieldOf_lt 7 (off / 8))).1
    refine decodeGroup_encBase hdist (.inl rfl) hlow fun r hop hw => ?_
    unfold decodeBase
    rw [hop, hw.hdr]
    exact baseRMU_short_ok hd ha hmod hfit hw
  | ldLong h z o d m | stLong h z o d m | ldaLong h z o d m | staLong h z o d m =>
    cases he
    exact laneLong_roundTrips hwf (by decide) (fun r hr => by unfold decodeBase; rw [hr]; rfl)
      fun r hr => by unfold decodeExt; rw [hr]; rfl
  | lduLong h z o d a off | stuLong h z o d a off =>
    cases he
    exact uniLong_roundTrips hwf (by decide) (fun r hr => by unfold decodeBase; rw [hr]; rfl)
      fun r hr => by unfold decodeExt; rw [hr]; rfl
  | ldc h col d acc b c | stc h col d acc b c =>
    cases he
    delta Instr.wf at hwf
    simp only [lt, Bool.and_eq_true, decide_eq_true_eq] at hwf
    obtain ⟨⟨⟨hh, hd⟩, hacc⟩, hb⟩ := hwf
    obtain ⟨hfits, -, hs, hnum⟩ := src_fits (by decide) hh hb
    have hcol := bit_lt col
    refine decodeGroup_src hfits hs (by constructor <;> omega) fun r hop hx => ?_
    unfold decodeExt
    rw [hop, hx]
    refine ext_ok ?_ (by simp [XF.isLit]; omega) (by simp [hs.src])
    simpa [rsvBad, XF.isLit, and_one hcol, and_immAll c.isLt] using hs.zero
  | fenceAcq h sc | fenceRel h sc | fenceSc h sc =>
    cases he
    delta Instr.wf at hwf
    simp only [lt, Bool.and_eq_true, decide_eq_true_eq] at hwf
    obtain ⟨hh, hsc⟩ := hwf
    refine decodeGroup_plain hh (by constructor <;> omega) fun _ r hop hx => ?_
    have hacq : sc / 4 = 0 ∧ sc % 4 = sc := by omega
    have hrel : (4 + sc) / 4 = 1 ∧ (4 + sc) % 4 = sc := by omega
    have hseq : (8 + sc) / 4 = 2 ∧ (8 + sc) % 4 = sc := by omega
    unfold decodeExt
    rw [hop, hx]
    refine Eq.trans (b := decodeFence _) rfl ?_
    simp only [decodeFence, hacq, hrel, hseq]
    exact ext_ok (by simp [rsvBad]) rfl rfl
  | aliasf h =>
    cases he
    refine decodeGroup_plain hwf (by constructor <;> decide) fun _ r hop hx => ?_
    unfold decodeExt
    rw [hop, hx]
    exact ext_ok (by simp [rsvBad]) rfl rfl
  | commitTeam h c | commitGrid h c | commitPod h c =>
    cases he
    delta Instr.wf at hwf
    simp only [lt, Bool.and_eq_true, decide_eq_true_eq] at hwf
    obtain ⟨hh, hc⟩ := hwf
    have hbit := bit_lt c.isSome
    refine decodeGroup_plain hh (by constructor <;> omega) fun _ r hop hx => ?_
    unfold decodeExt
    rw [hop, hx]
    exact commit_ok hc
  | bararv h b n | barsync h b n =>
    cases he
    delta Instr.wf at hwf
    simp only [lt, Bool.and_eq_true, decide_eq_true_eq] at hwf
    obtain ⟨⟨⟨hh, hb⟩, hone⟩, hn⟩ := hwf
    refine decodeGroup_plain hh (by constructor <;> omega) fun _ r hop hx => ?_
    unfold decodeExt
    rw [hop, hx]
    exact ext_ok (by simp [rsvBad, and_immAll (show n < 2 ^ 32 by omega)]) (by simp; omega) rfl
  | barwt h b =>
    cases he
    delta Instr.wf at hwf
    simp only [lt, Bool.and_eq_true, decide_eq_true_eq] at hwf
    refine decodeGroup_plain hwf.1 (by constructor <;> omega) fun _ r hop hx => ?_
    unfold decodeExt
    rw [hop, hx]
    exact ext_ok (by simp [rsvBad]) (by simp; omega) rfl
  | cwaitge h acq sc d a b off =>
    cases he
    delta Instr.wf at hwf
    simp only [lt, Bool.and_eq_true, decide_eq_true_eq] at hwf
    obtain ⟨⟨⟨⟨⟨hh, hscope⟩, hd⟩, ha⟩, hb⟩, hoff⟩ := hwf
    obtain ⟨hfits, -, hs, hnum⟩ := src_fits (by decide) hh hb
    obtain ⟨hsc, -, hscz⟩ := flag_scope hscope
    obtain ⟨-, hscf, hacq, -⟩ := scope_mods acq false hsc
    have hacqlt := bit_lt acq
    rw [show bit false * 8 = 0 from rfl, Nat.add_zero] at hscf hacq
    refine decodeGroup_src hfits hs (by constructor <;> omega) fun r hop hx => ?_
    unfold decodeExt
    rw [hop, hx]
    refine Eq.trans (b := decodeCwaitge _) rfl ?_
    simp only [decodeCwaitge, hscf, hacq, hscz, hs.src, sextNat_fieldOf (by decide) hoff]
    refine judge_ok ?_ (by simp [XF.isLit]; omega) rfl
    simpa [rsvBad, XF.isLit, and_seven (show sc + bit acq * 4 < 8 by omega), and_immAll (fieldOf_lt 32 off)] using hs.zero
  | cadd h rel poison sc a b off =>
    cases he
    delta Instr.wf at hwf
    simp only [lt, Bool.and_eq_true, decide_eq_true_eq] at hwf
    obtain ⟨⟨⟨⟨hh, hscope⟩, ha⟩, hb⟩, hoff⟩ := hwf
    obtain ⟨hfits, -, hs, hnum⟩ := src_fits (by decide) hh hb
    obtain ⟨hsc, -, hscz⟩ := flag_scope hscope
    obtain ⟨hmod, hscf, hrel, hpoison⟩ := scope_mods rel poison hsc
    refine decodeGroup_src hfits hs (by constructor <;> omega) fun r hop hx => ?_
    unfold decodeExt
    rw [hop, hx]
    refine Eq.trans (b := decodeCadd _) rfl ?_
    simp only [decodeCadd, hscf, hrel, hpoison, hscz, hs.src, sextNat_fieldOf (by decide) hoff]
    refine judge_ok ?_ (by simp [XF.isLit]; omega) rfl
    simpa [rsvBad, XF.isLit, and_fifteen hmod, and_immAll (fieldOf_lt 32 off)] using hs.zero
  | _ => cases hch

end Sys2Proof.Proofs.Encodings
end

section
/-!
SUPPORT. The operand fields of copies and collectives, and the round trip of copies (R195, R210, R216).
-/

namespace Sys2Proof.Proofs.Encodings

open Sys2Proof
open Sys2Proof.Proofs.Fields
open Sys2Proof.Proofs.RhizoidWords (bit_lt bitAt_bit)

/-! ### Operand fields of copies (R195, R210) -/

/-- The registers, coordinates and counter of a copy that the encoding admits. -/
structure CopyFits (d : Nat) (c : CopyArg) : Prop where
  reg : d < 64
  lay : c.lay < 64
  coord : c.coord < 64
  c2 : sfit 16 c.c2 = true
  c3 : sfit 16 c.c3 = true
  ctr : c.ctr.getD 0 < 64
  scope : c.scope < 4
  scopeZero : c.scope = 0 ↔ c.ctr = none

theorem copyOk_fits {h : Hdr} {d : Nat} {c : CopyArg} (hok : copyOk h d c = true) :
    extOnly h true = true ∧ CopyFits d c := by
  obtain ⟨lay, coord, ctr, scope, c2, c3⟩ := c
  simp only [copyOk, lt, Bool.and_eq_true, decide_eq_true_eq] at hok
  obtain ⟨⟨⟨⟨⟨⟨hh, hd⟩, hlay⟩, hcoord⟩, hc2⟩, hc3⟩, hctr⟩ := hok
  refine ⟨hh, ?_⟩
  cases ctr with
  | none =>
    have hscope : scope = 0 := eq_of_beq hctr
    subst hscope
    exact ⟨hd, hlay, hcoord, hc2, hc3, Nat.zero_lt_succ 63, Nat.zero_lt_succ 3, by simp⟩
  | some n =>
    simp only [Bool.and_eq_true, decide_eq_true_eq] at hctr
    obtain ⟨⟨hn, hone⟩, hscope⟩ := hctr
    exact ⟨hd, hlay, hcoord, hc2, hc3, hn, hscope, by simp; omega⟩

/-- Two coordinates in IMM32. -/
theorem coord_fields {a b : Int} (ha : sfit 16 a = true) (hb : sfit 16 b = true) :
    fieldOf 16 a + fieldOf 16 b * 2 ^ 16 < 2 ^ 32 ∧
      sextNat 16 ((fieldOf 16 a + fieldOf 16 b * 2 ^ 16) % 2 ^ 16) = a ∧
      sextNat 16 ((fieldOf 16 a + fieldOf 16 b * 2 ^ 16) / 2 ^ 16) = b := by
  have hla := fieldOf_lt 16 a
  have hlb := fieldOf_lt 16 b
  have hlow : (fieldOf 16 a + fieldOf 16 b * 2 ^ 16) % 2 ^ 16 = fieldOf 16 a := by omega
  have hhigh : (fieldOf 16 a + fieldOf 16 b * 2 ^ 16) / 2 ^ 16 = fieldOf 16 b := by omega
  rw [hlow, hhigh, sextNat_fieldOf (by decide) ha, sextNat_fieldOf (by decide) hb]
  exact ⟨by omega, rfl, rfl⟩

/-- What the fields of a copy's word are, its immediate apart. -/
structure CopyWord (x : XF) (d : Nat) (c : CopyArg) : Prop where
  guard : x.guardBad = false
  reg : x.d = d
  lay : x.a = c.lay
  coord : x.b = c.coord
  ctr : x.c = c.ctr.getD 0
  scope : bitsAt x.mod 2 2 = c.scope
  hasCtr : bitAt x.mod 4 = c.ctr.isSome

section
variable {d : Nat} {c : CopyArg} {x : XF} (hw : CopyWord x d c)
include hw

theorem CopyWord.arg : copyArg x = { c with
    c2 := sextNat 16 (x.imm % 2 ^ 16), c3 := sextNat 16 (x.imm / 2 ^ 16) } := by
  obtain ⟨-, -, hlay, hcoord, hc, hscope, hctr⟩ := hw
  have hback : (if c.ctr.isSome then some (c.ctr.getD 0) else none) = c.ctr := by cases c.ctr <;> rfl
  simp only [copyArg, hlay, hcoord, hc, hscope, hctr, hback]

variable (hfits : CopyFits d c)
include hfits

theorem CopyWord.fld : copyFld x = false := by
  obtain ⟨-, hd, hlay, hcoord, hc, hscope, hctr⟩ := hw
  obtain ⟨hreg, hlay64, hcoord64, -, -, hctr64, -, hzero⟩ := hfits
  have hsome : (c.ctr.isSome && c.scope == 0) = false := by
    cases hn : c.ctr with
    | none => rfl
    | some n => simp [hzero, hn]
  have hctrlow : decide (63 < c.ctr.getD 0) = false := decide_eq_false (by omega)
  simp only [copyFld, hscope, hctr, hd, hlay, hcoord, hc, hsome, hctrlow]
  simp
  omega

theorem CopyWord.rsv {mods imm : Nat} (hmods : x.mod &&& mods = x.mod) (himm : x.imm &&& imm = x.imm) :
    copyRsv x mods imm = false := by
  obtain ⟨hguard, -, -, -, hc, hscope, hctr⟩ := hw
  have hnone : (!c.ctr.isSome && c.ctr.getD 0 != 0) = false ∧ (!c.ctr.isSome && c.scope != 0) = false := by
    cases hn : c.ctr with
    | none => simp [hfits.scopeZero, hn]
    | some n => simp
  obtain ⟨hcz, hsz⟩ := hnone
  simp only [copyRsv, rsvBad, hscope, hctr, hc, hcz, hsz]
  simp [hguard, hmods, himm]

end

/-- A collective's type and scope in MOD (R216). -/
theorem coll_mods {ty sc : Nat} (hty : ty < 2) (hsc : sc < 4) :
    ty + sc * 4 < 16 ∧ (ty + sc * 4) % 4 = ty ∧ bitsAt (ty + sc * 4) 2 2 = sc := by
  simp only [bitsAt]
  omega

/-- The fields of a copy's word, and what its MOD bits read as. -/
theorem copy_fields {h : Hdr} {mode d imm : Nat} {g side : Bool} {c : CopyArg} (hfits : CopyFits d c) (hmode : mode < 4) :
    Fits 0 (mode + bit side * 32 + c.scope * 4 + bit c.ctr.isSome * 16) d c.lay c.coord (c.ctr.getD 0) ∧
      CopyWord ⟨h, none, 0, false, g, mode + bit side * 32 + c.scope * 4 + bit c.ctr.isSome * 16, d, c.lay, c.coord,
        c.ctr.getD 0, imm⟩ d c ∧
      (mode + bit side * 32 + c.scope * 4 + bit c.ctr.isSome * 16) % 4 = mode ∧
      bitAt (mode + bit side * 32 + c.scope * 4 + bit c.ctr.isSome * 16) 5 = side := by
  obtain ⟨hreg, hlay, hcoord, -, -, hctr, hscope, -⟩ := hfits
  have hs := bit_lt side
  have hc := bit_lt c.ctr.isSome
  have hbit : bitAt (mode + bit side * 32 + c.scope * 4 + bit c.ctr.isSome * 16) 4 = c.ctr.isSome :=
    bitAt_bits 4 (by omega)
  refine ⟨by constructor <;> omega, ⟨rfl, rfl, rfl, rfl, rfl, ?_, hbit⟩, by omega, bitAt_bits 5 (by omega)⟩
  simp only [bitsAt]
  omega

theorem copy_roundTrips (h : Hdr) (mode d : Nat) (side : Bool) (c : CopyArg) : RoundTrips (.copy h mode d side c) := by
  intro r hwf he
  cases he
  delta Instr.wf at hwf
  simp only [lt, Bool.and_eq_true, decide_eq_true_eq] at hwf
  obtain ⟨⟨hok, hmode⟩, hside⟩ := hwf
  obtain ⟨hh, hfits⟩ := copyOk_fits hok
  obtain ⟨hfit, hw, hmodef, hsidef⟩ := copy_fields (h := h) (g := h.guard.isSome) (imm := copyImm c) (side := side) hfits hmode
  obtain ⟨himm, hc2, hc3⟩ := coord_fields hfits.c2 hfits.c3
  have hsidez : (side && mode != 2) = false := by
    cases side with
    | false => rfl
    | true => simpa using hside
  refine decodeGroup_plain hh hfit fun _ r hop hx => ?_
  unfold decodeExt
  rw [hop, hx]
  refine judge_ok ?_ (hw.fld hfits) ?_
  · rw [hw.rsv hfits (and_sixtythree hfit.mod) (and_immAll himm), hmodef, hsidef]
    exact hsidez
  · rw [hmodef, hsidef, hw.arg, copyImm, hc2, hc3]

/-- The mask and the coordinate of COPYM in IMM32 (R210). -/
theorem copym_imm (m : BitVec 8) {f : Nat} (hf : f < 2 ^ 16) :
    (m.toNat + f * 2 ^ 16) &&& 0xFFFF00FF = m.toNat + f * 2 ^ 16 ∧ BitVec.ofNat 8 (m.toNat + f * 2 ^ 16) = m ∧
      (m.toNat + f * 2 ^ 16) / 2 ^ 16 = f := by
  have hm := m.isLt
  have hmask : m.toNat &&& 0xFF = m.toNat := and_mask (k := 8) hm
  have hfield : f &&& 0xFFFF = f := and_mask (k := 16) hf
  have hboth := and_fields (lo := m.toNat) (hi := f) (m := 0xFF) (n := 0xFFFF) (k := 16) (by omega) (by decide)
  rw [hmask, hfield] at hboth
  refine ⟨hboth, ?_, by omega⟩
  apply BitVec.eq_of_toNat_eq
  rw [BitVec.toNat_ofNat]
  omega

/-- COPYM's MOD leaves bits 1:0 zero (R210). -/
theorem copym_mods {scope : Nat} (side ctr : Bool) (hscope : scope < 4) :
    (0 + bit side * 32 + scope * 4 + bit ctr * 16) &&& 60 = 0 + bit side * 32 + scope * 4 + bit ctr * 16 := by
  have hs := bit_lt side
  have hc := bit_lt ctr
  have hboth := and_fields (lo := 0) (m := 0) (hi := bit side * 8 + scope + bit ctr * 4) (n := 15) (k := 2) (by decide)
    (by decide)
  rw [and_fifteen (by omega)] at hboth
  have hsum : 0 + bit side * 32 + scope * 4 + bit ctr * 16 = 0 + (bit side * 8 + scope + bit ctr * 4) * 2 ^ 2 := by omega
  rw [hsum]
  exact hboth

theorem copym_roundTrips (h : Hdr) (ws : Nat) (side : Bool) (m : BitVec 8) (c : CopyArg) :
    RoundTrips (.copym h ws side m c) := by
  intro r hwf he
  cases he
  delta Instr.wf at hwf
  simp only [Bool.and_eq_true, beq_iff_eq] at hwf
  obtain ⟨hok, hzero⟩ := hwf
  obtain ⟨hh, hfits⟩ := copyOk_fits hok
  obtain ⟨hfit, hw, -, hsidef⟩ := copy_fields (h := h) (g := h.guard.isSome) (mode := 0) (side := side)
    (imm := m.toNat + fieldOf 16 c.c2 * 2 ^ 16) hfits (by decide)
  obtain ⟨himm, hlow, hhigh⟩ := copym_imm m (fieldOf_lt 16 c.c2)
  have hmods := copym_mods side c.ctr.isSome hfits.scope
  rw [← Nat.zero_add (bit side * 32)]
  refine decodeGroup_plain hh hfit fun _ r hop hx => ?_
  unfold decodeExt
  rw [hop, hx]
  refine judge_ok (hw.rsv hfits hmods himm) (hw.fld hfits) ?_
  rw [hsidef, hlow, hw.arg, hhigh, sextNat_fieldOf (by decide) hfits.c2, ← hzero]

theorem copyp_roundTrips (h : Hdr) (mode d : Nat) (srca : Bool) (c : CopyArg) : RoundTrips (.copyp h mode d srca c) := by
  intro r hwf he
  cases he
  delta Instr.wf at hwf
  simp only [lt, Bool.and_eq_true, decide_eq_true_eq] at hwf
  obtain ⟨hok, hmode⟩ := hwf
  obtain ⟨hh, hfits⟩ := copyOk_fits hok
  obtain ⟨hfit, hw, hmodef, hsidef⟩ := copy_fields (h := h) (g := h.guard.isSome) (imm := copyImm c) (side := srca) hfits
    (hmode.trans (by decide))
  obtain ⟨himm, hc2, hc3⟩ := coord_fields hfits.c2 hfits.c3
  refine decodeGroup_plain hh hfit fun _ r hop hx => ?_
  unfold decodeExt
  rw [hop, hx]
  refine judge_ok (hw.rsv hfits (and_sixtythree hfit.mod) (and_immAll himm)) ?_ ?_
  · rw [hw.fld hfits, hmodef]
    exact decide_eq_false (by omega)
  · rw [hmodef, hsidef, hw.arg, copyImm, hc2, hc3]

theorem copyh_roundTrips (h : Hdr) (mode d : Nat) (c : CopyArg) : RoundTrips (.copyh h mode d c) := by
  intro r hwf he
  cases he
  delta Instr.wf at hwf
  simp only [lt, Bool.and_eq_true, decide_eq_true_eq] at hwf
  obtain ⟨hok, hmode⟩ := hwf
  obtain ⟨hh, hfits⟩ := copyOk_fits hok
  obtain ⟨hfit, hw, hmodef, -⟩ := copy_fields (h := h) (g := h.guard.isSome) (imm := copyImm c) (side := false) hfits
    (hmode.trans (by decide))
  obtain ⟨himm, hc2, hc3⟩ := coord_fields hfits.c2 hfits.c3
  have hb := bit_lt c.ctr.isSome
  have hsc := hfits.scope
  have hmod : mode + bit false * 32 + c.scope * 4 + bit c.ctr.isSome * 16 < 32 := by
    have hz : bit false = 0 := rfl
    omega
  change decodeGroup (encCopy h 0x6B (mode + bit false * 32) d c (copyImm c)) = _
  refine decodeGroup_plain hh hfit fun _ r hop hx => ?_
  unfold decodeExt
  rw [hop, hx]
  refine judge_ok (hw.rsv hfits (and_thirtyone hmod) (and_immAll himm)) ?_ ?_
  · rw [hw.fld hfits, hmodef]
    exact decide_eq_false (by omega)
  · rw [hmodef, hw.arg, copyImm, hc2, hc3]

end Sys2Proof.Proofs.Encodings
end

section
/-!
SUPPORT. The round trip of a group's collective, tape, directory, census and near-memory instructions (R212 to R216,
R264, R276, R287 to R296, R355).
-/

namespace Sys2Proof.Proofs.Encodings

open Sys2Proof
open Sys2Proof.Proofs.Fields
open Sys2Proof.Proofs.RhizoidWords (bit_lt bitAt_bit)

/-- A source below 64 that a literal may replace, as the engines' decoders bound it. -/
theorem SrcFits.below {h : Hdr} {s : Src} (hs : SrcFits h 64 s) : decide (63 < s.num) = false :=
  decide_eq_false (Nat.not_lt.mpr (Nat.le_of_lt_succ hs.num))

theorem dirlook_roundTrips (h : Hdr) (mode d : Nat) (a b : Src) : RoundTrips (.dirlook h mode d a b) := by
  intro r hwf he
  cases he
  delta Instr.wf at hwf
  simp only [lt, Bool.and_eq_true, decide_eq_true_eq] at hwf
  obtain ⟨⟨⟨hh, hmode⟩, hd⟩, hab⟩ := hwf
  by_cases hkey : mode = 2
  · subst hkey
    simp only [if_true, Bool.and_eq_true] at hab ⊢
    obtain ⟨ha, hb⟩ := hab
    obtain ⟨hfits, -, hs, hnum⟩ := src_fits (by decide) hh hb
    cases a with
    | imm | lit => cases ha
    | reg n =>
      have hn : n < 64 := of_decide_eq_true ha
      change decodeGroup (encExt h 0x75 3 2 d n b.num 0 0 b.litBits) = _
      refine decodeGroup_src hfits hs (by constructor <;> omega) fun r hop hx => ?_
      unfold decodeExt
      rw [hop, hx]
      refine ext_ok ?_ ?_ (by simp only [hs.src]; rfl)
      · simpa [rsvBad, XF.isLit] using hs.zero
      · simp [hs.below]
        omega
  · simp only [if_neg hkey, Bool.and_eq_true, beq_iff_eq] at hab ⊢
    obtain ⟨ha, rfl⟩ := hab
    obtain ⟨hfits, -, hs, hnum⟩ := src_fits (by decide) hh ha
    refine decodeGroup_src hfits hs ⟨by decide, by omega, by omega, by omega, by decide, by decide⟩ fun r hop hx => ?_
    have hmod : mode % 4 = mode := by omega
    have hne : (mode == 2) = false := beq_eq_false_iff_ne.mpr hkey
    have hthree : (mode == 3) = false := beq_eq_false_iff_ne.mpr (by omega)
    unfold decodeExt
    rw [hop, hx]
    refine Eq.trans (b := decodeDir _) rfl ?_
    simp only [decodeDir, hmod, hne, hthree]
    refine ext_ok ?_ ?_ (by simp only [hs.src]; rfl)
    · simpa [rsvBad, XF.isLit, Src.num, and_three (hmode.trans (by decide))] using hs.zero
    · simp [hs.below]
      omega

/-- Copy, collective, tape, directory, census and near-memory instructions. -/
theorem engine_roundTrips {i : Instr} (hch : chapterOf i = .engine) : RoundTrips i := by
  intro r hwf he
  cases i with
  | copy h mode d side c => exact copy_roundTrips h mode d side c r hwf he
  | copym h ws side m c => exact copym_roundTrips h ws side m c r hwf he
  | copyp h mode d srca c => exact copyp_roundTrips h mode d srca c r hwf he
  | copyh h mode d c => exact copyh_roundTrips h mode d c r hwf he
  | dirlook h mode d a b => exact dirlook_roundTrips h mode d a b r hwf he
  | cbatch h d =>
    cases he
    delta Instr.wf at hwf
    simp only [lt, Bool.and_eq_true, decide_eq_true_eq] at hwf
    refine decodeGroup_plain hwf.1 (by constructor <;> omega) fun hfs r hop hx => ?_
    unfold decodeExt
    rw [hop, hx]
    exact ext_ok (by simp [rsvBad, hfs]) (by simp; omega) rfl
  | opfence h | revm h | fwdm h =>
    cases he
    refine decodeGroup_plain hwf (by constructor <;> decide) fun _ r hop hx => ?_
    unfold decodeExt
    rw [hop, hx]
    exact ext_ok (by simp [rsvBad]) rfl rfl
  | aexport | aexportRev | tapemark | tapemarkCut =>
    cases he
    delta Instr.wf at hwf
    simp only [lt, Bool.and_eq_true, decide_eq_true_eq] at hwf
    refine decodeGroup_plain (ll := true) (by simp only [hwf]) (by constructor <;> omega) fun _ r hop hx => ?_
    unfold decodeExt
    rw [hop, hx]
    exact ext_ok (by simp [rsvBad, bitAt]) (by simp; omega) (by simp [bitAt])
  | tapespill | tapefill | respond =>
    cases he
    delta Instr.wf at hwf
    simp only [lt, Bool.and_eq_true, decide_eq_true_eq] at hwf
    refine decodeGroup_plain (ll := true) (by simp only [hwf]) (by constructor <;> omega) fun _ r hop hx => ?_
    unfold decodeExt
    rw [hop, hx]
    exact ext_ok (by simp [rsvBad]) (by simp; omega) rfl
  | cwaitb h d n =>
    cases he
    delta Instr.wf at hwf
    simp only [lt, Bool.and_eq_true, decide_eq_true_eq] at hwf
    obtain ⟨⟨hh, hd⟩, hn⟩ := hwf
    obtain ⟨hnum, hrsv, hsrc⟩ := pushed_field (h := h) (g := h.guard.isSome) (d := d) hn
    have himm := bit_lt n.isImm
    refine decodeGroup_plain hh (by constructor <;> omega) fun _ r hop hx => ?_
    unfold decodeExt
    rw [hop, hx]
    exact ext_ok hrsv (by simp; omega) (by rw [hsrc])
  | collAr h ty sc a | collRs h ty sc a | collAg h ty sc a | collBc h ty sc a =>
    cases he
    delta Instr.wf at hwf
    simp only [lt, Bool.and_eq_true, decide_eq_true_eq] at hwf
    obtain ⟨⟨⟨⟨hh, hty⟩, htwo⟩, hsc⟩, ha⟩ := hwf
    obtain ⟨hmod, htyf, hscf⟩ := coll_mods hty hsc
    refine decodeGroup_plain hh (by constructor <;> omega) fun _ r hop hx => ?_
    unfold decodeExt
    rw [hop, hx]
    exact ext_ok (by simp [rsvBad, and_fifteen hmod]) (by simp [htyf, hscf]; omega) (by simp only [htyf, hscf])
  | fmtsel h b d a t =>
    cases he
    delta Instr.wf at hwf
    simp only [lt, Bool.and_eq_true, decide_eq_true_eq] at hwf
    obtain ⟨⟨⟨hh, hd⟩, ha⟩, ht⟩ := hwf
    have hb := bit_lt b
    refine decodeGroup_plain hh (by constructor <;> omega) fun _ r hop hx => ?_
    unfold decodeExt
    rw [hop, hx]
    exact ext_ok (by simp [rsvBad, and_one hb]) (by simp; omega) (by simp)
  | dirins h d key loc dens =>
    cases he
    delta Instr.wf at hwf
    simp only [lt, Bool.and_eq_true, decide_eq_true_eq] at hwf
    obtain ⟨⟨⟨hh, hd⟩, hkey⟩, hloc⟩ := hwf
    obtain ⟨hfits, -, hs, hnum⟩ := src_fits (by decide) hh hloc
    have hdens : dens.toNat &&& 255 = dens.toNat := and_mask (k := 8) dens.isLt
    refine decodeGroup_src hfits hs (by constructor <;> omega) fun r hop hx => ?_
    unfold decodeExt
    rw [hop, hx]
    refine ext_ok ?_ (by simp [hs.below]; omega) (by simp [hs.src])
    simpa [rsvBad, XF.isLit, hdens] using hs.zero
  | dirdel h d a =>
    cases he
    delta Instr.wf at hwf
    simp only [lt, Bool.and_eq_true, decide_eq_true_eq] at hwf
    obtain ⟨⟨hh, hd⟩, ha⟩ := hwf
    obtain ⟨hfits, -, hs, hnum⟩ := src_fits (by decide) hh ha
    refine decodeGroup_src hfits hs (by constructor <;> omega) fun r hop hx => ?_
    unfold decodeExt
    rw [hop, hx]
    refine ext_ok ?_ (by simp [hs.below]; omega) (by simp [hs.src])
    simpa [rsvBad, XF.isLit] using hs.zero
  | dirmove h d a core loc =>
    cases he
    delta Instr.wf at hwf
    simp only [lt, Bool.and_eq_true, decide_eq_true_eq] at hwf
    obtain ⟨⟨⟨⟨hh, hd⟩, ha⟩, hcore⟩, hloc⟩ := hwf
    obtain ⟨hfits, -, hs, hnum⟩ := src_fits (by decide) hh hloc
    refine decodeGroup_src hfits hs (by constructor <;> omega) fun r hop hx => ?_
    unfold decodeExt
    rw [hop, hx]
    refine ext_ok ?_ (by simp [hs.below]; omega) (by simp [hs.src])
    simpa [rsvBad, XF.isLit] using hs.zero
  | solicit h op pod q a =>
    cases he
    delta Instr.wf at hwf
    simp only [lt, Bool.and_eq_true, decide_eq_true_eq] at hwf
    obtain ⟨⟨⟨hh, hop⟩, hq⟩, ha⟩ := hwf
    obtain ⟨hfits, -, hs, hnum⟩ := src_fits (by decide) hh ha
    have hpod := bit_lt pod
    have hopf : (op + bit pod * 8) % 8 = op := by omega
    have hpodf : bitAt (op + bit pod * 8) 3 = pod := bitAt_bits 3 (by omega)
    have hmask : (op + bit pod * 8) &&& 15 = op + bit pod * 8 := and_fifteen (by omega)
    refine decodeGroup_src hfits hs (by constructor <;> omega) fun r hop hx => ?_
    unfold decodeExt
    rw [hop, hx]
    refine ext_ok ?_ (by simp [hs.below, hopf]; omega) (by simp only [hopf, hpodf, hs.src])
    simpa [rsvBad, XF.isLit, hmask] using hs.zero
  | nmpost h sc q a =>
    cases he
    delta Instr.wf at hwf
    simp only [lt, Bool.and_eq_true, decide_eq_true_eq] at hwf
    obtain ⟨⟨⟨⟨hh, hone⟩, hsc⟩, hq⟩, ha⟩ := hwf
    have hsome := bit_lt q.isSome
    have hscf : (sc + bit q.isSome * 4) % 4 = sc := by omega
    have hqf : bitAt (sc + bit q.isSome * 4) 2 = q.isSome := bitAt_bits 2 (by omega)
    have hmask : (sc + bit q.isSome * 4) &&& 7 = sc + bit q.isSome * 4 := and_seven (by omega)
    have hqz : (!q.isSome && q.getD 0 != 0) = false := by cases q <;> rfl
    have hqback : (if q.isSome then some (q.getD 0) else none) = q := by cases q <;> rfl
    refine decodeGroup_plain hh (by constructor <;> omega) fun _ r hop hx => ?_
    unfold decodeExt
    rw [hop, hx]
    refine ext_ok ?_ (by simp [hscf]; omega) (by simp only [hscf, hqf, hqback])
    simp only [rsvBad, hqf, hqz]
    simp [hmask]
  | nmgather h esz d a b c n =>
    cases he
    delta Instr.wf at hwf
    simp only [lt, Bool.and_eq_true, decide_eq_true_eq] at hwf
    obtain ⟨⟨⟨⟨⟨⟨⟨hh, hesz⟩, hd⟩, ha⟩, hb⟩, hc⟩, hone⟩, hn⟩ := hwf
    refine decodeGroup_plain hh (by constructor <;> omega) fun _ r hop hx => ?_
    unfold decodeExt
    rw [hop, hx]
    exact ext_ok (by simp [rsvBad, and_three hesz, and_immAll (show n < 2 ^ 32 by omega)]) (by simp; omega)
      (by simp [Nat.mod_eq_of_lt hesz])
  | _ => cases hch

end Sys2Proof.Proofs.Encodings
end

section
/-!
SUPPORT. The round trip of matrix-stream instructions (R195 to R207, R269), and with it of every group and stream
instruction.
-/

namespace Sys2Proof.Proofs.Encodings

open Sys2Proof
open Sys2Proof.Proofs.Fields
open Sys2Proof.Proofs.RhizoidWords (bit_lt bitAt_bit)

/-! ### Extended words of a stream -/

/-- The opcodes of a stream's extended words (R38, R196). -/
def streamExtOp (op : Nat) : Bool := streamAdmits op && decide (op < 128) && !decide (op = 0x01 ∨ op = 0x61)

/-- An extended word of a stream is judged by its fields alone. -/
theorem decodeStream_encExt {op sub mod d a b c imm : Nat} {lit : Option (BitVec 64)} {i : Instr}
    (hf : Fits sub mod d a b c)
    (hdec : ∀ r, opOf r.w0 = op → extFields r =
      ⟨streamHdr (if lit.isSome then .extLit else .ext), lit, sub, false, false, mod, d, a, b, c, imm⟩ →
      decodeStreamExt r = .ok i)
    (hop : streamExtOp op = true := by decide) :
    decodeStream (encExt (streamHdr (if lit.isSome then .extLit else .ext)) op sub mod d a b c imm (lit.getD 0)) =
      .ok i := by
  simp only [streamExtOp, Bool.and_eq_true, decide_eq_true_eq, Bool.not_eq_true', decide_eq_false_iff_not] at hop
  obtain ⟨⟨hadmits, hlt⟩, hnot⟩ := hop
  have hh : HdrFits (streamHdr (if lit.isSome then .extLit else .ext)) := ⟨Nat.zero_lt_succ 7, fun g hg => by cases hg⟩
  obtain ⟨hlen, -, hopf, -⟩ := extWord_fields hh hlt hf.sub hf.mod
  have hx := hdec _ hopf (extFields_encExt (imm := imm) hh rfl hlt hf)
  have htwo : ¬ lenCode (streamHdr (if lit.isSome then .extLit else .ext)).form < 2 := by cases lit <;> simp [streamHdr, lenCode]
  have hw : (encExt (streamHdr (if lit.isSome then .extLit else .ext)) op sub mod d a b c imm (lit.getD 0)).w0 =
      extWord (streamHdr (if lit.isSome then .extLit else .ext)) op sub mod := rfl
  simp only [decodeStream, hw, hopf, hadmits, hlen, if_neg htwo, if_neg hnot, Bool.not_true, Bool.false_eq_true,
    if_false]
  exact hx

/-! ### Mask selectors (R204) -/

/-- The three selectors of IMM32. -/
theorem masks_fields {m n k : Nat} (hm : m < 5) (hn : n < 5) (hk : k < 5) :
    bitsAt (m + n * 16 + k * 256) 0 3 = m ∧ bitsAt (m + n * 16 + k * 256) 4 3 = n ∧
      bitsAt (m + n * 16 + k * 256) 8 3 = k ∧ (m + n * 16 + k * 256) &&& 0x777 = m + n * 16 + k * 256 := by
  have hlow := and_fields (lo := m) (hi := n) (m := 7) (n := 7) (k := 4) (by omega) (by decide)
  have hall := and_fields (lo := m + n * 2 ^ 4) (hi := k) (m := 7 + 7 * 2 ^ 4) (n := 7) (k := 8) (by omega) (by decide)
  rw [hlow, and_seven (by omega), and_seven (by omega), and_seven (by omega)] at hall
  simp only [bitsAt]
  exact ⟨by omega, by omega, by omega, hall⟩

theorem masksOk_fields {k : Masks} (hok : masksOk k = true) : masksBad k = false ∧
    (encMasks k) &&& 0x777 = encMasks k ∧ ∀ x : XF, x.imm = encMasks k → masksOf x = k := by
  simp only [masksOk, lt, Bool.and_eq_true, decide_eq_true_eq] at hok
  obtain ⟨⟨hm, hn⟩, hk⟩ := hok
  obtain ⟨hmf, hnf, hkf, hmask⟩ := masks_fields hm hn hk
  refine ⟨by simp [masksBad]; omega, hmask, fun x hx => ?_⟩
  rw [masksOf, hx, encMasks, hmf, hnf, hkf]

/-- The selectors of FRDER, which has none for its columns (R269). -/
theorem rowMasks_fields {m k : Nat} (hm : m < 5) (hk : k < 5) : masksBad ⟨m, 0, k⟩ = false ∧
    (m + k * 256) &&& 0x707 = m + k * 256 ∧ ∀ x : XF, x.imm = m + k * 256 → masksOf x = ⟨m, 0, k⟩ := by
  have hboth := and_fields (lo := m) (hi := k) (m := 7) (n := 7) (k := 8) (by omega) (by decide)
  rw [and_seven (by omega), and_seven (by omega)] at hboth
  refine ⟨by simp [masksBad]; omega, hboth, fun x hx => ?_⟩
  simp only [masksOf, hx, bitsAt, Masks.mk.injEq]
  omega

/-- The knot number and direction of FREFINE (R269). -/
theorem refine_fields {i0 : Nat} (btr : Bool) (hi : i0 < 64) : (i0 + bit btr * 256) % 64 = i0 ∧
    bitAt (i0 + bit btr * 256) 8 = btr ∧ (i0 + bit btr * 256) &&& 0x13F = i0 + bit btr * 256 := by
  have hb := bit_lt btr
  have hboth := and_fields (lo := i0) (hi := bit btr) (m := 0x3F) (n := 1) (k := 8) (by omega) (by decide)
  rw [and_sixtythree hi, and_one hb] at hboth
  exact ⟨by omega, bitAt_bits 8 (by omega), hboth⟩

/-! ### The stream -/

/-- The forms of MSETM, for each class of mask register (R200; log entry 9). -/
theorem msetm_roundTrips (cls : MaskCls) (d : Nat) (src : MaskSrc) (r : Raw) (hwf : (Instr.msetm cls d src).wf = true)
    (he : encodeStream (.msetm cls d src) = some r) : decodeStream r = .ok (.msetm cls d src) := by
  cases he
  delta Instr.wf at hwf
  simp only [lt, Bool.and_eq_true, decide_eq_true_eq] at hwf
  obtain ⟨hd, hsrc⟩ := hwf
  cases src with
  | count n =>
    have hn : n ≤ if cls = .kk then 256 else 128 := of_decide_eq_true hsrc
    have himm : n &&& immAll = n := and_immAll (by split_ifs at hn <;> omega)
    cases cls
    all_goals
      refine decodeStream_encExt (lit := none) ⟨by decide, by decide, by omega, by decide, by decide, by decide⟩
        fun r hop hx => ?_
      unfold decodeStreamExt
      rw [hop, hx]
      exact ext_ok (by simp [rsvBad, streamHdr, bitAt, himm]) (by simpa [bitAt] using ⟨by omega, hn⟩)
        (by simp [bitAt])
  | countLit n c =>
    have hn : n ≤ if cls = .kk then 256 else 128 := of_decide_eq_true hsrc
    have himm : n &&& immAll = n := and_immAll (by split_ifs at hn <;> omega)
    cases cls
    all_goals
      refine decodeStream_encExt (lit := some c) ⟨by decide, by decide, by omega, by decide, by decide, by decide⟩
        fun r hop hx => ?_
      unfold decodeStreamExt
      rw [hop, hx]
      exact ext_ok (by simp [rsvBad, streamHdr, bitAt, himm]) (by simpa [bitAt] using ⟨by omega, hn⟩)
        (by simp [bitAt])
  | reg x =>
    simp only [Bool.and_eq_true, decide_eq_true_eq, beq_iff_eq] at hsrc
    obtain ⟨hreg, halign⟩ := hsrc
    cases cls
    all_goals
      refine decodeStream_encExt (lit := none) ⟨by decide, by decide, by omega, by omega, by decide, by decide⟩
        fun r hop hx => ?_
      unfold decodeStreamExt
      rw [hop, hx]
      exact ext_ok (by simp [rsvBad, streamHdr, bitAt, XF.isLit])
        (by simpa [bitAt, XF.isLit] using ⟨by omega, by omega, halign⟩) (by simp [bitAt])
  | lit c =>
    cases cls
    all_goals
      refine decodeStream_encExt (lit := some c) ⟨by decide, by decide, by omega, by decide, by decide, by decide⟩
        fun r hop hx => ?_
      unfold decodeStreamExt
      rw [hop, hx]
      exact ext_ok (by simp [rsvBad, streamHdr, bitAt]) (by simp [bitAt, XF.isLit]; omega) (by simp [bitAt])

/-- The words of a well-formed instruction of a stream decode to it. -/
theorem stream_roundTrips {i : Instr} {r : Raw} (hwf : i.wf = true) (he : encodeStream i = some r) :
    decodeStream r = .ok i := by
  cases i with
  | mma acc xa ws xf neg nacc k =>
    cases he
    delta Instr.wf at hwf
    simp only [lt, Bool.and_eq_true, decide_eq_true_eq, beq_iff_eq] at hwf
    obtain ⟨⟨⟨⟨⟨hacc, hxa⟩, hws⟩, hxf⟩, heven⟩, hk⟩ := hwf
    obtain ⟨hbad, hmask, hmasks⟩ := masksOk_fields hk
    have hneg := bit_lt neg
    have hnacc := bit_lt nacc
    have hmod : (bit neg + bit nacc * 2) &&& 3 = bit neg + bit nacc * 2 := and_three (by omega)
    have hnegf : bitAt (bit neg + bit nacc * 2) 0 = neg := bitAt_bits 0 (by omega)
    have hnaccf : bitAt (bit neg + bit nacc * 2) 1 = nacc := bitAt_bits 1 (by omega)
    refine decodeStream_encExt (lit := none) (by constructor <;> omega) fun r hop hx => ?_
    unfold decodeStreamExt
    rw [hop, hx]
    refine ext_ok (by simp [rsvBad, streamHdr, hmod, hmask]) ?_ ?_
    · rw [hmasks _ rfl]
      simp [hbad, heven]
      omega
    · rw [hmasks _ rfl, hnegf, hnaccf]
  | mwait b =>
    cases he
    have hb : b < 16 := of_decide_eq_true hwf
    refine decodeStream_encExt (lit := none) (by constructor <;> omega) fun r hop hx => ?_
    unfold decodeStreamExt
    rw [hop, hx]
    exact ext_ok (by simp [rsvBad, streamHdr]) (by simp; omega) rfl
  | mdrain xd acc xc k =>
    cases he
    delta Instr.wf at hwf
    simp only [lt, Bool.and_eq_true, decide_eq_true_eq, beq_iff_eq] at hwf
    obtain ⟨⟨⟨⟨⟨⟨hxd, hdeven⟩, hacc⟩, hxc⟩, hceven⟩, hk⟩, hkks⟩ := hwf
    obtain ⟨hbad, hmask, hmasks⟩ := masksOk_fields hk
    refine decodeStream_encExt (lit := none) (by constructor <;> omega) fun r hop hx => ?_
    unfold decodeStreamExt
    rw [hop, hx]
    refine ext_ok (by simp [rsvBad, streamHdr, hmask]) ?_ (by rw [hmasks _ rfl])
    rw [hmasks _ rfl]
    simp [hbad, hdeven, hceven, hkks]
    omega
  | maccst acc src mov k =>
    cases he
    delta Instr.wf at hwf
    simp only [lt, Bool.and_eq_true, decide_eq_true_eq, beq_iff_eq] at hwf
    obtain ⟨⟨⟨hacc, hsrc⟩, hk⟩, hkks⟩ := hwf
    obtain ⟨hbad, hmask, hmasks⟩ := masksOk_fields hk
    have hmov := bit_lt mov
    refine decodeStream_encExt (lit := none) ⟨by decide, by omega, by omega, by split_ifs at hsrc <;> omega, by decide, by decide⟩
      fun r hop hx => ?_
    unfold decodeStreamExt
    rw [hop, hx]
    refine ext_ok (by simp [rsvBad, streamHdr, and_one hmov, hmask]) ?_ (by rw [hmasks _ rfl]; simp)
    rw [hmasks _ rfl]
    cases mov
    all_goals
      simp only [Bool.false_eq_true, if_false, if_true] at hsrc
      simp [hbad, hkks]
      omega
  | msig b n =>
    cases he
    delta Instr.wf at hwf
    simp only [lt, Bool.and_eq_true, decide_eq_true_eq] at hwf
    obtain ⟨⟨hb, hone⟩, hn⟩ := hwf
    refine decodeStream_encExt (lit := none) (by constructor <;> omega) fun r hop hx => ?_
    unfold decodeStreamExt
    rw [hop, hx]
    exact ext_ok (by simp [rsvBad, streamHdr, and_immAll (show n < 2 ^ 32 by omega)]) (by simp; omega) rfl
  | msetm cls d src => exact msetm_roundTrips cls d src r hwf he
  | mfmt mode d a c =>
    cases he
    delta Instr.wf at hwf
    simp only [lt, Bool.and_eq_true, decide_eq_true_eq] at hwf
    obtain ⟨⟨⟨hmode, hd⟩, heven⟩, ha⟩ := hwf
    have ha32 : a < 32 ∧ (mode = 1 → a = 0) := by split_ifs at ha <;> simp at ha <;> omega
    have hmodef : mode % 4 = mode := by omega
    have hevenf : (mode == 0 && d % 2 == 1) = false := even_fld heven
    refine decodeStream_encExt (lit := none) (by constructor <;> omega) fun r hop hx => ?_
    unfold decodeStreamExt
    rw [hop, hx]
    refine ext_ok ?_ ?_ (by simp only [hmodef, BitVec.ofNat_toNat, BitVec.setWidth_eq])
    · simpa [rsvBad, streamHdr, hmodef, and_three (show mode < 4 by omega), and_immAll c.isLt] using ha32.2
    · simp only [hmodef, hevenf]
      simp
      omega
  | munf plain a c =>
    cases he
    delta Instr.wf at hwf
    have hbit := bit_lt plain
    cases plain with
    | true =>
      simp only [if_true, Bool.and_eq_true, decide_eq_true_eq, beq_iff_eq] at hwf
      obtain ⟨⟨rfl, hc⟩, heven⟩ := hwf
      refine decodeStream_encExt (lit := none) (by constructor <;> omega) fun r hop hx => ?_
      unfold decodeStreamExt
      rw [hop, hx]
      exact ext_ok (by simp [rsvBad, streamHdr, bit, bitAt, and_immAll c.isLt]) (by simp [heven]; omega) (by simp)
    | false =>
      have ha : a < 32 := of_decide_eq_true hwf
      refine decodeStream_encExt (lit := none) (by constructor <;> omega) fun r hop hx => ?_
      unfold decodeStreamExt
      rw [hop, hx]
      exact ext_ok (by simp [rsvBad, streamHdr, bit, bitAt, and_immAll c.isLt]) (by simp; omega) (by simp)
  | mloop x a c =>
    cases he
    delta Instr.wf at hwf
    have hbit := bit_lt x
    cases x with
    | true =>
      simp only [if_true, lt, Bool.and_eq_true, decide_eq_true_eq, beq_iff_eq] at hwf
      obtain ⟨ha, rfl⟩ := hwf
      refine decodeStream_encExt (lit := none) (by constructor <;> omega) fun r hop hx => ?_
      unfold decodeStreamExt
      rw [hop, hx]
      exact ext_ok (by simp [rsvBad, streamHdr, bit, bitAt]) (by simp; omega) (by simp)
    | false =>
      have ha : a = 0 := eq_of_beq hwf
      subst ha
      refine decodeStream_encExt (lit := none) (by constructor <;> omega) fun r hop hx => ?_
      unfold decodeStreamExt
      rw [hop, hx]
      exact ext_ok (by simp [rsvBad, streamHdr, bit, bitAt, and_immAll c.isLt]) rfl (by simp)
  | mend =>
    cases he
    rfl
  | knotset d a =>
    cases he
    delta Instr.wf at hwf
    simp only [lt, Bool.and_eq_true, decide_eq_true_eq] at hwf
    refine decodeStream_encExt (lit := none) (by constructor <;> omega) fun r hop hx => ?_
    unfold decodeStreamExt
    rw [hop, hx]
    exact ext_ok (by simp [rsvBad, streamHdr]) (by simp; omega) rfl
  | frder accd acca xa xf k =>
    cases he
    delta Instr.wf at hwf
    simp only [lt, Bool.and_eq_true, decide_eq_true_eq, beq_iff_eq] at hwf
    obtain ⟨⟨⟨⟨⟨⟨⟨haccd, hacca⟩, hxa⟩, hxf⟩, heven⟩, hm⟩, hn⟩, hkk⟩ := hwf
    obtain ⟨mks, nks, kks⟩ := k
    cases hn
    obtain ⟨hbad, hmask, hmasks⟩ := rowMasks_fields hm hkk
    refine decodeStream_encExt (lit := none) (by constructor <;> omega) fun r hop hx => ?_
    unfold decodeStreamExt
    rw [hop, hx]
    refine ext_ok (by simp [rsvBad, streamHdr, hmask]) ?_ (by rw [hmasks _ rfl])
    rw [hmasks _ rfl]
    simp [hbad, heven]
    omega
  | frgrad xd acca xa xf k =>
    cases he
    delta Instr.wf at hwf
    simp only [lt, Bool.and_eq_true, decide_eq_true_eq, beq_iff_eq] at hwf
    obtain ⟨⟨⟨⟨⟨hxd, hacca⟩, hxa⟩, hxf⟩, heven⟩, hk⟩ := hwf
    obtain ⟨hbad, hmask, hmasks⟩ := masksOk_fields hk
    refine decodeStream_encExt (lit := none) (by constructor <;> omega) fun r hop hx => ?_
    unfold decodeStreamExt
    rw [hop, hx]
    refine ext_ok (by simp [rsvBad, streamHdr, hmask]) ?_ (by rw [hmasks _ rfl])
    rw [hmasks _ rfl]
    simp [hbad, heven]
    omega
  | frefine accd ws kna knd i0 btr =>
    cases he
    delta Instr.wf at hwf
    simp only [lt, Bool.and_eq_true, decide_eq_true_eq] at hwf
    obtain ⟨⟨⟨⟨haccd, hws⟩, hkna⟩, hknd⟩, hi⟩ := hwf
    obtain ⟨hif, hbf, hmask⟩ := refine_fields btr hi
    refine decodeStream_encExt (lit := none) (by constructor <;> omega) fun r hop hx => ?_
    unfold decodeStreamExt
    rw [hop, hx]
    exact ext_ok (by simp [rsvBad, streamHdr, hmask]) (by simp; omega) (by rw [hif, hbf])
  | _ => cases he

/-- The instructions outside the chapters have no group word. -/
theorem encodeGroup_of_other {i : Instr} (hch : chapterOf i = .other) : encodeGroup i = none := by
  cases i
  any_goals rfl
  all_goals cases hch

/-- The words of a well-formed instruction of a group decode to it. -/
theorem group_roundTrips (i : Instr) : RoundTrips i := by
  cases hch : chapterOf i with
  | control => exact control_roundTrips hch
  | uniform => exact uniform_roundTrips hch
  | vector => exact vector_roundTrips hch
  | float => exact float_roundTrips hch
  | memory => exact memory_roundTrips hch
  | engine => exact engine_roundTrips hch
  | other => exact fun r _ he => by simp only [encodeGroup_of_other hch, reduceCtorEq] at he

/-- Settles O58: every encoder form, opcode by opcode, against the decoder's reading of its fields. -/
theorem streamRoundTrip : Obligations.StreamRoundTrip :=
  ⟨fun _ _ => stream_roundTrips, fun i r => group_roundTrips i r⟩

end Sys2Proof.Proofs.Encodings
end

section
/-! SUPPORT. What keeps the memory of homes and the buffers of the cores in canonical form: the ways in which
operations of
the machine hand on a state, each with the claim that the state it hands on is in canonical form. -/

namespace Sys2Proof.Machine

/-! ### Cores -/

/-- The buffers of a core are in canonical form. -/
def CoreOk (c : Core) : Prop := c.abuf.wf = true ∧ c.cbuf.wf = true ∧ c.wbuf.wf = true

/-- Every core of a list is in canonical form. -/
def CoresOk (l : List (Nat × Core)) : Prop := ∀ c ∈ l, CoreOk c.2

theorem MemOk.mem {s} (h : MemOk s) : s.mem.wf = true := h.1

theorem MemOk.cores {s} (h : MemOk s) : CoresOk s.work.cores := h.2

theorem memOk_intro {s : State} (hm : s.mem.wf = true) (hc : CoresOk s.work.cores) : MemOk s := ⟨hm, hc⟩

theorem MemOk.withMem {s : State} {m : Memory} (h : MemOk s) (hm : m.wf = true) : MemOk { s with mem := m } :=
  memOk_intro hm h.cores

/-- Whatever a state holds beside memory and the cores does not matter. -/
theorem MemOk.frame {s : State} {clock teams grids disp ops copies colls nmPosted later drained defer cen units ctl host
    firm fab pow ctlb nextId fresh turn cur agenda} (h : MemOk s) :
    MemOk ⟨clock, s.mem, ⟨s.work.cores, teams, grids, disp, ops, copies, colls, nmPosted, later, drained⟩, defer, cen,
      units, ctl, host, firm, fab, pow, ctlb, nextId, fresh, turn, cur, agenda⟩ := h

theorem coreOk_reset : CoreOk Core.reset := ⟨rfl, rfl, rfl⟩

theorem CoresOk.aGet {l : List (Nat × Core)} {n : Nat} {c : Core} (h : CoresOk l) (e : aGet l n = some c) :
    CoreOk c := by
  induction l with
  | nil => cases e
  | cons x r ih =>
    obtain ⟨k, v⟩ := x
    unfold Machine.aGet at e
    split at e
    · cases e
      exact h _ (List.mem_cons_self ..)
    · exact ih (fun c hc => h c (List.mem_cons_of_mem _ hc)) e

theorem CoresOk.aSet {l : List (Nat × Core)} {n : Nat} {c : Core} (h : CoresOk l) (hc : CoreOk c) :
    CoresOk (aSet l n c) := by
  induction l with
  | nil => simpa [Machine.aSet, CoresOk] using hc
  | cons x r ih =>
    obtain ⟨k, v⟩ := x
    have hv : CoreOk v := h _ (List.mem_cons_self ..)
    have hr : CoresOk r := fun c hc => h c (List.mem_cons_of_mem _ hc)
    unfold Machine.aSet
    split
    · exact List.forall_mem_cons.2 ⟨hc, List.forall_mem_cons.2 ⟨hv, hr⟩⟩
    · split
      · exact List.forall_mem_cons.2 ⟨hc, hr⟩
      · exact List.forall_mem_cons.2 ⟨hv, ih hr⟩

theorem CoresOk.map {l : List (Nat × Core)} {f : Nat × Core → Nat × Core} (h : CoresOk l)
    (hf : ∀ {c}, CoreOk c.2 → CoreOk (f c).2) : CoresOk (l.map f) :=
  List.forall_mem_map.2 fun c hc => hf (h c hc)

theorem CoreOk.foldl {α : Type} {l : List α} {f : Core → α → Core} {c : Core} (h : CoreOk c)
    (hf : ∀ {c x}, CoreOk c → CoreOk (f c x)) : CoreOk (l.foldl f c) :=
  List.foldlRecOn l f h fun _ hc _ _ => hf hc

protected theorem MemOk.coreOf {s n} (h : MemOk s) : CoreOk (coreOf s n) := by
  unfold coreOf
  cases e : aGet s.work.cores n with
  | none => exact coreOk_reset
  | some c => exact h.cores.aGet e

protected theorem MemOk.setCore {s n c} (h : MemOk s) (hc : CoreOk c) : MemOk (setCore s n c) :=
  memOk_intro h.mem (h.cores.aSet hc)

protected theorem MemOk.updCore {s n f} (h : MemOk s) (hf : ∀ {c}, CoreOk c → CoreOk (f c)) :
    MemOk (updCore s n f) :=
  h.setCore (hf h.coreOf)

/-! ### Ways to hand on a state -/

/-- Of a list of memory writes, each of which keeps the canonical form. -/
theorem wf_foldl {α : Type} {l : List α} {f : Memory → α → Memory} {m : Memory} (h : m.wf = true)
    (hf : ∀ {m x}, m.wf = true → (f m x).wf = true) : (l.foldl f m).wf = true :=
  List.foldlRecOn (motive := fun m => m.wf = true) l f h fun _ hm _ _ => hf hm

theorem ok_of_eq {α : Sort*} (K : α → Prop) {a b : α} (e : a = b) (h : K a) : K b := e ▸ h

theorem ok_ite {α : Sort*} {K : α → Prop} {p : Prop} [Decidable p] {a b : α} (ha : K a) (hb : K b) :
    K (if p then a else b) := by
  split
  · exact ha
  · exact hb

theorem MemOk.foldl {α : Type} {l : List α} {f : State → α → State} {s : State} (h : MemOk s)
    (hf : ∀ {s x}, MemOk s → MemOk (f s x)) : MemOk (l.foldl f s) :=
  List.foldlRecOn l f h fun _ hs _ _ => hf hs

/-- The state that an outcome goes on with is in canonical form. -/
inductive Kept : Host.Outcome State Fault Refusal → Prop
  | next {s} : MemOk s → Kept (.next s)
  | fault {f} : Kept (.fault f)
  | refused {r} : Kept (.refused r)

/-- The state that the body of a group's instruction hands on is in canonical form. -/
inductive BodyOk : Body → Prop
  | done {s} : MemOk s → BodyOk (.done s)
  | jump {s pc hold} : MemOk s → BodyOk (.jump s pc hold)
  | trap {r} : BodyOk (.trap r)
  | stop {s} : MemOk s → BodyOk (.stop s)
  | held : BodyOk .held

/-- The state that the body of a stream's instruction hands on is in canonical form. -/
inductive SBodyOk : SBody → Prop
  | done {s hold} : MemOk s → SBodyOk (.done s hold)
  | jump {s pc} : MemOk s → SBodyOk (.jump s pc)
  | trap {c pc addr info} : SBodyOk (.trap c pc addr info)
  | wait {s} : MemOk s → SBodyOk (.wait s)
  | held : SBodyOk .held

/-- The state that a unit's instruction hands on is in canonical form. -/
inductive ZResOk : ZRes → Prop
  | done {s z} : MemOk s → ZResOk (.done s z)
  | jump {s z pc} : MemOk s → ZResOk (.jump s z pc)
  | wait {s} : MemOk s → ZResOk (.wait s)
  | stop {c row} : ZResOk (.stop c row)

/-- The state in which a group's instruction would issue is in canonical form. -/
inductive PrepOk : Prep → Prop
  | none : PrepOk .none
  | held {s} : MemOk s → PrepOk (.held s)
  | trap {s} : MemOk s → PrepOk (.trap s)
  | go {c s} : MemOk s → PrepOk (.go c s)

/-- The state after a fetch is in canonical form. -/
inductive FetchOk : FetchR → Prop
  | bytes {b s} : MemOk s → FetchOk (.bytes b s)
  | bad {c va} : FetchOk (.bad c va)
  | held : FetchOk .held

/-- The state after a skip over a loop's body is in canonical form. -/
inductive SkipOk : Skip → Prop
  | to {pc s} : MemOk s → SkipOk (.to pc s)
  | bad {c pc addr} : SkipOk (.bad c pc addr)
  | held : SkipOk .held

/-- The state of an access under way is in canonical form. -/
def PerfOk (p : Perf) : Prop := MemOk p.s

/-- The state that an operation may give is in canonical form. -/
inductive OptOk : Option State → Prop
  | some {s} : MemOk s → OptOk (some s)
  | none : OptOk none

/-- The access that an operation may give is in canonical form. -/
inductive OptPerfOk : Option Perf → Prop
  | some {p} : PerfOk p → OptPerfOk (some p)
  | none : OptPerfOk none

/-- The state of a pair is in canonical form. -/
def FstOk {α : Type} (x : State × α) : Prop := MemOk x.1

/-- The state of a pair that an operation may give is in canonical form. -/
inductive OptFstOk {α : Type} : Option (State × α) → Prop
  | some {x} : FstOk x → OptFstOk (some x)
  | none : OptFstOk none

/-- The state of a pair, its second part, is in canonical form. -/
def SndOk {α : Type} (x : α × State) : Prop := MemOk x.2

/-- The state that an operation gives, where it meets no cause, is in canonical form. -/
inductive ExcOk {α : Type} : Except α State → Prop
  | ok {s} : MemOk s → ExcOk (.ok s)
  | error {e} : ExcOk (.error e)

theorem PerfOk.foldl {α : Type} {l : List α} {f : Perf → α → Perf} {p : Perf} (h : PerfOk p)
    (hf : ∀ {p x}, PerfOk p → PerfOk (f p x)) : PerfOk (l.foldl f p) :=
  List.foldlRecOn l f h fun _ hp _ _ => hf hp

theorem SndOk.foldl {α β : Type} {l : List β} {f : α × State → β → α × State} {x : α × State} (h : SndOk x)
    (hf : ∀ {x y}, SndOk x → SndOk (f x y)) : SndOk (l.foldl f x) :=
  List.foldlRecOn l f h fun _ hx _ _ => hf hx

theorem OptOk.getD {o : Option State} {s : State} (h : OptOk o) (hs : MemOk s) : MemOk (o.getD s) := by
  cases h with
  | none => exact hs
  | some hx => exact hx

theorem OptOk.next_getD {o : Option State} {f : Fault} (h : OptOk o) : Kept ((o.map .next).getD (.fault f)) := by
  cases h with
  | none => exact .fault
  | some hx => exact .next hx

theorem OptOk.map {o : Option State} {f : State → State} (h : OptOk o) (hf : ∀ {s}, MemOk s → MemOk (f s)) :
    OptOk (o.map f) := by
  cases h with
  | none => exact .none
  | some hx => exact .some (hf hx)

theorem OptFstOk.map {α β : Type} {o : Option (State × α)} {f : State × α → State × β} (h : OptFstOk o)
    (hf : ∀ {x}, FstOk x → FstOk (f x)) : OptFstOk (o.map f) := by
  cases h with
  | none => exact .none
  | some hx => exact .some (hf hx)

/-! ### Moves -/

/-- A move keeps memory and the buffers in canonical form. -/
def MoveOk (f : Move) : Prop := ∀ {s}, MemOk s → Kept (f s)

/-- Every move of a list does. -/
def MovesOk (l : List Move) : Prop := ∀ f ∈ l, MoveOk f

theorem movesOk_nil : MovesOk [] := fun _ hf => nomatch hf

theorem MovesOk.cons {f : Move} {l : List Move} (hf : ∀ {s}, MemOk s → Kept (f s)) (hl : MovesOk l) :
    MovesOk (f :: l) :=
  List.forall_mem_cons.2 ⟨hf, hl⟩

theorem MovesOk.append {l m : List Move} (hl : MovesOk l) (hm : MovesOk m) : MovesOk (l ++ m) :=
  List.forall_mem_append.2 ⟨hl, hm⟩

theorem movesOk_map {α : Type} {l : List α} {f : α → Move} (hf : ∀ x {s}, MemOk s → Kept (f x s)) :
    MovesOk (l.map f) :=
  List.forall_mem_map.2 fun x _ => hf x

theorem movesOk_flatMap {α : Type} {l : List α} {f : α → List Move} (hf : ∀ x, MovesOk (f x)) :
    MovesOk (l.flatMap f) :=
  List.forall_mem_flatMap.2 fun x _ => hf x

end Sys2Proof.Machine
end

section
/-! SUPPORT. Memory and the buffers of the cores stay in canonical form: the state operations, the issue of an
instruction, and memory accesses. -/

namespace Sys2Proof.Machine

/-! ### The issue of an instruction, traps and results -/

protected theorem MemOk.updTeam {s tid f} (h : MemOk s) : MemOk (updTeam s tid f) := h

protected theorem MemOk.updGroup {s tid gid f} (h : MemOk s) : MemOk (updGroup s tid gid f) := h

protected theorem MemOk.updCtx {s n f} (h : MemOk s) : MemOk (updCtx s n f) := h

protected theorem MemOk.updGrid {s uid f} (h : MemOk s) : MemOk (updGrid s uid f) := h

protected theorem MemOk.setOps {s f} (h : MemOk s) : MemOk (setOps s f) := h

protected theorem MemOk.bump {s} (h : MemOk s) : MemOk (bump s) := h

protected theorem MemOk.bumpId {s} (h : MemOk s) : MemOk (bumpId s) := h

protected theorem MemOk.report {s r} (h : MemOk s) : MemOk (report s r) := h

protected theorem MemOk.reportFail {s k pc addr} (h : MemOk s) : MemOk (reportFail s k pc addr) := h

protected theorem MemOk.enterNext {s tid} (h : MemOk s) : MemOk (enterNext s tid) := by
  unfold enterNext
  split
  · exact h
  · refine ok_ite h ?_
    split
    · exact h
    · exact h
    · split <;> exact h

protected theorem MemOk.raiseRec {s tid gid route rec flag} (h : MemOk s) :
    MemOk (raiseRec s tid gid route rec flag) := by
  unfold raiseRec
  dsimp only
  split
  · exact ok_ite h (ok_ite h (ok_ite h (ok_ite h (MemOk.enterNext h))))
  · exact h

protected theorem MemOk.raisePrecise {s tid gid pc r} (h : MemOk s) : MemOk (raisePrecise s tid gid pc r) := by
  unfold raisePrecise
  split
  · exact MemOk.raiseRec h
  · exact h

protected theorem MemOk.resumeTeam {s tid} (h : MemOk s) : MemOk (resumeTeam s tid) := by
  unfold resumeTeam
  dsimp only
  split
  · exact h
  · exact ok_ite (MemOk.enterNext h) h

protected theorem MemOk.prep {i s} (h : MemOk s) : PrepOk (prep i s) := by
  unfold prep
  dsimp only
  split
  · exact .none
  · refine ok_ite (.held h) ?_
    split
    · exact .none
    · split
      · exact .none
      · refine ok_ite (.held h) ?_
        split
        · exact .trap (MemOk.raisePrecise h)
        · exact .go h

protected theorem CoreOk.occupy {un part u c} (h : CoreOk c) : CoreOk (occupy un part u c) := by
  unfold occupy
  split <;> exact h

protected theorem MemOk.retireOnly {i c s pc hold} (h : MemOk s) : MemOk (retireOnly i c s pc hold) :=
  MemOk.updGroup (MemOk.setOps (MemOk.updCore h fun h1 => CoreOk.occupy h1))

protected theorem MemOk.dbgStep {c s} (h : MemOk s) : MemOk (dbgStep c s) := ok_ite (MemOk.raisePrecise h) h

protected theorem MemOk.retire {i c s pc hold} (h : MemOk s) : MemOk (retire i c s pc hold) :=
  MemOk.dbgStep (MemOk.retireOnly h)

protected theorem MemOk.issue {i body s} (h : MemOk s) (hbody : ∀ {c s}, MemOk s → BodyOk (body c s)) :
    Kept (issue i body s) := by
  unfold issue
  split
  · exact .fault
  · rename_i he
    have .held h1 := ok_of_eq PrepOk he (MemOk.prep h)
    exact .next h1
  · rename_i he
    have .trap h1 := ok_of_eq PrepOk he (MemOk.prep h)
    exact .next h1
  · rename_i he
    have .go h1 := ok_of_eq PrepOk he (MemOk.prep h)
    refine ok_ite ?_ (.next (MemOk.retire h1))
    split
    · rename_i he
      have .done h2 := ok_of_eq BodyOk he (hbody h1)
      exact .next (MemOk.retire h2)
    · rename_i he
      have .jump h2 := ok_of_eq BodyOk he (hbody h1)
      exact .next (MemOk.retire h2)
    · exact .next (MemOk.raisePrecise h1)
    · rename_i he
      have .stop h2 := ok_of_eq BodyOk he (hbody h1)
      exact .next h2
    · exact .next h

protected theorem MemOk.pendWrs {c lat ws s} (h : MemOk s) : MemOk (pendWrs c lat ws s) := h

protected theorem MemOk.startOp {c k s} (h : MemOk s) : MemOk (startOp c k s) := h

protected theorem MemOk.endOp {s o} (h : MemOk s) : MemOk (endOp s o) := h

protected theorem MemOk.writeNow {s o ws} (h : MemOk s) : MemOk (writeNow s o ws) := h

protected theorem MemOk.holdMem {c s} (h : MemOk s) : MemOk (holdMem c s) := h

protected theorem MemOk.fixed {i lat f s} (h : MemOk s) : Kept (fixed i lat f s) := MemOk.issue h fun h1 => .done h1

/-! ### Operands -/

protected theorem MemOk.trapLanes {c s uni l} (h : MemOk s) : BodyOk (trapLanes c s uni l) := .stop (MemOk.raiseRec h)

/-! ### Control -/

protected theorem MemOk.execClauseHeader {wait a b s} (h : MemOk s) : Kept (execClauseHeader wait a b s) := by
  unfold execClauseHeader
  dsimp only
  split
  · exact .fault
  · exact ok_ite (.next h) (ok_ite (.next (MemOk.raisePrecise h)) (.next h))

protected theorem MemOk.branch {row hd off take s} (h : MemOk s) : Kept (branch row hd off take s) :=
  MemOk.issue h fun h1 => ok_ite (.jump h1) (.done h1)

protected theorem MemOk.execRte {hd s} (h : MemOk s) : Kept (execRte hd s) :=
  MemOk.issue h fun h1 =>
    ok_ite .trap (ok_ite .trap (.stop (MemOk.dbgStep (MemOk.resumeTeam (MemOk.updGroup (MemOk.retireOnly h1))))))

protected theorem MemOk.emWrite {row hd f s} (h : MemOk s) : Kept (emWrite row hd f s) := MemOk.fixed h

protected theorem MemOk.plog {row hd d f s} (h : MemOk s) : Kept (plog row hd d f s) := MemOk.fixed h

protected theorem MemOk.spLog {row hd d f s} (h : MemOk s) : Kept (spLog row hd d f s) := MemOk.fixed h

/-! ### Records and the placing of commits -/

protected theorem MemOk.makeRecs {s tid gid wait rs} (h : MemOk s) : MemOk (makeRecs s tid gid wait rs) := by
  unfold makeRecs
  dsimp only
  split
  · exact h
  · exact ok_ite (MemOk.updGrid (MemOk.updCore h fun h1 => h1)) (MemOk.updTeam (MemOk.updCore h fun h1 => h1))

protected theorem MemOk.renewWaiting {s t} (h : MemOk s) : MemOk (renewWaiting s t) :=
  ok_ite (MemOk.updGrid (MemOk.frame (MemOk.updCore h fun h1 => h1)))
    (MemOk.updTeam (MemOk.frame (MemOk.updCore h fun h1 => h1)))

protected theorem MemOk.placeCommit {s tid sc op ctr} (h : MemOk s) : FstOk (placeCommit s tid sc op ctr) := by
  unfold placeCommit
  dsimp only
  split
  · exact h
  · exact MemOk.renewWaiting (MemOk.updTeam (MemOk.updCore h fun h1 => h1))

/-! ### L1 and the write-through queue -/

protected theorem MemOk.readLoad {s core ctx va key n l1 fromL1 nc} (h : MemOk s) :
    SndOk (readLoad s core ctx va key n l1 fromL1 nc) := by
  unfold readLoad
  dsimp only
  refine ok_ite ?_ (MemOk.updCore h fun h1 => ok_ite h1 h1)
  split
  · exact h
  · exact MemOk.updCore h fun h1 => h1

protected theorem MemOk.queueStore {s core ctx tid gid va key rel b} (h : MemOk s) :
    MemOk (queueStore s core ctx tid gid va key rel b) := MemOk.bumpId (MemOk.updCore h fun h1 => h1)

protected theorem MemOk.engineStore {s key b} (h : MemOk s) : MemOk (engineStore s key b) :=
  memOk_intro (Memory.wf_memSetN h.mem) (h.cores.map fun hc => hc)

protected theorem MemOk.lineStore {s core ctx key b} (h : MemOk s) : MemOk (lineStore s core ctx key b) :=
  MemOk.updCore h fun h1 => h1

protected theorem MemOk.homeStore {s core ctx va key b} (h : MemOk s) : MemOk (homeStore s core ctx va key b) :=
  MemOk.updCore (MemOk.withMem h (Memory.wf_memSetN h.mem)) fun hc => hc

protected theorem MemOk.ackQueue {s core} (h : MemOk s) : MemOk (ackQueue s core) := MemOk.updCore h fun h1 => h1

protected theorem MemOk.publish {s tid rel scope} (h : MemOk s) : MemOk (publish s tid rel scope) := ok_ite h h

protected theorem MemOk.acquireL1 {s core ctx scope} (h : MemOk s) : MemOk (acquireL1 s core ctx scope) :=
  MemOk.updCore h fun h1 => ok_ite h1 h1

/-! ### Contents, undefined contents and buffers -/

protected theorem MemOk.abufPut {s t off b} (h : MemOk s) : MemOk (abufPut s t off b) :=
  h.updCore fun ⟨ha, hc, hw⟩ => ⟨Memory.wf_memSetN ha, hc, hw⟩

protected theorem MemOk.tilePut {s t n e x} (h : MemOk s) : MemOk (tilePut s t n e x) :=
  h.updCore fun ⟨ha, hc, hw⟩ => ⟨ha, Memory.wf_memPut hc, hw⟩

protected theorem MemOk.slotPut {s t n i b} (h : MemOk s) : MemOk (slotPut s t n i b) :=
  h.updCore fun ⟨ha, hc, hw⟩ => ⟨ha, hc, Memory.wf_memSetN hw⟩

theorem wf_spoilTile {k tb rows cols} {c : Memory} (h : c.wf = true) : (spoilTile k tb rows cols c).wf = true :=
  wf_foldl h fun hm => ok_ite (K := fun m : Memory => m.wf = true)
    (wf_foldl hm fun hm => ok_ite (K := fun m : Memory => m.wf = true) (Memory.wf_memPut hm) hm) hm

protected theorem MemOk.spoil {s tid b} (h : MemOk s) : MemOk (spoil s tid b) := by
  unfold spoil
  dsimp only
  split
  · exact h
  · refine MemOk.updTeam (MemOk.withMem (MemOk.updCore h fun ⟨ha, hc, hw⟩ => ⟨?_, ?_, hw⟩) ?_)
    · exact wf_foldl ha fun hm => Memory.wf_memSetN hm
    · exact wf_foldl hc fun hm => wf_spoilTile hm
    · exact wf_foldl h.mem fun hm => Memory.wf_memSetN hm

protected theorem MemOk.spoilReaders {s tid bs} (h : MemOk s) : MemOk (spoilReaders s tid bs) :=
  MemOk.foldl h MemOk.spoil

protected theorem MemOk.updWrites {s tid f} (h : MemOk s) : MemOk (updWrites s tid f) := h

protected theorem MemOk.noteWrite {s tid src op fence r} (h : MemOk s) : MemOk (noteWrite s tid src op fence r) := h

protected theorem MemOk.noteRelease {s tid gid op rel rmw keys} (h : MemOk s) :
    MemOk (noteRelease s tid gid op rel rmw keys) := h

protected theorem MemOk.noteFence {s tid gid op rel acq} (h : MemOk s) : MemOk (noteFence s tid gid op rel acq) :=
  ok_ite (MemOk.updWrites (ok_ite h h)) (ok_ite h h)

protected theorem MemOk.carryCopy {s src only key} (h : MemOk s) : MemOk (carryCopy s src only key) :=
  MemOk.foldl h fun h1 => ok_ite h1 h1

protected theorem MemOk.bringCopies {s tid gid ids} (h : MemOk s) : MemOk (bringCopies s tid gid ids) := h

/-! ### Memory instructions at issue -/

protected theorem MemOk.lanesTrap {c s k ls} (h : MemOk s) : BodyOk (lanesTrap c s k ls) := MemOk.trapLanes h

protected theorem MemOk.memStart {c s store z o dst data as} (h : MemOk s) :
    BodyOk (memStart c s store z o dst data as) := by
  unfold memStart
  extract_lets rev ls bad good recs all excess gl own plan commit p s1
  refine ok_ite (MemOk.lanesTrap h) ?_
  clear_value plan
  cases plan with
  | wait => exact .held
  | trap k l => exact ok_ite .trap (MemOk.lanesTrap h)
  | go pos tape =>
    refine ok_ite .held ?_
    extract_lets s2 s3 s4
    have hp : FstOk p := ok_ite (MemOk.placeCommit h) h
    have h1 : MemOk s1 := ok_ite hp (MemOk.makeRecs hp)
    have h2 : MemOk s2 := ok_ite h1 h1
    have h3 : MemOk s3 := ok_ite h2 h2
    exact .done (MemOk.startOp (ok_ite h3 h3))

protected theorem MemOk.memIssue {row hd store z o d m s} (h : MemOk s) : Kept (memIssue row hd store z o d m s) :=
  MemOk.issue h fun h1 => ok_ite .trap (ok_ite (MemOk.trapLanes h1) (MemOk.memStart h1))

protected theorem MemOk.uniMemIssue {row hd store z o d a off s} (h : MemOk s) :
    Kept (uniMemIssue row hd store z o d a off s) :=
  MemOk.issue h fun h1 => ok_ite .trap (ok_ite (MemOk.trapLanes h1) (MemOk.memStart h1))

protected theorem MemOk.abufIssue {row hd store z o d m s} (h : MemOk s) : Kept (abufIssue row hd store z o d m s) :=
  MemOk.issue h fun h1 => ok_ite (MemOk.trapLanes h1) (.done (MemOk.startOp (ok_ite h1 h1)))

protected theorem MemOk.cbufIssue {row hd store col d acc b k s} (h : MemOk s) :
    Kept (cbufIssue row hd store col d acc b k s) :=
  MemOk.issue h fun h1 => ok_ite .trap (ok_ite (MemOk.trapLanes h1) (.done h1))

protected theorem MemOk.dropLines {s core ctx ls} (h : MemOk s) : MemOk (dropLines s core ctx ls) :=
  MemOk.updCore h fun h1 => CoreOk.foldl h1 fun h2 => h2

protected theorem MemOk.atomIssue {row hd op wide o d m b k s} (h : MemOk s) :
    Kept (atomIssue row hd op wide o d m b k s) := by
  refine MemOk.issue h fun h1 => ok_ite (MemOk.trapLanes h1) (ok_ite (MemOk.lanesTrap h1) (ok_ite .held
    (.done (MemOk.startOp ?_))))
  exact ok_ite (MemOk.holdMem (MemOk.dropLines (ok_ite h1 (MemOk.makeRecs h1))))
    (MemOk.dropLines (ok_ite h1 (MemOk.makeRecs h1)))

/-! ### Memory operations performed -/

protected theorem MemOk.setTape {s tid i p} (h : MemOk s) : MemOk (setTape s tid i p) := h

protected theorem PerfOk.loadLane {w z nc fromL1 a key l1 p} (h : PerfOk p) :
    PerfOk (loadLane w z nc fromL1 a key l1 p) := ok_ite h (MemOk.readLoad h)

protected theorem PerfOk.addCell {fmode key g p} (h : PerfOk p) : PerfOk (addCell fmode key g p) :=
  MemOk.withMem h (Memory.wf_memPut h.mem)

protected theorem PerfOk.revLoadLane {w z fmode a p} (h : PerfOk p) : PerfOk (revLoadLane w z fmode a p) := by
  unfold revLoadLane
  refine PerfOk.foldl h fun h1 => ?_
  split
  · exact ok_ite (ok_ite h1 h1) (PerfOk.addCell h1)
  · exact h1

protected theorem PerfOk.storeLane {w gid z rel a key dfr p} (h : PerfOk p) :
    PerfOk (storeLane w gid z rel a key dfr p) := ok_ite h (MemOk.queueStore h)

protected theorem PerfOk.pushLane {w gid z pos a key p} (h : PerfOk p) : PerfOk (pushLane w gid z pos a key p) := by
  unfold pushLane
  dsimp only
  refine PerfOk.foldl h fun h1 => ?_
  split
  · exact MemOk.setTape (MemOk.homeStore h1)
  · exact MemOk.homeStore h1

/-- A lane's pop, while its words are taken in turn: the value so far does not matter. -/
protected theorem PerfOk.popLane {w z pos a key p} (h : PerfOk p) : PerfOk (popLane w z pos a key p) := by
  refine List.foldlRecOn (motive := fun q : Perf × Nat => PerfOk q.1) _ _ h fun q hq j _ => ?_
  split
  · exact MemOk.setTape (MemOk.homeStore (MemOk.lineStore (MemOk.withMem hq (Memory.wf_memPut hq.mem))))
  · exact hq

protected theorem MemOk.foundOld {w o a n key s} (h : MemOk s) : MemOk (foundOld w o a n key s) := ok_ite h h

protected theorem PerfOk.memLane {w o store z ord rev fromL1 fmode pos p a} (h : PerfOk p) :
    PerfOk (memLane w o store z ord rev fromL1 fmode pos p a) := by
  unfold memLane
  split
  · exact h
  · split
    · exact PerfOk.revLoadLane h
    · exact PerfOk.loadLane h
    · exact PerfOk.popLane (MemOk.foundOld h)
    · exact PerfOk.pushLane (MemOk.foundOld h)
    · exact PerfOk.storeLane (MemOk.foundOld h)

protected theorem PerfOk.abufLane {w o store z p a} (h : PerfOk p) : PerfOk (abufLane w o store z p a) :=
  ok_ite (MemOk.noteWrite (MemOk.abufPut (ok_ite (MemOk.spoilReaders h) h))) (ok_ite h h)

protected theorem PerfOk.cbufLane {w o store tile p a} (h : PerfOk p) : PerfOk (cbufLane w o store tile p a) :=
  ok_ite (MemOk.noteWrite (MemOk.tilePut (ok_ite h (MemOk.spoilReaders h)))) (ok_ite h h)

protected theorem PerfOk.atomLane {w op wide returns fmode p a} (h : PerfOk p) :
    PerfOk (atomLane w op wide returns fmode p a) := by
  unfold atomLane
  split
  · exact h
  · exact ok_ite h (ok_ite h (MemOk.updCore (MemOk.withMem h (Memory.wf_memPut h.mem)) fun hc => hc))

protected theorem MemOk.accessPerform {s o fromL1} (h : MemOk s) : OptPerfOk (accessPerform s o fromL1) := by
  unfold accessPerform
  split
  · exact .none
  · split
    · exact ok_ite (.some (PerfOk.foldl h PerfOk.memLane)) .none
    · exact ok_ite .none (.some (PerfOk.foldl h PerfOk.abufLane))
    · exact ok_ite .none (.some (PerfOk.foldl h PerfOk.cbufLane))
    · exact ok_ite (.some (PerfOk.foldl (MemOk.publish h) PerfOk.atomLane)) .none
    · exact .none

protected theorem MemOk.noteSync {s o} (h : MemOk s) : MemOk (noteSync s o) := by
  unfold noteSync
  dsimp only
  split
  · exact ok_ite h (ok_ite h h)
  · exact ok_ite h h
  · exact MemOk.noteRelease (ok_ite h h)
  · exact h

protected theorem PerfOk.accessWrite {o w p} (h : PerfOk p) : MemOk (accessWrite o w p) := by
  unfold accessWrite
  dsimp only
  split
  · exact MemOk.acquireL1 (MemOk.noteSync h)
  · exact MemOk.noteSync h

protected theorem MemOk.accessFinish {s o fromL1} (h : MemOk s) : OptOk (accessFinish s o fromL1) := by
  unfold accessFinish
  split
  · rename_i he
    have .some h1 := ok_of_eq OptPerfOk he (MemOk.accessPerform h)
    exact ok_ite (.some (MemOk.endOp (PerfOk.accessWrite h1))) .none
  · exact .none

end Sys2Proof.Machine
end

section
/-! SUPPORT. Memory and the buffers of the cores stay in canonical form: synchronisation, faults, fetches, matrix
streams and the end of a team. -/

namespace Sys2Proof.Machine

/-! ### Synchronisation -/

protected theorem MemOk.uniOp {row hd wr size a off body s} (h : MemOk s)
    (hbody : ∀ {c s}, MemOk s → BodyOk (body c s)) : Kept (uniOp row hd wr size a off body s) :=
  MemOk.issue h fun h1 => ok_ite (MemOk.trapLanes h1) (hbody h1)

protected theorem MemOk.uniBind {row hd size a off bad body s} (h : MemOk s)
    (hbody : ∀ {c s}, MemOk s → BodyOk (body c s)) : Kept (uniBind row hd size a off bad body s) :=
  MemOk.issue h fun h1 => ok_ite .trap (ok_ite (MemOk.trapLanes h1) (hbody h1))

protected theorem MemOk.execCadd {hd rel poison scope a b off s} (h : MemOk s) :
    Kept (execCadd hd rel poison scope a b off s) :=
  MemOk.uniOp h fun h1 => ok_ite (MemOk.trapLanes h1) (.done (MemOk.startOp (MemOk.dropLines h1)))

protected theorem MemOk.acquireOpt {s w x} (h : MemOk s) : MemOk (acquireOpt s w x) := by
  unfold acquireOpt
  split
  · exact MemOk.acquireL1 h
  · exact h

protected theorem MemOk.waitRead {s o a acq ws} (h : MemOk s) : MemOk (waitRead s o a acq ws) := by
  unfold waitRead
  dsimp only
  split
  · exact MemOk.updCore h fun h1 => h1
  · exact h

protected theorem MemOk.counterFinish {s o} (h : MemOk s) : OptOk (counterFinish s o) := by
  unfold counterFinish
  split
  · exact .none
  · split
    · exact ok_ite (.some (MemOk.endOp (MemOk.acquireOpt (MemOk.waitRead h)))) .none
    · exact ok_ite (.some (MemOk.endOp (MemOk.acquireOpt (MemOk.waitRead h)))) .none
    · exact ok_ite (.some (MemOk.endOp (MemOk.updCore (MemOk.publish (MemOk.noteRelease (MemOk.withMem h
        (Memory.wf_memPut h.mem)))) fun hc => hc))) .none
    · exact .none

protected theorem MemOk.fenceIssue {row hd kind scope s} (h : MemOk s) : Kept (fenceIssue row hd kind scope s) :=
  MemOk.issue h fun h1 => .done h1

protected theorem MemOk.execAliasf {hd s} (h : MemOk s) : Kept (execAliasf hd s) :=
  MemOk.issue h fun h1 => .done (MemOk.startOp (ok_ite (MemOk.acquireL1 h1) h1))

protected theorem MemOk.fenceFinish {s o strict} (h : MemOk s) : OptOk (fenceFinish s o strict) := by
  unfold fenceFinish
  dsimp only
  split
  · exact .none
  · split
    · refine ok_ite (.some (MemOk.endOp (ok_ite ?_ (MemOk.acquireL1 ?_)))) .none
      all_goals exact ok_ite (MemOk.ackQueue (MemOk.publish (MemOk.noteFence h))) (MemOk.publish (MemOk.noteFence h))
    · exact ok_ite (.some (MemOk.endOp (ok_ite h (MemOk.acquireL1 h)))) .none
    · exact ok_ite (.some h) .none
    · exact .none

protected theorem MemOk.commitIssue {row hd sc ctr s} (h : MemOk s) : Kept (commitIssue row hd sc ctr s) :=
  MemOk.issue h fun h1 => ok_ite .trap (ok_ite .held (.done (MemOk.startOp (MemOk.placeCommit h1))))

protected theorem MemOk.endWait {s w o b ph} (h : MemOk s) : MemOk (endWait s w o b ph) :=
  MemOk.endOp (MemOk.acquireL1 h)

protected theorem MemOk.barFinish {s o} (h : MemOk s) : OptOk (barFinish s o) := by
  unfold barFinish
  dsimp only
  split
  · exact .none
  · split
    · exact ok_ite (.some h) .none
    · split
      · exact ok_ite .none (.some (MemOk.endWait h))
      · exact .some (MemOk.endWait h)
      · exact .none
    · exact ok_ite (.some h) .none
    · exact ok_ite .none (.some (MemOk.endWait h))
    · exact .none

protected theorem MemOk.queueFinish {s o} (h : MemOk s) : OptOk (queueFinish s o) := by
  unfold queueFinish
  dsimp only
  split
  · exact .none
  · split
    · exact ok_ite .none (.some h)
    · split
      · exact .some h
      · exact .some h
      · exact .some h
      · exact .none
    · exact .none

protected theorem MemOk.execRatom {hd op wide q a b k off s} (h : MemOk s) :
    Kept (execRatom hd op wide q a b k off s) :=
  MemOk.uniBind h fun h1 => ok_ite .held (.done (MemOk.startOp (MemOk.dropLines h1)))

protected theorem MemOk.execRatomReply {id s} (h : MemOk s) : Kept (execRatomReply id s) := by
  unfold execRatomReply
  dsimp only
  split
  · exact .fault
  · split
    · split
      · exact .next h
      · exact ok_ite (.next (MemOk.endOp (MemOk.updTeam (MemOk.writeNow (PerfOk.atomLane h))))) .fault
    · exact .fault

/-! ### Causes after issue, handler entry and walks -/

protected theorem MemOk.reportFault {s o fs} (h : MemOk s) : MemOk (reportFault s o fs) := by
  unfold reportFault
  dsimp only
  split
  · exact MemOk.raiseRec h
  · exact h

protected theorem MemOk.execAfterIssueFault {id fromL1 s} (h : MemOk s) : Kept (execAfterIssueFault id fromL1 s) := by
  unfold execAfterIssueFault
  dsimp only
  split
  · exact .fault
  · split
    · exact .fault
    · refine ok_ite .fault ?_
      split
      · rename_i he
        have .some h1 := ok_of_eq OptPerfOk he (MemOk.accessPerform h)
        exact ok_ite .fault (.next (MemOk.reportFault (PerfOk.accessWrite h1)))
      · exact ok_ite (.next (MemOk.reportFault h)) .fault

protected theorem MemOk.execTrapHandlerEntry {tid s} (h : MemOk s) : Kept (execTrapHandlerEntry tid s) := by
  unfold execTrapHandlerEntry
  split
  · exact .fault
  · split
    · exact ok_ite .fault (.next (MemOk.enterNext h))
    · exact .fault

protected theorem MemOk.execTlbWalkComplete {core ctx page s} (h : MemOk s) :
    Kept (execTlbWalkComplete core ctx page s) := by
  unfold execTlbWalkComplete
  dsimp only
  split
  · exact .fault
  · split
    · exact .next (MemOk.frame (MemOk.updCore h fun h1 => h1))
    · exact .next h
    · exact .next h

/-! ### Fetches -/

protected theorem MemOk.fetchDrawn {s code key} (h : MemOk s) : MemOk (fetchDrawn s code key) := ok_ite h h

protected theorem MemOk.fetchWord {s t va} (h : MemOk s) : FetchOk (fetchWord s t va) := by
  unfold fetchWord
  dsimp only
  split
  · exact .bad
  · split
    · exact .bytes h
    · exact ok_ite .held (ok_ite .bad (.bytes (MemOk.updCore (MemOk.fetchDrawn h) fun h1 => h1)))

protected theorem MemOk.fetchWords {s t n va} (h : MemOk s) : FetchOk (fetchWords s t n va) := by
  induction n generalizing s va with
  | zero => exact .bytes h
  | succ n ih =>
    unfold fetchWords
    split
    · rename_i he
      have .bytes h1 := ok_of_eq FetchOk he (MemOk.fetchWord h)
      split
      · rename_i hr
        have .bytes h2 := ok_of_eq FetchOk hr (ih h1)
        exact .bytes h2
      · exact .bad
      · exact .held
    · exact .bad
    · exact .held

protected theorem MemOk.fetchIns {s t va} (h : MemOk s) : FetchOk (fetchIns s t va) := by
  unfold fetchIns
  split
  · rename_i he
    have .bytes h1 := ok_of_eq FetchOk he (MemOk.fetchWord h)
    split
    · rename_i he
      have .bytes h2 := ok_of_eq FetchOk he (MemOk.fetchWords h1)
      exact .bytes h2
    · exact .bad
    · exact .held
  · exact .bad
  · exact .held

/-! ### Matrix streams -/

protected theorem MemOk.updStream {s tid f} (h : MemOk s) : MemOk (updStream s tid f) := h

protected theorem MemOk.stopTeam {s tid code pc addr info} (h : MemOk s) : MemOk (stopTeam s tid code pc addr info) :=
  h

protected theorem MemOk.streamIssue {row len at' body s} (h : MemOk s)
    (hbody : ∀ {c s}, MemOk s → SBodyOk (body c s)) : Kept (streamIssue row len at' body s) := by
  unfold streamIssue
  dsimp only
  split
  · exact .fault
  · refine ok_ite (.next h) ?_
    split
    · rename_i he
      have .done h1 := ok_of_eq SBodyOk he (hbody h)
      exact .next h1
    · rename_i he
      have .jump h1 := ok_of_eq SBodyOk he (hbody h)
      exact .next h1
    · exact .next h
    · rename_i he
      have .wait h1 := ok_of_eq SBodyOk he (hbody h)
      exact .next h1
    · exact .next h

protected theorem MemOk.bufRead {c s o n k} (h : MemOk s) : SBodyOk (bufRead c s o n k) :=
  ok_ite .trap (ok_ite .trap (ok_ite .held (.done (MemOk.updCore h fun h1 => h1))))

protected theorem MemOk.engineTaken {c s x} (h : MemOk s) : MemOk (engineTaken c s x) :=
  MemOk.updStream (MemOk.updCore h fun h1 => h1)

protected theorem MemOk.startEngine {c s x} (h : MemOk s) : SBodyOk (startEngine c s x) := .done (MemOk.engineTaken h)

protected theorem MemOk.startUndef {c s rd tile rows cols lands} (h : MemOk s) :
    SBodyOk (startUndef c s rd tile rows cols lands) := MemOk.startEngine h

protected theorem MemOk.execMma {acc xa ws xf neg nacc k s} (h : MemOk s) :
    Kept (execMma acc xa ws xf neg nacc k s) := by
  unfold execMma
  dsimp only
  refine MemOk.streamIssue h fun h1 => ok_ite .held (ok_ite .trap (ok_ite .trap (ok_ite (MemOk.startUndef h1) ?_)))
  split
  · exact .trap
  · exact ok_ite .trap (MemOk.startEngine h1)

protected theorem MemOk.execMaccst {acc src mov k s} (h : MemOk s) : Kept (execMaccst acc src mov k s) :=
  MemOk.streamIssue h fun h1 => ok_ite .held (ok_ite .trap (MemOk.startEngine h1))

protected theorem MemOk.execFrder {accd acca xa xf k s} (h : MemOk s) : Kept (execFrder accd acca xa xf k s) := by
  unfold execFrder
  dsimp only
  refine MemOk.streamIssue h fun h1 => ok_ite .held (ok_ite .trap (ok_ite (MemOk.startUndef h1) ?_))
  split
  · exact .trap
  · refine ok_ite (MemOk.startUndef h1) ?_
    split
    · exact .trap
    · exact ok_ite .trap (MemOk.startEngine h1)

protected theorem MemOk.frgradGo {c s g base acca k runs val} (h : MemOk s) :
    SBodyOk (frgradGo c s g base acca k runs val) := by
  unfold frgradGo
  dsimp only
  refine ok_ite .trap (ok_ite .trap ?_)
  split
  · exact .trap
  · exact ok_ite .trap (MemOk.startEngine (ok_ite h h))

protected theorem MemOk.execFrgrad {xd acca xa xf k s} (h : MemOk s) : Kept (execFrgrad xd acca xa xf k s) := by
  unfold execFrgrad
  dsimp only
  refine MemOk.streamIssue h fun h1 => ok_ite .held (ok_ite .trap (ok_ite (MemOk.startUndef h1) ?_))
  split
  · exact .trap
  · refine ok_ite (MemOk.frgradGo h1) ?_
    split
    · exact .trap
    · exact MemOk.frgradGo h1

protected theorem MemOk.execFrefine {accd ws kna knd i0 btr s} (h : MemOk s) :
    Kept (execFrefine accd ws kna knd i0 btr s) := by
  unfold execFrefine
  dsimp only
  refine MemOk.streamIssue h fun h1 => ok_ite .held (ok_ite .trap (ok_ite .trap ?_))
  split
  · exact .trap
  · exact ok_ite .trap (ok_ite .trap (MemOk.startEngine h1))

protected theorem MemOk.execMmaLanding {core id s} (h : MemOk s) : Kept (execMmaLanding core id s) := by
  unfold execMmaLanding
  dsimp only
  split
  · exact .fault
  · split
    · exact .fault
    · refine ok_ite .fault (ok_ite .fault (.next (MemOk.updStream (MemOk.makeRecs ?_))))
      split
      · exact MemOk.foldl h MemOk.tilePut
      · exact h

protected theorem MemOk.execMdrain {xd acc xc k s} (h : MemOk s) : Kept (execMdrain xd acc xc k s) := by
  unfold execMdrain
  dsimp only
  refine MemOk.streamIssue h fun h1 => ok_ite .held (ok_ite .trap ?_)
  split
  · exact ok_ite (.done h1) .trap
  · exact .done h1

protected theorem MemOk.noteDrained {s tid key b} (h : MemOk s) : MemOk (noteDrained s tid key b) := h

protected theorem MemOk.reserveDrain {core s} (h : MemOk s) : OptOk (reserveDrain core s) := by
  unfold reserveDrain
  dsimp only
  split
  · exact .none
  · split
    · exact .none
    · exact ok_ite .none (.some h)

/-- The state of a drain under way is in canonical form. -/
def DrainOk (p : Draining) : Prop := MemOk p.s

protected theorem DrainOk.drainOne {c isInt bad t d p m n} (h : DrainOk p) :
    DrainOk (drainOne c isInt bad t d p m n) := by
  unfold drainOne
  dsimp only
  refine ok_ite h (ok_ite h (ok_ite h (ok_ite h (ok_ite (ok_ite h (MemOk.abufPut h)) ?_))))
  split
  · exact h
  · exact ok_ite h (ok_ite h (MemOk.engineStore (MemOk.noteDrained h)))

protected theorem DrainOk.drainStat {c t d p} (h : DrainOk p) : DrainOk (drainStat c t d p) := by
  unfold drainStat
  refine ok_ite h (ok_ite h ?_)
  split
  · exact h
  · exact ok_ite h (ok_ite h (MemOk.makeRecs h))

theorem DrainOk.foldl {α : Type} {l : List α} {f : Draining → α → Draining} {p : Draining} (h : DrainOk p)
    (hf : ∀ {p x}, DrainOk p → DrainOk (f p x)) : DrainOk (l.foldl f p) :=
  List.foldlRecOn l f h fun _ hp _ _ => hf hp

theorem MemOk.stopDrain {s tid pc} {k : Option Cause} (h : MemOk s) : MemOk (match k with
    | some k => stopTeam s tid (causeCode k) pc 0 2
    | none => s) := by
  cases k with
  | none => exact h
  | some k => exact MemOk.stopTeam h

protected theorem MemOk.execDrainExecute {core s} (h : MemOk s) : Kept (execDrainExecute core s) := by
  unfold execDrainExecute
  dsimp only
  split
  · exact .fault
  · split
    · exact .fault
    · refine ok_ite .fault (.next (MemOk.stopDrain (MemOk.updStream (MemOk.bump (DrainOk.drainStat
        (DrainOk.foldl ?_ ?_))))))
      · exact MemOk.updCore h fun hc => hc
      · exact fun hd => hd.drainOne

protected theorem MemOk.execMwait {b s} (h : MemOk s) : Kept (execMwait b s) := by
  unfold execMwait
  dsimp only
  refine MemOk.streamIssue h fun h1 => ?_
  split
  · exact .wait h1
  · exact ok_ite .held (.done h1)

protected theorem MemOk.skipFrom {t n depth pc s} (h : MemOk s) : SkipOk (skipFrom t n depth pc s) := by
  induction n generalizing depth pc s with
  | zero => exact .bad
  | succ n ih =>
    unfold skipFrom
    split
    · exact .bad
    · exact .held
    · rename_i he
      have .bytes h1 := ok_of_eq FetchOk he (MemOk.fetchWord h)
      exact ok_ite (ih h1) (ok_ite (ok_ite (.to h1) (ih h1)) (ok_ite .bad (ih h1)))

protected theorem MemOk.execMloop {x a imm s} (h : MemOk s) : Kept (execMloop x a imm s) := by
  unfold execMloop
  dsimp only
  refine MemOk.streamIssue h fun h1 => ok_ite ?_ (ok_ite .trap (.done h1))
  split
  · rename_i he
    have .to h2 := ok_of_eq SkipOk he (MemOk.skipFrom h1)
    exact .jump h2
  · exact .trap
  · exact .held

protected theorem MemOk.execMend {s} (h : MemOk s) : Kept (execMend s) := by
  unfold execMend
  refine MemOk.streamIssue h fun h1 => ?_
  split
  · exact .trap
  · exact ok_ite (.jump h1) (.done h1)

/-! ### The end of a team, EXIT, NOP and refused words -/

protected theorem MemOk.endGridUnit {s g last} (h : MemOk s) : MemOk (endGridUnit s g last) :=
  MemOk.foldl h fun h1 => MemOk.updCore h1 fun h2 => h2

protected theorem MemOk.endTeam {s tid} (h : MemOk s) : MemOk (endTeam s tid) := by
  unfold endTeam
  dsimp only
  split
  · exact h
  · refine ok_ite h (ok_ite (MemOk.placeCommit h) ?_)
    split
    · exact ok_ite (MemOk.endGridUnit h) h
    · exact h

protected theorem MemOk.partyEnded {s tid} (h : MemOk s) : MemOk (partyEnded s tid) := by
  unfold partyEnded
  split
  · exact ok_ite (MemOk.endTeam h) h
  · exact h

protected theorem MemOk.copyEnded {s c} (h : MemOk s) : MemOk (copyEnded s c) := by
  unfold copyEnded
  split
  · exact MemOk.partyEnded h
  · exact h

protected theorem MemOk.endGroup {s tid g} (h : MemOk s) : MemOk (endGroup s tid g) :=
  MemOk.partyEnded (ok_ite (MemOk.resumeTeam h) h)

protected theorem MemOk.groupExit {row hd s} (h : MemOk s) : Kept (groupExit row hd s) :=
  MemOk.issue h fun h1 => ok_ite .held (.stop (MemOk.endGroup (MemOk.retireOnly h1)))

protected theorem MemOk.streamExit {row len s} (h : MemOk s) : Kept (streamExit row len s) :=
  MemOk.streamIssue h fun h1 => ok_ite .trap (ok_ite .held (.wait (MemOk.partyEnded h1)))

protected theorem MemOk.execNop {hd s} (h : MemOk s) : Kept (execNop hd s) :=
  ok_ite (MemOk.streamIssue h fun h1 => .done h1) (MemOk.issue h fun h1 => .done h1)

protected theorem MemOk.groupReject {hd lane k s} (h : MemOk s) : Kept (groupReject hd lane k s) :=
  MemOk.issue h fun _ => .trap

protected theorem MemOk.streamReject {k s} (h : MemOk s) : Kept (streamReject k s) :=
  MemOk.streamIssue h fun _ => .trap

end Sys2Proof.Machine
end

section
/-! SUPPORT. Memory and the buffers of the cores stay in canonical form: copies, replies and queued commands. -/

namespace Sys2Proof.Machine

/-! ### Copies -/

protected theorem MemOk.charge {s ctx k n} (h : MemOk s) : MemOk (charge s ctx k n) := h

protected theorem MemOk.addCounter {s key amount poison} (h : MemOk s) : MemOk (addCounter s key amount poison) :=
  h.withMem (Memory.wf_memPut h.mem)

protected theorem MemOk.addLater {s key amount poison} (h : MemOk s) : MemOk (addLater s key amount poison) :=
  ok_ite h (MemOk.addCounter h)

protected theorem MemOk.poisonAt {s ctx a} (h : MemOk s) : MemOk (poisonAt s ctx a) := by
  unfold poisonAt
  split
  · exact MemOk.addLater h
  · exact h

protected theorem MemOk.addAt {s ctx a} (h : MemOk s) : MemOk (addAt s ctx a) := by
  unfold addAt
  split
  · exact MemOk.addLater h
  · exact h

protected theorem MemOk.addsDue {s} (h : MemOk s) : MemOk (addsDue s) := MemOk.foldl h MemOk.addLater

protected theorem MemOk.execAexport {hd d a b s} (h : MemOk s) : Kept (execAexport hd d a b s) := by
  unfold execAexport
  dsimp only
  refine MemOk.issue h fun h1 => ok_ite .trap ?_
  split
  · exact .held
  · exact .done h1

protected theorem MemOk.copySideFinish {s o} (h : MemOk s) : OptOk (copySideFinish s o) := by
  unfold copySideFinish
  dsimp only
  split
  · exact .none
  · split
    · exact ok_ite (.some h) (ok_ite (.some (MemOk.endOp (MemOk.updGroup (MemOk.acquireL1 h)))) .none)
    · exact .some h
    · exact ok_ite .none (.some h)
    · exact .none

protected theorem MemOk.copyIssue {row hd x dst slot kind s} (h : MemOk s) :
    Kept (copyIssue row hd x dst slot kind s) :=
  MemOk.issue h fun h1 => ok_ite (.done h1) (ok_ite .trap (ok_ite .held (.done h1)))

protected theorem MemOk.updCopy {s id f} (h : MemOk s) : MemOk (updCopy s id f) := h

protected theorem MemOk.endCopyOp {s op} (h : MemOk s) : MemOk (endCopyOp s op) := by
  unfold endCopyOp
  split <;> exact h

protected theorem MemOk.execCopyCommandForm {id s} (h : MemOk s) : Kept (execCopyCommandForm id s) := by
  unfold execCopyCommandForm
  dsimp only
  split
  · exact .fault
  · refine ok_ite .fault ?_
    split
    · exact .next (MemOk.endCopyOp h)
    · refine ok_ite (.next (MemOk.endCopyOp h)) ?_
      split
      · exact .next (MemOk.endCopyOp h)
      · refine ok_ite .fault (ok_ite (.next (MemOk.endCopyOp h)) ?_)
        split <;> exact .next (MemOk.endCopyOp h)

protected theorem MemOk.writeRegion {s t src r f} (h : MemOk s) (hf : ∀ {s}, MemOk s → MemOk (f s)) :
    MemOk (writeRegion s t src r f) := MemOk.noteWrite (hf (MemOk.spoilReaders h))

protected theorem MemOk.castSlot {s src tid slot side b} (h : MemOk s) : MemOk (castSlot s src tid slot side b) := by
  unfold castSlot
  split
  · exact ok_ite h (MemOk.writeRegion h fun h1 => MemOk.foldl h1 MemOk.slotPut)
  · exact h

protected theorem MemOk.sendPiece {s c w l p b} (h : MemOk s) : ExcOk (sendPiece s c w l p b) := by
  unfold sendPiece
  dsimp only
  split
  · exact ok_ite .error (.ok h)
  · exact .error
  · exact .ok h

protected theorem MemOk.writeWord {s c t l q ws} (h : MemOk s) : ExcOk (writeWord s c t l q ws) := by
  unfold writeWord
  dsimp only
  split
  · split
    · exact .ok (MemOk.writeRegion h fun h1 => MemOk.foldl h1 MemOk.abufPut)
    · exact .ok h
  · split
    · exact .ok (MemOk.castSlot h)
    · exact .ok h
  · exact .ok (MemOk.foldl h MemOk.castSlot)
  · split
    · exact .error
    · exact .ok (MemOk.bump (MemOk.foldl h MemOk.engineStore))
  · split
    · exact .error
    · exact .ok (MemOk.bump (MemOk.foldl h MemOk.engineStore))
  · split
    · exact .error
    · exact .ok (MemOk.bump (MemOk.foldl h MemOk.engineStore))
  · split
    · exact .error
    · exact .ok (MemOk.bump (MemOk.foldl h MemOk.engineStore))
  · split
    · exact .error
    · refine ok_ite (.ok h) ?_
      split
      · exact .error
      · exact .ok (MemOk.writeRegion h fun h1 => MemOk.foldl h1 MemOk.abufPut)
  · exact .ok h

protected theorem MemOk.startPiece {s c l host} (h : MemOk s) : MemOk (startPiece s c l host) :=
  ok_ite (MemOk.updCopy (ok_ite h h)) (MemOk.updCopy (ok_ite h h))

protected theorem MemOk.readMove {s c t l p j} (h : MemOk s) : OptOk (readMove s c t l p j) := by
  unfold readMove
  dsimp only
  refine ok_ite .none ?_
  split <;> exact .some h

protected theorem MemOk.writeMove {s c t l q} (h : MemOk s) : OptOk (writeMove s c t l q) := by
  unfold writeMove
  refine ok_ite ?_ ?_
  · split
    · refine ok_ite .none (ok_ite (.some h) ?_)
      split
      · exact .some h
      · rename_i he
        have .ok h1 := ok_of_eq ExcOk he (MemOk.sendPiece h)
        exact .some h1
    · exact .some h
    · exact .none
  · split
    · exact .none
    · refine ok_ite .none ?_
      split
      · exact .some h
      · rename_i he
        have .ok h1 := ok_of_eq ExcOk he (MemOk.writeWord h)
        exact .some h1

protected theorem MemOk.execCopyPieceStart {id core data s} (h : MemOk s) :
    Kept (execCopyPieceStart id core data s) := by
  unfold execCopyPieceStart
  dsimp only
  split
  · exact .fault
  · split
    · exact .fault
    · refine ok_ite .fault ?_
      split
      · exact ok_ite .fault (.next (MemOk.startPiece h))
      · exact OptOk.next_getD (MemOk.readMove h)
      · exact OptOk.next_getD (MemOk.writeMove h)

protected theorem MemOk.tellNode {s ctx node r} (h : MemOk s) : MemOk (tellNode s ctx node r) := by
  unfold tellNode
  dsimp only
  split <;> exact h

protected theorem MemOk.copyAdd {s c} (h : MemOk s) : MemOk (copyAdd s c) := by
  unfold copyAdd
  split
  · exact h
  · split
    · exact MemOk.carryCopy (MemOk.addCounter h)
    · exact h

protected theorem MemOk.copyDone {s c r} (h : MemOk s) : MemOk (copyDone s c r) := MemOk.copyEnded (MemOk.tellNode h)

protected theorem MemOk.execCopyCompletion {id s} (h : MemOk s) : Kept (execCopyCompletion id s) := by
  unfold execCopyCompletion
  split
  · exact .fault
  · exact ok_ite .fault
      (ok_ite (.next (MemOk.copyEnded h)) (ok_ite .fault (.next (MemOk.copyDone (MemOk.copyAdd h)))))

protected theorem MemOk.execCopypCounterAdd {id s} (h : MemOk s) : Kept (execCopypCounterAdd id s) := by
  unfold execCopypCounterAdd
  split
  · exact .fault
  · split
    · exact ok_ite .fault (.next (MemOk.tellNode (MemOk.addAt h)))
    · exact .fault

protected theorem MemOk.failCopy {s c k a} (h : MemOk s) : MemOk (failCopy s c k a) := by
  unfold failCopy
  dsimp only
  refine MemOk.copyDone (MemOk.reportFail (MemOk.updCopy ?_))
  split
  · exact MemOk.poisonAt h
  · exact h

protected theorem MemOk.execCopyFailure {id s} (h : MemOk s) : Kept (execCopyFailure id s) := by
  unfold execCopyFailure
  dsimp only
  split
  · refine ok_ite .fault ?_
    split
    · exact .next (MemOk.failCopy h)
    · exact ok_ite (.next (MemOk.failCopy h)) .fault
  · split
    · exact .fault
    · exact ok_ite .fault
        (.next (MemOk.tellNode (MemOk.endCopyOp (MemOk.reportFail (MemOk.frame (ok_ite (MemOk.poisonAt h) h))))))

protected theorem MemOk.execHostAckTimeout {id s} (h : MemOk s) : Kept (execHostAckTimeout id s) := by
  unfold execHostAckTimeout
  split
  · exact .fault
  · exact ok_ite .fault (.next (MemOk.failCopy h))

/-! ### Replies, events and queued commands -/

protected theorem MemOk.updHost {s f} (h : MemOk s) : MemOk (updHost s f) := h

protected theorem MemOk.sendReply {s r} (h : MemOk s) : MemOk (sendReply s r) := ok_ite h h

protected theorem MemOk.keepReply {s r} (h : MemOk s) : MemOk (keepReply s r) := MemOk.sendReply h

protected theorem MemOk.reply {s k status payload} (h : MemOk s) : MemOk (reply s k status payload) :=
  MemOk.keepReply h

protected theorem MemOk.sendOut {s e} (h : MemOk s) : MemOk (sendOut s e) := by
  unfold sendOut
  split <;> exact h

protected theorem MemOk.sendEvent {s to' code ctx payload} (h : MemOk s) : MemOk (sendEvent s to' code ctx payload) :=
  MemOk.sendOut h

protected theorem MemOk.ownerEvent {s code ctx payload} (h : MemOk s) : MemOk (ownerEvent s code ctx payload) :=
  MemOk.sendEvent h

protected theorem MemOk.kdpServe {row code owner needCtx always k s body} (h : MemOk s)
    (hbody : ∀ {s}, MemOk s → Kept (body s)) : Kept (kdpServe row code owner needCtx always k s body) := by
  unfold kdpServe
  dsimp only
  refine ok_ite (.next h) (ok_ite (.next (MemOk.reply h)) ?_)
  split
  · exact .next (MemOk.sendReply h)
  · exact ok_ite (.next h)
      (ok_ite (.next (MemOk.sendReply h))
      (ok_ite (ok_ite .fault (.next (MemOk.reply h)))
      (ok_ite (.next (MemOk.reply h)) (ok_ite (.next (MemOk.reply h)) (ok_ite (.next (MemOk.reply h)) (hbody h))))))

protected theorem MemOk.finishCmd {s host seq status} (h : MemOk s) : MemOk (finishCmd s host seq status) :=
  MemOk.updHost (MemOk.keepReply h)

protected theorem MemOk.queuedCmd {row code bytes ok w kind note go s} (h : MemOk s)
    (hnote : ∀ {c s}, MemOk s → MemOk (note c s)) (hgo : ∀ {c s}, MemOk s → Kept (go c s)) :
    Kept (queuedCmd row code bytes ok w kind note go s) := by
  unfold queuedCmd
  split
  · exact MemOk.kdpServe h fun h1 => ok_ite (.next (hnote (MemOk.reply h1))) (.next (hnote h1))
  · split
    · exact .fault
    · exact hgo h

end Sys2Proof.Machine
end

section
/-! SUPPORT. Memory and the buffers of the cores stay in canonical form: the deferred path, launches and placement. -/

namespace Sys2Proof.Machine

/-! ### Tags, records and the commit protocol -/

protected theorem MemOk.updDefer {s f} (h : MemOk s) : MemOk (updDefer s f) := h

protected theorem MemOk.takeTag {s grid team defq} (h : MemOk s) : OptOk (takeTag s grid team defq) := by
  unfold takeTag
  split
  · exact .none
  · exact ok_ite .none (.some h)

protected theorem MemOk.teamUnits {s g ts} (h : MemOk s) : MemOk (teamUnits s g ts) :=
  MemOk.foldl h fun h1 => ok_ite h1 (OptOk.getD (MemOk.takeTag h1) h1)

protected theorem MemOk.gridStarted {s uid} (h : MemOk s) : MemOk (gridStarted s uid) := by
  unfold gridStarted
  dsimp only
  split
  · exact h
  · split
    · refine MemOk.frame (ok_ite (MemOk.teamUnits ?_) ?_)
      all_goals
        split
        · exact MemOk.finishCmd h
        · exact h
    · refine ok_ite (MemOk.teamUnits ?_) ?_
      all_goals
        split
        · exact MemOk.finishCmd h
        · exact h

protected theorem MemOk.unitAdmitted {s grid team} (h : MemOk s) : MemOk (unitAdmitted s grid team) := by
  unfold unitAdmitted
  split
  · exact h
  · exact MemOk.gridStarted h

protected theorem MemOk.admitUnit {s w} (h : MemOk s) : OptOk (admitUnit s w) := by
  unfold admitUnit
  split
  · exact .none
  · exact ok_ite .none (OptOk.map (MemOk.takeTag h) MemOk.unitAdmitted)

protected theorem MemOk.admitOne {s w} (h : MemOk s) : MemOk (admitOne s w) := OptOk.getD (MemOk.admitUnit h) h

protected theorem MemOk.admitWaiting {s} (h : MemOk s) : MemOk (admitWaiting s) :=
  MemOk.foldl h fun h1 => ok_ite h1 (MemOk.admitOne h1)

protected theorem MemOk.freeUnit {s p} (h : MemOk s) : MemOk (freeUnit s p) := ok_ite (MemOk.admitWaiting h) h

protected theorem MemOk.execGridAdmission {idx s} (h : MemOk s) : Kept (execGridAdmission idx s) := by
  unfold execGridAdmission
  split
  · exact .fault
  · split
    · rename_i he
      have .some h1 := ok_of_eq OptOk he (MemOk.admitUnit h)
      exact .next h1
    · exact .fault

protected theorem MemOk.setSorus {s cluster x} (h : MemOk s) : MemOk (setSorus s cluster x) := h

protected theorem MemOk.shipBin {s cluster k} (h : MemOk s) : MemOk (shipBin s cluster k) := by
  unfold shipBin
  dsimp only
  split
  · exact h
  · exact ok_ite h h

protected theorem MemOk.haveBin {s cluster k} (h : MemOk s) : MemOk (haveBin s cluster k) := by
  unfold haveBin
  dsimp only
  refine ok_ite h (MemOk.setSorus ?_)
  split
  · exact MemOk.setSorus (MemOk.shipBin h)
  · exact h

protected theorem MemOk.execSorusRecordArrival {core coalesce takeNew s} (h : MemOk s) :
    Kept (execSorusRecordArrival core coalesce takeNew s) := by
  unfold execSorusRecordArrival
  dsimp only
  split
  · exact .next (ok_ite (MemOk.shipBin (MemOk.setSorus (MemOk.haveBin (MemOk.updCore h fun h1 => h1))))
      (MemOk.setSorus (MemOk.haveBin (MemOk.updCore h fun h1 => h1))))
  · exact .fault

protected theorem MemOk.execBinAgeFlush {cluster bin s} (h : MemOk s) : Kept (execBinAgeFlush cluster bin s) := by
  unfold execBinAgeFlush
  split
  · exact .fault
  · exact ok_ite .fault (.next (MemOk.shipBin h))

protected theorem MemOk.setThallus {s k x} (h : MemOk s) : MemOk (setThallus s k x) := h

protected theorem MemOk.spillStaged {s k t} (h : MemOk s) : MemOk (spillStaged s k t) :=
  ok_ite (MemOk.setThallus h) (MemOk.setThallus (MemOk.withMem h (wf_foldl h.mem fun hm => Memory.wf_memPut hm)))

protected theorem MemOk.stage {s r} (h : MemOk s) : MemOk (stage s r) := MemOk.spillStaged h

protected theorem MemOk.deliver {s x} (h : MemOk s) : MemOk (deliver s x) := by
  unfold deliver
  dsimp only
  split
  · exact MemOk.foldl h MemOk.stage
  · exact h

protected theorem MemOk.execThallusPacketArrival {idx s} (h : MemOk s) : Kept (execThallusPacketArrival idx s) := by
  unfold execThallusPacketArrival
  split
  · exact .fault
  · exact ok_ite .fault (.next (MemOk.deliver h))

protected theorem MemOk.updCommit {s cid f} (h : MemOk s) : MemOk (updCommit s cid f) := h

protected theorem MemOk.execCommitTokenArrival {core s} (h : MemOk s) : Kept (execCommitTokenArrival core s) := by
  unfold execCommitTokenArrival
  split
  · exact .next (MemOk.updCommit (MemOk.updCore h fun h1 => h1))
  · exact .fault

protected theorem MemOk.execCommitClose {cid s} (h : MemOk s) : Kept (execCommitClose cid s) := by
  unfold execCommitClose
  dsimp only
  split
  · exact .fault
  · exact ok_ite .fault (.next h)

protected theorem MemOk.execSorusClose {cid cluster s} (h : MemOk s) : Kept (execSorusClose cid cluster s) := by
  unfold execSorusClose
  dsimp only
  split
  · exact .fault
  · exact ok_ite .fault (.next (MemOk.updCommit (MemOk.updDefer (MemOk.foldl h MemOk.shipBin))))

protected theorem MemOk.execCommitApplySend {cid s} (h : MemOk s) : Kept (execCommitApplySend cid s) := by
  unfold execCommitApplySend
  dsimp only
  split
  · exact .fault
  · exact ok_ite .fault (.next h)

protected theorem MemOk.applyRec {s r} (h : MemOk s) : MemOk (applyRec s r) := h.withMem (Memory.wf_memPut h.mem)

protected theorem MemOk.applyRecs {s dev ch gone cid bad} (h : MemOk s) : FstOk (applyRecs s dev ch gone cid bad) :=
  MemOk.setThallus (MemOk.foldl (MemOk.foldl h MemOk.applyRec) fun h1 => h1)

protected theorem MemOk.applyAt {s c dev ch bad} (h : MemOk s) : MemOk (applyAt s c dev ch bad) :=
  MemOk.charge (MemOk.updCommit (MemOk.applyRecs h))

protected theorem MemOk.execThallusApply {cid dev ch bad s} (h : MemOk s) :
    Kept (execThallusApply cid dev ch bad s) := by
  unfold execThallusApply
  dsimp only
  split
  · exact .fault
  · exact ok_ite .fault (.next (MemOk.applyAt h))

protected theorem MemOk.commitAdd {poison s k} (h : MemOk s) : MemOk (commitAdd poison s k) := by
  unfold commitAdd
  split
  · exact MemOk.addCounter h
  · exact h

protected theorem MemOk.completeCommit {s c} (h : MemOk s) : MemOk (completeCommit s c) := by
  unfold completeCommit
  dsimp only
  cases c.scope with
  | endGrid => exact MemOk.freeUnit (MemOk.foldl (MemOk.foldl h MemOk.commitAdd) MemOk.endCopyOp)
  | endTeam =>
    exact MemOk.freeUnit (MemOk.foldl (MemOk.foldl (MemOk.foldl h fun h1 => h1) MemOk.commitAdd) MemOk.endCopyOp)
  | team | grid | pod =>
    exact MemOk.foldl (MemOk.foldl (MemOk.foldl h fun h1 => h1) MemOk.commitAdd) MemOk.endCopyOp

protected theorem MemOk.execCommitCompletion {cid s} (h : MemOk s) : Kept (execCommitCompletion cid s) := by
  unfold execCommitCompletion
  split
  · exact .fault
  · exact ok_ite .fault (.next (MemOk.completeCommit h))

protected theorem MemOk.forgetPod {s g} (h : MemOk s) : MemOk (forgetPod s g) := h

protected theorem MemOk.execPodCloseRelease {cid s} (h : MemOk s) : Kept (execPodCloseRelease cid s) := by
  unfold execPodCloseRelease
  split
  · exact .fault
  · exact ok_ite .fault (.next h)

protected theorem MemOk.execPodCommitCompletion {cid s} (h : MemOk s) : Kept (execPodCommitCompletion cid s) := by
  unfold execPodCommitCompletion
  split
  · exact .fault
  · exact ok_ite .fault (.next h)

/-! ### Launches, placement and the end of grids -/

protected theorem CoreOk.startBuffers {ctx a keep c} (h : CoreOk c) : CoreOk (startBuffers ctx a keep c) := by
  obtain ⟨ha, hc, hw⟩ := h
  refine CoreOk.foldl (CoreOk.foldl (CoreOk.foldl ⟨?_, ?_, ?_⟩ fun h => h) fun h => h) fun h => h
  · exact wf_foldl ha fun hm => Memory.wf_memClear hm
  · exact wf_foldl hc fun hm => Memory.wf_memClear hm
  · exact wf_foldl hw fun hm => Memory.wf_memClear hm

protected theorem MemOk.reachCore {s g core} (h : MemOk s) : MemOk (reachCore s g core) :=
  ok_ite h (MemOk.updCore h fun h1 => h1)

protected theorem MemOk.startTeam {s g teamId p} (h : MemOk s) : MemOk (startTeam s g teamId p) :=
  MemOk.frame (MemOk.updCore (MemOk.bumpId (MemOk.reachCore h)) fun h1 => CoreOk.startBuffers h1)

protected theorem MemOk.launchFails {s g k} (h : MemOk s) : MemOk (launchFails s g k) := by
  unfold launchFails
  dsimp only
  refine MemOk.tellNode (MemOk.frame ?_)
  split
  · exact MemOk.finishCmd (ok_ite h (MemOk.poisonAt h))
  · exact ok_ite h (MemOk.poisonAt h)

protected theorem MemOk.enterUnit {s g} (h : MemOk s) : MemOk (enterUnit s g) := by
  unfold enterUnit
  dsimp only
  refine ok_ite (MemOk.gridStarted h) (ok_ite h ?_)
  split
  · rename_i he
    have .some h1 := ok_of_eq OptOk he (MemOk.takeTag h)
    exact MemOk.gridStarted h1
  · exact h

protected theorem MemOk.launchGrid {s ctx a podNo cmd node} (h : MemOk s) :
    MemOk (launchGrid s ctx a podNo cmd node) := by
  unfold launchGrid
  dsimp only
  refine ok_ite h ?_
  split
  · exact MemOk.launchFails h
  · exact MemOk.enterUnit h

protected theorem MemOk.execPodLaunchOutcome {ctx k failed s} (h : MemOk s) :
    Kept (execPodLaunchOutcome ctx k failed s) := by
  unfold execPodLaunchOutcome
  split
  · exact .fault
  · refine ok_ite .fault ?_
    split
    · exact .next (MemOk.forgetPod (MemOk.launchFails h))
    · exact .next (MemOk.enterUnit h)

protected theorem MemOk.setQueueOf {s cluster l} (h : MemOk s) : MemOk (setQueueOf s cluster l) := h

protected theorem MemOk.execTeamHandout {grid s} (h : MemOk s) : Kept (execTeamHandout grid s) := by
  unfold execTeamHandout
  dsimp only
  split
  · exact .fault
  · split
    · exact .fault
    · refine ok_ite .fault (ok_ite (.next h) (ok_ite .fault (ok_ite (.next h) ?_)))
      split
      · rename_i he
        have .some h1 := ok_of_eq OptOk he (MemOk.takeTag h)
        exact .next h1
      · exact .next h

protected theorem MemOk.hotClock {s k core} (h : MemOk s) : MemOk (hotClock s k core) := ok_ite h h

protected theorem MemOk.execTeamPlacement {cluster p s} (h : MemOk s) : Kept (execTeamPlacement cluster p s) := by
  unfold execTeamPlacement
  dsimp only
  split
  · exact .fault
  · split
    · exact .fault
    · exact ok_ite .fault (.next (MemOk.startTeam (MemOk.setQueueOf (MemOk.hotClock h))))

protected theorem MemOk.execDispatchSteal {cluster s} (h : MemOk s) : Kept (execDispatchSteal cluster s) := by
  unfold execDispatchSteal
  dsimp only
  split
  · exact .fault
  · split
    · exact .fault
    · exact ok_ite .fault (.next h)

protected theorem MemOk.placeAll {g l s} (h : MemOk s) : OptOk (placeAll g l s) := by
  induction l generalizing s with
  | nil => exact .some h
  | cons x r ih =>
    obtain ⟨t, p⟩ := x
    exact ok_ite .none (ok_ite (ih (MemOk.startTeam h)) .none)

protected theorem MemOk.execCoresidentPlacement {grid ps s} (h : MemOk s) :
    Kept (execCoresidentPlacement grid ps s) := by
  unfold execCoresidentPlacement
  dsimp only
  split
  · exact .fault
  · refine ok_ite .fault ?_
    split
    · rename_i he
      have .some h1 := ok_of_eq OptOk he (MemOk.placeAll (MemOk.foldl h MemOk.hotClock))
      exact .next h1
    · exact .fault

protected theorem MemOk.sweepTeams {s} (h : MemOk s) : MemOk (sweepTeams s) := h

protected theorem MemOk.execGridCompletion {grid s} (h : MemOk s) : Kept (execGridCompletion grid s) := by
  unfold execGridCompletion
  dsimp only
  split
  · exact .fault
  · exact ok_ite .fault
      (.next (MemOk.sweepTeams (MemOk.tellNode (MemOk.forgetPod (MemOk.frame (ok_ite h (MemOk.addAt h)))))))

end Sys2Proof.Machine
end

section
/-! SUPPORT. Memory and the buffers of the cores stay in canonical form: the directory, censuses, collectives, the
tape and completions. -/

namespace Sys2Proof.Machine

/-! ### The directory -/

protected theorem MemOk.updCen {s f} (h : MemOk s) : MemOk (updCen s f) := h

protected theorem MemOk.execDirmove {hd d a core loc s} (h : MemOk s) : Kept (execDirmove hd d a core loc s) := by
  unfold execDirmove
  dsimp only
  refine MemOk.issue h fun h1 => ok_ite .trap (.done (MemOk.startOp (MemOk.bumpId (MemOk.updCen ?_))))
  split <;> exact h1

protected theorem MemOk.dirFinish {s o} (h : MemOk s) : OptOk (dirFinish s o) := by
  unfold dirFinish
  dsimp only
  refine ok_ite .none ?_
  split
  · split <;> exact .some h
  · refine ok_ite (.some h) ?_
    split <;> exact .some h
  · split
    · exact .some h
    · exact ok_ite .none (.some h)
  · split
    · exact .none
    · refine ok_ite .none ?_
      split
      · refine .some (MemOk.endOp (MemOk.writeNow ?_))
        split <;> exact h
      · refine .some (MemOk.endOp (MemOk.writeNow ?_))
        split <;> exact h
      · exact .none
  · exact .none

protected theorem MemOk.execDirmoveDeparture {id s} (h : MemOk s) : Kept (execDirmoveDeparture id s) := by
  unfold execDirmoveDeparture
  dsimp only
  split
  · split
    · exact .fault
    · exact ok_ite .fault (.next h)
  · exact .fault

protected theorem MemOk.markEnt {late cid s e} (h : MemOk s) : MemOk (markEnt late cid s e) :=
  MemOk.updCore h fun h1 => h1

protected theorem MemOk.updCensus {s cid f} (h : MemOk s) : MemOk (updCensus s cid f) := h

protected theorem MemOk.joinLate {s core ent cid} (h : MemOk s) : MemOk (joinLate s core ent cid) := by
  unfold joinLate
  split
  · exact h
  · exact ok_ite (MemOk.updCensus (MemOk.markEnt h)) h

protected theorem MemOk.arriveAt {s m i} (h : MemOk s) : MemOk (arriveAt s m i) := MemOk.foldl h MemOk.joinLate

protected theorem MemOk.execDirmoveArrival {id s} (h : MemOk s) : Kept (execDirmoveArrival id s) := by
  unfold execDirmoveArrival
  split
  · split
    · exact .next (MemOk.endOp (MemOk.writeNow (MemOk.arriveAt h)))
    · exact .fault
  · exact .fault

/-! ### Censuses -/

protected theorem MemOk.execSolicit {hd op pod q a s} (h : MemOk s) : Kept (execSolicit hd op pod q a s) := by
  unfold execSolicit
  dsimp only
  refine MemOk.uniBind h fun h1 => ?_
  split
  · exact .held
  · exact ok_ite .held (.done h1)

protected theorem MemOk.execRespond {hd a s} (h : MemOk s) : Kept (execRespond hd a s) := by
  unfold execRespond
  refine MemOk.issue h fun h1 => ?_
  split
  · exact .trap
  · exact ok_ite .trap (.done h1)

protected theorem MemOk.visit {s c core} (h : MemOk s) : MemOk (visit s c core) := by
  unfold visit
  exact MemOk.updCen (MemOk.foldl (MemOk.updCore h fun hc => hc) MemOk.markEnt)

protected theorem MemOk.execCensusVisit {cid core s} (h : MemOk s) : Kept (execCensusVisit cid core s) := by
  unfold execCensusVisit
  dsimp only
  split
  · exact .fault
  · split
    · exact .fault
    · exact ok_ite .fault (.next (MemOk.visit h))

protected theorem MemOk.countResp {s core ent cid late p} (h : MemOk s) :
    MemOk (countResp s core ent cid late p) := by
  unfold countResp
  dsimp only
  split <;> exact h

protected theorem MemOk.failQueued {s core x} (h : MemOk s) : MemOk (failQueued s core x) :=
  MemOk.countResp (MemOk.updCore h fun h1 => h1)

protected theorem MemOk.execResponderPlacement {core pb s} (h : MemOk s) :
    Kept (execResponderPlacement core pb s) := by
  unfold execResponderPlacement
  dsimp only
  split
  · exact .fault
  · split
    · exact ok_ite .fault (.next (MemOk.frame (MemOk.updCore (MemOk.bumpId (MemOk.hotClock h)) fun h1 => h1)))
    · exact ok_ite (.next (MemOk.failQueued h)) .fault
    · exact .fault

protected theorem MemOk.execResponderEnd {tid s} (h : MemOk s) : Kept (execResponderEnd tid s) := by
  unfold execResponderEnd
  dsimp only
  split
  · exact .fault
  · split
    · exact .fault
    · exact ok_ite .fault (.next (MemOk.countResp h))

protected theorem MemOk.execCensusCoreReport {cid core peer s} (h : MemOk s) :
    Kept (execCensusCoreReport cid core peer s) := by
  unfold execCensusCoreReport
  dsimp only
  split
  · exact .fault
  · split
    · exact ok_ite .fault (ok_ite (.next h) (.next h))
    · refine ok_ite .fault ?_
      split
      · exact .next h
      · exact .next h
      · exact .fault

protected theorem MemOk.execCensusDeviceLost {cid dev s} (h : MemOk s) : Kept (execCensusDeviceLost cid dev s) := by
  unfold execCensusDeviceLost
  split
  · exact .fault
  · refine ok_ite .fault (ok_ite (.next h) ?_)
    split
    · exact .fault
    · exact .next h

protected theorem MemOk.fillCensus {s c p} (h : MemOk s) : MemOk (fillCensus s c p) := MemOk.endCopyOp h

protected theorem MemOk.freeCensus {s c} (h : MemOk s) : MemOk (freeCensus s c) := h

protected theorem MemOk.execCensusRootCompletion {cid s} (h : MemOk s) : Kept (execCensusRootCompletion cid s) := by
  unfold execCensusRootCompletion
  split
  · exact .fault
  · refine ok_ite .fault (ok_ite (ok_ite (.next (MemOk.updCensus (MemOk.fillCensus h))) .fault) ?_)
    split
    · exact .fault
    · exact .next (MemOk.freeCensus (MemOk.fillCensus h))

protected theorem MemOk.execCensusCloseAck {cid core s} (h : MemOk s) : Kept (execCensusCloseAck cid core s) := by
  unfold execCensusCloseAck
  dsimp only
  split
  · exact .fault
  · exact ok_ite .fault
      (.next (ok_ite (MemOk.freeCensus (MemOk.updCensus (MemOk.updCen (MemOk.updCore h fun h1 => h1))))
      (MemOk.updCensus (MemOk.updCen (MemOk.updCore h fun h1 => h1)))))

/-! ### Collectives -/

protected theorem MemOk.collIssue {row hd oper ty scope a s} (h : MemOk s) :
    Kept (collIssue row hd oper ty scope a s) := MemOk.uniOp h fun h1 => ok_ite .held (.done h1)

protected theorem MemOk.updColl {s id f} (h : MemOk s) : MemOk (updColl s id f) := h

protected theorem MemOk.enterColl {s c} (h : MemOk s) : MemOk (enterColl s c) := by
  unfold enterColl
  dsimp only
  split <;> exact h

protected theorem MemOk.collEnter {s o id} (h : MemOk s) : OptOk (collEnter s o id) := by
  unfold collEnter
  split
  · exact .none
  · exact ok_ite .none (.some (MemOk.endOp (MemOk.enterColl h)))

protected theorem MemOk.execCollPieceLand {id st data s} (h : MemOk s) : Kept (execCollPieceLand id st data s) := by
  unfold execCollPieceLand
  dsimp only
  split
  · exact .fault
  · split
    · exact .fault
    · exact ok_ite .fault (.next h)

protected theorem MemOk.putDest {s c first es} (h : MemOk s) : MemOk (putDest s c first es) := by
  unfold putDest
  dsimp only
  refine MemOk.bump (MemOk.foldl h fun h1 => ?_)
  split
  · exact MemOk.updColl (MemOk.engineStore h1)
  · exact h1

protected theorem MemOk.sendChunk {s c st b} (h : MemOk s) : MemOk (sendChunk s c st b) := h

protected theorem MemOk.collStart {s c i n} (h : MemOk s) : MemOk (collStart s c i n) := by
  unfold collStart
  dsimp only
  refine ok_ite (MemOk.putDest h) ?_
  split
  · exact ok_ite h h
  · exact ok_ite h h
  · exact ok_ite h (MemOk.sendChunk (MemOk.putDest h))
  · exact ok_ite (MemOk.sendChunk (MemOk.putDest h)) h

protected theorem MemOk.sumStep {s c i n k b} (h : MemOk s) : MemOk (sumStep s c i n k b) :=
  ok_ite h (ok_ite (MemOk.putDest h) (MemOk.sendChunk (MemOk.putDest h)))

protected theorem MemOk.roundStep {s c i n k b} (h : MemOk s) : MemOk (roundStep s c i n k b) :=
  ok_ite (MemOk.putDest h) (MemOk.sendChunk (MemOk.putDest h))

protected theorem MemOk.execReduceTeamDispatch {id st core s} (h : MemOk s) :
    Kept (execReduceTeamDispatch id st core s) := by
  unfold execReduceTeamDispatch
  dsimp only
  split
  · exact .fault
  · split
    · exact .fault
    · exact ok_ite .fault
        (ok_ite .fault (.next
        (MemOk.updColl (ok_ite (MemOk.collStart (MemOk.hotClock h))
        (ok_ite (MemOk.sumStep (MemOk.hotClock h)) (MemOk.roundStep (MemOk.hotClock h)))))))

protected theorem MemOk.execCollRankCompletion {id s} (h : MemOk s) : Kept (execCollRankCompletion id s) := by
  unfold execCollRankCompletion
  dsimp only
  split
  · exact .fault
  · split
    · exact .fault
    · exact ok_ite .fault (.next (MemOk.tellNode (MemOk.addAt (MemOk.updColl (MemOk.foldl h MemOk.putDest)))))

protected theorem MemOk.fmtselFinish {s o} (h : MemOk s) : OptOk (fmtselFinish s o) := by
  unfold fmtselFinish
  dsimp only
  split
  · exact .none
  · split
    · exact ok_ite .none (ok_ite (.some (MemOk.endOp (MemOk.writeNow (MemOk.updCore h fun h1 => h1))))
        (.some (MemOk.endOp (MemOk.bump (MemOk.writeNow (MemOk.updCore h fun h1 => h1))))))
    · exact .none

/-! ### The tape -/

protected theorem MemOk.modeIssue {row hd rev s} (h : MemOk s) : Kept (modeIssue row hd rev s) :=
  MemOk.issue h fun h1 => .done h1

protected theorem MemOk.execTapemarkCut {hd a s} (h : MemOk s) : Kept (execTapemarkCut hd a s) :=
  MemOk.issue h fun h1 => ok_ite .held (ok_ite .trap (ok_ite .trap (ok_ite .held (.done h1))))

protected theorem MemOk.tapeTrap {c s k va} (h : MemOk s) : BodyOk (tapeTrap c s k va) := .stop (MemOk.raiseRec h)

protected theorem MemOk.execTapespill {hd d a s} (h : MemOk s) : Kept (execTapespill hd d a s) := by
  unfold execTapespill
  dsimp only
  refine MemOk.issue h fun h1 => ok_ite .held ?_
  split
  · exact MemOk.tapeTrap h1
  · exact ok_ite .trap (.done h1)

protected theorem MemOk.execTapefill {hd a b s} (h : MemOk s) : Kept (execTapefill hd a b s) := by
  unfold execTapefill
  dsimp only
  refine MemOk.issue h fun h1 => ?_
  split
  · exact MemOk.tapeTrap h1
  · exact ok_ite .trap (.done h1)

protected theorem MemOk.fillRecs {w tid va fromL1 ks pos s} (h : MemOk s) :
    MemOk (fillRecs w tid va fromL1 ks pos s) := MemOk.foldl h fun h1 => MemOk.setTape (MemOk.readLoad h1)

protected theorem MemOk.tapeFinish {s o fromL1} (h : MemOk s) : OptOk (tapeFinish s o fromL1) := by
  unfold tapeFinish
  split
  · exact .none
  · split
    · exact ok_ite .none (.some (MemOk.endOp (MemOk.writeNow (MemOk.foldl h MemOk.homeStore))))
    · exact ok_ite .none (.some (MemOk.endOp (MemOk.fillRecs h)))
    · exact .none

/-! ### Completion -/

protected theorem MemOk.finishOp {s o fromL1} (h : MemOk s) : OptOk (finishOp s o fromL1) := by
  unfold finishOp
  cases o.kind with
  | regs => exact .some h
  | qpush | qpop => exact MemOk.queueFinish h
  | mem | abuf | cbuf | atom => exact MemOk.accessFinish h
  | waita | cwaitge | cadd => exact MemOk.counterFinish h
  | fence | aliasf | mode => exact MemOk.fenceFinish h
  | arrive | barwt | barsync => exact MemOk.barFinish h
  | cwaitb | aexportRev | opfence => exact MemOk.copySideFinish h
  | coll => exact MemOk.collEnter h
  | fmtsel => exact MemOk.fmtselFinish h
  | tapespill | tapefill => exact MemOk.tapeFinish h
  | dirins | dirlook | dirdel | dirmove => exact MemOk.dirFinish h
  | commit | ratom | copy | solicit | nmpost | nmgather => exact .none

protected theorem MemOk.execLongLatencyCompletion {id fromL1 s} (h : MemOk s) :
    Kept (execLongLatencyCompletion id fromL1 s) := by
  unfold execLongLatencyCompletion
  split
  · exact .fault
  · refine ok_ite .fault ?_
    split
    · rename_i he
      have .some h1 := ok_of_eq OptOk he (MemOk.finishOp h)
      exact .next h1
    · exact .fault

protected theorem MemOk.execWriteThroughDrain {core s} (h : MemOk s) : Kept (execWriteThroughDrain core s) := by
  unfold execWriteThroughDrain
  split
  · exact .fault
  · exact ok_ite .fault (.next (MemOk.updCore (MemOk.withMem (MemOk.publish h)
      (Memory.wf_memSetN (MemOk.publish h).mem)) fun hc => hc))

protected theorem MemOk.execL1LineReplacement {core idx inst s} (h : MemOk s) :
    Kept (execL1LineReplacement core idx inst s) :=
  ok_ite .fault (.next (MemOk.setCore h (ok_ite (MemOk.coreOf h) (MemOk.coreOf h))))

end Sys2Proof.Machine
end

section
/-! SUPPORT. Memory and the buffers of the cores stay in canonical form: the Rhizoid units and a forced reset. -/

namespace Sys2Proof.Machine

/-! ### Rhizoid units -/

protected theorem MemOk.setUnit {s u} (h : MemOk s) : MemOk (setUnit s u) := h

protected theorem MemOk.openBank {s ch bank row} (h : MemOk s) : MemOk (openBank s ch bank row) := ok_ite h h

protected theorem MemOk.putStatus {s c v poison} (h : MemOk s) : MemOk (putStatus s c v poison) := by
  unfold putStatus
  dsimp only
  split
  · refine MemOk.addCounter ?_
    split
    · exact MemOk.engineStore h
    · exact h
  · split
    · exact MemOk.engineStore h
    · exact h

protected theorem MemOk.putReply {s c v} (h : MemOk s) : MemOk (putReply s c v) := by
  unfold putReply
  split <;> exact h

protected theorem MemOk.endRun {s ch z x} (h : MemOk s) : MemOk (endRun s ch z x) :=
  MemOk.tellNode (ok_ite (MemOk.report (MemOk.charge (MemOk.putReply (MemOk.putStatus h))))
    (MemOk.charge (MemOk.putReply (MemOk.putStatus h))))

protected theorem MemOk.markWord {s dev pa} (h : MemOk s) : MemOk (markWord s dev pa) :=
  h.withMem (Memory.wf_memSetN h.mem)

protected theorem MemOk.restoreRow {s k} (h : MemOk s) : MemOk (restoreRow s k) :=
  MemOk.foldl (MemOk.foldl h MemOk.engineStore) MemOk.markWord

protected theorem MemOk.abortRun {s ch cause pc thr row} (h : MemOk s) : MemOk (abortRun s ch cause pc thr row) := by
  unfold abortRun
  dsimp only
  split
  · exact h
  · exact ok_ite (MemOk.setUnit (MemOk.foldl h MemOk.restoreRow))
      (MemOk.endRun (MemOk.setUnit (MemOk.foldl h MemOk.restoreRow)))

protected theorem MemOk.zStep {arith f ch z s} (h : MemOk s) (hf : ∀ {ch z s}, MemOk s → ZResOk (f ch z s)) :
    MemOk (zStep arith f ch z s) := by
  unfold zStep
  split
  · rename_i he
    have .done h1 := ok_of_eq ZResOk he (hf h)
    exact h1
  · rename_i he
    have .jump h1 := ok_of_eq ZResOk he (hf h)
    exact h1
  · rename_i he
    have .wait h1 := ok_of_eq ZResOk he (hf h)
    exact h1
  · exact MemOk.abortRun h

protected theorem MemOk.zIssue {row arith f s} (h : MemOk s) (hf : ∀ {ch z s}, MemOk s → ZResOk (f ch z s)) :
    Kept (zIssue row arith f s) := by
  unfold zIssue
  split
  · exact ok_ite (.next (MemOk.zStep h hf)) .fault
  · exact .fault

protected theorem MemOk.zReg {row arith f s} (h : MemOk s) : Kept (zReg row arith f s) :=
  MemOk.zIssue h fun h1 => .done h1

protected theorem MemOk.holdRows {s ch key n} (h : MemOk s) : MemOk (holdRows s ch key n) :=
  MemOk.foldl h fun h1 => ok_ite h1 (MemOk.openBank h1)

protected theorem MemOk.zldF {w a c ch z s} (h : MemOk s) : ZResOk (zldF w a c ch z s) := by
  unfold zldF
  dsimp only
  split
  · exact .stop
  · exact ok_ite (.wait h) (.done (MemOk.holdRows h))

protected theorem MemOk.zstF {w a c x z s} (h : MemOk s) : ZResOk (zstF w a c x z s) := by
  unfold zstF
  dsimp only
  split
  · exact .stop
  · split
    · exact .wait h
    · exact ok_ite (.done (MemOk.engineStore h)) (.wait h)

protected theorem MemOk.zlockF {w a c ch z s} (h : MemOk s) : ZResOk (zlockF w a c ch z s) :=
  ok_ite .stop (ok_ite (.done h) (ok_ite .stop (ok_ite .stop (ok_ite (.wait h) (ok_ite .stop (.done h))))))

protected theorem MemOk.zwpairF {ap at' as n wp wt word x z s} (h : MemOk s) :
    ZResOk (zwpairF ap at' as n wp wt word x z s) := by
  unfold zwpairF
  dsimp only
  refine ok_ite .stop (ok_ite .stop ?_)
  split
  · exact .stop
  · split
    · exact .wait h
    · exact ok_ite (.done (MemOk.foldl h MemOk.engineStore)) (.wait h)

protected theorem MemOk.zpopF {d x z s} (h : MemOk s) : ZResOk (zpopF d x z s) := by
  unfold zpopF
  split
  · exact .done h
  · exact .wait h

protected theorem MemOk.zpushF {a x z s} (h : MemOk s) : ZResOk (zpushF a x z s) := ok_ite (.wait h) (.done h)

protected theorem MemOk.zf2 {row f d a b s} (h : MemOk s) : Kept (zf2 row f d a b s) := MemOk.zReg h

protected theorem MemOk.nextRow {s ch z bank} (h : MemOk s) : MemOk (nextRow s ch z bank) := by
  unfold nextRow
  dsimp only
  split
  · exact h
  · exact ok_ite h (MemOk.openBank h)

protected theorem MemOk.execDqEntryFilled {n s} (h : MemOk s) : Kept (execDqEntryFilled n s) := by
  unfold execDqEntryFilled
  dsimp only
  split
  · exact .fault
  · split
    · exact .fault
    · exact ok_ite .fault (ok_ite (.next (MemOk.abortRun h)) (.next (MemOk.foldl h MemOk.nextRow)))

protected theorem MemOk.execLockHoldTimeout {ch s} (h : MemOk s) : Kept (execLockHoldTimeout ch s) := by
  unfold execLockHoldTimeout
  dsimp only
  split
  · exact .fault
  · split
    · exact .fault
    · exact .next (MemOk.abortRun h)

protected theorem MemOk.execLockWaitTimeout {ch s} (h : MemOk s) : Kept (execLockWaitTimeout ch s) := by
  unfold execLockWaitTimeout
  dsimp only
  split
  · exact .fault
  · split
    · exact .fault
    · exact .next (MemOk.abortRun h)

protected theorem MemOk.execHoldSliceExpiry {ch bank s} (h : MemOk s) : Kept (execHoldSliceExpiry ch bank s) := by
  unfold execHoldSliceExpiry
  dsimp only
  split
  · exact ok_ite .fault (.next h)
  · exact .fault

/-! ### Near-memory commands and gathers -/

protected theorem MemOk.nmpostBody {scope q a c s1} (h : MemOk s1) : BodyOk (nmpostBody scope q a c s1) := by
  unfold nmpostBody
  dsimp only
  split
  · exact .done h
  · exact ok_ite .held (.done h)

protected theorem MemOk.execNmpost {hd scope q a s} (h : MemOk s) : Kept (execNmpost hd scope q a s) := by
  unfold execNmpost
  split
  · exact MemOk.uniOp h MemOk.nmpostBody
  · exact MemOk.uniBind h MemOk.nmpostBody

protected theorem MemOk.rejectNm {s c k} (h : MemOk s) : MemOk (rejectNm s c k) :=
  MemOk.endCopyOp (MemOk.tellNode (MemOk.putReply (MemOk.putStatus h)))

protected theorem MemOk.putGather {s id g b} (h : MemOk s) : MemOk (putGather s id g b) := by
  unfold putGather
  dsimp only
  split
  · exact MemOk.acquireL1 (MemOk.bringCopies (MemOk.writeRegion h MemOk.abufPut))
  · exact h

protected theorem MemOk.endGather {s c g b failed} (h : MemOk s) : MemOk (endGather s c g b failed) := by
  unfold endGather
  dsimp only
  split
  · split
    · exact MemOk.endOp (MemOk.writeNow (MemOk.putGather h))
    · exact MemOk.endOp (MemOk.putGather h)
  · exact MemOk.putGather h

protected theorem MemOk.failGather {s c g} (h : MemOk s) : MemOk (failGather s c g) := MemOk.endGather h

protected theorem MemOk.checkGather {c g s} (h : MemOk s) : Kept (checkGather c g s) := by
  unfold checkGather
  dsimp only
  split
  · exact ok_ite (.next (MemOk.failGather h)) (ok_ite .fault (.next h))
  · exact .next (MemOk.failGather h)

protected theorem MemOk.rejectStep {s c k} (h : MemOk s) : Kept (rejectStep s c k) :=
  ok_ite .fault (.next (MemOk.rejectNm h))

protected theorem MemOk.checkNm {c d s} (h : MemOk s) : Kept (checkNm c d s) := by
  unfold checkNm
  dsimp only
  refine ok_ite (MemOk.rejectStep h) (ok_ite .fault ?_)
  split
  · exact MemOk.rejectStep h
  · exact MemOk.rejectStep h
  · exact .next (MemOk.endCopyOp h)

protected theorem MemOk.execNmCommandCheck {id s} (h : MemOk s) : Kept (execNmCommandCheck id s) := by
  unfold execNmCommandCheck
  dsimp only
  split
  · exact .fault
  · refine ok_ite .fault ?_
    split
    · exact MemOk.checkGather h
    · split
      · exact .next (MemOk.rejectNm h)
      · exact ok_ite .fault (MemOk.checkNm h)

protected theorem MemOk.offlineNm {s c} (h : MemOk s) : MemOk (offlineNm s c) := by
  unfold offlineNm
  split
  · exact MemOk.failGather h
  · exact MemOk.rejectNm h

protected theorem MemOk.execNmCommandStart {ch s} (h : MemOk s) : Kept (execNmCommandStart ch s) := by
  unfold execNmCommandStart
  dsimp only
  split
  · exact ok_ite (ok_ite .fault (.next (MemOk.offlineNm h))) (ok_ite (.next h) .fault)
  · exact .fault

protected theorem MemOk.runGather {s ch z g} (h : MemOk s) : Kept (runGather s ch z g) :=
  ok_ite (.next (MemOk.endGather h))
    (ok_ite (.next (MemOk.failGather h))
    (ok_ite .fault (ok_ite (.next (MemOk.endGather h)) (.next (MemOk.endGather h)))))

protected theorem MemOk.execNmCommandCompletion {ch s} (h : MemOk s) : Kept (execNmCommandCompletion ch s) := by
  unfold execNmCommandCompletion
  split
  · exact .fault
  · split
    · exact MemOk.runGather h
    · exact ok_ite .fault (.next (MemOk.endRun h))
    · exact ok_ite .fault (ok_ite (.next (MemOk.abortRun h)) (ok_ite .fault (.next (MemOk.endRun h))))

protected theorem MemOk.execZqdeadDetect {ch s} (h : MemOk s) : Kept (execZqdeadDetect ch s) := by
  unfold execZqdeadDetect
  dsimp only
  split
  · exact .fault
  · split
    · exact .next (MemOk.abortRun h)
    · exact ok_ite (.next (MemOk.abortRun h)) .fault
    · exact ok_ite (.next (MemOk.abortRun h)) .fault
    · exact .fault

/-! ### A forced reset -/

protected theorem MemOk.poisonNode {s k} (h : MemOk s) : MemOk (poisonNode s k) := by
  unfold poisonNode
  split
  · exact MemOk.poisonAt h
  · exact h

protected theorem MemOk.poisonRunning {s k} (h : MemOk s) : MemOk (poisonRunning s k) := by
  unfold poisonRunning
  dsimp only
  split
  · exact h
  · exact h
  · exact ok_ite h (MemOk.poisonNode h)
  · exact ok_ite h (MemOk.poisonAt h)
  · exact MemOk.poisonAt h

protected theorem MemOk.settleOp {s o} (h : MemOk s) : MemOk (settleOp s o) := by
  unfold settleOp
  refine ok_ite ?_ ?_
  · split
    · rename_i he
      have .some h1 := ok_of_eq OptPerfOk he (MemOk.accessPerform h)
      exact h1
    · exact h
  · split
    · rename_i he
      have .some h1 := ok_of_eq OptOk he (MemOk.finishOp h)
      exact h1
    · exact h

theorem Kept.orSame {s r} (hr : Kept r) (h : MemOk s) : MemOk (orSame s r) := by
  cases hr with
  | next hs => exact hs
  | fault => exact h
  | refused => exact h

protected theorem MemOk.settleStream {s t} (h : MemOk s) : MemOk (settleStream s t) := by
  unfold settleStream
  dsimp only
  split
  · exact h
  · exact MemOk.foldl (MemOk.foldl h fun h1 => Kept.orSame (MemOk.execMmaLanding h1) h1) fun h1 =>
      Kept.orSame (MemOk.execDrainExecute h1) h1

protected theorem MemOk.stopAll {cause s t} (h : MemOk s) : MemOk (stopAll cause s t) :=
  MemOk.updTeam (MemOk.setOps (MemOk.foldl (MemOk.settleStream h) MemOk.settleOp))

protected theorem MemOk.finishCommit {s c} (h : MemOk s) : MemOk (finishCommit s c) := by
  unfold finishCommit
  dsimp only
  split
  · exact MemOk.completeCommit (MemOk.foldl (MemOk.foldl h MemOk.deliver) fun h1 => ok_ite h1 (MemOk.applyAt h1))
  · exact MemOk.foldl (MemOk.foldl h MemOk.deliver) fun h1 => ok_ite h1 (MemOk.applyAt h1)

protected theorem MemOk.discardRecs {s tags cids} (h : MemOk s) : MemOk (discardRecs s tags cids) :=
  memOk_intro h.mem (h.cores.map fun hc => hc)

protected theorem MemOk.resetDefer {s ctx} (h : MemOk s) : MemOk (resetDefer s ctx) :=
  MemOk.discardRecs (MemOk.foldl (MemOk.foldl h MemOk.finishCommit) fun h1 => MemOk.foldl h1 MemOk.poisonAt)

protected theorem MemOk.resetEngines {cause s ctx} (h : MemOk s) : MemOk (resetEngines cause s ctx) :=
  MemOk.foldl (MemOk.foldl h MemOk.failCopy) fun h1 =>
    MemOk.tellNode (MemOk.reportFail (MemOk.frame (ok_ite (MemOk.poisonAt h1) h1)))

protected theorem MemOk.resetUnits {cause s ctx} (h : MemOk s) : MemOk (resetUnits cause s ctx) := by
  unfold resetUnits
  dsimp only
  refine MemOk.foldl (MemOk.foldl (MemOk.foldl h fun h1 => ?_) fun h1 =>
    MemOk.setUnit (MemOk.foldl h1 fun h2 => ok_ite h2 (MemOk.rejectNm h2))) fun h1 => ok_ite h1 (MemOk.rejectNm h1)
  split
  · exact ok_ite h1 (ok_ite h1 (ok_ite h1 (MemOk.abortRun h1)))
  · exact h1

protected theorem MemOk.resetMove {s m} (h : MemOk s) : MemOk (resetMove s m) := by
  unfold resetMove
  split
  · exact MemOk.arriveAt h
  · exact h
  · exact h

protected theorem MemOk.resetCensus {s ctx} (h : MemOk s) : MemOk (resetCensus s ctx) :=
  MemOk.foldl (MemOk.updCen (MemOk.foldl (MemOk.foldl (memOk_intro h.mem (h.cores.map fun hc => hc))
    MemOk.resetMove) MemOk.failQueued)) MemOk.freeCensus

protected theorem MemOk.resetNodes {s ctx} (h : MemOk s) : MemOk (resetNodes s ctx) :=
  MemOk.frame (MemOk.foldl h MemOk.poisonRunning)

protected theorem MemOk.forcedReset {s ctx cause} (h : MemOk s) : MemOk (forcedReset s ctx cause) := by
  have hu : MemOk (resetUnits cause (resetEngines cause (resetNodes s ctx) ctx) ctx) :=
    MemOk.resetUnits (MemOk.resetEngines (MemOk.resetNodes h))
  unfold forcedReset
  refine MemOk.sweepTeams (MemOk.freeUnit (MemOk.updCtx (MemOk.updDefer (MemOk.foldl (MemOk.frame
    (MemOk.foldl ?_ MemOk.poisonAt)) fun h1 => h1))))
  exact MemOk.resetCensus (MemOk.resetDefer (MemOk.foldl hu MemOk.stopAll))

end Sys2Proof.Machine
end

section
/-! SUPPORT. Memory and the buffers of the cores stay in canonical form: commands, power and hosts. -/

namespace Sys2Proof.Machine

/-! ### Queued commands and task nodes -/

protected theorem MemOk.launchGo {c s} (h : MemOk s) : Kept (launchGo c s) := by
  unfold launchGo
  dsimp only
  split
  · exact ok_ite .fault (.next (MemOk.launchGrid h))
  · exact .fault

protected theorem MemOk.execLaunch {w rec' s} (h : MemOk s) : Kept (execLaunch w rec' s) :=
  MemOk.queuedCmd h (fun h1 => h1) MemOk.launchGo

protected theorem MemOk.armGo {c s} (h : MemOk s) : Kept (armGo c s) := by
  unfold armGo
  dsimp only
  split
  · refine ok_ite (.next (MemOk.finishCmd h)) (ok_ite .fault ?_)
    split <;> exact .next (MemOk.finishCmd h)
  · exact .fault

protected theorem MemOk.execArm {w first count s} (h : MemOk s) : Kept (execArm w first count s) :=
  MemOk.queuedCmd h (fun h1 => h1) MemOk.armGo

protected theorem MemOk.lookNodes {s} (h : MemOk s) : MemOk (lookNodes s) := h

protected theorem MemOk.execNodeWaitsDone {ctx n s} (h : MemOk s) : Kept (execNodeWaitsDone ctx n s) := by
  unfold execNodeWaitsDone
  dsimp only
  split
  · exact .fault
  · exact ok_ite .fault (ok_ite (.next (MemOk.poisonNode h)) (ok_ite (.next h) .fault))

protected theorem MemOk.startNode {k s} (h : MemOk s) : Kept (startNode k s) := by
  unfold startNode
  split
  · exact ok_ite .fault (.next (MemOk.launchGrid h))
  · exact .next h
  · split
    · exact .next (MemOk.poisonAt (MemOk.tellNode h))
    · exact ok_ite .fault (.next h)
  · exact ok_ite .fault (.next (ok_ite (MemOk.updColl h) (MemOk.enterColl h)))
  · exact .next (MemOk.tellNode (MemOk.ownerEvent h))

protected theorem MemOk.execNodeStart {ctx n s} (h : MemOk s) : Kept (execNodeStart ctx n s) := by
  unfold execNodeStart
  split
  · exact .fault
  · exact ok_ite .fault (MemOk.startNode h)

protected theorem MemOk.execNodeCompletion {ctx n s} (h : MemOk s) : Kept (execNodeCompletion ctx n s) := by
  unfold execNodeCompletion
  dsimp only
  split
  · exact .fault
  · split
    · exact .fault
    · exact ok_ite .fault (.next (ok_ite (MemOk.addAt h) h))

protected theorem MemOk.waitcGo {c s} (h : MemOk s) : Kept (waitcGo c s) := by
  unfold waitcGo
  split
  · split
    · exact .fault
    · exact .next (MemOk.finishCmd h)
  · exact .fault

protected theorem MemOk.execWaitc {w addr target s} (h : MemOk s) : Kept (execWaitc w addr target s) :=
  MemOk.queuedCmd h (fun h1 => h1) MemOk.waitcGo

protected theorem MemOk.withdraw {s ctx} (h : MemOk s) : MemOk (withdraw s ctx) :=
  MemOk.frame (MemOk.foldl h fun h1 => h1)

protected theorem MemOk.preemptGo {c s} (h : MemOk s) : Kept (preemptGo c s) := by
  unfold preemptGo
  dsimp only
  split
  · exact ok_ite .fault (.next (MemOk.withdraw h))
  · exact .fault

protected theorem MemOk.execPreempt {w deadline s} (h : MemOk s) : Kept (execPreempt w deadline s) :=
  MemOk.queuedCmd h (fun h1 => h1) MemOk.preemptGo

protected theorem MemOk.preemptEnds {s ctx d status} (h : MemOk s) : MemOk (preemptEnds s ctx d status) := by
  unfold preemptEnds
  split
  · exact MemOk.finishCmd h
  · exact h

protected theorem MemOk.flushBins {s ctx} (h : MemOk s) : MemOk (flushBins s ctx) :=
  MemOk.foldl h fun h1 => MemOk.foldl h1 MemOk.shipBin

protected theorem MemOk.putBytes {s ctx a b} (h : MemOk s) : MemOk (putBytes s ctx a b) := by
  refine h.withMem (wf_foldl h.mem fun {m x} hm => ?_)
  split
  · exact Memory.wf_memSet hm
  · exact hm

protected theorem MemOk.putSaved {ctx gs a s} (h : MemOk s) : MemOk (putSaved ctx gs a s) := by
  induction gs generalizing a s with
  | nil => exact h
  | cons g r ih => exact ih h.putBytes

protected theorem MemOk.execPreemptSaved {ctx s} (h : MemOk s) : Kept (execPreemptSaved ctx s) := by
  unfold execPreemptSaved
  dsimp only
  split
  · exact .fault
  · split
    · exact .fault
    · exact ok_ite .fault
        (.next (MemOk.preemptEnds (MemOk.updCtx (MemOk.foldl (MemOk.putSaved (MemOk.flushBins h)) fun h1 => h1))))

protected theorem MemOk.execPreemptDeadline {ctx s} (h : MemOk s) : Kept (execPreemptDeadline ctx s) := by
  unfold execPreemptDeadline
  dsimp only
  split
  · exact .fault
  · split
    · exact .fault
    · exact .next (MemOk.preemptEnds (MemOk.forcedReset h))

protected theorem MemOk.resumeGrids {s ctx} (h : MemOk s) : FstOk (resumeGrids s ctx) := by
  unfold resumeGrids
  dsimp only
  refine MemOk.admitWaiting (MemOk.updCtx (MemOk.foldl h fun h1 => ?_))
  split <;> exact h1

protected theorem MemOk.resumeGo {c s} (h : MemOk s) : Kept (resumeGo c s) := by
  unfold resumeGo
  dsimp only
  split
  · exact ok_ite .fault (.next (MemOk.finishCmd (MemOk.resumeGrids h)))
  · exact .fault

protected theorem MemOk.execResume {w s} (h : MemOk s) : Kept (execResume w s) :=
  MemOk.queuedCmd h (fun h1 => h1) MemOk.resumeGo

protected theorem MemOk.killGo {c s} (h : MemOk s) : Kept (killGo c s) := by
  unfold killGo
  dsimp only
  split
  · refine .next (MemOk.finishCmd ?_)
    split
    · exact MemOk.preemptEnds (MemOk.forcedReset h)
    · exact MemOk.forcedReset h
  · exact .fault

protected theorem MemOk.execKill {w s} (h : MemOk s) : Kept (execKill w s) :=
  MemOk.queuedCmd h (fun h1 => h1) MemOk.killGo

/-! ### Heat, power and soft errors -/

protected theorem MemOk.refillBudgets {s} (h : MemOk s) : MemOk (refillBudgets s) := ok_ite h h

protected theorem CoreOk.judgeHeat {clock c} (h : CoreOk c) : CoreOk (judgeHeat clock c) := by
  unfold judgeHeat
  dsimp only
  refine ok_ite h (ok_ite h (ok_ite h ?_))
  split
  · exact h
  · exact ok_ite h h

protected theorem MemOk.trip {s} (h : MemOk s) : MemOk (trip s) := MemOk.frame (MemOk.foldl h MemOk.forcedReset)

protected theorem MemOk.dieTemp {s island temp} (h : MemOk s) : MemOk (dieTemp s island temp) :=
  ok_ite (MemOk.trip h) h

protected theorem MemOk.execTempSample {core temp s} (h : MemOk s) : Kept (execTempSample core temp s) :=
  ok_ite .fault (.next (MemOk.dieTemp (MemOk.updCore h fun h1 => CoreOk.judgeHeat h1)))

protected theorem MemOk.heatIsland {island temp s} (h : MemOk s) : Kept (heatIsland island temp s) :=
  ok_ite .fault (.next (MemOk.dieTemp h))

protected theorem MemOk.execDroopEvent {island s} (h : MemOk s) : Kept (execDroopEvent island s) :=
  ok_ite .fault (.next (ok_ite (MemOk.updCore h fun h1 => CoreOk.judgeHeat h1) h))

protected theorem MemOk.operate {island mhz mv s} (h : MemOk s) : Kept (operate island mhz mv s) :=
  ok_ite .fault (.next h)

protected theorem MemOk.unitParity {s ch row} (h : MemOk s) : MemOk (unitParity s ch row) := by
  unfold unitParity
  split
  · exact h
  · split
    · exact MemOk.failGather h
    · exact ok_ite h (MemOk.abortRun h)

protected theorem MemOk.uncorrectable {s x} (h : MemOk s) : MemOk (uncorrectable s x) := by
  unfold uncorrectable
  dsimp only
  split
  · exact h
  · exact MemOk.updCore h fun h1 => h1
  · exact MemOk.updCore h fun h1 => h1
  · exact MemOk.updCore h fun h1 => h1
  · exact h
  · exact MemOk.markWord h
  · exact ok_ite (MemOk.setUnit (MemOk.unitParity h)) (MemOk.unitParity h)
  · exact h
  · exact h

protected theorem MemOk.restoreOne {core ctx tid gid s e} (h : MemOk s) :
    MemOk (restoreOne core ctx tid gid s e) := by
  unfold restoreOne
  refine ok_ite ?_ h
  split
  · exact MemOk.homeStore h
  · exact h

protected theorem MemOk.execDebugStepBack {tid gid s} (h : MemOk s) : Kept (execDebugStepBack tid gid s) := by
  unfold execDebugStepBack
  dsimp only
  split
  · split
    · exact .fault
    · exact ok_ite .fault (.next (MemOk.updGroup (MemOk.foldl h MemOk.restoreOne)))
  · exact .fault

/-! ### Uniform instructions and special registers -/

protected theorem MemOk.uniS {row hd lat d f s} (h : MemOk s) : Kept (uniS row hd lat d f s) := MemOk.fixed h

protected theorem MemOk.uni2 {row hd lat d a b f s} (h : MemOk s) : Kept (uni2 row hd lat d a b f s) := MemOk.uniS h

protected theorem MemOk.readSr {row hd d n s} (h : MemOk s) : Kept (readSr row hd d n s) :=
  MemOk.issue h fun h1 => ok_ite .trap (.done h1)

protected theorem MemOk.readSrV {row hd d n s} (h : MemOk s) : Kept (readSrV row hd d n s) :=
  MemOk.issue h fun h1 => ok_ite .trap (.done h1)

protected theorem MemOk.writeSr {row hd a n s} (h : MemOk s) : Kept (writeSr row hd a n s) :=
  MemOk.issue h fun h1 =>
    ok_ite .trap (ok_ite .trap (ok_ite .trap (.done (MemOk.pendWrs (ok_ite (MemOk.updCore h1 fun h2 => h2) h1)))))

/-! ### Hosts and their commands -/

protected theorem MemOk.endRdma {s r} (h : MemOk s) : MemOk (endRdma s r) := h

protected theorem MemOk.putRdma {s r} (h : MemOk s) : MemOk (putRdma s r) := h

protected theorem MemOk.rdmaPacket {row s c own r} (h : MemOk s) : Kept (rdmaPacket row s c own r) := by
  unfold rdmaPacket
  dsimp only
  split
  · refine ok_ite (.next h) (ok_ite .fault (.next (ok_ite (MemOk.endRdma (MemOk.charge ?_))
      (MemOk.putRdma (MemOk.charge ?_)))))
    all_goals
      split
      · exact MemOk.withMem h (Memory.wf_memSetCells h.mem)
      · exact h
  · exact .next h

protected theorem MemOk.execRdmaWrite {host key va data s} (h : MemOk s) :
    Kept (execRdmaWrite host key va data s) := by
  unfold execRdmaWrite
  refine ok_ite .fault ?_
  split
  · exact MemOk.rdmaPacket h
  · exact .next h

protected theorem MemOk.execRdmaRead {host key va n s} (h : MemOk s) : Kept (execRdmaRead host key va n s) := by
  unfold execRdmaRead
  refine ok_ite .fault ?_
  split
  · exact .next h
  · exact MemOk.rdmaPacket h

protected theorem MemOk.leaseEvent {s host} (h : MemOk s) : MemOk (leaseEvent s host) := ok_ite h (MemOk.sendEvent h)

protected theorem MemOk.setLease {s l} (h : MemOk s) : MemOk (setLease s l) :=
  ok_ite (MemOk.leaseEvent h) (MemOk.leaseEvent (MemOk.leaseEvent h))

protected theorem MemOk.deliverKept {s host} (h : MemOk s) : MemOk (deliverKept s host) :=
  MemOk.foldl (MemOk.foldl h MemOk.sendReply) MemOk.sendOut

protected theorem MemOk.execClaim {k s} (h : MemOk s) : Kept (execClaim k s) :=
  MemOk.kdpServe h fun h1 =>
    ok_ite (.next (MemOk.reply h1))
    (ok_ite (.next (MemOk.deliverKept (MemOk.reply (MemOk.setLease h1)))) (.next (MemOk.reply h1)))

protected theorem MemOk.execRenew {k s} (h : MemOk s) : Kept (execRenew k s) :=
  MemOk.kdpServe h fun h1 =>
    ok_ite (.next (MemOk.reply h1)) (ok_ite (.next (MemOk.reply h1)) (.next (MemOk.reply h1)))

protected theorem MemOk.execHandover {k target connected s} (h : MemOk s) :
    Kept (execHandover k target connected s) :=
  MemOk.kdpServe h fun h1 =>
    ok_ite (.next (MemOk.reply h1)) (ok_ite (.next (MemOk.reply h1)) (.next (MemOk.reply (MemOk.setLease h1))))

protected theorem MemOk.execRelease {k s} (h : MemOk s) : Kept (execRelease k s) :=
  MemOk.kdpServe h fun h1 =>
    ok_ite (.next (MemOk.reply h1)) (ok_ite (.next (MemOk.reply h1)) (.next (MemOk.reply (MemOk.setLease h1))))

protected theorem MemOk.ownerCmd {row code needCtx k s body} (h : MemOk s)
    (hbody : ∀ {s}, MemOk s → OptFstOk (body s)) : Kept (ownerCmd row code needCtx k s body) := by
  unfold ownerCmd
  refine MemOk.kdpServe h fun h1 => ?_
  split
  · rename_i he
    have .some h2 := ok_of_eq OptFstOk he (hbody h1)
    exact .next (MemOk.reply h2)
  · exact .fault

protected theorem MemOk.execCtxcreate {k p c s} (h : MemOk s) : Kept (execCtxcreate k p c s) :=
  MemOk.ownerCmd h fun h1 => ok_ite (.some h1) (ok_ite (.some h1) (ok_ite (.some h1) (ok_ite (ok_ite .none (.some h1))
    (ok_ite .none (.some (memOk_intro (Memory.wf_memClear h1.mem) h1.cores))))))

protected theorem MemOk.dropCommands {s ctx} (h : MemOk s) : MemOk (dropCommands s ctx) :=
  MemOk.foldl h MemOk.finishCmd

protected theorem MemOk.freeCtx {s ctx} (h : MemOk s) : MemOk (freeCtx s ctx) :=
  memOk_intro h.dropCommands.mem (h.dropCommands.cores.map fun hc => hc)

protected theorem MemOk.execCtxdestroy {k s} (h : MemOk s) : Kept (execCtxdestroy k s) :=
  MemOk.ownerCmd h fun h1 => ok_ite (.some h1) (.some (MemOk.freeCtx (MemOk.forcedReset h1)))

protected theorem MemOk.buildPath {va target k table ts s} (h : MemOk s) :
    OptFstOk (buildPath va target k table ts s) := by
  induction k generalizing table ts s with
  | zero => exact .none
  | succ k ih =>
    unfold buildPath
    refine ok_ite (.some h) (ok_ite (ih h) ?_)
    split
    · exact .none
    · exact OptFstOk.map (ih (MemOk.withMem h (Memory.wf_memPut (Memory.wf_memClear h.mem)))) fun hx => hx

protected theorem MemOk.dropPages {s ctx va n} (h : MemOk s) : MemOk (dropPages s ctx va n) :=
  memOk_intro h.mem (h.cores.map fun hc => hc)

protected theorem MemOk.mapLeaf {s c p x} (h : MemOk s) : OptFstOk (mapLeaf s c p x) :=
  OptFstOk.map (MemOk.buildPath h) fun hx => MemOk.dropPages (MemOk.updCtx (MemOk.withMem hx (Memory.wf_memPut hx.mem)))

protected theorem MemOk.execMap {k p hd s} (h : MemOk s) : Kept (execMap k p hd s) := by
  unfold execMap
  refine MemOk.ownerCmd h fun h1 => ?_
  split
  · exact .some h1
  · exact ok_ite (.some h1) (ok_ite (ok_ite .none (.some h1)) (ok_ite .none (MemOk.mapLeaf h1)))

protected theorem MemOk.execUnmap {k va s} (h : MemOk s) : Kept (execUnmap k va s) := by
  refine MemOk.ownerCmd h fun h1 => ?_
  dsimp only
  split
  · exact .some h1
  · split
    · exact .some h1
    · exact ok_ite .none (.some (MemOk.dropPages (MemOk.updCtx (MemOk.withMem h1 (Memory.wf_memPut h1.mem)))))

protected theorem MemOk.execAttest {k nonce s} (h : MemOk s) : Kept (execAttest k nonce s) :=
  MemOk.kdpServe h fun h1 =>
    ok_ite (.next (MemOk.reply h1)) (ok_ite (.next (MemOk.reply h1)) (.next (MemOk.reply h1)))

protected theorem MemOk.execEventResend {seq s} (h : MemOk s) : Kept (execEventResend seq s) := by
  unfold execEventResend
  dsimp only
  split
  · exact .fault
  · exact ok_ite .fault (ok_ite (.next h) (.next (MemOk.sendOut h)))

protected theorem MemOk.gateway {row ctx f s} (h : MemOk s) (hf : ∀ {s}, MemOk s → Kept (f s)) :
    Kept (gateway row ctx f s) := ok_ite .fault (ok_ite (hf h) (ok_ite (hf h) (.next h)))

protected theorem MemOk.execGwCtxmem {ctx va data n s} (h : MemOk s) : Kept (execGwCtxmem ctx va data n s) := by
  refine MemOk.gateway h fun h1 => ?_
  dsimp only
  split
  · refine ok_ite .fault ?_
    split
    · exact .next (MemOk.withMem h1 (Memory.wf_memSetCells h1.mem))
    · exact .next h1
  · exact .next h1

protected theorem MemOk.resetNow {s ctx cause} (h : MemOk s) : MemOk (resetNow s ctx cause) := by
  unfold resetNow
  dsimp only
  split
  · exact MemOk.preemptEnds (MemOk.forcedReset h)
  · exact MemOk.forcedReset h

protected theorem MemOk.execGwEvent {code payload s} (h : MemOk s) : Kept (execGwEvent code payload s) := by
  unfold execGwEvent
  refine ok_ite .fault ?_
  split
  · exact .next (MemOk.ownerEvent h)
  · exact .next h

end Sys2Proof.Machine
end

section
/-! SUPPORT. Memory and the buffers of the cores stay in canonical form: firmware, messages, calls and vector
instructions. -/

namespace Sys2Proof.Machine

/-! ### Firmware, peers and bring-up -/

protected theorem MemOk.updFab {s f} (h : MemOk s) : MemOk (updFab s f) := h

protected theorem MemOk.updFirm {s f} (h : MemOk s) : MemOk (updFirm s f) := h

protected theorem MemOk.failLink {s p} (h : MemOk s) : MemOk (failLink s p) := MemOk.foldl h MemOk.failCopy

protected theorem MemOk.watchPeers {s} (h : MemOk s) : MemOk (watchPeers s) := ok_ite h h

protected theorem MemOk.execPeerLostTimeout {dev s} (h : MemOk s) : Kept (execPeerLostTimeout dev s) := by
  unfold execPeerLostTimeout
  dsimp only
  split
  · exact .fault
  · exact ok_ite .fault (.next (MemOk.foldl (MemOk.failLink h) fun h1 => h1))

protected theorem MemOk.execUalinkRequest {src pa req s} (h : MemOk s) : Kept (execUalinkRequest src pa req s) := by
  unfold execUalinkRequest
  dsimp only
  refine ok_ite .fault ?_
  split
  · exact .next h
  · exact .next (MemOk.engineStore h)
  · exact .next (MemOk.engineStore h)

theorem memOk_reset : MemOk State.reset := memOk_intro rfl fun _ hc => nomatch hc

protected theorem MemOk.cleared {s} (h : MemOk s) : MemOk (cleared s) :=
  memOk_intro (ok_ite (K := fun m : Memory => m.wf = true) (Memory.wf_memClear h.mem) h.mem) memOk_reset.cores

protected theorem MemOk.stepOne {s} (h : MemOk s) : MemOk (stepOne s) := h

protected theorem MemOk.execModuleReset {s} (h : MemOk s) : Kept (execModuleReset s) :=
  ok_ite .fault (.next (MemOk.stepOne (MemOk.cleared (MemOk.foldl h MemOk.forcedReset))))

protected theorem MemOk.endStep {s n ok parts} (h : MemOk s) : MemOk (endStep s n ok parts) := h

protected theorem MemOk.execFabricTraining {dev failed s} (h : MemOk s) : Kept (execFabricTraining dev failed s) :=
  ok_ite .fault (.next (MemOk.endStep (MemOk.updFirm (MemOk.updFab (MemOk.withMem h (Memory.wf_memClear h.mem))))))

/-! ### Messages of peers -/

protected theorem MemOk.admitPeer {src tag defq pod s} (h : MemOk s) : Kept (admitPeer src tag defq pod s) := by
  unfold admitPeer
  split
  · exact ok_ite .fault (.next h)
  · exact .fault

protected theorem MemOk.discardPeer {s u} (h : MemOk s) : MemOk (discardPeer s u) :=
  MemOk.updDefer (MemOk.discardRecs h)

protected theorem MemOk.releasePeer {src tag discard s} (h : MemOk s) : Kept (releasePeer src tag discard s) := by
  unfold releasePeer
  dsimp only
  split
  · exact .fault
  · exact .next (MemOk.admitWaiting (MemOk.updDefer (ok_ite (MemOk.discardPeer h) h)))

protected theorem MemOk.peerCommit {s src a} (h : MemOk s) : FstOk (peerCommit s src a) := by
  unfold peerCommit
  dsimp only
  split <;> exact h

protected theorem MemOk.applyPeer {src a bad s} (h : MemOk s) : Kept (applyPeer src a bad s) :=
  ok_ite .fault (.next (MemOk.charge (MemOk.applyRecs (MemOk.peerCommit h))))

protected theorem MemOk.completePeer {src cid s} (h : MemOk s) : Kept (completePeer src cid s) := by
  unfold completePeer
  dsimp only
  split
  · exact .fault
  · exact ok_ite .fault (.next h)

protected theorem MemOk.podWord {src ctx k w s} (h : MemOk s) : Kept (podWord src ctx k w s) := by
  unfold podWord
  dsimp only
  split
  · exact .fault
  · exact ok_ite .fault (.next h)

protected theorem MemOk.closePeer {src idents s} (h : MemOk s) : Kept (closePeer src idents s) := by
  unfold closePeer
  dsimp only
  split
  · exact .fault
  · exact .next h

protected theorem MemOk.censusPeer {src p s} (h : MemOk s) : Kept (censusPeer src p s) := by
  unfold censusPeer
  dsimp only
  split
  · exact .fault
  · split
    · exact .fault
    · exact ok_ite .fault (.next h)

protected theorem MemOk.counterPeer {src pa scope poison s} (h : MemOk s) :
    Kept (counterPeer src pa scope poison s) :=
  ok_ite .fault (.next (ok_ite (MemOk.addCounter h) (MemOk.carryCopy (MemOk.addCounter h))))

protected theorem MemOk.windowPeer {src core win off b s} (h : MemOk s) : Kept (windowPeer src core win off b s) := by
  unfold windowPeer
  refine ok_ite .fault ?_
  split
  · exact .next h
  · exact ok_ite (.next h) (.next (MemOk.writeRegion h MemOk.abufPut))

protected theorem MemOk.chunkWord {src id f s} (h : MemOk s) : Kept (chunkWord src id f s) := by
  unfold chunkWord
  dsimp only
  split
  · exact .fault
  · exact ok_ite .fault (.next h)

protected theorem MemOk.preemptPeer {src ctx us s} (h : MemOk s) : Kept (preemptPeer src ctx us s) :=
  ok_ite .fault (.next (MemOk.withdraw h))

protected theorem MemOk.resumePeer {src ctx s} (h : MemOk s) : Kept (resumePeer src ctx s) :=
  ok_ite .fault (.next (MemOk.resumeGrids h))

protected theorem MemOk.resetPeer {src ctx cause s} (h : MemOk s) : Kept (resetPeer src ctx cause s) :=
  ok_ite .fault (.next (MemOk.resetNow h))

protected theorem MemOk.receive {src m s} (h : MemOk s) : Kept (receive src m s) := by
  unfold receive
  dsimp only
  refine ok_ite .fault ?_
  split
  · exact ok_ite (.next (MemOk.foldl h MemOk.stage)) .fault
  · exact MemOk.applyPeer h
  · exact MemOk.completePeer h
  · exact MemOk.admitPeer h
  · exact MemOk.releasePeer h
  · exact MemOk.closePeer h
  · exact MemOk.censusPeer h
  · exact ok_ite .fault (.next h)
  · exact MemOk.podWord h
  · exact MemOk.counterPeer h
  · exact MemOk.windowPeer h
  · exact MemOk.chunkWord h
  · exact MemOk.chunkWord h
  · exact MemOk.preemptPeer h
  · exact MemOk.resumePeer h
  · exact MemOk.resetPeer h

/-! ### Calls and returns -/

protected theorem MemOk.spill {s c l va b} (h : MemOk s) : MemOk (spill s c l va b) := by
  unfold spill
  refine MemOk.foldl h fun h1 => ?_
  split
  · exact h1
  · exact MemOk.queueStore h1

protected theorem MemOk.refill {s c l} (h : MemOk s) : SndOk (refill s c l) := by
  unfold refill
  dsimp only
  refine SndOk.foldl h fun h1 => ?_
  split
  · exact h1
  · exact MemOk.readLoad h1

protected theorem MemOk.spillTrap {c s k va} (h : MemOk s) : BodyOk (spillTrap c s k va) := .stop (MemOk.raiseRec h)

protected theorem MemOk.callBody {slide target checked c s} (h : MemOk s) :
    BodyOk (callBody slide target checked c s) := by
  unfold callBody
  dsimp only
  refine ok_ite .trap (ok_ite .trap (ok_ite .trap (ok_ite .held ?_)))
  split
  · exact MemOk.spillTrap (MemOk.spill h)
  · exact .jump (MemOk.updGroup (MemOk.spill h))

protected theorem MemOk.retBody {c s} (h : MemOk s) : BodyOk (retBody c s) := by
  unfold retBody
  dsimp only
  refine ok_ite .trap (ok_ite .held ?_)
  split
  · exact MemOk.spillTrap h
  · exact MemOk.spillTrap h
  · refine ok_ite .held (ok_ite .trap (ok_ite .trap ?_))
    split
    · exact MemOk.spillTrap h
    · exact MemOk.spillTrap h
    · exact ok_ite .held (.jump (MemOk.updGroup (MemOk.refill (MemOk.refill h))))

/-! ### Vector instructions -/

protected theorem MemOk.vecL {row hd lat d vs f s} (h : MemOk s) : Kept (vecL row hd lat d vs f s) := MemOk.fixed h

protected theorem MemOk.vec2 {row hd lat d a b f s} (h : MemOk s) : Kept (vec2 row hd lat d a b f s) := MemOk.vecL h

protected theorem MemOk.vecSat {row hd d vs f s} (h : MemOk s) : Kept (vecSat row hd d vs f s) := MemOk.fixed h

protected theorem MemOk.vecF {row hd f d vs op x y z s} (h : MemOk s) : Kept (vecF row hd f d vs op x y z s) :=
  MemOk.fixed h

protected theorem MemOk.vecF2 {row hd f d a b op s} (h : MemOk s) : Kept (vecF2 row hd f d a b op s) := MemOk.vecF h

protected theorem MemOk.vecF3 {row hd f m negP negC d a b k s} (h : MemOk s) :
    Kept (vecF3 row hd f m negP negC d a b k s) := MemOk.vecF h

protected theorem MemOk.vsfu {row hd d a fn s} (h : MemOk s) : Kept (vsfu row hd d a fn s) :=
  MemOk.issue h fun h1 => .done h1

protected theorem MemOk.execRngfill {hd d n s} (h : MemOk s) : Kept (execRngfill hd d n s) :=
  MemOk.issue h fun h1 => .done (MemOk.pendWrs (MemOk.updCore h1 fun h2 => h2))

end Sys2Proof.Machine
end

section
/-! SUPPORT. Memory and the buffers of the cores stay in canonical form: every instruction and event, and the parties
that run them. -/

namespace Sys2Proof.Machine

/-! ### Every instruction and event -/

protected theorem MemOk.exec {i s} (h : MemOk s) : Kept (exec i s) := by
  cases i with
  | clauseHeader => exact MemOk.execClauseHeader h
  | nop => exact MemOk.execNop h
  | bra | braExt | brany | branyExt | brall | brallExt | brnone | brnoneExt => unfold exec; exact MemOk.branch h
  | brx => unfold exec; exact MemOk.issue h fun h1 => ok_ite .trap (.jump h1)
  | call | callExt | callx => unfold exec; exact MemOk.issue h MemOk.callBody
  | ret => unfold exec; exact MemOk.issue h MemOk.retBody
  | exit | exitExt => unfold exec; exact ok_ite (MemOk.streamExit h) (MemOk.groupExit h)
  | yield | qpop | scalecalc | barwt | cbatch | opfence | dirins | dirdel | dirlook =>
    unfold exec; exact MemOk.issue h fun h1 => .done h1
  | trap => unfold exec; exact MemOk.issue h fun _ => .trap
  | rte => exact MemOk.execRte h
  | emrd | emsetp | elect | scmp | shfl | ballot | readlane | writelane | lred | vbmand | vcmp | vfcmp | vcvt
  | vcvtsr | vquant => unfold exec; exact MemOk.fixed h
  | emwr | emand | emor | emandn => unfold exec; exact MemOk.emWrite h
  | pand | por | pxor | pandn | pnot | pmov => unfold exec; exact MemOk.plog h
  | spand | spor | spxor | spandn | spnot | spmov => unfold exec; exact MemOk.spLog h
  | sadd | saddLong | ssub | smul | smulh | sand | sor | sxor | sandn | sshl | sshr | ssar | smin | smax =>
    unfold exec; exact MemOk.uni2 h
  | smovi | smoviLong | saddi | saddiLong | slea | sbfx | sbfi | sclz | spopc | sbrev | ssel =>
    unfold exec; exact MemOk.uniS h
  | sreadsr => unfold exec; exact MemOk.readSr h
  | sreadsrExt => unfold exec; exact ok_ite (MemOk.readSrV h) (MemOk.readSr h)
  | swritesr | swritesrExt => unfold exec; exact MemOk.writeSr h
  | qpush | bararv | barsync | cwaitb | aexportRev =>
    unfold exec; exact MemOk.issue h fun h1 => ok_ite .trap (.done h1)
  | vadd | vmul | vmulh | vand | vor | vxor | vandn | vshl | vshr | vsar | vmin | vmax =>
    unfold exec; exact MemOk.vec2 h
  | vaddLong | vsub | vabs | vneg => unfold exec; exact MemOk.vecSat h
  | vmad | vnot | vaddi | vaddiLong | vmov | vmovs | vmovi | vmoviLong | vbfx | vbfi | vclz | vpopc | vbrev
  | vprfx | visect | vsel | vfabs | vfneg => unfold exec; exact MemOk.vecL h
  | vfadd | vfaddLong | vfsub | vfmul | vfmin | vfmax => unfold exec; exact MemOk.vecF2 h
  | vfma | vfmaLong | vfms | vfnma => unfold exec; exact MemOk.vecF3 h
  | vrcp | vrsq | vsqrt | vexp2 | vlog2 | vsin | vcos | vtanh | vsigm | verf => unfold exec; exact MemOk.vsfu h
  | rngfill => exact MemOk.execRngfill h
  | ld | ldLong | st | stLong => unfold exec; exact MemOk.memIssue h
  | lda | ldaLong | sta | staLong => unfold exec; exact MemOk.abufIssue h
  | ldc | stc => unfold exec; exact MemOk.cbufIssue h
  | ldu | lduLong | stu | stuLong => unfold exec; exact MemOk.uniMemIssue h
  | atom | red => unfold exec; exact MemOk.atomIssue h
  | waita | cwaitge => unfold exec; exact MemOk.uniOp h fun h1 => .done (MemOk.startOp (ok_ite h1 h1))
  | fenceAcq | fenceRel | fenceSc => unfold exec; exact MemOk.fenceIssue h
  | aliasf => exact MemOk.execAliasf h
  | commitTeam | commitGrid | commitPod => unfold exec; exact MemOk.commitIssue h
  | cadd => exact MemOk.execCadd h
  | ratom => exact MemOk.execRatom h
  | mma => exact MemOk.execMma h
  | mdrain => exact MemOk.execMdrain h
  | maccst => exact MemOk.execMaccst h
  | mwait => exact MemOk.execMwait h
  | msig => unfold exec; exact MemOk.streamIssue h fun h1 => ok_ite .held (ok_ite .trap (.done h1))
  | msetm => unfold exec; exact MemOk.streamIssue h fun h1 => .done h1
  | mfmt => unfold exec; exact MemOk.streamIssue h fun h1 => ok_ite (MemOk.bufRead h1) (.done h1)
  | munf => unfold exec; exact MemOk.streamIssue h fun h1 => ok_ite (.done h1) (MemOk.bufRead h1)
  | mloop => exact MemOk.execMloop h
  | knotset => unfold exec; exact MemOk.streamIssue h fun h1 => ok_ite .trap (.done h1)
  | frder => exact MemOk.execFrder h
  | frgrad => exact MemOk.execFrgrad h
  | frefine => exact MemOk.execFrefine h
  | copy | copym | copyp | copyh => unfold exec; exact MemOk.copyIssue h
  | aexport => exact MemOk.execAexport h
  | collAr | collRs | collAg | collBc => unfold exec; exact MemOk.collIssue h
  | fmtsel => unfold exec; exact MemOk.uniOp h fun h1 => .done h1
  | revm | fwdm => unfold exec; exact MemOk.modeIssue h
  | tapemark => unfold exec; exact MemOk.issue h fun h1 => ok_ite .held (.done h1)
  | tapemarkCut => exact MemOk.execTapemarkCut h
  | tapespill => exact MemOk.execTapespill h
  | tapefill => exact MemOk.execTapefill h
  | dirmove => exact MemOk.execDirmove h
  | solicit => exact MemOk.execSolicit h
  | respond => exact MemOk.execRespond h
  | nmpost => exact MemOk.execNmpost h
  | nmgather => unfold exec; exact MemOk.issue h fun h1 => ok_ite (MemOk.trapLanes h1) (.done h1)
  | zalui | zelui | zaaddi | zeori | zaadd | ziadd | zimulw | zdot8 | zdot4 | zdq | zfma | zfsqrt | zfrsq
  | zunpk | zpack | zunlkAll => unfold exec; exact MemOk.zReg h
  | zabra | zebra => unfold exec; exact MemOk.zIssue h fun h1 => .jump h1
  | zadbnz | zedbnz => unfold exec; exact MemOk.zIssue h fun h1 => ok_ite (.done h1) (.jump h1)
  | zld => unfold exec; exact MemOk.zIssue h MemOk.zldF
  | zst => unfold exec; exact MemOk.zIssue h MemOk.zstF
  | zlock => unfold exec; exact MemOk.zIssue h MemOk.zlockF
  | zunlk => unfold exec; exact MemOk.zIssue h fun h1 => ok_ite .stop (.done h1)
  | zwpair => unfold exec; exact MemOk.zIssue h MemOk.zwpairF
  | zpop => unfold exec; exact MemOk.zIssue h MemOk.zpopF
  | zpush => unfold exec; exact MemOk.zIssue h MemOk.zpushF
  | zfadd | zfsub | zfmul | zfmin | zfmax => unfold exec; exact MemOk.zf2 h
  | unassignedOpcode => unfold exec; exact ok_ite (MemOk.streamReject h) (MemOk.groupReject h)
  | mend => exact MemOk.execMend h
  | zaend => unfold exec; exact MemOk.zIssue h fun h1 => ok_ite (.done h1) .stop
  | zeend => unfold exec; exact MemOk.zIssue h fun h1 => .done h1
  | ratomReply => exact MemOk.execRatomReply h
  | mmaLanding => exact MemOk.execMmaLanding h
  | drainExecute => exact MemOk.execDrainExecute h
  | longLatencyCompletion => exact MemOk.execLongLatencyCompletion h
  | afterIssueFault => exact MemOk.execAfterIssueFault h
  | trapHandlerEntry => exact MemOk.execTrapHandlerEntry h
  | tlbWalkComplete => exact MemOk.execTlbWalkComplete h
  | launch => exact MemOk.execLaunch h
  | gridAdmission => exact MemOk.execGridAdmission h
  | teamHandout => exact MemOk.execTeamHandout h
  | teamPlacement => exact MemOk.execTeamPlacement h
  | dispatchSteal => exact MemOk.execDispatchSteal h
  | coresidentPlacement => exact MemOk.execCoresidentPlacement h
  | gridCompletion => exact MemOk.execGridCompletion h
  | sorusRecordArrival => exact MemOk.execSorusRecordArrival h
  | binAgeFlush => exact MemOk.execBinAgeFlush h
  | thallusPacketArrival => exact MemOk.execThallusPacketArrival h
  | commitTokenArrival => exact MemOk.execCommitTokenArrival h
  | commitClose => exact MemOk.execCommitClose h
  | sorusClose => exact MemOk.execSorusClose h
  | commitApplySend => exact MemOk.execCommitApplySend h
  | thallusApply => exact MemOk.execThallusApply h
  | commitCompletion => exact MemOk.execCommitCompletion h
  | podCloseRelease => exact MemOk.execPodCloseRelease h
  | podCommitCompletion => exact MemOk.execPodCommitCompletion h
  | copyCommandForm => exact MemOk.execCopyCommandForm h
  | copyPieceStart => exact MemOk.execCopyPieceStart h
  | copyCompletion => exact MemOk.execCopyCompletion h
  | copyFailure => exact MemOk.execCopyFailure h
  | copypCounterAdd => exact MemOk.execCopypCounterAdd h
  | hostAckTimeout => exact MemOk.execHostAckTimeout h
  | collPieceLand => exact MemOk.execCollPieceLand h
  | reduceTeamDispatch => exact MemOk.execReduceTeamDispatch h
  | collRankCompletion => exact MemOk.execCollRankCompletion h
  | censusVisit => exact MemOk.execCensusVisit h
  | responderPlacement => exact MemOk.execResponderPlacement h
  | responderEnd => exact MemOk.execResponderEnd h
  | censusCoreReport => exact MemOk.execCensusCoreReport h
  | censusRootCompletion => exact MemOk.execCensusRootCompletion h
  | censusCloseAck => exact MemOk.execCensusCloseAck h
  | censusDeviceLost => exact MemOk.execCensusDeviceLost h
  | dirmoveDeparture => exact MemOk.execDirmoveDeparture h
  | dirmoveArrival => exact MemOk.execDirmoveArrival h
  | nmCommandCheck => exact MemOk.execNmCommandCheck h
  | nmCommandStart => exact MemOk.execNmCommandStart h
  | nmCommandCompletion => exact MemOk.execNmCommandCompletion h
  | zqdeadDetect => exact MemOk.execZqdeadDetect h
  | lockHoldTimeout => exact MemOk.execLockHoldTimeout h
  | lockWaitTimeout => exact MemOk.execLockWaitTimeout h
  | holdSliceExpiry => exact MemOk.execHoldSliceExpiry h
  | arm => exact MemOk.execArm h
  | nodeWaitsDone => exact MemOk.execNodeWaitsDone h
  | nodeStart => exact MemOk.execNodeStart h
  | nodeCompletion => exact MemOk.execNodeCompletion h
  | waitc => exact MemOk.execWaitc h
  | preempt => exact MemOk.execPreempt h
  | preemptSaved => exact MemOk.execPreemptSaved h
  | preemptDeadline => exact MemOk.execPreemptDeadline h
  | resume => exact MemOk.execResume h
  | kill => exact MemOk.execKill h
  | budgetRefill => unfold exec; exact .next (MemOk.refillBudgets h)
  | tempSample => exact MemOk.execTempSample h
  | droopEvent => exact MemOk.execDroopEvent h
  | thermalStepDown | thermalRecover | leaseExpiry | portFailure | coreTest | kdpServiceStart | peerReturn =>
    unfold exec; exact ok_ite .fault (.next h)
  | powerSample => unfold exec; exact .next h
  | patrolScrub => unfold exec; exact .next (ok_ite (MemOk.markWord h) h)
  | softError => unfold exec; exact .next (ok_ite h (MemOk.uncorrectable h))
  | rdmaWrite => exact MemOk.execRdmaWrite h
  | rdmaRead => exact MemOk.execRdmaRead h
  | claim => exact MemOk.execClaim h
  | renew => exact MemOk.execRenew h
  | handover => exact MemOk.execHandover h
  | release => exact MemOk.execRelease h
  | ctxcreate => exact MemOk.execCtxcreate h
  | ctxdestroy => exact MemOk.execCtxdestroy h
  | map => exact MemOk.execMap h
  | unmap => exact MemOk.execUnmap h
  | hwin | hwindel | comm | budget | pcap =>
    unfold exec; exact MemOk.ownerCmd h fun h1 => ok_ite (.some h1) (.some h1)
  | debug => unfold exec; exact MemOk.ownerCmd h fun h1 => .some h1
  | attest => exact MemOk.execAttest h
  | telem => unfold exec; exact MemOk.kdpServe h fun h1 => .next (MemOk.reply h1)
  | eventAck => unfold exec; exact ok_ite (.next h) (ok_ite (.next (MemOk.reply h)) (.next h))
  | eventResend => exact MemOk.execEventResend h
  | gwCtxmem => exact MemOk.execGwCtxmem h
  | gwKill => unfold exec; exact MemOk.gateway h fun h1 => .next (MemOk.resetNow h1)
  | markcfg => unfold exec; exact MemOk.gateway h fun h1 => .next h1
  | gwEvent => exact MemOk.execGwEvent h
  | debugStepBack => exact MemOk.execDebugStepBack h
  | peerLostTimeout => exact MemOk.execPeerLostTimeout h
  | vdmReservedDrop => unfold exec; exact ok_ite (.next h) .fault
  | powerOn => unfold exec; exact ok_ite .fault (.next (MemOk.stepOne (MemOk.cleared h)))
  | moduleReset => exact MemOk.execModuleReset h
  | trustedFwStart => unfold exec; exact ok_ite .fault (ok_ite (.next h) (ok_ite (.next h) (.next h)))
  | hbmTraining => unfold exec; exact ok_ite .fault (.next (MemOk.endStep (MemOk.foldl h fun h1 => h1)))
  | serviceFwStart => unfold exec; exact ok_ite .fault (.next (ok_ite h h))
  | fabricTraining => exact MemOk.execFabricTraining h
  | writeThroughDrain => exact MemOk.execWriteThroughDrain h
  | l1LineReplacement => exact MemOk.execL1LineReplacement h
  | dqEntryFilled => exact MemOk.execDqEntryFilled h
  | ethernetLinkDown => unfold exec; exact ok_ite .fault (.next (MemOk.failLink h))
  | ualinkRequest => exact MemOk.execUalinkRequest h
  | podLaunchOutcome => exact MemOk.execPodLaunchOutcome h

/-! ### Parties -/

protected theorem MemOk.runGroupWord {b s} (h : MemOk s) : Kept (runGroupWord b s) := by
  unfold runGroupWord
  dsimp only
  split
  · exact MemOk.exec h
  · exact MemOk.groupReject h

protected theorem MemOk.groupStep {s} (h : MemOk s) : Kept (groupStep s) := by
  unfold groupStep
  split
  · exact .fault
  · refine ok_ite (.next h) ?_
    split
    · rename_i he
      have .bytes h1 := ok_of_eq FetchOk he (MemOk.fetchIns h)
      exact MemOk.runGroupWord h1
    · exact MemOk.issue h fun _ => .trap
    · exact .next h

protected theorem MemOk.runStreamWord {b s} (h : MemOk s) : Kept (runStreamWord b s) := by
  unfold runStreamWord
  split
  · exact MemOk.exec h
  · exact MemOk.streamReject h

protected theorem MemOk.streamStep {s} (h : MemOk s) : Kept (streamStep s) := by
  unfold streamStep
  split
  · exact .fault
  · refine ok_ite (.next h) ?_
    split
    · rename_i he
      have .bytes h1 := ok_of_eq FetchOk he (MemOk.fetchIns h)
      exact MemOk.runStreamWord h1
    · exact .next h
    · exact .next h

protected theorem MemOk.zThreadStep {s} (h : MemOk s) : Kept (zThreadStep s) := by
  unfold zThreadStep
  dsimp only
  split
  · exact .fault
  · split
    · exact .next (MemOk.abortRun h)
    · split
      · exact MemOk.exec h
      · exact .next (MemOk.abortRun h)

protected theorem MemOk.partyStep {p s} (h : MemOk s) : Kept (partyStep p s) := by
  unfold partyStep
  dsimp only
  split
  · exact MemOk.groupStep h
  · exact MemOk.streamStep h
  · exact MemOk.zThreadStep h
  · exact MemOk.zThreadStep h

/-! ### Pairs and turns -/

protected theorem Kept.inTime {s o} (ho : Kept o) (h : MemOk s) : Kept (inTime s o) := by
  cases ho with
  | next hs => exact ok_ite (.next hs) (.next h)
  | fault => exact .fault
  | refused => exact .refused

protected theorem MemOk.streamMove {tid s} (h : MemOk s) : Kept (streamMove tid s) :=
  ok_ite (MemOk.partyStep h) (.next h)

protected theorem CoreOk.sameUnits {part old c} (hc : CoreOk c) : CoreOk (sameUnits part old c) := hc

protected theorem MemOk.pairStep {t a b s} (h : MemOk s) : Kept (pairStep t a b s) := by
  unfold pairStep
  split
  · rename_i he
    have .next h1 := ok_of_eq Kept he (MemOk.partyStep h)
    split
    · rename_i he
      have .next h2 := ok_of_eq Kept he (MemOk.partyStep (MemOk.updCore h1 fun h2 => CoreOk.sameUnits h2))
      exact .next (MemOk.updCore h2 fun h3 => CoreOk.sameUnits h3)
    · exact .fault
    · exact .refused
  · exact .fault
  · exact .refused

protected theorem MemOk.groupMove {tid gid want s} (h : MemOk s) : Kept (groupMove tid gid want s) := by
  unfold groupMove
  dsimp only
  split
  · exact MemOk.partyStep h
  · exact MemOk.partyStep h
  · refine ok_ite (.next h) ?_
    split
    · split
      · exact MemOk.pairStep h
      · exact MemOk.partyStep h
    · exact .next h

end Sys2Proof.Machine
end

section
/-! SUPPORT. Memory and the buffers of the cores stay in canonical form: the schedule, the watch and the step. -/

namespace Sys2Proof.Machine

/-! ### What moves next -/

theorem moveOk_queueMove {c} : MoveOk (queueMove c) := by
  unfold queueMove
  split
  · exact fun h => MemOk.execLaunch h
  · exact fun h => MemOk.execArm h
  · exact fun h => MemOk.execWaitc h
  · exact fun h => MemOk.execPreempt h
  · exact fun h => MemOk.execResume h
  · exact fun h => MemOk.execKill h

protected theorem MemOk.firstMove {s l} (h : MemOk s) (hl : MovesOk l) : OptOk (firstMove s l) := by
  induction l with
  | nil => exact .none
  | cons f r ih =>
    have hr : MovesOk r := fun f hf => hl f (List.mem_cons_of_mem _ hf)
    unfold firstMove
    split
    · rename_i he
      have .next h1 := ok_of_eq Kept he (Kept.inTime (hl f (List.mem_cons_self ..) h) h)
      exact ok_ite (ih hr) (.some h1)
    · exact ih hr
    · exact ih hr

theorem movesOk_partyMoves {s} : MovesOk (partyMoves s) :=
  MovesOk.append (MovesOk.append (movesOk_map fun _ => MemOk.groupMove) (movesOk_map fun _ => MemOk.streamMove))
    (movesOk_flatMap fun _ => .cons MemOk.partyStep (.cons MemOk.partyStep movesOk_nil))

theorem movesOk_coreMoves {s} : MovesOk (coreMoves s) := by
  refine MovesOk.append (MovesOk.append (MovesOk.append ?_ ?_) ?_) ?_
  · exact movesOk_map fun _ => MemOk.execTrapHandlerEntry
  · exact movesOk_flatMap fun _ => .cons MemOk.execLongLatencyCompletion (.cons MemOk.execAfterIssueFault
      (.cons MemOk.execRatomReply movesOk_nil))
  · refine movesOk_flatMap fun t => ?_
    split
    · exact movesOk_map fun _ => MemOk.execMmaLanding
    · exact movesOk_nil
  · exact movesOk_flatMap fun _ => .cons MemOk.execDrainExecute (.cons MemOk.execWriteThroughDrain movesOk_nil)

theorem movesOk_deferMoves {s} : MovesOk (deferMoves s) := by
  refine MovesOk.append (MovesOk.append ?_ ?_) ?_
  · exact movesOk_flatMap fun _ => .cons MemOk.execSorusRecordArrival (.cons MemOk.execCommitTokenArrival
      movesOk_nil)
  · exact .cons MemOk.execThallusPacketArrival movesOk_nil
  · refine movesOk_flatMap fun c => MovesOk.append (MovesOk.append (MovesOk.append (MovesOk.append ?_ ?_) ?_) ?_) ?_
    · exact .cons MemOk.execCommitClose movesOk_nil
    · exact movesOk_map fun _ => MemOk.execSorusClose
    · exact .cons MemOk.execCommitApplySend movesOk_nil
    · exact movesOk_map fun _ => MemOk.execThallusApply
    · exact .cons MemOk.execCommitCompletion movesOk_nil

theorem movesOk_dqMoves {s u} : MovesOk (dqMoves s u) := by
  unfold dqMoves
  split
  · exact movesOk_flatMap fun _ => movesOk_map fun _ => MemOk.execDqEntryFilled
  · exact movesOk_nil

theorem movesOk_rdmaMoves {s} : MovesOk (rdmaMoves s) := by
  refine movesOk_map fun r => ?_
  cases r.data with
  | none => exact MemOk.execRdmaRead
  | some d => exact MemOk.execRdmaWrite

theorem movesOk_unitMoves {s} : MovesOk (unitMoves s) := by
  refine .append (.append (.append (.append (.append (.append ?_ ?_) ?_) ?_) ?_) ?_) movesOk_rdmaMoves
  · exact movesOk_flatMap fun _ => .cons MemOk.execCopyCommandForm (.cons MemOk.execCopyCompletion
      (.cons MemOk.execCopypCounterAdd movesOk_nil))
  · exact movesOk_flatMap fun _ => .cons MemOk.execDirmoveDeparture (.cons MemOk.execDirmoveArrival
      movesOk_nil)
  · exact movesOk_map fun _ => MemOk.execCensusRootCompletion
  · exact movesOk_map fun _ => MemOk.execResponderEnd
  · exact movesOk_map fun _ => MemOk.execNmCommandCheck
  · exact movesOk_flatMap fun _ => .append movesOk_dqMoves (.cons MemOk.execNmCommandStart
      (.cons MemOk.execNmCommandCompletion (.cons MemOk.execZqdeadDetect movesOk_nil)))

theorem movesOk_podMoves {s} : MovesOk (podMoves s) := by
  intro f hf
  obtain ⟨g, _, hg⟩ := List.mem_filterMap.1 hf
  split at hg
  · cases hg
    exact fun h => MemOk.execPodLaunchOutcome h
  · cases hg

theorem movesOk_ctlMoves {s} : MovesOk (ctlMoves s) := by
  refine .append (.append (.append (.append ?_ ?_) ?_) ?_) movesOk_podMoves
  · exact movesOk_map fun _ _ => moveOk_queueMove
  · exact movesOk_flatMap fun _ => .cons MemOk.execNodeWaitsDone (.cons MemOk.execNodeStart
      (.cons MemOk.execNodeCompletion movesOk_nil))
  · exact movesOk_flatMap fun _ => .cons MemOk.execTeamHandout (.cons MemOk.execGridCompletion movesOk_nil)
  · exact movesOk_map fun _ => MemOk.execPreemptSaved

theorem moveOk_bringUpMove {s f} (e : bringUpMove s = some f) : MoveOk f := by
  unfold bringUpMove at e
  split at e
  · cases e
    exact fun h => MemOk.exec (i := .powerOn) h
  · split at e
    · cases e
    · split at e <;> cases e
      · exact fun h => MemOk.exec (i := .trustedFwStart goodImage) h
      · exact fun h => MemOk.exec (i := .hbmTraining ⟨[], []⟩) h
      · exact fun h => MemOk.exec (i := .serviceFwStart goodImage) h
      · exact fun h => MemOk.exec (i := .coreTest []) h
      · exact fun h => MemOk.exec (i := .fabricTraining 0 []) h
      · exact fun h => MemOk.exec (i := .kdpServiceStart) h

protected theorem MemOk.schedule {s} (h : MemOk s) : Kept (schedule s) := by
  unfold schedule
  split
  · rename_i e
    exact moveOk_bringUpMove e h
  · refine ok_ite (.next h) (.next (OptOk.getD (MemOk.firstMove h ?_) h))
    exact (((movesOk_coreMoves.append movesOk_partyMoves).append movesOk_unitMoves).append movesOk_deferMoves).append
      movesOk_ctlMoves

protected theorem MemOk.runOther {i s} (h : MemOk s) : Kept (runOther i s) := by
  unfold runOther
  split
  · exact MemOk.partyStep h
  · exact .next h
  · exact MemOk.exec h
  · exact ok_ite .fault (.next (MemOk.withMem h (Memory.wf_memSetCells h.mem)))
  · exact MemOk.receive h
  · split
    · rename_i he
      have .some h1 := ok_of_eq OptOk he (MemOk.reserveDrain h)
      exact .next h1
    · exact .fault
  · exact MemOk.operate h
  · exact MemOk.heatIsland h

protected theorem MemOk.runLive {i s} (h : MemOk s) : Kept (runLive i s) := by
  unfold runLive
  split
  · exact MemOk.groupMove h
  · exact MemOk.groupMove h
  · exact Kept.inTime (MemOk.streamMove h) h
  · exact Kept.inTime (MemOk.runOther h) h

protected theorem MemOk.runItem {i s} (h : MemOk s) : Kept (runItem i s) := ok_ite (.next h) (MemOk.runLive h)

/-! ### What the device does of itself -/

theorem movesOk_unitDue {s u} : MovesOk (unitDue s u) := by
  refine .append (movesOk_map fun _ => MemOk.execHoldSliceExpiry) ?_
  split
  · refine .append (ok_ite (.cons MemOk.execLockHoldTimeout movesOk_nil) movesOk_nil) ?_
    exact ok_ite (.cons MemOk.execLockWaitTimeout movesOk_nil) movesOk_nil
  · exact movesOk_nil

theorem movesOk_drainsDue {s} : MovesOk (drainsDue s) := movesOk_map fun _ => MemOk.execPreemptDeadline

protected theorem MemOk.runDue {s} (h : MemOk s) : MemOk (runDue s) := by
  refine List.foldlRecOn _ _ h fun s1 h1 f hf => Kept.orSame ?_ h1
  exact (MovesOk.append (movesOk_flatMap fun _ => movesOk_unitDue) movesOk_drainsDue) f hf h1

protected theorem MemOk.takeBack {s u} (h : MemOk s) : MemOk (takeBack s u) := by
  unfold takeBack
  dsimp only
  refine MemOk.foldl h fun h1 => ok_ite h1 ?_
  split
  · exact MemOk.openBank h1
  · exact h1

protected theorem MemOk.watchBanks {s} (h : MemOk s) : MemOk (watchBanks s) :=
  ok_ite h (MemOk.frame (MemOk.foldl h MemOk.takeBack))

protected theorem MemOk.watchHeat {s} (h : MemOk s) : MemOk (watchHeat s) := ok_ite h h

protected theorem MemOk.putUndo {s t c gid e} (h : MemOk s) : OptOk (putUndo s t c gid e) := by
  refine ok_ite .none (.some (MemOk.withMem h (wf_foldl h.mem fun {m x} hm => ?_)))
  cases x.1 with
  | none => exact hm
  | some k => exact Memory.wf_memSet hm

protected theorem MemOk.putRing {t c s g} (h : MemOk s) : MemOk (putRing t c s g) := by
  unfold putRing
  refine MemOk.foldl h fun h1 => ?_
  split
  · rename_i he
    have .some h2 := ok_of_eq OptOk he (MemOk.putUndo h1)
    exact h2
  · exact h1

protected theorem MemOk.watchUndo {s} (h : MemOk s) : MemOk (watchUndo s) :=
  MemOk.foldl h fun h1 => MemOk.foldl h1 fun h2 => MemOk.foldl h2 MemOk.putRing

protected theorem MemOk.watch {s} (h : MemOk s) : MemOk (watch s) :=
  MemOk.lookNodes (MemOk.watchPeers
    (MemOk.watchUndo (MemOk.watchHeat (MemOk.watchBanks (MemOk.addsDue (MemOk.runDue (MemOk.refillBudgets h)))))))

protected theorem Kept.watched {r} (h : Kept r) : Kept (watched r) := by
  cases h with
  | next hs => exact .next (MemOk.watch hs)
  | fault => exact .fault
  | refused => exact .refused

/-! ### The step -/

protected theorem MemOk.step {s} (h : MemOk s) : Kept (step s) := by
  unfold step
  refine Kept.watched ?_
  split
  · exact MemOk.schedule h
  · exact MemOk.runItem h

end Sys2Proof.Machine

namespace Sys2Proof.Proofs.KeptSteps

open Sys2Proof.Machine

/-- Settles O59: every operation of the machine hands on a state whose memory and buffers are in canonical form, as each
write to them goes through one that keeps it. -/
theorem stepKeepsMemory : Obligations.StepKeepsMemory := by
  unfold Obligations.StepKeepsMemory
  intro s s' hs e
  have .next hs' := ok_of_eq Kept e (MemOk.step hs)
  exact hs'

end Sys2Proof.Proofs.KeptSteps
end
